-- ==== Sys2Proof/Word.lean ====
section
/-!
DEFINITION. The word types of the module: bytes, the 32-bit and 64-bit words that registers and
fields are made of (R4, R5, R34), and nothing that a reading of the spec could change.
-/

namespace Sys2Proof

/-- One byte of memory, of a descriptor or of a dictionary value (R5). -/
abbrev Byte := BitVec 8

/-- A thread or uniform register (R34). -/
abbrev W32 := BitVec 32

/-- A 64-bit word: an instruction word, a pin word, an atomic operand (R57, R175, R213). -/
abbrev W64 := BitVec 64

/-- A sparse table: keys strictly rising, each with its value. -/
abbrev SMap (β : Type) := List (Nat × β)

end Sys2Proof
end

