-- ==== Sys2Proof/Config.lean ====
section
/-!
DEFINITION. What one implementation fixes and what the spec leaves open: every constant here is
opaque, has no body, and stands for whatever the hardware does at that point. A statement that
holds of the model holds for every value of each of them.
-/

namespace Sys2Proof.Config

/-- A free value: drawn at counter `n` (State's `draws`), item `i` of that draw.
DESIGN CHOICE (log 1): the one source of every value the spec leaves open at a moment of the run. -/
opaque free : Nat → Nat → Nat

/-- Whether an opcode byte of a class whose ops R58 names but does not number is assigned (R58, R59; log 107). -/
opaque opAssigned : Nat → Bool

/-- Whether an opcode of a class for which R58 fixes no form takes form I (R57, R58; log 107). -/
opaque opFormI : Nat → Bool

/-- The seed word Heartwood's entropy source delivers for generator `lane` of a tile at reseed
number `n` (R117); used through `seedOf`, which never gives zero. -/
opaque entropy : Nat → Nat → Nat

/-- The bits of a NaN that arithmetic produces (R80, R109): the spec fixes the encoding of a NaN
for conversions only (R101). Applied to the operation and its operands. -/
opaque nanBits : Nat → Nat → Nat → Nat → Nat

/-- The result of a special function at an input for which no exact result exists or the spec
states none (logarithm of 0, a NaN input; R109). -/
opaque specialOpen : Nat → Nat → BitVec 32

/-- Which of the FP32 values within 2 units in the last place of the exact one a special function gives, counted
from the lowest (R109); only its value modulo their number is used. -/
opaque specialUlp : Nat → Nat → Nat

/-- The same for the powers and layer-constant divisions of the update rules (R228: within 2 ulp). -/
opaque layerUlp : Nat → Nat → Nat → Nat

/-- Order in which the spring chips' array sums a dot product, as sort keys (R228 states none; log 38). -/
opaque orthoOrder : Nat → Nat
/-- Whether that array rounds once per multiply-add or after each operation (log 38). -/
opaque orthoFused : Bool

/-- The 16 check bits of the module's (144,128) symbol code over 128 data bits (R260); the spec
does not give the code's matrix. -/
opaque checkSymbols : BitVec 128 → BitVec 16

/-- SHA-384 of a message (R379, R394, R401). Not computed by the model. -/
opaque sha384 : List Byte → BitVec 384

/-- HMAC-SHA-384 keyed with the optical job key, truncated to 32 bits (R281). -/
opaque jobKeyCheck : BitVec 64 → Nat → Nat → Nat → BitVec 32

/-- ECDSA P-384 verification of a signature over a message under a public key (R344, R394). -/
opaque ecdsaVerify : List Byte → List Byte → List Byte → Bool

/-- HSS verification of a signature over a message under a public key (R394, R404). -/
opaque hssVerify : List Byte → List Byte → List Byte → Bool

/-- ECDSA P-384 signature by one of Heartwood's keys, named by a number (R393). -/
opaque ecdsaSign : Nat → List Byte → List Byte

/-- HSS signature by the device key with leaf `q` (R406). -/
opaque hssSign : Nat → List Byte → List Byte

/-- Public part of the device HSS key (R393). -/
opaque deviceHssKey : List Byte

/-- AES-256-GCM opening: key, IV, additional data, ciphertext with tag (R264, R344). -/
opaque gcmOpen : BitVec 256 → BitVec 96 → List Byte → List Byte → Option (List Byte)

/-- AES-256-GCM sealing: key, IV, additional data, plaintext (R264, R344). -/
opaque gcmSeal : BitVec 256 → BitVec 96 → List Byte → List Byte → List Byte

/-- HKDF outputs of a handshake or a link key agreement: secret material, salt, info (R344, R399). -/
opaque hkdf : List Byte → List Byte → List Byte → List Byte

/-- The ECDH shared secret of the module's ephemeral key number `n` with a peer's public key. -/
opaque ecdh : Nat → List Byte → List Byte

/-- Public key of the module's ephemeral key number `n` (R344, R399). -/
opaque ephemeralKey : Nat → List Byte

/-- Whether a peer's certificate chain is well formed with every certificate ECDSA P-384 with
SHA-384 and each signed by the next (R345); the leaf's key; the last issuer key's hash. -/
opaque chainOk : List Byte → Bool
/-- Number of certificates of a chain (R345). -/
opaque chainLength : List Byte → Nat
/-- Whether a second-signature file holds a valid HSS signature over each certificate of a chain (R398). -/
opaque chainLmsOk : List Byte → List Byte → Bool
/-- Leaf public key of a chain (R344). -/
opaque chainLeafKey : List Byte → List Byte
/-- SHA-384 hash of the issuer key of the last certificate (R345). -/
opaque chainAnchor : List Byte → BitVec 384

/-- The CXL component registers of PF 0: the byte at an offset, given the HDM decoder's base, its size, and whether it
is committed. R298 names RAS, link and the decoder and leaves their layout to CXL 2.0 (log 112). -/
opaque componentRegister : Nat → Nat → Nat → Bool → BitVec 8

/-- Fused identity (R347): 12 characters of the serial number. -/
opaque serialNumber : List Byte
/-- Fused package revision (R347). -/
opaque hardwareRevision : BitVec 16
/-- Fused MAC address (R348). -/
opaque macAddress : BitVec 48
/-- The vendor's public keys kept in flash (R393, R411), and the fused hashes over them. -/
opaque vendorKeys : Nat → List Byte
/-- The fused SHA-384 hashes of key slot `k` (R393). -/
opaque vendorKeyHashOk : Nat → Bool
/-- Certificate 0 of the module's chain, issued at power-on `n`, in DER (R398). -/
opaque moduleCert : Nat → List Byte
/-- Certificates 1 and 2 of the chain, in DER (R398). -/
opaque vendorCerts : List Byte
/-- The vendor's two HSS signatures over certificates 1 and 2 (R398). -/
opaque vendorChainLms : List Byte

/-- `CTExponent`, `DataTransferSize` and `MaxSPDMmsgSize` that the SPDM responder states, which the spec does not give
(R403; log 61). -/
opaque spdmSizes : BitVec 72
/-- Hash of the vendor's root certificate, at the head of an SPDM certificate chain (R403; log 61). -/
opaque spdmRootHash : BitVec 384

end Sys2Proof.Config
end

