-- ==== Sys2Proof/Syntax.lean ====
section
/-!
DEFINITION. The commands of the module, one constructor of `Instr` per row of the spec's command
table, and the operand types they carry: instruction fields (R57), packets (R265), flits (R260),
dictionary messages (R332), Finuleri frames (R341), and the physical facts a command reports.
-/

namespace Sys2Proof

/-! ### Tile instructions -/

/-- Where and when an instruction issues: logical tile, block slot, group of the block, issue port
(R41), and the tile-island cycles since the tile's previous event (R6, R115). -/
structure Issue where
  tile : Nat
  slot : Nat
  group : Nat
  port : Nat
  elapsed : Nat
  deriving DecidableEq, Repr

/-- The fields of an instruction word below its opcode (R57). `imm` is present in form I, and then
`srcB`, `srcC` and `mod` are zero: the immediate replaces them. -/
structure Fields where
  guardNeg : Bool
  guard : BitVec 3
  dst : Byte
  srcA : Byte
  srcB : Byte
  srcC : Byte
  ty : BitVec 4
  mod : BitVec 16
  imm : Option W32
  deriving DecidableEq, Repr

/-- Integer operations of class 0x0 (R58). -/
inductive IntOp where
  | add | sub | mul | mad | min | max
  deriving DecidableEq, Repr

/-- Floating-point operations of classes 0x1 and 0x2 (R58, R109). -/
inductive FpOp where
  | add | mul | fma | min | max | abs
  deriving DecidableEq, Repr

/-- Logic, shift and bit-field operations of class 0x3 (R58). The spec does not say where a
bit-field's position and length stand, so the operation carries them (log 12). -/
inductive LogicOp where
  | and | or | xor | not | shl | shr
  | bfe (pos len : Nat)
  | bfi (pos len : Nat)
  deriving DecidableEq, Repr

/-- Comparisons of class 0x4 (R58). -/
inductive CmpOp where
  | eq | ne | lt | le | gt | ge
  deriving DecidableEq, Repr

/-- Special functions of class 0x5 (R58, R109). -/
inductive SpecialFn where
  | exp2 | log2 | rsqrt | rcp
  deriving DecidableEq, Repr

/-- Which way `MOV.U` moves (table row MOV_U). -/
inductive UMove where
  | toUniform | fromUniform
  deriving DecidableEq, Repr

/-- How `VOTE` combines the predicate over the active threads (R45; log 13). -/
inductive VoteMode where
  | all | any | ballot
  deriving DecidableEq, Repr

/-- Bytes of a thread access (R175 rounds an address down to the access size; log 14). -/
inductive Size where
  | b1 | b2 | b4 | b8
  deriving DecidableEq, Repr

/-- Atomic operations (R175). -/
inductive AtomOp where
  | add | min | max | and | or | xor | xchg | cas
  deriving DecidableEq, Repr

/-- What the symbol code found during an access: 16-byte words, by byte address of the memory
concerned, that it could not correct, and words it corrected (R149, R185). A physical fact. -/
structure Ecc where
  bad : List Nat
  corrected : List Nat
  deriving DecidableEq, Repr

/-- A request that a memory controller sends back: the access or stream it belongs to, by serial, and for a gather the index
whose read it is (R182). -/
structure RetriedRequest where
  serial : Nat
  index : Nat
  deriving DecidableEq, Repr

/-- What a scrub pass found, by offset in its unit, and the rows the unit has repaired since its last pass (R184, R186,
R189). -/
structure ScrubResult where
  ecc : Ecc
  repaired : Nat
  deriving DecidableEq, Repr

/-! ### Links -/

/-- A packet (R265): header fields and whole 16-byte data words; `badWords` names the data words
that arrived uncorrectable (R260), `rsv` holds the header's reserved bits [88] and [27:0]; `raw` holds the data
code words of a packet that came over a link, as they came: they travel on unchanged (R260, R264). -/
structure Packet where
  addr : BitVec 48
  aux : BitVec 64
  length : Nat
  dst : Nat
  src : Nat
  tenant : Nat
  ptype : Nat
  status : Nat
  hops : Nat
  key : W32
  tag : Nat
  rsv : Nat
  data : List Byte
  badWords : List Nat
  raw : List (BitVec 144) := []
  deriving DecidableEq, Repr

/-- A flit (R260): header code word, thirteen payload code words, CRC-32. -/
structure Flit where
  hdr : BitVec 128
  hdrCheck : BitVec 16
  payload : List (BitVec 144)
  crc : W32
  deriving DecidableEq, Repr

/-- A received code word of one lane: 544 symbols, the first sent first (R259). -/
structure LaneCode where
  lane : Nat
  symbols : List (BitVec 10)
  deriving DecidableEq, Repr

/-- Why a link goes down (R263, R286, R390). -/
inductive DownCause where
  | resends | alignment | announced
  deriving DecidableEq, Repr

/-- A training frame (R281 stage 4): the other end's node, link, dimension, pass set, key check,
whether it encrypts the dimension, and for an encrypted link its key agreement (R399). -/
structure TrainFrame where
  node : Nat
  link : Nat
  dimension : Nat
  passSet : BitVec 4
  keyCheck : W32
  encrypts : Bool
  chain : List Byte
  chainLms : List Byte
  ephemeral : List Byte
  signature : List Byte
  deriving DecidableEq, Repr

/-- Where a packet stands that a router takes: injected by the module itself, or arrived. -/
inductive PacketFrom where
  | own | transit
  deriving DecidableEq, Repr

/-- What waits behind a target-reset status (R381): a tile's request, or an exchange packet. -/
inductive Reissue where
  | access (tile serial : Nat)
  | copyPart (tile tag : Nat)
  | gatherRow (tile tag index : Nat)
  | poolFill (way : Nat)
  | exchangePart (tile tag part : Nat)
  deriving DecidableEq, Repr

/-! ### Dictionary and Finuleri Line -/

/-- The path a dictionary request arrives on (R338, R340, R344). -/
inductive Path where
  | vf (k : Nat)
  | pf0
  | session (id : Nat)
  deriving DecidableEq, Repr

/-- A dictionary message (R332). -/
structure DictMsg where
  tag : BitVec 16
  length : BitVec 16
  offset : W32
  rsv : BitVec 13
  tenant : BitVec 10
  tenantScope : Bool
  index : BitVec 16
  sub : Byte
  status : Byte
  command : Byte
  data : List Byte
  deriving DecidableEq, Repr

/-- A frame on a Finuleri Line port (R341): port 0 is A and 1 is B; `hdr` is the Finuleri header. -/
structure Frame where
  port : Nat
  dstMac : BitVec 48
  srcMac : BitVec 48
  etherType : BitVec 16
  hdr : BitVec 128
  payload : List Byte
  fcsOk : Bool
  deriving DecidableEq, Repr

/-- A mailbox: PF 0's, or that of VF k (R338). -/
inductive MailboxId where
  | pf0
  | vf (k : Nat)
  deriving DecidableEq, Repr

/-- One parameter-set object of R223 and its new value. -/
inductive LayerWrite where
  | map (offset : Nat) (bytes : List Byte)
  | dims (v : BitVec 16)
  | expected (v : W32)
  deriving DecidableEq, Repr

/-! ### Physical events -/

/-- A memory unit: a fast-tier stack or the slow tier of a spring chip (R183). -/
inductive MemUnit where
  | stack (s : Nat)
  | slow (n : Nat)
  deriving DecidableEq, Repr

/-- A partial reset scope (R18). -/
inductive Scope where
  | tile (n : Nat)
  | cluster (n : Nat)
  | region (n : Nat)
  | die (n : Nat)
  | spring (n : Nat)
  deriving DecidableEq, Repr

/-- What hardware failure makes the module withdraw (R358, R391). -/
inductive Withdrawal where
  | tile (l : Nat)
  | channel (stack ch : Nat)
  | setGroup (k : Nat)
  | spring (n : Nat)
  | package (chip package : Nat)
  | region (r : Nat)
  | engine (k : Nat)
  deriving DecidableEq, Repr

/-- What one bring-up stage found when it ended (R374, R376). -/
structure StageResult where
  selfTestFailures : W32
  lodgeSlotOk : Bool
  shoreOk : Bool
  cxlWidth : Nat
  cxlRate : Nat
  portsUp : BitVec 2
  diesOk : Bool
  failedChannels : List (Nat × Nat)
  rowsRepaired : List (Nat × Nat)
  failedChips : List Nat
  lodgeCycles : Nat
  deriving DecidableEq, Repr

/-- What BIST found: the physical tiles that failed, and whether the microcode manifest verified (R378, R379). -/
structure BistResult where
  failed : List Nat
  manifestOk : Bool
  deriving DecidableEq, Repr

/-- How a FEED or EXPORT ends (R309, R310, R320); `poisoned` is done with a poisoned completion among the host's
(R297). -/
inductive TransferEnd where
  | done
  | poisoned
  | linkLost
  deriving DecidableEq, Repr

/-- A host access to HDM (R300). -/
inductive HostAccess where
  | read (bytes : Nat)
  | write (data : List Byte)
  deriving DecidableEq, Repr

/-- How a unit of a service job ends (R386, R388–R390). -/
inductive UnitResult where
  | done
  | notVerified (code : Nat)
  | uncorrectable
  deriving DecidableEq, Repr

/-- One command of the module: the rows of the command table, in its order. -/
inductive Instr where
  -- tile instructions: classes 0x0–0x7
  | integerArithmetic (i : Issue) (op : IntOp) (f : Fields)
  | fp32Arithmetic (i : Issue) (op : FpOp) (f : Fields)
  | packedFp16Arithmetic (i : Issue) (op : FpOp) (f : Fields)
  | logicShiftBitfield (i : Issue) (op : LogicOp) (f : Fields)
  | comparePredicateSet (i : Issue) (op : CmpOp) (f : Fields)
  | specialFunction (i : Issue) (fn : SpecialFn) (f : Fields)
  | cvtRn (i : Issue) (f : Fields)
  | cvtSr (i : Issue) (f : Fields)
  | mov (i : Issue) (f : Fields)
  | movU (i : Issue) (dir : UMove) (f : Fields)
  | movSr (i : Issue) (f : Fields)
  | shfl (i : Issue) (f : Fields)
  | rand (i : Issue) (f : Fields)
  | vote (i : Issue) (mode : VoteMode) (f : Fields)
  | dld (i : Issue) (f : Fields) (ecc : Ecc)
  -- thread memory
  | localMemoryLoad (i : Issue) (size : Size) (f : Fields) (ecc : Ecc)
  | localMemoryStore (i : Issue) (size : Size) (f : Fields) (ecc : Ecc)
  | localMemoryAtomic (i : Issue) (op : AtomOp) (wide : Bool) (f : Fields) (ecc : Ecc)
  | load (i : Issue) (size : Size) (f : Fields)
  | store (i : Issue) (size : Size) (f : Fields)
  | atomic (i : Issue) (op : AtomOp) (wide : Bool) (f : Fields)
  | memoryResponse (tile serial elapsed : Nat) (ecc : Ecc)
  -- control
  | bra (i : Issue) (f : Fields)
  | call (i : Issue) (f : Fields)
  | ret (i : Issue) (f : Fields)
  | exit (i : Issue) (f : Fields)
  | nop (i : Issue) (f : Fields)
  | barBlock (i : Issue) (f : Fields)
  | barrierTimeout (tile slot elapsed : Nat)
  -- matrix
  | fragLd (i : Issue) (f : Fields) (ecc : Ecc)
  | fragSt (i : Issue) (f : Fields) (ecc : Ecc)
  | mmaReg (i : Issue) (f : Fields)
  | mmaDesc (i : Issue) (f : Fields)
  | accDrain (i : Issue) (f : Fields)
  | accFill (i : Issue) (f : Fields)
  | accWait (i : Issue) (f : Fields)
  | accumulationComplete (tile serial elapsed feederFreezes drainFreezes : Nat) (ecc : Ecc)
  | drainComplete (tile serial elapsed drainFreezes : Nat)
  | fillComplete (tile serial elapsed drainFreezes : Nat) (ecc : Ecc)
  -- asynchronous movement
  | copyIssue (i : Issue) (f : Fields) (ecc : Ecc)
  | copyWait (i : Issue) (f : Fields)
  | copyRequestComplete (tile tag elapsed : Nat) (ecc : Ecc)
  | gatherIssue (i : Issue) (f : Fields) (ecc : Ecc)
  | xchgIssue (i : Issue) (f : Fields) (ecc : Ecc)
  | fenceLocal (i : Issue) (f : Fields)
  | fenceRegion (i : Issue) (f : Fields)
  | fenceBoard (i : Issue) (f : Fields)
  -- blocks and memory units
  | blockLaunch (tile elapsed : Nat)
  | blockEnd (tile slot elapsed : Nat)
  | personalityReloadComplete (tile elapsed : Nat)
  | stackRetry (tile : Nat) (request : RetriedRequest)
  | scrubPass (unit : MemUnit) (found : ScrubResult)
  | channelRetrainStart (unit : MemUnit) (channel : Nat) (temperature : Int)
  | channelRetrainEnd (unit : MemUnit) (channel : Nat)
  | retrainRequest (by_ : Path) (tag : BitVec 16) (value : BitVec 16)
  | translationShootdown (by_ : Path) (tag : BitVec 16) (value : BitVec 16)
  -- gathers and the Pool
  | gatherIndexIssue (tile tag : Nat) (ecc : Ecc)
  | gatherRowArrival (tile tag index : Nat) (ecc : Ecc)
  | poolFillComplete (group set way : Nat)
  -- sounding
  | censusReport (tile tag : Nat)
  | censusAndFlushReport (tile tag : Nat)
  | flushReport (tile tag : Nat)
  | compareReport (tile tag : Nat)
  | lossReport (tile tag : Nat)
  | poisonMessage (p : Packet)
  -- parameter sets
  | attemptOpen (tenant set springCycles : Nat)
  | partReport (tenant set part : Nat)
  | attemptBlockAbort (tenant set : Nat) (value : W64)
  | attemptBlockResume (tenant set : Nat) (value : W64)
  | voteContribution (tenant set springCycles : Nat) (ecc : Ecc)
  | voteMessage (p : Packet)
  | pinRetry (tenant set springCycles : Nat) (ecc : Ecc)
  | applyComplete (tenant set springCycles : Nat) (fast : Ecc) (slow : List (Nat × Ecc))
  | applyMessage (p : Packet)
  | attemptWatchdogExpiry (tenant set springCycles : Nat)
  | springChipRestart (chip : Nat) (slow : Ecc)
  | attemptControlAbort (by_ : Path) (tag : BitVec 16) (tenant set : Nat)
  | attemptControlPause (by_ : Path) (tag : BitVec 16) (tenant set : Nat)
  | attemptControlResume (by_ : Path) (tag : BitVec 16) (tenant set : Nat)
  | attemptControlImport (by_ : Path) (tag : BitVec 16) (tenant set : Nat)
  | attemptControlExport (by_ : Path) (tag : BitVec 16) (tenant set : Nat)
  | importExportComplete (tenant set : Nat) (fast : Ecc) (slow : List (Nat × Ecc))
  | parameterSetModeWrite (by_ : Path) (tag : BitVec 16) (tenant set : Nat) (value : Byte)
  | layerMapWrite (by_ : Path) (tag : BitVec 16) (tenant set : Nat) (w : LayerWrite)
  | layerSlotMapWrite (by_ : Path) (tag : BitVec 16) (offset : Nat) (bytes : List Byte)
  -- links
  | flitReceive (link : Nat) (codes : List LaneCode)
  | linkDown (link : Nat) (cause : DownCause)
  | linkSettlementMessage (link : Nat) (lastSeq : Option (BitVec 16))
  | linkTrainingStart (link : Nat)
  | errorGateComplete (link : Nat) (outErrors inErrors : List Nat)
  | trainingFrame (link : Nat) (t : TrainFrame)
  | opticalLightLoss (link : Nat)
  | packetRoute (origin : PacketFrom) (p : Packet)
  | escapeLaneTimeout (p : Packet)
  | readRequest (p : Packet) (ecc : Ecc)
  | writeRequest (p : Packet) (ecc : Ecc)
  | atomicRequest (p : Packet) (ecc : Ecc)
  | readResponse (p : Packet)
  | writeOrAtomicResponse (p : Packet)
  | exchangeData (p : Packet) (ecc : Ecc)
  | exchangeFlag (p : Packet) (ecc : Ecc)
  | exchangeAcknowledge (p : Packet)
  | poolInvalidations (p : Packet)
  | undeliverableNotice (p : Packet)
  | targetResetReissue (r : Reissue)
  | trafficHoldWrite (by_ : Path) (tag : BitVec 16) (value : Byte)
  | trafficHeld
  | routeTableWrite (by_ : Path) (tag : BitVec 16) (offset : Nat) (bytes : List Byte)
  | retrainDimensions (by_ : Path) (tag : BitVec 16) (value : BitVec 16)
  | linkControlRetrain (by_ : Path) (tag : BitVec 16) (link : Nat)
  | linkControlDisable (by_ : Path) (tag : BitVec 16) (link : Nat)
  | linkControlEnable (by_ : Path) (tag : BitVec 16) (link : Nat)
  -- host attachment and work queues
  | doorbell (vf offset : Nat) (data : List Byte)
  | readPointer (vf offset : Nat) (data : List Byte)
  | nopDescriptor (tenant queue : Nat)
  | launch (tenant queue : Nat)
  | feed (tenant queue : Nat)
  | exportDesc (tenant queue : Nat)
  | feedExportComplete (tenant queue seq : Nat) (hostData : List Byte) (ecc : Ecc) (how : TransferEnd)
  | vfFunctionLevelReset (vf : Nat)
  | pf0FunctionLevelReset
  | vfEnableClear
  | cxlLinkDown
  | hdmAccess (hpa : Nat) (a : HostAccess) (ecc : Ecc)
  | hostSnoop (hpa : Nat)
  | pf0ApertureWrite (offset : Nat) (data : List Byte)
  | biasRequest (by_ : Path) (tag : BitVec 16) (value : W64)
  | queueEntriesWrite (by_ : Path) (tag : BitVec 16) (tenant queue : Nat) (value : BitVec 16)
  -- the object dictionary
  | mailboxRequest (mb : MailboxId) (control : W64) (message : List Byte)
  | read (by_ : Path) (m : DictMsg)
  | write (by_ : Path) (m : DictMsg)
  | domainRead (by_ : Path) (m : DictMsg)
  | writeBegin (by_ : Path) (m : DictMsg)
  | writeData (by_ : Path) (m : DictMsg)
  | writeCommit (by_ : Path) (m : DictMsg)
  | writeCancel (by_ : Path) (m : DictMsg)
  | describe (by_ : Path) (m : DictMsg)
  | frameForward (f : Frame)
  | discoveryRequest (f : Frame) (lodgeMs : Nat)
  | handshakeH1 (f : Frame)
  | handshakeH3 (f : Frame)
  | sessionData (f : Frame)
  | sessionClose (f : Frame)
  | sessionIdleTimeout (id lodgeMs : Nat)
  | sessionCloseWrite (by_ : Path) (tag : BitVec 16) (value : BitVec 16)
  | portRolesWrite (by_ : Path) (tag : BitVec 16) (value : Byte)
  | lodgeRestart
  | lodgeWatchdogExpiry
  -- clearings, freezing and the log
  | tileMaskWrite (by_ : Path) (tag : BitVec 16) (tenant : Nat) (bytes : List Byte)
  | pageOwnerMapWrite (by_ : Path) (tag : BitVec 16) (offset : Nat) (bytes : List Byte)
  | setGroupMapWrite (by_ : Path) (tag : BitVec 16) (offset : Nat) (bytes : List Byte)
  | tableDescriptorsWrite (by_ : Path) (tag : BitVec 16) (tenant offset : Nat) (bytes : List Byte)
  | watchSetupWrite (by_ : Path) (tag : BitVec 16) (tenant offset : Nat) (bytes : List Byte)
  | tilePersonalityWrite (by_ : Path) (tag : BitVec 16) (offset : Nat) (bytes : List Byte)
  | clearingHoldWrite (by_ : Path) (tag : BitVec 16) (tenant : Nat) (value : Byte)
  | exclusiveRegionsWrite (by_ : Path) (tag : BitVec 16) (tenant : Nat) (value : W32)
  | moduleWithdrawal (w : Withdrawal)
  | releaseDiscard (by_ : Path) (tag : BitVec 16) (tenant : Nat) (master : W32)
  | releaseResume (by_ : Path) (tag : BitVec 16) (tenant : Nat) (master : W32)
  | releaseDiscardAll (by_ : Path) (tag : BitVec 16) (tenant : Nat)
  | releaseResumeAll (by_ : Path) (tag : BitVec 16) (tenant : Nat)
  | discardMaster (by_ : Path) (tag : BitVec 16) (tenant : Nat) (master : W32)
  | inspectMasterWrite (by_ : Path) (tag : BitVec 16) (tenant : Nat) (master : W32)
  | logReportIntake
  | logUnpin (by_ : Path) (tag : BitVec 16) (value : Byte)
  | logReadNumberWrite (by_ : Path) (tag : BitVec 16) (value : W32)
  | tenantLogReadWrite (by_ : Path) (tag : BitVec 16) (tenant : Nat) (value : W32)
  -- bring-up and live service
  | powerGood (slotStraps : Nat)
  | bringUpStageComplete (r : StageResult)
  | bringUpStateLimitExpiry (lodgeCycles : Nat)
  | bistComplete (result : BistResult)
  | microcodeChunk (cluster : Nat) (chunk : List Byte) (nextHash : BitVec 384)
  | resetRequest (by_ : Path) (tag : BitVec 16) (value : W32)
  | hardwareFatalFault (scope : Scope) (faultyTile : Option Nat)
  | resetDrainEnd (scope : Scope)
  | resetScopeBack (scope : Scope) (bistFailed : Bool)
  | installStagedImage (by_ : Path) (tag : BitVec 16) (image : Nat)
  | activate (by_ : Path) (tag : BitVec 16) (image : Nat) (defer_ : Bool)
  | moveLayerSlot (by_ : Path) (tag : BitVec 16) (srcChip srcSlot dstChip dstSlot : Nat)
  | prepareCartridge (by_ : Path) (tag : BitVec 16) (cartridge : Nat)
  | returnCartridge (by_ : Path) (tag : BitVec 16) (cartridge : Nat)
  | serviceJobUnitComplete (r : UnitResult)
  | cartridgePulled (k : Nat)
  | cartridgeInserted (k : Nat) (identityOk : Bool)
  | cartridgeWarmUpEnd (k : Nat) (ok : Bool)
  -- Heartwood
  | rollbackCommit (by_ : Path) (tag : BitVec 16) (value : Byte)
  | keySlotRevoke (by_ : Path) (tag : BitVec 16) (value : Byte)
  | attestationRequest (by_ : Path) (tag : BitVec 16) (nonce : List Byte) (heartwoodMs : Nat)
  | spdmGetVersion (request : List Byte)
  | spdmGetCapabilities (request : List Byte)
  | spdmNegotiateAlgorithms (request : List Byte)
  | spdmGetDigests (request : List Byte)
  | spdmGetCertificate (request : List Byte)
  | spdmChallenge (request : List Byte)
  | spdmGetMeasurements (request : List Byte) (heartwoodMs : Nat)
  | spdmKeyExchange (request : List Byte)
  | spdmFinish (request : List Byte)
  | spdmKeyUpdate (request : List Byte)
  | spdmEndSession (request : List Byte)
  | selfTestRun (by_ : Path) (tag : BitVec 16) (value : Byte) (failures : W32)
  | noiseHealthFailure
  | entropyStartupRetest (passed : Bool)
  | zeroiseVolatile (by_ : Path) (tag : BitVec 16)
  | zeroisePermanent (by_ : Path) (tag : BitVec 16)
  | envelopeViolation (railMicrovolts dieTemp : Int) (heldNanoseconds : Nat)
  -- islands, power and pins
  | islandThrottleDown (island cycles : Nat) (temperature : Int)
  | islandThrottleUp (island cycles : Nat) (temperature : Int)
  | islandShutoff (island : Nat) (temperature : Int)
  | pwrCycleN (heldMs : Nat)
  | inputOutOfRange (millivolts : Nat)
  -- further rows
  | instructionFetch (tile slot group elapsed : Nat) (ecc : Ecc)
  | illegalInstruction (i : Issue) (opcode : Byte)
  | workDescriptorReservedType (tenant queue : Nat)
  | queueMaskWrite (by_ : Path) (tag : BitVec 16) (tenant : Nat) (value : Byte)
  | numvfsWrite (numVfs : Nat) (enable : Bool)
  | hdmDecoderCommit (base size ways : Nat)
  | doeDiscovery (index : Nat)
  | cxlLinkUp (width rate : Nat)
  | finuleriPortLinkChange (port : Nat) (up : Bool)
  | lodgeReturns
  deriving DecidableEq, Repr

end Sys2Proof
end

