-- ==== Sys2Proof/Decode.lean ====
section
/-!
DEFINITION. What a table word spells, and the instruction word of a tile (R57–R61): its fields by form, its classes, the
opcodes that the spec numbers, and the word that a set of fields makes.
-/

namespace Sys2Proof

/-- The command a word spells by the table's bits. No row of the table gives bits, so no word spells one. -/
def decodeTableWord (_nbits _w : Nat) : Option Instr := none

/-! ### The instruction word (R57) -/

/-- Instruction class, bits [63:60]. -/
def classOf (opcode : Byte) : Nat := opcode.toNat / 16
/-- Operation within the class, bits [59:56]. -/
def opOf (opcode : Byte) : Nat := opcode.toNat % 16

/-- The opcode bytes that R61 assigns. -/
def deviceOpcodes : List Nat :=
  [0x60, 0x61, 0x74, 0x76, 0xA8, 0xB0, 0xB1, 0xB2, 0xC0, 0xC1, 0xC2, 0xC3, 0xD0, 0xD1, 0xD2, 0xD3, 0xE0, 0xE1, 0xE2]

/-- An opcode of R61, by the mnemonic of its row there. -/
def deviceOpcode (mnemonic : String) : Option Nat :=
  (["CVT.RN", "CVT.SR", "RAND", "DLD", "BAR.BLOCK", "FRAG.LD", "FRAG.ST", "MMA.REG", "MMA.DESC", "ACC.DRAIN", "ACC.FILL",
    "ACC.WAIT", "COPY.ISSUE", "COPY.WAIT", "GATHER.ISSUE", "XCHG.ISSUE", "FENCE.LOCAL", "FENCE.REGION", "FENCE.BOARD"].zip
    deviceOpcodes).lookup mnemonic

/-- Every operation of the class is numbered by R61: conversions, matrix, asynchronous movement and fences (R58, R61). -/
def classListed (c : Nat) : Bool := c = 0x6 || (0xB ≤ c && c ≤ 0xE)

/-- An opcode is assigned: none of class 0xF, those of R61, and in the classes that R58 names without numbering their ops
whichever the hardware assigns (R58, R59, R61; log 107). -/
def opcodeAssigned (opcode : Byte) : Bool :=
  classOf opcode ≠ 0xF && (deviceOpcodes.contains opcode.toNat || (!classListed (classOf opcode) && Config.opAssigned opcode.toNat))

/-- Which form an opcode takes: form I for ops 8 to 15 of classes 0x0 to 0x4, form R for their others and for the rows
of R61; of the remaining ones the spec states none (R57, R58, R61; log 107). -/
def formI (opcode : Byte) : Bool :=
  if classOf opcode ≤ 4 then opOf opcode ≥ 8
  else if deviceOpcodes.contains opcode.toNat then false
  else Config.opFormI opcode.toNat

/-- The opcode byte of an instruction word: its class and op (R57). -/
def wordOpcode (w : W64) : Byte := w.extractLsb' 56 8

/-- The fields of an instruction word, by the form of its opcode (R57). -/
def wordFields (w : W64) : Fields :=
  if formI (wordOpcode w) then
    { guardNeg := w.getLsbD 55, guard := w.extractLsb' 52 3, dst := w.extractLsb' 44 8, srcA := w.extractLsb' 36 8,
      srcB := 0, srcC := 0, ty := w.extractLsb' 0 4, mod := 0, imm := some (w.extractLsb' 4 32) }
  else
    { guardNeg := w.getLsbD 55, guard := w.extractLsb' 52 3, dst := w.extractLsb' 44 8, srcA := w.extractLsb' 36 8,
      srcB := w.extractLsb' 28 8, srcC := w.extractLsb' 20 8, ty := w.extractLsb' 16 4, mod := w.extractLsb' 0 16, imm := none }

/-- The head of an instruction word, which both forms share (R57). -/
def wordHead (opcode : Byte) (f : Fields) : BitVec 28 :=
  opcode ++ (BitVec.ofBool f.guardNeg ++ (f.guard ++ (f.dst ++ f.srcA)))

/-- The instruction word of an opcode with its fields (R57). -/
def instrWord (opcode : Byte) (f : Fields) : W64 :=
  match f.imm with
  | some v => wordHead opcode f ++ (v ++ f.ty)
  | none => wordHead opcode f ++ (f.srcB ++ (f.srcC ++ (f.ty ++ f.mod)))

/-- Fields have the form of an opcode: an immediate exactly in form I, which then replaces `src_b`, `src_c` and `mod`
(R57). -/
def fieldsFit (opcode : Byte) (f : Fields) : Bool :=
  match f.imm with
  | some _ => formI opcode && f.srcB = 0 && f.srcC = 0 && f.mod = 0
  | none => !formI opcode

end Sys2Proof
end

