-- ==== Sys2Proof/Machine/Store.lean ====
section
/-!
DEFINITION. Sparse tables keyed by number, in one canonical form: keys strictly rising. A table of
bytes, registers or cells lists no entry equal to what an unlisted key reads as.
-/

namespace Sys2Proof.Machine

variable {β : Type}

/-- The entry at a key. -/
def mget (m : SMap β) (k : Nat) : Option β :=
  match m with
  | [] => none
  | (a, v) :: rest => if a = k then some v else mget rest k

/-- The entry at a key, or the value of an unlisted one. -/
def mgetD (m : SMap β) (k : Nat) (d : β) : β := (mget m k).getD d

/-- Set an entry, keeping the keys rising. -/
def mset (m : SMap β) (k : Nat) (v : β) : SMap β :=
  match m with
  | [] => [(k, v)]
  | (a, w) :: rest =>
    if k < a then (k, v) :: (a, w) :: rest
    else if a = k then (k, v) :: rest
    else (a, w) :: mset rest k v

/-- Remove an entry. -/
def merase (m : SMap β) (k : Nat) : SMap β := m.filter fun e => e.1 ≠ k

/-- Set an entry of a canonical table: writing the unlisted value removes the entry. -/
def mput [DecidableEq β] (d : β) (m : SMap β) (k : Nat) (v : β) : SMap β :=
  if v = d then merase m k else mset m k v

/-- Keep the entries whose key satisfies a test. -/
def mfilterKeys (p : Nat → Bool) (m : SMap β) : SMap β := m.filter fun e => p e.1

/-- Keys strictly rising. -/
def mwf (m : SMap β) : Bool :=
  match m with
  | [] => true
  | [_] => true
  | (a, _) :: (b, w) :: rest => a < b && mwf ((b, w) :: rest)

/-- The canonical form with unlisted value `d`. -/
def mcanon [DecidableEq β] (d : β) (m : SMap β) : Bool := mwf m && m.all fun e => e.2 ≠ d

/-- `n` bytes from address `a`. -/
def readBytes (m : SMap Byte) (a n : Nat) : List Byte :=
  (List.range n).map fun i => mgetD m (a + i) 0

/-- Write bytes from address `a` upwards. -/
def writeBytes (m : SMap Byte) (a : Nat) (bs : List Byte) : SMap Byte :=
  match bs with
  | [] => m
  | b :: rest => writeBytes (mput 0 m a b) (a + 1) rest

/-- Insert into a rising list of numbers. -/
def ninsert (l : List Nat) (k : Nat) : List Nat :=
  match l with
  | [] => [k]
  | a :: rest => if k < a then k :: a :: rest else if a = k then a :: rest else a :: ninsert rest k

/-! ### Byte order and fields -/

/-- Little-endian value of bytes (R5). -/
def leNat (bs : List Byte) : Nat :=
  match bs with
  | [] => 0
  | b :: rest => b.toNat + 256 * leNat rest

/-- `n` bytes of a number, little-endian (R5). -/
def leBytes (n v : Nat) : List Byte :=
  match n with
  | 0 => []
  | k + 1 => BitVec.ofNat 8 v :: leBytes k (v / 256)

/-- Big-endian value, for Finuleri headers (R5, R341). -/
def beNat (bs : List Byte) : Nat := leNat bs.reverse

/-- `n` bytes of a number, big-endian. -/
def beBytes (n v : Nat) : List Byte := (leBytes n v).reverse

/-- Bits [msb:lsb] of a number (R4). -/
def bits (v msb lsb : Nat) : Nat := (v / 2 ^ lsb) % 2 ^ (msb + 1 - lsb)

/-- Bits [msb:lsb] of a descriptor. -/
def dbits (d : List Byte) (msb lsb : Nat) : Nat := bits (leNat d) msb lsb

/-- One bit of a number. -/
def bit (v i : Nat) : Bool := v / 2 ^ i % 2 = 1

/-- A field placed at bit `lsb`. -/
def fieldAt (lsb v : Nat) : Nat := 2 ^ lsb * v

/-- A flag as a number. -/
def b2n (b : Bool) : Nat := if b then 1 else 0

/-- An n-bit number read as two's complement. -/
def signed (n v : Nat) : Int := if v % 2 ^ n < 2 ^ (n - 1) then (v % 2 ^ n : Nat) else (v % 2 ^ n : Nat) - 2 ^ n

/-- An integer as n-bit two's complement. -/
def unsigned (n : Nat) (v : Int) : Nat := (v % (2 ^ n : Nat)).toNat

/-- Saturating sum of a counter with largest value `2^n − 1`. -/
def satAdd (n a b : Nat) : Nat := min (a + b) (2 ^ n - 1)

/-- Replace `bs` from offset `o` by `new`. -/
def splice (bs : List Byte) (o : Nat) (new : List Byte) : List Byte :=
  bs.take o ++ new ++ bs.drop (o + new.length)

/-- Pad with zero bytes to a multiple of `n`. -/
def padTo (n : Nat) (bs : List Byte) : List Byte :=
  bs ++ List.replicate ((n - bs.length % n) % n) 0

/-- Bytes cut, or filled with zeros, to a size. -/
def sized (n : Nat) (bs : List Byte) : List Byte := (bs ++ List.replicate n 0).take n

/-- Two byte ranges overlap. -/
def overlaps (a n b m : Nat) : Bool := a < b + m && b < a + n && 0 < n && 0 < m

/-- Update the element at a position. -/
def updateAt {α : Type} (l : List α) (i : Nat) (f : α → α) : List α :=
  match l, i with
  | [], _ => []
  | x :: rest, 0 => f x :: rest
  | x :: rest, k + 1 => x :: updateAt rest k f

/-! ### CRC-32, IEEE 802.3 polynomial (R223, R260, R405) -/

/-- One bit of the reflected CRC. -/
def crcBit (c : Nat) : Nat := if c % 2 = 1 then (c / 2) ^^^ 0xEDB88320 else c / 2

/-- One byte of the reflected CRC. -/
def crcByte (c : Nat) (b : Byte) : Nat :=
  crcBit (crcBit (crcBit (crcBit (crcBit (crcBit (crcBit (crcBit (c ^^^ b.toNat))))))))

/-- CRC-32 of bytes. -/
def crc32 (bs : List Byte) : W32 :=
  BitVec.ofNat 32 ((bs.foldl crcByte 0xFFFFFFFF) ^^^ 0xFFFFFFFF)

end Sys2Proof.Machine
end

