-- ==== Sys2Proof/Machine/Numeric.lean ====
section
/-!
DEFINITION. Number formats, rounding and arithmetic (R67, R79, R100–R113, R120–R125): every value
is formed exactly as a dyadic and rounded once.
-/

namespace Sys2Proof.Machine

/-- A value of a floating format: a NaN with its sign, an infinity, or ±m × 2^e. -/
inductive Num where
  | nan (neg : Bool)
  | inf (neg : Bool)
  | fin (neg : Bool) (m : Nat) (e : Int)
  deriving DecidableEq, Repr

/-- A floating format (R101): exponent bits, fraction bits, bias, and whether it has infinities. -/
structure Fmt where
  ebits : Nat
  fbits : Nat
  bias : Nat
  hasInf : Bool
  deriving DecidableEq, Repr

/-- FP32 (R101). -/
def fp32 : Fmt := { ebits := 8, fbits := 23, bias := 127, hasInf := true }
/-- FP16 (R101). -/
def fp16 : Fmt := { ebits := 5, fbits := 10, bias := 15, hasInf := true }
/-- F8n (R102). -/
def f8n : Fmt := { ebits := 4, fbits := 3, bias := 7, hasInf := false }
/-- F8w (R103). -/
def f8w : Fmt := { ebits := 5, fbits := 2, bias := 15, hasInf := true }

/-- The format of a code of R105, codes 0 to 3. -/
def fmtOf (code : Nat) : Fmt :=
  match code with
  | 0 => fp32
  | 1 => fp16
  | 2 => f8n
  | _ => f8w

/-- Width of a format in bits. -/
def Fmt.width (f : Fmt) : Nat := 1 + f.ebits + f.fbits
/-- Bytes of an element. -/
def Fmt.bytes (f : Fmt) : Nat := f.width / 8
/-- Exponent of the smallest normal. -/
def Fmt.emin (f : Fmt) : Int := 1 - f.bias
/-- Magnitude bits of the largest finite value (R101). -/
def Fmt.maxMag (f : Fmt) : Nat :=
  if f.hasInf then (2 ^ f.ebits - 1) * 2 ^ f.fbits - 1 else 2 ^ (f.ebits + f.fbits) - 2
/-- Magnitude bits of infinity. -/
def Fmt.infMag (f : Fmt) : Nat := (2 ^ f.ebits - 1) * 2 ^ f.fbits
/-- The NaN produced (R101). -/
def Fmt.nanMag (f : Fmt) : Nat :=
  if f.hasInf then f.infMag + 2 ^ (f.fbits - 1) else 2 ^ (f.ebits + f.fbits) - 1
/-- A magnitude with its sign. -/
def Fmt.withSign (f : Fmt) (neg : Bool) (mag : Nat) : Nat :=
  (if neg then 2 ^ (f.ebits + f.fbits) else 0) + mag

/-- The value an encoding stands for (R101–R104). -/
def decodeNum (f : Fmt) (v : Nat) : Num :=
  let neg := bit v (f.ebits + f.fbits)
  let mag := v % 2 ^ (f.ebits + f.fbits)
  let ex := mag / 2 ^ f.fbits
  let fr := mag % 2 ^ f.fbits
  if f.hasInf && ex = 2 ^ f.ebits - 1 then (if fr = 0 then .inf neg else .nan neg)
  else if !f.hasInf && mag = 2 ^ (f.ebits + f.fbits) - 1 then .nan neg
  else if ex = 0 then .fin neg fr (f.emin - f.fbits)
  else .fin neg (2 ^ f.fbits + fr) (f.emin + ex - 1 - f.fbits)

/-- Number of bits of a number: 0 for 0. -/
def bitLen (m : Nat) : Nat := if m = 0 then 0 else Nat.log2 m + 1

/-- `m × 2^(-n)` rounded to the nearest integer, ties to even (R108). -/
def shiftRne (m n : Nat) : Nat :=
  let q := m / 2 ^ n
  let r := m % 2 ^ n
  if n = 0 then m
  else if 2 * r > 2 ^ n || (2 * r = 2 ^ n && q % 2 = 1) then q + 1 else q

/-- Exponent of the unit in the last place at magnitude m × 2^e, subnormal range included. -/
def ulpExp (f : Fmt) (m : Nat) (e : Int) : Int :=
  max (e + bitLen m - 1) f.emin - f.fbits

/-- Magnitude bits of a count `r` of units 2^q. -/
def magOf (f : Fmt) (r : Nat) (q : Int) : Nat :=
  ((q + f.fbits - f.emin).toNat) * 2 ^ f.fbits + r

/-- Magnitude bits of m × 2^e rounded to nearest even, unbounded above. -/
def roundMag (f : Fmt) (m : Nat) (e : Int) : Nat :=
  if m = 0 then 0
  else
    let q := ulpExp f m e
    let r := if e ≥ q then m * 2 ^ (e - q).toNat else shiftRne m (q - e).toNat
    magOf f r q

/-- What a conversion wrote: the encoding, whether it saturated, and whether the source was
infinite or NaN (R110, R111). -/
structure Conv where
  bits : Nat
  sat : Bool
  nonfinite : Bool
  deriving DecidableEq, Repr

/-- A rounded magnitude, saturated at the largest finite (R79, R110). -/
def saturate (f : Fmt) (neg : Bool) (mag : Nat) : Conv :=
  if mag > f.maxMag then { bits := f.withSign neg f.maxMag, sat := true, nonfinite := false }
  else { bits := f.withSign neg mag, sat := false, nonfinite := false }

/-- A conversion's result for a special source (R110). -/
def convSpecial (f : Fmt) (x : Num) : Conv :=
  match x with
  | .nan neg => { bits := f.withSign neg f.nanMag, sat := false, nonfinite := true }
  | .inf neg => { bits := f.withSign neg (if f.hasInf then f.infMag else f.nanMag), sat := false, nonfinite := true }
  | .fin neg _ _ => { bits := f.withSign neg 0, sat := false, nonfinite := false }

/-- x × 2^k exactly (R107). -/
def Num.scale (x : Num) (k : Int) : Num :=
  match x with
  | .fin neg m e => .fin neg m (e + k)
  | y => y

/-- Conversion to nearest, ties to even, saturating (R107, R110). -/
def convRn (f : Fmt) (x : Num) : Conv :=
  match x with
  | .fin neg m e => if m = 0 then convSpecial f x else saturate f neg (roundMag f m e)
  | y => convSpecial f y

/-- Random bits of a pair of formats (R112): fraction bits lost by a narrowing pair. -/
def srBits (src dst : Fmt) : Nat := src.fbits - dst.fbits

/-- Stochastic conversion with random value `r` of `n` bits (R113). -/
def convSr (f : Fmt) (x : Num) (n r : Nat) : Conv :=
  match x with
  | .fin neg m e =>
    if m = 0 then convSpecial f x
    else
      let q := ulpExp f m e
      -- keep n bits below the unit, drop the rest toward zero, add r, truncate
      let a := if e ≥ q - n then m * 2 ^ (e - (q - n)).toNat else m / 2 ^ (q - n - e).toNat
      saturate f neg (magOf f ((a + r) / 2 ^ n) q)
  | y => convSpecial f y

/-- The sum of two finite dyadics, exactly: sign, magnitude, exponent. A zero sum is +0 unless both
are −0 (round to nearest). -/
def finAdd (n1 : Bool) (m1 : Nat) (e1 : Int) (n2 : Bool) (m2 : Nat) (e2 : Int) : Num :=
  let e := min e1 e2
  let a : Int := (m1 * 2 ^ (e1 - e).toNat : Nat)
  let b : Int := (m2 * 2 ^ (e2 - e).toNat : Nat)
  let s := (if n1 then -a else a) + (if n2 then -b else b)
  if s = 0 then .fin (n1 && n2) 0 e else .fin (s < 0) s.natAbs e

/-- Exact addition (R80 for the special values). -/
def Num.add (x y : Num) : Num :=
  match x, y with
  | .nan s, _ => .nan s
  | _, .nan s => .nan s
  | .inf a, .inf b => if a = b then .inf a else .nan false
  | .inf a, _ => .inf a
  | _, .inf b => .inf b
  | .fin n1 m1 e1, .fin n2 m2 e2 => finAdd n1 m1 e1 n2 m2 e2

/-- Negation. -/
def Num.neg (x : Num) : Num :=
  match x with
  | .nan s => .nan s
  | .inf s => .inf (!s)
  | .fin s m e => .fin (!s) m e

/-- Exact multiplication (R80). -/
def Num.mul (x y : Num) : Num :=
  match x, y with
  | .nan s, _ => .nan s
  | _, .nan s => .nan s
  | .inf a, .inf b => .inf (a ^^ b)
  | .inf a, .fin b m _ => if m = 0 then .nan false else .inf (a ^^ b)
  | .fin a m _, .inf b => if m = 0 then .nan false else .inf (a ^^ b)
  | .fin a m1 e1, .fin b m2 e2 => .fin (a ^^ b) (m1 * m2) (e1 + e2)

/-- Is the value finite. -/
def Num.isFin (x : Num) : Bool :=
  match x with
  | .fin _ _ _ => true
  | _ => false

/-- Is the value a NaN. -/
def Num.isNan (x : Num) : Bool :=
  match x with
  | .nan _ => true
  | _ => false

/-- Order of two numbers that are not NaN, −0 below +0: x before y. -/
def Num.lt (x y : Num) : Bool :=
  match x, y with
  | .inf a, .inf b => a && !b
  | .inf a, _ => a
  | _, .inf b => !b
  | .fin n1 m1 e1, .fin n2 m2 e2 =>
    match finAdd n1 m1 e1 (!n2) m2 e2 with
    | .fin s m _ => if m = 0 then (n1 && !n2) && m1 = 0 else s
    | _ => false
  | _, _ => false

/-- Numeric equality: zeros of either sign are equal, NaN equals nothing. -/
def Num.eqv (x y : Num) : Bool :=
  match x, y with
  | .inf a, .inf b => a = b
  | .fin n1 m1 e1, .fin n2 m2 e2 =>
    match finAdd n1 m1 e1 (!n2) m2 e2 with
    | .fin _ m _ => m = 0
    | _ => false
  | _, _ => false

/-- The encoding of a NaN that arithmetic produces: some NaN, its payload open (log 3). -/
def arithNan (f : Fmt) (op a b c : Nat) : Nat :=
  let v := Config.nanBits op a b c
  f.withSign (v % 2 = 1) (f.infMag + 1 + (v / 2) % (2 ^ f.fbits - 1))

/-- Lane rounding: to nearest even, overflow to infinity (R109). -/
def laneRound (f : Fmt) (x : Num) (nan : Nat) : Nat :=
  match x with
  | .nan _ => nan
  | .inf s => f.withSign s f.infMag
  | .fin s m e =>
    let mag := roundMag f m e
    f.withSign s (if mag > f.maxMag then f.infMag else mag)

/-- Lane addition (R109). -/
def laneAdd (f : Fmt) (a b : Nat) : Nat :=
  laneRound f ((decodeNum f a).add (decodeNum f b)) (arithNan f 0 a b 0)
/-- Lane multiplication (R109). -/
def laneMul (f : Fmt) (a b : Nat) : Nat :=
  laneRound f ((decodeNum f a).mul (decodeNum f b)) (arithNan f 1 a b 0)
/-- Lane fused multiply-add: a × b + c with one rounding (R109). -/
def laneFma (f : Fmt) (a b c : Nat) : Nat :=
  laneRound f (((decodeNum f a).mul (decodeNum f b)).add (decodeNum f c)) (arithNan f 2 a b c)
/-- minimumNumber (R109). -/
def laneMin (f : Fmt) (a b : Nat) : Nat :=
  match (decodeNum f a).isNan, (decodeNum f b).isNan with
  | true, true => f.nanMag
  | true, false => b
  | false, true => a
  | false, false => if (decodeNum f b).lt (decodeNum f a) then b else a
/-- maximumNumber (R109). -/
def laneMax (f : Fmt) (a b : Nat) : Nat :=
  match (decodeNum f a).isNan, (decodeNum f b).isNan with
  | true, true => f.nanMag
  | true, false => b
  | false, true => a
  | false, false => if (decodeNum f a).lt (decodeNum f b) then b else a
/-- Absolute value: the sign bit cleared. -/
def laneAbs (f : Fmt) (a : Nat) : Nat := a % 2 ^ (f.ebits + f.fbits)

/-- Largest s with s² ≤ n, one bit at a time from bit `k` down. -/
def isqrtFrom (n : Nat) (k s : Nat) : Nat :=
  match k with
  | 0 => if (s + 1) * (s + 1) ≤ n then s + 1 else s
  | j + 1 =>
    let t := s + 2 ^ (j + 1)
    isqrtFrom n j (if t * t ≤ n then t else s)

/-- Integer square root. -/
def isqrt (n : Nat) : Nat := isqrtFrom n (bitLen n / 2 + 1) 0

/-- m1 2^e1 / (m2 2^e2) with 64 quotient bits and a sticky bit; m2 not zero. -/
def finDiv (m1 : Nat) (e1 : Int) (m2 : Nat) (e2 : Int) : Nat × Int :=
  let k := 64 + bitLen m2
  let q := m1 * 2 ^ k / m2
  let r := m1 * 2 ^ k % m2
  (2 * q + (if r = 0 then 0 else 1), e1 - e2 - k - 1)

/-- Quotient, correctly rounded when encoded (R196, R228). -/
def Num.div (x y : Num) : Num :=
  match x, y with
  | .nan s, _ => .nan s
  | _, .nan s => .nan s
  | .inf _, .inf _ => .nan false
  | .inf a, .fin b _ _ => .inf (a ^^ b)
  | .fin a _ _, .inf b => .fin (a ^^ b) 0 0
  | .fin a m1 e1, .fin b m2 e2 =>
    if m2 = 0 then (if m1 = 0 then .nan false else .inf (a ^^ b))
    else let (m, e) := finDiv m1 e1 m2 e2
      .fin (a ^^ b) m e

/-- Square root, correctly rounded when encoded (R228). -/
def Num.sqrt (x : Num) : Num :=
  match x with
  | .nan s => .nan s
  | .inf s => if s then .nan false else .inf false
  | .fin s m e =>
    if m = 0 then .fin s 0 e
    else if s then .nan false
    else
      -- an even exponent and at least 64 result bits, with a sticky bit
      let k : Nat := 128 + (if (e - 128) % 2 = 0 then 0 else 1)
      let n := m * 2 ^ k
      let q := isqrt n
      .fin false (2 * q + (if q * q = n then 0 else 1)) ((e - k) / 2 - 1)

/-- Lane division (R135, R196). -/
def laneDiv (f : Fmt) (a b : Nat) : Nat :=
  laneRound f ((decodeNum f a).div (decodeNum f b)) (arithNan f 3 a b 0)
/-- Lane square root (R135, R228). -/
def laneSqrt (f : Fmt) (a : Nat) : Nat :=
  laneRound f ((decodeNum f a).sqrt) (arithNan f 4 a 0 0)

/-! ### Special functions (R109): a value within 2 units in the last place -/

/-- 2^96 × 2^(2^-i) for i = 0, 1, … by repeated square roots. -/
def rootsOfTwo (n : Nat) (v : Nat) : List Nat :=
  match n with
  | 0 => []
  | k + 1 => v :: rootsOfTwo k (isqrt (2 ^ 96 * v))

/-- 2^96 × 2^x for a fraction x given by `bs`, its bits from 2^-1 down. -/
def pow2Frac (bs : List Bool) (roots : List Nat) (acc : Nat) : Nat :=
  match bs, roots with
  | b :: bs, r :: rs => pow2Frac bs rs (if b then acc * r / 2 ^ 96 else acc)
  | _, _ => acc

/-- 2^x for finite x as a dyadic: 2^(integer part) times a 96-bit fraction power. -/
def exp2Num (neg : Bool) (m : Nat) (e : Int) : Num :=
  -- x = ± m 2^e in 2^-81 units, the last of them sticky: a remainder below is far below one unit of the result
  let u : Nat :=
    if e ≥ -80 then 2 * m * 2 ^ (e + 80).toNat
    else 2 * (m / 2 ^ (-80 - e).toNat) + (if m % 2 ^ (-80 - e).toNat = 0 then 0 else 1)
  let x : Int := if neg then -(u : Int) else u
  let n : Int := x / 2 ^ 81
  let fr : Nat := (x % 2 ^ 81).toNat
  let bs := (List.range 81).map fun i => bit fr (80 - i)
  .fin false (pow2Frac bs ((rootsOfTwo 82 (2 ^ 97)).drop 1) (2 ^ 96)) (n - 96)

/-- Bits of log2 of v / 2^96 in [1, 2), from 2^-1 down. -/
def log2Bits (n : Nat) (v acc : Nat) : Nat :=
  match n with
  | 0 => acc
  | k + 1 =>
    let w := v * v / 2 ^ 96
    if w ≥ 2 ^ 97 then log2Bits k (w / 2) (2 * acc + 1) else log2Bits k w (2 * acc)

/-- log2 of m × 2^e, m > 0, with 80 fraction bits. -/
def log2Num (m : Nat) (e : Int) : Num :=
  let l := bitLen m
  let v := 2 ^ 96 * m / 2 ^ (l - 1)
  let fr := log2Bits 80 v 0
  let x : Int := (e + l - 1) * 2 ^ 80 + fr
  if x = 0 then .fin false 0 0 else .fin (x < 0) x.natAbs (-80)

/-- The exact result of a special function where one exists; none where the spec states no result. -/
def specialExact (fn : SpecialFn) (x : Num) : Option Num :=
  match fn, x with
  | .exp2, .fin neg m e =>
    if e + bitLen m > 20 then some (if neg then .fin false 1 (-400) else .fin false 1 400)
    else some (exp2Num neg m e)
  | .log2, .fin neg m e => if m = 0 || neg then none else some (log2Num m e)
  | .rcp, .fin neg m e => if m = 0 then none else some (Num.div (.fin false 1 0) (.fin neg m e))
  | .rsqrt, .fin neg m e =>
    if m = 0 || neg then none
    else some (Num.div (.fin false 1 0) (Num.sqrt (.fin false (2 ^ 128 * m) (e - 128))))
  | _, _ => none

/-- Magnitude bits of m × 2^e rounded toward zero. -/
def floorMag (f : Fmt) (m : Nat) (e : Int) : Nat :=
  if m = 0 then 0
  else
    let q := ulpExp f m e
    let r := if e ≥ q then m * 2 ^ (e - q).toNat else m / 2 ^ (q - e).toNat
    magOf f r q

/-- Number of a special function in the choices of Config. -/
def specialNo (fn : SpecialFn) : Nat :=
  match fn with
  | .exp2 => 0
  | .log2 => 1
  | .rsqrt => 2
  | .rcp => 3

/-- The FP32 value of signed magnitude bits, as if the exponent had no upper bound. -/
def stepNum (z : Int) : Num :=
  let b := z.natAbs
  if b < 2 ^ 23 then .fin (z < 0) b (-149) else .fin (z < 0) (2 ^ 23 + b % 2 ^ 23) ((b / 2 ^ 23 : Nat) - 150)

/-- |x| ≤ |y| for finite values. -/
def Num.magLe (x y : Num) : Bool :=
  match x, y with
  | .fin _ m1 e1, .fin _ m2 e2 => !(Num.fin false m2 e2).lt (.fin false m1 e1)
  | _, _ => false

/-- The FP32 values within 2 units in the last place of m × 2^e, as signed magnitude bits; the unit is the spacing at
that magnitude (R101, R109; log 4). -/
def nearValues (m : Nat) (e : Int) : List Int :=
  let r := floorMag fp32 m e
  ((List.range 9).map fun i => (r : Int) + i - 4).filter fun z =>
    ((stepNum z).add (.fin true m e)).magLe (.fin false 2 (ulpExp fp32 m e))

/-- One of them, the choice open (R109). -/
def nearSpecial (m : Nat) (e : Int) (choice : Nat) : Int :=
  let l := nearValues m e
  l.getD (choice % l.length) (floorMag fp32 m e)

/-- A special function of FP32 bits: within 2 units in the last place of the exact result, the choice open
(R109; log 4). -/
def specialFn (fn : SpecialFn) (a : Nat) : Nat :=
  match specialExact fn (decodeNum fp32 a) with
  | none => (Config.specialOpen (specialNo fn) a).toNat
  | some (.fin s m e) =>
    let z := nearSpecial m e (Config.specialUlp (specialNo fn) a)
    fp32.withSign (s != decide (z < 0)) (min z.natAbs fp32.infMag)
  | some (.inf s) => fp32.withSign s fp32.infMag
  | some (.nan _) => (Config.specialOpen (specialNo fn) a).toNat

/-! ### The matrix array's arithmetic (R67, R79, R80, R98) -/

/-- A step of the array: FP32 bits, whether it saturated and whether it is infinite or NaN. -/
def arrayRound (x : Num) (nan : Nat) : Conv :=
  match x with
  | .nan _ => { bits := nan, sat := false, nonfinite := true }
  | .inf s => { bits := fp32.withSign s fp32.infMag, sat := false, nonfinite := true }
  | .fin s m e => saturate fp32 s (roundMag fp32 m e)

/-- Array addition: one rounding, saturating (R79). -/
def arrayAdd (a b : Nat) : Conv :=
  arrayRound ((decodeNum fp32 a).add (decodeNum fp32 b)) (arithNan fp32 5 a b 0)

/-- Scaled product of narrow operands: exact in FP32, scaled, rounded below and saturated above the
FP32 normal range (R67 steps 1 and 2). -/
def arrayProduct (x y : Num) (k : Int) : Conv :=
  arrayRound ((x.mul y).scale k) (arithNan fp32 6 0 0 0)

/-- One accumulation of narrow operands (R67). -/
def arrayMac (acc : Nat) (x y : Num) (k : Int) (negate : Bool) : Conv :=
  let p := arrayProduct x y k
  let q := if negate then p.bits ^^^ 2 ^ 31 else p.bits
  let r := arrayAdd acc q
  { bits := r.bits, sat := p.sat || r.sat, nonfinite := p.nonfinite || r.nonfinite }

/-- One accumulation of FP32 operands: fused, a single rounding, only the sum saturates (R67, R79). -/
def arrayFma (acc : Nat) (x y : Num) (k : Int) : Conv :=
  arrayRound (((x.mul y).scale k).add (decodeNum fp32 acc)) (arithNan fp32 7 acc 0 0)

/-- One compensated accumulation (R98): new sum, new compensation, flags. -/
def arrayCompensated (s c : Nat) (x y : Num) (k : Int) : Conv × Conv :=
  let p := arrayProduct x y k
  let negb (v : Nat) : Nat := v ^^^ 2 ^ 31
  let t := arrayAdd s p.bits
  let bp := arrayAdd t.bits (negb s)
  let tb := arrayAdd t.bits (negb bp.bits)
  let sa := arrayAdd s (negb tb.bits)
  let pb := arrayAdd p.bits (negb bp.bits)
  let e := arrayAdd sa.bits pb.bits
  let c' := arrayAdd c e.bits
  let sat := p.sat || t.sat || bp.sat || tb.sat || sa.sat || pb.sat || e.sat
  let nf := p.nonfinite || t.nonfinite
  ({ bits := t.bits, sat := sat, nonfinite := nf },
   { bits := c'.bits, sat := c'.sat, nonfinite := c'.nonfinite })

/-! ### Q8r rows (R120–R122) and master pairs (R124, R125) -/

/-- A sum whose second term adds nothing when it is a zero: the first keeps its sign (R104, R122). -/
def Num.addTerm (x y : Num) : Num :=
  match y with
  | .fin _ 0 _ => x
  | y => x.add y

/-- Dequantise one code of a Q8r row to FP16 (R121). -/
def dequantQ8r (scale offset q : Nat) : Conv :=
  match decodeNum fp16 scale, decodeNum fp16 offset with
  | .nan s, _ => convSpecial fp16 (.nan s)
  | _, .nan s => convSpecial fp16 (.nan s)
  | s, o => convRn fp16 (o.addTerm ((Num.fin false q 0).mul s))

/-- The least of a list of finite values. -/
def minNum (x : Num) (l : List Num) : Num := l.foldl (fun a b => if b.lt a then b else a) x
/-- The greatest. -/
def maxNum (x : Num) (l : List Num) : Num := l.foldl (fun a b => if a.lt b then b else a) x

/-- A dyadic rounded to the nearest integer, ties to even. -/
def intRn (x : Num) : Int :=
  match x with
  | .fin s m e =>
    let r : Nat := if e ≥ 0 then m * 2 ^ e.toNat else shiftRne m (-e).toNat
    if s then -(r : Int) else r
  | _ => 0

/-- A quantised Q8r row: scale, offset, codes, saturations counted, non-finite elements (R122). -/
structure QRow where
  scale : Nat
  offset : Nat
  codes : List Nat
  sats : Nat
  nonfinite : Nat
  deriving DecidableEq, Repr

/-- Quantise a row of exactly scaled values (R122). -/
def quantQ8r (vs : List Num) : QRow :=
  let bad := (vs.filter fun v => !v.isFin).length
  match vs with
  | [] => { scale := 0, offset := 0, codes := [], sats := 0, nonfinite := 0 }
  | v :: rest =>
    if bad > 0 then { scale := 0x7E00, offset := 0, codes := vs.map fun _ => 0, sats := 0, nonfinite := bad }
    else
      let lo := minNum v rest
      let hi := maxNum v rest
      let off := convRn fp16 lo
      if hi.eqv lo then
        { scale := 0, offset := off.bits, codes := vs.map fun _ => 0, sats := b2n off.sat, nonfinite := 0 }
      else
        let o := decodeNum fp16 off.bits
        let sc := convRn fp16 ((hi.add o.neg).div (.fin false 255 0))
        let d := decodeNum fp16 sc.bits
        let code (x : Num) : Nat :=
          if sc.bits % 2 ^ 15 = 0 then 0
          else (min (max (intRn ((x.add o.neg).div d)) 0) 255).toNat
        { scale := sc.bits, offset := off.bits, codes := vs.map code, sats := b2n off.sat + b2n sc.sat, nonfinite := 0 }

/-- A master pair (R123): hi and lo, and whether hi saturated. -/
structure Pair where
  hi : Nat
  lo : Nat
  sat : Bool
  deriving DecidableEq, Repr

/-- Split w = v / 2^s into its pair (R124). -/
def splitPair (w : Num) : Pair :=
  match w with
  | .nan _ => { hi := 0x7E00, lo := 0x7E00, sat := false }
  | .inf s => { hi := fp16.withSign s fp16.infMag, lo := 0, sat := false }
  | .fin s m e =>
    -- zero when |w| ≤ 2^-36
    if m = 0 || e + bitLen m - 1 < -36 || (e + bitLen m - 1 = -36 && m = 2 ^ (bitLen m - 1)) then
      { hi := fp16.withSign s 0, lo := fp16.withSign s 0, sat := false }
    else
      let h := convRn fp16 w
      let d := w.add (decodeNum fp16 h.bits).neg
      match d with
      | .fin _ 0 _ => { hi := h.bits, lo := 0, sat := h.sat }
      | _ => { hi := h.bits, lo := (convRn fp16 (d.scale 11)).bits, sat := h.sat }

/-- hi + 2^-11 lo, exactly. -/
def pairValue (hi lo : Nat) : Num := (decodeNum fp16 hi).add ((decodeNum fp16 lo).scale (-11))

/-- Recombine a pair with master exponent s to FP32 (R125). -/
def recombine (hi lo : Nat) (s : Int) : Conv := convRn fp32 ((pairValue hi lo).scale s)

/-- Encode the scaled FP32 value of a magnitude: |w| × 2^k rounded, at most the largest finite (R132). -/
def scaledMagnitude (w : Num) (k : Int) : Nat :=
  match w with
  | .fin _ m e => (convRn fp32 (.fin false m (e + k))).bits
  | _ => 0

end Sys2Proof.Machine
end

