-- ==== Sys2Proof/Machine/TileState.lean ====
section
/-!
DEFINITION. State of one tile: threads, groups and blocks (R33, R34), the matrix array and its
scoreboard (R72, R76), local memory and caches (R147, R150, R151), outstanding accesses and the
streams that hold the tile's tags (R162), and the lane generators (R115).
-/

namespace Sys2Proof.Machine

/-- One path of a group: program counter (byte offset from the block's entry) and threads (R43). -/
structure ThreadPath where
  pc : Nat
  mask : W32
  deriving DecidableEq, Repr

/-- Threads parked at a barrier instruction and where they resume (R47, R48). -/
structure Parked where
  resume : Nat
  mask : W32
  deriving DecidableEq, Repr

/-- What a group waits for beyond its operands. Serials number operations of the tile. -/
inductive Wait where
  | none
  /-- Loads or atomics of the instruction in progress (R42). -/
  | accesses (serials : List Nat)
  /-- `ACC.WAIT`: array operations (R78). -/
  | arrayOps (serials : List Nat)
  /-- `COPY.WAIT`: tag holders (R61). -/
  | tags (serials : List Nat)
  /-- A fence: earlier stores not yet performed; `board` includes board-window stores (R174). -/
  | fence (serials : List Nat) (invalidate : Bool)
  deriving DecidableEq, Repr

/-- A group of 32 threads (R33, R34). Registers are keyed 32 × register + thread, as `FrozenState`
lays them out; predicates p0–p6 are lane masks. Unlisted entries read zero. -/
structure Group where
  live : W32 := 0
  paths : List ThreadPath := []
  parked : List Parked := []
  regs : SMap W32 := []
  uregs : SMap W32 := []
  preds : SMap W32 := []
  wait : Wait := .none
  ended : Bool := false
  lastIssue : Nat := 0
  deriving DecidableEq, Repr

/-- Launch parameters of a block (R36); `watchdog` is the limit in force. -/
structure BlockParams where
  tile : Nat
  entry : Nat
  blockId : W32
  groups : Nat
  regs : Nat
  lmBase : Nat
  lmSize : Nat
  large : Bool
  accMask : Byte
  watchdog : Nat
  uniformInit : List W32
  deriving DecidableEq, Repr

/-- A census accumulator or report (R131, R132): four saturating counts and the largest finite magnitude: of an
accumulator as FP32 bits (`amax`), of a copy that counts directly exactly, as `exactM` × 2^`exactE`. -/
structure Census where
  elements : Nat := 0
  zeros : Nat := 0
  sats : Nat := 0
  nonfinite : Nat := 0
  amax : W32 := 0
  exactM : Nat := 0
  exactE : Int := 0
  deriving DecidableEq, Repr

/-- A launch: the block's parameters and the queue descriptor that asked for it (R308). -/
structure Launch where
  params : BlockParams
  tenant : Nat
  queue : Nat
  seq : Nat
  epoch : Nat
  deriving DecidableEq, Repr

/-- A resident block (R33): its launch, groups, array descriptor registers (absent: invalid),
barrier watchdog (R50) and census accumulator; `discard` is the first discarded cause (R315). -/
structure Block where
  launch : Launch
  groups : List Group
  dregs : SMap (List Byte) := []
  watchRunning : Bool := false
  watchCount : Nat := 0
  census : Census := {}
  discard : Option Nat := none
  deriving DecidableEq, Repr

/-- Kinds of class 0x9 access (R150, R175). -/
inductive AccessKind where
  | load | store
  | atomic (op : AtomOp) (wide : Bool)
  deriving DecidableEq, Repr

/-- One thread's outstanding class 0x9 access (R62, R162). `target` is a board address; `pc` the
instruction's; `result` holds a returned value until the whole instruction's have returned;
`retried` that it waits out a reset (R381); `sent` that a board-window packet carries it; `ready` that an atomic's
controller can perform it, and `fault` the cause that it met, while other lanes of its instruction are outstanding
(R62); `orphan` that its block has ended (R39). -/
structure Access where
  serial : Nat
  slot : Nat
  group : Nat
  thread : Nat
  kind : AccessKind
  pc : Nat
  va : Nat
  target : Nat
  size : Nat
  dst : Nat
  data : W64
  cmp : W64
  result : Option W64 := none
  sent : Bool := false
  retried : Bool := false
  frozen : Bool := false
  ready : Bool := false
  fault : Option Nat := none
  orphan : Bool := false
  deriving DecidableEq, Repr

/-- What an array operation does (R76). `seen` is local memory, with its uncorrectable words, as each write since the
issue found it: an operand written since may be seen either way (R78). -/
inductive ArrayKind where
  | mmaReg (quadrant slot : Nat) (zeroFirst : Bool) (a b : List (BitVec 16))
  | mmaDesc (slot : Nat) (zeroFirst : Bool) (desc : List Byte) (seen : List (SMap Byte × List Nat))
  | drain (unit : Nat) (dst : Nat) (gradient fp16 pair : Bool)
  | fill (unit : Nat) (src : Nat)
  deriving DecidableEq, Repr

/-- An operation in the slot scoreboard, in issue order (R76, R77): cycles since its issue in which the array
advanced (`age`, R68, R69); cycles since an `MMA.REG` entered its quadrant, or in which a drain or fill has shifted
(`run`, R73, R75, R89); whether a drain's copy into the shadows has happened (`copied`) and the values it holds there
(`held2`: compensation), or those a fill has taken; `done` when it is complete and still holds its chains (R90). -/
structure ArrayOp where
  serial : Nat
  slot : Nat
  large : Bool
  kind : ArrayKind
  copied : Bool := false
  held : SMap W32 := []
  held2 : SMap W32 := []
  age : Nat := 0
  run : Nat := 0
  done : Bool := false
  deriving DecidableEq, Repr

/-- What a tag holder is (R162, R360). -/
inductive StreamKind where
  | copy | gather | exchange
  deriving DecidableEq, Repr

/-- Where a stream stands: moving data, holding a report for the watch unit (R129, R133), or done. -/
inductive StreamPhase where
  | moving | reporting
  deriving DecidableEq, Repr

/-- How one index of a gather is served (R200, R207): a home row of this module or a Pool slot to read,
a read asked of another module, a join to a fill or to a read in flight of the same row, a wait for a
request slot, a read that a controller returned and that waits for a slot again (R182), skipped (R197), arrived, or
met by a fault. -/
inductive Route where
  | home (target : Nat)
  | pool (way target : Nat)
  | remote (target : Nat)
  | joined (way : Nat)
  | shared (tile tag index : Nat)
  | slotless
  | retryHome (target : Nat)
  | retryPool (way target : Nat)
  | skipped
  | arrived
  | fault (cause address : Nat)
  deriving DecidableEq, Repr

/-- A copy, gather or exchange stream and the tag it holds (R162–R170, R194–R201, R277–R280).
`next` is the next element, row, granule, index or packet; `inflight` the parts asked of another
module; `got` source data fetched, by offset in the present unit, or by index; `out` the present
unit's converted bytes when `outReady`, with `wrote` of them written (for a gather: its index, weight and
length lists, as issued and then as read); `written` finished outputs or
acknowledged packets; `moved` bytes written by earlier units; `routes` how each index of a gather is
read (R207); `ahead` source bytes of a copy read ahead of its in-order progress, by source address (R177); `turn` when
the gather engine last served the stream, or it arrived (R201); `target` the board address of a copy's present request
in tenant memory (R181); `seen` local memory as each write since a gather's issue found it, until its lists are read
(R196). -/
structure Stream where
  kind : StreamKind
  serial : Nat
  slot : Nat
  group : Nat
  desc : List Byte
  next : Nat := 0
  inflight : List Nat := []
  got : SMap (List Byte) := []
  out : List Byte := []
  outReady : Bool := false
  wrote : Nat := 0
  written : List Nat := []
  moved : Nat := 0
  census : Census := {}
  phase : StreamPhase := .moving
  multicastLost : List Nat := []
  flagSent : Bool := false
  routes : SMap Route := []
  ahead : SMap (List Byte) := []
  turn : Nat := 0
  target : Option Nat := none
  seen : List (SMap Byte) := []
  deriving DecidableEq, Repr

/-- A request that a tile's copy engine has waiting or in a slot (R162): an outstanding class 0x9 access, or the
present request of a copy, by serial. -/
inductive SlotReq where
  | access (serial : Nat)
  | copy (serial : Nat)
  deriving DecidableEq, Repr

/-- One tile (R9). Accumulators are keyed 4096 × slot + 64 × row + column, shadows 64 × row +
column; unlisted cells and bytes read zero (R357). `pairSlot` is the slot s of a standing pair mark
(R98). `icache` holds, by virtual line, a line's device address and its bytes (R151); `order` the requests of the
copy engine in the order of their address streams (R162, R181, R182). `issued` lists the (port, block slot, group) triples that issued in this cycle (R41). -/
structure Tile where
  cycle : W64 := 0
  gens : List W64 := []
  blocks : SMap Block := []
  waiting : List Launch := []
  lm : SMap Byte := []
  lmBad : List Nat := []
  l1 : SMap (List Byte) := []
  icache : SMap (Nat × List Byte) := []
  acc : SMap W32 := []
  shadow : SMap W32 := []
  ops : List ArrayOp := []
  pairSlot : Option Nat := none
  sat : Bool := false
  nonfinite : Bool := false
  feederFreezes : Nat := 0
  drainFreezes : Nat := 0
  reloading : Bool := false
  accesses : List Access := []
  streams : SMap Stream := []
  order : List SlotReq := []
  serial : Nat := 0
  issued : List (Nat × Nat × Nat) := []
  deriving DecidableEq, Repr

end Sys2Proof.Machine
end

