-- ==== Sys2Proof/Machine/UnitState.lean ====
section
/-!
DEFINITION. State of the units shared by tiles: the memory tiers and translation (chapters 06, 07),
the Pool Directory, each tenant's sounding records, parameter sets, queues and freeze records
(chapters 05, 08, 10, 12), and the links (chapter 09).
-/

namespace Sys2Proof.Machine

/-! ### Memory tiers, translation and the Pool -/

/-- A cached walk of one region's translation unit (R156): the leaf used for a 2 MiB page. -/
structure TlbEntry where
  region : Nat
  tenant : Nat
  vpn : Nat
  leaf : W64
  giant : Bool
  deriving DecidableEq, Repr

/-- A Pool Directory entry (R205). A filling way also holds the home's decline of the fill (R209), the
row once the home has answered, the reads that joined it as (tile, tag, index) (R207), and the tag of the
request that fills it. -/
structure Way where
  tenant : Nat
  table : Nat
  row : Nat
  state : Nat
  doomed : Bool
  declined : Bool
  age : Nat
  data : Option (List Byte) := none
  waiters : List (Nat × Nat × Nat) := []
  fillTag : Nat := 0
  deriving DecidableEq, Repr

/-- A tensor record (R127). FP32 fields are held as bits; counts as numbers below 2^32. -/
structure TensorRecord where
  errSum : W32 := 0
  errMax : W32 := 0
  errLast : W32 := 0
  samples : Nat := 0
  amaxOpen : W32 := 0
  amaxClosed : W32 := 0
  nonfiniteOpen : Nat := 0
  satOpen : Nat := 0
  zeroOpen : Nat := 0
  elementsOpen : Nat := 0
  nonfiniteClosed : Nat := 0
  satClosed : Nat := 0
  zeroClosed : Nat := 0
  elementsClosed : Nat := 0
  histFirst : Nat := 0
  scale : Int := 0
  histState : Nat := 0
  histLen : Nat := 0
  histCount : Nat := 0
  targetFormat : Nat := 0
  agreeLog2 : Nat := 0
  paramSet : Nat := 0
  flags : BitVec 3 := 0
  margin : Nat := 0
  backedOff : Bool := false
  deriving DecidableEq, Repr

/-- A watch entry in use (R126–R128); an unlisted entry is free. -/
inductive WatchEntry where
  | tensor (r : TensorRecord)
  | history (owner : Nat) (hist : List W32)
  deriving DecidableEq, Repr

/-- A bank of a generation record (R233): its header and the watch-entry copies of R138, by tenant entry;
`bad` names copies that fail the symbol code. -/
structure GenRecord where
  generation : Nat
  attempt : Nat
  entries : List (Nat × WatchEntry)
  bad : List Nat
  deriving DecidableEq, Repr

/-- The two DRAM tiers and what drives them. Fast-tier bytes are keyed stack × 2^36 + offset, slow
ones chip × 2^38 + offset; code words by key div 16. Channels are keyed 32 × unit + channel, with
units 0–19 the stacks and 20–23 the spring chips' slow tiers. -/
structure MemState where
  fast : SMap Byte := []
  fastBad : List Nat := []
  slow : SMap Byte := []
  slowBad : List Nat := []
  genRecords : SMap GenRecord := []
  retired : SMap Nat := []
  rowsRepaired : SMap Nat := []
  retraining : SMap Nat := []
  trainTemp : SMap Int := []
  unitTemp : SMap Int := []
  retrainQueue : List Nat := []
  tlb : List TlbEntry := []
  span : Nat := 56
  ptBase : Nat := 0
  ptSize : Nat := 2048
  scrubHours : Nat := 24
  slowScrubHours : Nat := 24
  retrainMode : Nat := 0
  malformed : Nat := 0
  pageOwner : SMap (BitVec 16) := []
  dir : SMap Way := []
  setGroups : SMap W64 := []
  dirCorrected : Nat := 0
  dirUncorrectable : Nat := 0
  poolUncorrectable : Nat := 0
  invalidations : Nat := 0
  groupsOut : List Nat := []
  deriving DecidableEq, Repr

/-! ### Sounding -/

/-- A tenant's sounding state (R145, R146). -/
structure WatchState where
  quota : Nat := 0
  entries : SMap WatchEntry := []
  setup : SMap W64 := []
  scalePage : SMap Nat := []
  lossPair : SMap W64 := []
  unattributed : Census := {}
  lateLoss : Nat := 0
  refusedStores : Nat := 0
  mirror : Nat := 0
  scaleFailures : Nat := 0
  unattributedCompares : Nat := 0
  deriving DecidableEq, Repr

/-! ### Parameter sets -/

/-- A vote, apply or poison message (R239). -/
structure VoteMsg where
  target : Nat
  attempt : Nat
  sum : Nat
  digest : W32
  tenant : Nat
  set : Nat
  phase : Nat
  round : Nat
  sender : Nat
  fatal : Bool
  ok : Bool
  deriving DecidableEq, Repr

/-- A reduction in progress (R240): running values and the dimensions still to combine. -/
structure Reduction where
  phase : Nat
  ok : Bool
  sum : Nat
  fatal : Bool
  dims : List Nat
  deriving DecidableEq, Repr

/-- A captured layer (R226): number, rule block, the translations of its pages as (virtual page, DPA), and
the rows its gradient list names. -/
structure Captured where
  layer : Nat
  chip : Nat
  slot : Nat
  block : List Byte
  pages : List (Nat × Nat)
  rows : List Nat
  deriving DecidableEq, Repr

/-- A parameter set (R234–R253). `forced` is 3 or 4 when an abort or the watchdog forced the
contribution (R247). -/
structure SetState where
  mode : Nat := 0
  generation : Nat := 0
  attempts : Nat := 0
  skips : Nat := 0
  state : Nat := 0
  genBlock : Nat := 0
  attBlock : Nat := 0
  ruleTable : Nat := 0
  layerMap : SMap W32 := []
  voteDims : BitVec 16 := 0
  voteExpected : Nat := 0
  imageAddr : Nat := 0
  arrivals : BitVec 256 := 0
  partMask : BitVec 256 := 0
  watchdog : Nat := 0
  undoShortfalls : Nat := 0
  importGen : Nat := 0
  digest : W32 := 0
  pausePending : Bool := false
  poisoned : Bool := false
  resetSeen : Bool := false
  contributed : Bool := false
  jobFroze : Bool := false
  forced : Nat := 0
  deriving DecidableEq, Repr

/-- The part of a parameter set that lives for one attempt or publication. `readyAt` is when the open that
pacing holds back became ready (R237); `undo` counts the open entries of each layer's ring (R231);
`markers` are end markers as (generation, sender, records named), `records` the records applied, as
(generation, sender, count), and `changedRows` the (table, row) the open apply has changed (R210). -/
structure SetRun where
  captured : List Captured := []
  reduction : Option Reduction := none
  held : List VoteMsg := []
  writing : Bool := false
  applied : Bool := false
  openedAt : Nat := 0
  everOpened : Bool := false
  importFrom : Nat := 0
  importing : Bool := false
  readyAt : Nat := 0
  settled : Nat := 0
  markers : List (Nat × Nat × Nat) := []
  records : List (Nat × Nat × Nat) := []
  changedRows : List (Nat × Nat) := []
  restoreFailed : Bool := false
  voteSucceeded : Bool := false
  fatal : Bool := false
  outcome : Nat := 0
  outcomeAttempt : Nat := 0
  undo : SMap Nat := []
  forcedEarly : Bool := false
  expired : Bool := false
  releasedTo : Option Nat := none
  deriving DecidableEq, Repr

/-! ### Queues, clearings, freezes -/

/-- A work queue (R306–R323). `done` lists completions above `completed`; `running` the FEEDs and
EXPORTs under way, each with its epoch, number and descriptor; `reread` the descriptors a resumed queue reads again (R321);
`epoch` counts Function Level Resets, so that the records
of work launched before one are discarded (R320). -/
structure Queue where
  entries : Nat := 0
  mirrorWindow : Nat := 255
  mirrorOffset : Nat := 0
  tail : Nat := 0
  head : Nat := 0
  completed : Nat := 0
  readPtr : Nat := 0
  dropped : Nat := 0
  lastCause : Nat := 0
  done : List Nat := []
  running : List (Nat × Nat × List Byte) := []
  reread : List Nat := []
  epoch : Nat := 0
  deriving DecidableEq, Repr

/-- A freeze record (R365), with the descriptor a stream or queue froze at (R366). -/
structure FreezeRec where
  master : W32
  cause : Nat
  address : Nat
  pc : Nat
  blockId : W32
  live : W32
  parked : W32
  seq : Nat
  desc : List Byte
  layer : Option Nat
  deriving DecidableEq, Repr

/-- A tenant: its clearing record (R353), freeze view (R372, R373), tables (R191) and statistics
(R219), sounding, queues and parameter sets. `logFrom` is the ring's record number from which the
records are its own (R8, R371). -/
structure Tenant where
  clearingHold : Bool := false
  ptRoot : Nat := 0
  queueMask : Byte := 0
  exclusive : BitVec 20 := 0
  shortfall : W32 := 0
  freezes : List FreezeRec := []
  freezeSeq : Nat := 0
  inspect : W32 := 0
  nFreezes : Nat := 0
  nUncorrectable : Nat := 0
  nDiscarded : Nat := 0
  nResumed : Nat := 0
  logNumber : Nat := 0
  logRead : Nat := 0
  logLost : Nat := 0
  logFrom : Nat := 0
  tables : SMap (List Byte) := []
  stats : SMap (List Nat) := []
  exchangeKey : W32 := 0
  watch : WatchState := {}
  queues : SMap Queue := []
  sets : SMap SetState := []
  runs : SMap SetRun := []
  deriving DecidableEq, Repr

/-! ### Links -/

/-- What waits for a response to a packet this module sent (R267, R276, R279); a gather's read may also
fill a way of the Pool; `none` is a request whose holder has gone, and a gather's, or a fill without its gather, still holds
a slot of its region's engine (R200). -/
inductive Requester where
  | none
  | access (tile serial : Nat)
  | copyRead (tile tag step : Nat)
  | copyWrite (tile tag step : Nat)
  | gatherRow (tile tag index : Nat) (fill : Option Nat)
  | poolFill (way region : Nat)
  | gatherGone (region : Nat)
  | exchangePart (tile tag part : Nat)
  | exchangeFlag (tile tag : Nat)
  deriving DecidableEq, Repr

/-- A request in flight over the links: who waits, the packet (for a reissue, R381), and whether
its last answer was target reset. -/
structure Request where
  who : Requester
  packet : Packet
  resetSeen : Bool := false
  deriving DecidableEq, Repr

/-- Keys of an encrypted link: one for each direction, their epoch, and the flits each direction has counted (R264, R399). -/
structure LinkKeys where
  tx : List Byte
  rx : List Byte
  epoch : Nat
  txCount : Nat
  rxCount : Nat
  deriving DecidableEq, Repr

/-- A flit of a packet this module sends: the packet it ends, virtual channel, lane, bounds and code words;
once sent, its `seq` and the flit counter of R264, which a resend repeats (R261, R264). -/
structure TxFlit where
  packet : Option Packet
  vc : Nat
  lane : Nat
  sop : Bool
  eop : Bool
  words : List (BitVec 144)
  seq : BitVec 16 := 0
  iv : Nat := 0
  deriving DecidableEq, Repr

/-- One link (R255–R264, R281–R292). `sent` is the replay buffer, `queue` the flits that wait for credit or for
room in it, `part` the code words of a packet not yet whole; `rxSeq` is the last flit accepted and `rxWhole`
the last flit of the last packet accepted whole; `discarding` that flits are discarded until the resend;
`credits` the flit credits in use, and `owed` those to return, both keyed 2 × virtual channel + lane (R262);
`trainKey` the job key of the present training; `disabled` that `LinkControl` disabled the link (R291).
`lanes` are the lanes in use (R282); `txUnits` and `rxUnits` the 32-byte units of each lane that wait to fill a code
word, or to make a flit (R259); `partFlits` the flits of the packet not yet whole, which hold room in the receive
buffer (R262); `ephemeral` the number of the key this end offers in the present training (R399). -/
structure Link where
  dimension : Nat := 15
  width : Nat := 0
  state : Nat := 0
  partner : W32 := 0
  lanesPassed : BitVec 4 := 0
  fecCorrected : Nat := 0
  fecUncorrectable : Nat := 0
  crcFailures : Nat := 0
  replays : Nat := 0
  gateErrors : Nat := 0
  gateBits : Nat := 0
  attempts : Nat := 0
  txSeq : BitVec 16 := 0
  rxSeq : BitVec 16 := 0xFFFF
  rxWhole : BitVec 16 := 0xFFFF
  sent : List TxFlit := []
  queue : List TxFlit := []
  part : List (BitVec 144) := []
  discarding : Bool := false
  resends : Nat := 0
  credits : SMap Nat := []
  owed : SMap Nat := []
  keys : Option LinkKeys := none
  keyEpoch : Nat := 0
  trainKey : W64 := 0
  disabled : Bool := false
  lanes : BitVec 4 := 0
  txUnits : SMap (List (BitVec 256)) := []
  rxUnits : SMap (List (BitVec 256)) := []
  partFlits : Nat := 0
  ephemeral : Option Nat := none
  deriving DecidableEq, Repr

/-- The link system of the module (R269–R275, R289). `received` are the packets that stand in a link's receive buffer,
each with the link, 2 × virtual channel + lane, and its flits (R262); `codesOut` and `trainOut` are the code words and
the training frames that have been sent (R259, R281). -/
structure LinkState where
  links : SMap Link := []
  nodeId : Nat := 0
  nodeIdTraining : Nat := 0
  trafficHold : Nat := 0
  jobKey : W64 := 0
  gateThreshold : W32 := 0x2B8CBCCC
  gateDwell : Nat := 1062500000000
  encryption : BitVec 16 := 0
  trainAttempts : Nat := 3
  undeliverable : Nat := 0
  partnerMask : SMap W32 := []
  floor : SMap Nat := []
  routes : SMap W32 := []
  outbox : List Packet := []
  arrived : List Packet := []
  inbox : List Packet := []
  escape : List Packet := []
  flitsOut : List (Nat × Flit) := []
  codesOut : List (Nat × LaneCode) := []
  trainOut : List (Nat × TrainFrame) := []
  received : List (Packet × Nat × Nat × Nat) := []
  settleOut : List (Nat × BitVec 16) := []
  unsettled : SMap (List (Packet × Option (BitVec 16))) := []
  requests : SMap Request := []
  nextTag : Nat := 0
  verifiedNodes : List Nat := []
  deriving DecidableEq, Repr

end Sys2Proof.Machine
end

