-- ==== Sys2Proof/Machine/ServiceState.lean ====
section
/-!
DEFINITION. State of the module's management side: host attachment (chapter 10), the dictionary's
paths (chapter 11), the error log (chapter 12), bring-up and live service (chapter 13), Heartwood
(chapter 14), and islands, power and pins (chapter 15).
-/

namespace Sys2Proof.Machine

/-! ### Host attachment -/

/-- The host side of the module (R294–R303, R322). `written` lists the writes the module has made
to host memory, oldest first, `hostReads` the data it has returned to host reads, and `aer` the AER error messages it has
sent, each as its bit of Uncorrectable Error Status (R293, R297). -/
structure HostState where
  linkWidth : Nat := 0
  linkRate : Nat := 0
  cxlNarrow : Bool := false
  queueArea : Nat := 0x80000000
  hdmRefused : Nat := 0
  numVfs : Nat := 0
  vfEnable : Bool := false
  windows : SMap (BitVec 128) := []
  access : List Nat := []
  bias : List Nat := []
  hdmBase : Nat := 0
  hdmCommitted : Bool := false
  written : List (Nat × List Byte) := []
  hostReads : List (Nat × List Byte × Bool) := []
  snoops : List (Nat × Bool) := []
  biasRequests : List Nat := []
  turn : Nat := 0
  doe : List (List Byte) := []
  aer : List Nat := []
  deriving DecidableEq, Repr

/-! ### The dictionary's paths -/

/-- An open write transfer (R336, R337). -/
structure Transfer where
  path : Path
  index : Nat
  sub : Nat
  tenant : Nat
  offset : Nat
  total : Nat
  supplied : SMap Byte
  deriving DecidableEq, Repr

/-- A session or handshake (R344–R350); `state` 1 handshaking, 2 open; `line` 0 port A, 1 port B,
2 the PF 0 mailbox. -/
structure Session where
  id : Nat
  state : Nat
  role : Nat
  line : Nat
  mac : BitVec 48
  peerKeyHash : BitVec 128
  framesIn : Nat
  framesOut : Nat
  seqIn : Nat
  seqOut : Nat
  c2mKey : List Byte
  m2cKey : List Byte
  c2mIv : List Byte
  m2cIv : List Byte
  transcript : List Byte
  peerKey : List Byte
  idleMs : Nat
  deriving DecidableEq, Repr

/-- A handshake message being reassembled (R344). -/
structure Reassembly where
  line : Nat
  mac : BitVec 48
  message : Nat
  total : Nat
  bytes : SMap Byte
  deriving DecidableEq, Repr

/-- A mailbox (R338, R339): the last request served, the request area with its control word, the response area with its,
and the request taken and not yet answered. A request that waits stands in its area (R351, R375). -/
structure Mailbox where
  seq : W32 := 0
  request : W64 := 0
  message : List Byte := []
  control : W64 := 0
  response : List Byte := []
  taken : Option (W64 × List Byte) := none
  deriving DecidableEq, Repr

/-- What a deferred acknowledgement waits for (R327); a shootdown waits for the accesses and streams, as
(tile, serial), that used dropped entries (R156). -/
inductive AckKind where
  | retrain (channel : Nat)
  | shootdown (tenant : Nat) (waits : List (Nat × Nat))
  | bias (page : Nat) (toHost : Bool)
  | reset (scope : Scope)
  | reseed (tiles : List Nat)
  | dimensions (mask : BitVec 16)
  deriving DecidableEq, Repr

/-- A request whose acknowledgement is deferred. -/
structure Ack where
  path : Path
  request : DictMsg
  kind : AckKind
  deriving DecidableEq, Repr

/-- Dictionary paths (R335–R350). `replies` lists every response given, oldest first; `frames` every
frame sent. -/
structure DictState where
  transfers : List Transfer := []
  sessions : List Session := []
  nextSession : Nat := 1
  reassembly : List Reassembly := []
  sessionIdleMs : Nat := 600000
  pf0Role : Nat := 3
  handshakeFailures : Nat := 0
  anchors : SMap Byte := []
  mailboxes : SMap Mailbox := []
  replies : List (Path × DictMsg) := []
  acks : List Ack := []
  etherType : Nat := 0x88B5
  portRoles : BitVec 2 := 1
  portUp : BitVec 2 := 0
  forwardEnable : Bool := true
  hopDefault : Nat := 16
  forwarded : Nat := 0
  dropped : Nat := 0
  frames : List Frame := []
  lodgeFrames : List Frame := []
  discovered : List (BitVec 48 × Nat) := []
  deriving DecidableEq, Repr

/-! ### The error log -/

/-- A report on its way to the Lodge (R370): source path, class, cause, tenant, detail, number under
its match key and stamp. -/
structure Report where
  source : W32
  cls : Nat
  cause : Nat
  tenant : Option Nat
  detail : W32
  seq : Nat
  stamp : W64
  deriving DecidableEq, Repr

/-- A log record (R369); `ordinal` is the tenant's own record number (R371). -/
structure LogRecord where
  report : Report
  repeats : Nat
  pinned : Bool
  open_ : Bool
  recordNo : Nat
  ordinal : Nat
  deriving DecidableEq, Repr

/-- A source's counters (R368). -/
structure SourceCount where
  corrected : Nat
  uncorrectable : Nat
  events : Nat
  deriving DecidableEq, Repr

/-- The log (R368–R372): reports waiting for the Lodge, the ring by slot, the counters by source
path, and report numbers by match key. -/
structure LogState where
  pending : List Report := []
  ring : SMap LogRecord := []
  writeNumber : Nat := 0
  readNumber : Nat := 0
  lost : Nat := 0
  droppedReports : Nat := 0
  counters : SMap SourceCount := []
  seqs : SMap Nat := []
  deriving DecidableEq, Repr

/-! ### Bring-up and live service -/

/-- One slot of a firmware image (R384): what R394 gives of it, and its payload in flash. -/
structure FwImage where
  version : Nat
  svn : Nat
  compat : Nat
  keySlot : Nat
  hash : BitVec 384
  valid : Bool
  payload : List Byte := []
  deriving DecidableEq, Repr

/-- The two slots of an image and its status (R384). -/
structure FwSlots where
  a : FwImage
  b : FwImage
  activeB : Bool
  pending : Bool
  deferred : Bool
  lastResult : Nat
  deriving DecidableEq, Repr

/-- A partial reset in progress (R380): its phase (0 fence and drain, 1 clear) and, for a fatal
fault, the faulty tile. -/
structure ResetRun where
  scope : Scope
  clearing : Bool
  faulty : Option Nat
  deriving DecidableEq, Repr

/-- A service job (R385, R386). -/
structure Job where
  kind : Nat := 0
  phase : Nat := 0
  reason : Nat := 0
  progress : Nat := 0
  image : Nat := 0
  defer_ : Bool := false
  srcChip : Nat := 0
  srcSlot : Nat := 0
  dstChip : Nat := 0
  dstSlot : Nat := 0
  cartridge : Nat := 0
  deriving DecidableEq, Repr

/-- A cluster's microcode loader (R379): hash expected next, mismatches on this chunk, whether the image is whole, and
the chunks it keeps. -/
structure Loader where
  expect : BitVec 384
  mismatches : Nat
  done : Bool
  image : List (List Byte) := []
  deriving DecidableEq, Repr

/-- Bring-up, maps and service (R14–R17, R374–R391). `backing` maps a logical to a physical tile
index 336 × die + 16 × y + x; `served` is that the dictionary is served (R375), `handing` that one Lodge hands over to
the other (R388), `packagesOut` the slow-tier packages lost, 8 × chip + package (R391); `yield_` holds the state of the physical tiles that are not nominal in
use or free spares, and `fusedBad` the tiles the fuses record as bad. -/
structure ServiceState where
  bringUp : Nat := 0
  fault : Nat := 0
  stopped : Bool := false
  lodgeCycles : Nat := 0
  times : SMap Nat := []
  activeLodge : Nat := 0
  lodgeAway : Bool := false
  served : Bool := false
  handing : Bool := false
  boardSlot : Nat := 0
  mapGeneration : Nat := 0
  backing : SMap Nat := []
  yield_ : SMap Nat := []
  fusedBad : List Nat := []
  mapBuilt : Bool := false
  loaders : SMap Loader := []
  clustersOut : List Nat := []
  gatherOut : List Nat := []
  translationOut : List Nat := []
  stacksOut : List Nat := []
  enginesFailed : List Nat := []
  firmware : SMap FwSlots := []
  staging : SMap Byte := []
  job : Job := {}
  resets : List ResetRun := []
  cartridges : SMap Nat := []
  springState : SMap Nat := []
  packagesOut : List Nat := []
  deriving DecidableEq, Repr

/-! ### Heartwood -/

/-- A reservation record (R405); `valid` is that its `crc` matches. -/
structure LmsRecord where
  reservedTo : Nat
  recordSeq : Nat
  valid : Bool
  deriving DecidableEq, Repr

/-- The SPDM responder (R403): how far the connection's negotiation has come (0 none, 1 version, 2 capabilities,
3 algorithms), the messages its signatures cover, its session, and every response given. `thread` holds the messages
of the session's handshake and `secret` its shared secret. -/
structure SpdmState where
  stage : Nat := 0
  negotiated : List Byte := []
  certified : List Byte := []
  measured : List Byte := []
  session : Option Nat := none
  sessionOpen : Bool := false
  thread : List Byte := []
  secret : List Byte := []
  keyUpdates : Nat := 0
  responses : List (List Byte) := []
  deriving DecidableEq, Repr

/-- Heartwood (R392–R411). `chainSig` is signature 0 of `ModuleChainLms`, empty while no session
certificate is issued. -/
structure HeartwoodState where
  state : Nat := 0
  selfTests : W32 := 0
  entropyFailures : Nat := 0
  recordA : LmsRecord := { reservedTo := 0, recordSeq := 0, valid := true }
  recordB : LmsRecord := { reservedTo := 0, recordSeq := 0, valid := true }
  next : Nat := 0
  minIntervalMs : Nat := 10000
  sinceReportMs : Nat := 0
  reported : Bool := false
  rollback : SMap Nat := []
  revoked : BitVec 4 := 0
  report : List Byte := []
  chainSig : List Byte := []
  serviceNonce : List Byte := []
  powerOns : Nat := 0
  ephemerals : Nat := 0
  keysHeld : Bool := false
  killed : Bool := false
  spdm : SpdmState := {}
  deriving DecidableEq, Repr

/-! ### Islands, power and pins -/

/-- One clock island (R412–R414, R420): junction temperature, frequency in MHz, state, throttle
entries, and its cycles since the last frequency step. -/
structure Island where
  temp : Int
  freq : Nat
  state : Nat
  throttles : Nat
  since : Nat
  deriving DecidableEq, Repr

/-- Power and thermal state (R415–R420, R424). -/
structure PowerState where
  inputMv : Nat := 0
  inputW : Nat := 0
  inlet : Int := 0
  outlet : Int := 0
  shutoffs : Nat := 0
  blocks : SMap W64 := []
  islands : SMap Island := []
  powered : Bool := false
  packageOff : Bool := false
  savedFatal : Option Report := none
  straps : Nat := 0
  deriving DecidableEq, Repr

end Sys2Proof.Machine
end

