-- ==== Sys2Proof/Machine/State.lean ====
section
/-!
DEFINITION. The state of the module, plain data, the reasons a step can stop, and the state after
reset: the module before power good (R374), every register at the value its rule gives.
-/

namespace Sys2Proof.Machine

/-- Reasons a command faults. No command of this module faults: a violation freezes a master (R20),
which is a next state. The one constructor is never raised. -/
inductive Fault where
  /-- Never raised; safe. -/
  | none
  deriving DecidableEq, Repr

/-- Reasons a command is refused by the model. -/
inductive Refusal where
  /-- A row without a meaning yet; raised by `exec`'s arm alone; safe. -/
  | notModelled (mnemonic : String)
  deriving DecidableEq, Repr

/-- Module-scope settings and counters that belong to no unit above. `heldOwner` names the tenant that a tile
waiting for its reseed will belong to (R117); `gatherClock` counts what the gather engines have served (R201). -/
structure Globals where
  barrierDefault : Nat := 70000000
  personality : SMap Byte := []
  reseeds : Nat := 0
  reseedWaits : Nat := 0
  convSats : Nat := 0
  convNonfinite : Nat := 0
  reseedPending : List Nat := []
  heldOwner : SMap Nat := []
  histDefault : Nat := 16
  poisonedAttempts : Nat := 0
  orthoDefault : Nat := 5
  published : Nat := 0
  layerSlots : SMap W64 := []
  springNow : Nat := 0
  lastOpen : Option Nat := none
  openQueue : List (Nat × Nat) := []
  gatherClock : Nat := 0
  deriving DecidableEq, Repr

/-- The module. `draws` is the model's own counter of free values (log 1); `pending` the queue of
commands that wait, first in, first out. An unlisted tile, tenant or link is as `Tile.fresh`,
`{}` and `Link` after reset give. -/
structure State where
  pending : List Instr := []
  draws : Nat := 0
  tiles : SMap Tile := []
  tileOwner : SMap Nat := []
  tenants : SMap Tenant := []
  mem : MemState := {}
  links : LinkState := {}
  host : HostState := {}
  dict : DictState := {}
  log : LogState := {}
  service : ServiceState := {}
  heartwood : HeartwoodState := {}
  power : PowerState := {}
  globals : Globals := {}
  deriving DecidableEq, Repr

/-- A firmware image slot as shipped: version 1, signed under key slot 0 (DESIGN CHOICE, log 30). -/
def shippedImage : FwImage :=
  { version := 1, svn := 0, compat := 0, keySlot := 0, hash := 0, valid := true }

/-- An empty firmware slot (R384). -/
def emptyImage : FwImage :=
  { version := 0, svn := 0, compat := 0, keySlot := 0, hash := 0, valid := false }

/-- The six images as shipped (R384; log 30). -/
def shippedFirmware : SMap FwSlots :=
  [1, 2, 3, 4, 5, 6].map fun i =>
    (i, { a := shippedImage, b := emptyImage, activeB := false, pending := false,
          deferred := false, lastResult := 0 })

/-- The module right after reset: off, before power good (R374), every object at its default. -/
def State.reset : State :=
  { service := { firmware := shippedFirmware } }

end Sys2Proof.Machine
end

