-- ==== Sys2Proof/Machine/Ops.lean ====
section
/-!
DEFINITION. Named operations over the state: tiles and tenants, numbering (R11), the lane generators
(R115), error reports (R367–R370, R430), freezing a master (R360–R365), the device address map and
its code words (R157, R158, R185), and translation (R152–R156).
-/

namespace Sys2Proof.Machine

/-! ### Numbering (R11) -/

/-- Cluster of a logical tile. -/
def clusterOf (l : Nat) : Nat := l / 16
/-- Region of a logical tile. -/
def regionOf (l : Nat) : Nat := l / 64
/-- Compute die of a logical tile. -/
def dieOf (l : Nat) : Nat := l / 320
/-- Nominal physical index 336 × die + 16 × y + x of a logical tile (R12, R412). -/
def nominalOf (l : Nat) : Nat :=
  let i := l % 320
  let c := (i % 64) / 16
  let k := i % 16
  336 * (l / 320) + 16 * (4 * (i / 64) + k / 4) + (4 * c + k % 4)

/-! ### Free values (log 1) -/

/-- Item `i` of the free values at this moment. -/
def free (s : State) (i : Nat) : Nat := Config.free s.draws i
/-- Pass to the next moment's free values. -/
def State.redraw (s : State) : State := { s with draws := s.draws + 1 }

/-! ### Tiles -/

/-- Seed of a generator at a reseed of its tile; never zero (R117). -/
def seedOf (l n lane : Nat) : W64 :=
  BitVec.ofNat 64 (Config.entropy (192 * l + lane) n % (2 ^ 64 - 1) + 1)
/-- All 192 seeds of a tile at reseed `n` (R115, R117). -/
def seedsOf (l n : Nat) : List W64 := (List.range 192).map (seedOf l n)
/-- A scrubbed tile after reseed `n` (R357). -/
def freshTile (l n : Nat) : Tile := { gens := seedsOf l n }
/-- The tile of a logical number. -/
def tileAt (s : State) (l : Nat) : Tile := (mget s.tiles l).getD (freshTile l 0)
/-- Replace a tile. -/
def State.setTile (s : State) (l : Nat) (t : Tile) : State := { s with tiles := mset s.tiles l t }
/-- Owner of a tile: the tenant whose `TileMask` has it (R353). -/
def ownerOf (s : State) (l : Nat) : Option Nat := mget s.tileOwner l
/-- Is a logical tile backed by a physical one (R15). -/
def tilePresent (s : State) (l : Nat) : Bool := (mget s.service.backing l).isSome

/-- One advance of a generator (R115). -/
def genStep (g : W64) : W64 :=
  let a := g ^^^ (g <<< 13)
  let b := a ^^^ (a >>> 7)
  b ^^^ (b <<< 17)
/-- Output word of a generator state (R115). -/
def genOut (g : W64) : W64 := g * 0x2545F4914F6CDD1D
/-- `n` advances. -/
def genSteps (n : Nat) (g : W64) : W64 :=
  match n with
  | 0 => g
  | k + 1 => genSteps k (genStep g)
/-- The output word generator `i` of a tile gives in this cycle: 0–63 vector lanes, 64–127 A-feeder
lanes, 128–191 B-feeder lanes (R115, R116). -/
def genWord (t : Tile) (i : Nat) : W64 := genOut (t.gens.getD i 1)
/-- The top `n` bits of that word (R116). -/
def genBits (t : Tile) (i n : Nat) : Nat := (genWord t i).toNat / 2 ^ (64 - n)

/-! ### Tenants -/

/-- A tenant's state. -/
def tenantAt (s : State) (t : Nat) : Tenant := (mget s.tenants t).getD {}
/-- Replace a tenant. -/
def State.setTenant (s : State) (t : Nat) (v : Tenant) : State := { s with tenants := mset s.tenants t v }
/-- Change a tenant. -/
def State.updTenant (s : State) (t : Nat) (f : Tenant → Tenant) : State := s.setTenant t (f (tenantAt s t))
/-- A parameter set of a tenant. -/
def setAt (s : State) (t p : Nat) : SetState := (mget (tenantAt s t).sets p).getD {}
/-- Change a parameter set. -/
def State.updSet (s : State) (t p : Nat) (f : SetState → SetState) : State :=
  s.updTenant t fun v => { v with sets := mset v.sets p (f ((mget v.sets p).getD {})) }
/-- The running part of a parameter set. -/
def runAt (s : State) (t p : Nat) : SetRun := (mget (tenantAt s t).runs p).getD {}
/-- Change the running part of a parameter set. -/
def State.updRun (s : State) (t p : Nat) (f : SetRun → SetRun) : State :=
  s.updTenant t fun v => { v with runs := mset v.runs p (f ((mget v.runs p).getD {})) }
/-- A work queue of a tenant. -/
def queueAt (s : State) (t q : Nat) : Queue := (mget (tenantAt s t).queues q).getD {}
/-- Change a work queue. -/
def State.updQueue (s : State) (t q : Nat) (f : Queue → Queue) : State :=
  s.updTenant t fun v => { v with queues := mset v.queues q (f ((mget v.queues q).getD {})) }
/-- Change a tenant's sounding state. -/
def State.updWatch (s : State) (t : Nat) (f : WatchState → WatchState) : State :=
  s.updTenant t fun v => { v with watch := f v.watch }

/-- Change the memory system. -/
def State.updMem (s : State) (f : MemState → MemState) : State := { s with mem := f s.mem }
/-- Change the links. -/
def State.updLinks (s : State) (f : LinkState → LinkState) : State := { s with links := f s.links }
/-- Change the host side. -/
def State.updHost (s : State) (f : HostState → HostState) : State := { s with host := f s.host }
/-- Change the dictionary paths. -/
def State.updDict (s : State) (f : DictState → DictState) : State := { s with dict := f s.dict }
/-- Change bring-up and service. -/
def State.updService (s : State) (f : ServiceState → ServiceState) : State := { s with service := f s.service }
/-- Change Heartwood. -/
def State.updHeartwood (s : State) (f : HeartwoodState → HeartwoodState) : State :=
  { s with heartwood := f s.heartwood }
/-- Change the module-scope settings. -/
def State.updGlobals (s : State) (f : Globals → Globals) : State := { s with globals := f s.globals }
/-- Change the log. -/
def State.updLog (s : State) (f : LogState → LogState) : State := { s with log := f s.log }
/-- Change power and thermal state. -/
def State.updPower (s : State) (f : PowerState → PowerState) : State := { s with power := f s.power }

/-- The module has ended bring-up (R374: states 7 and 8) and is powered. -/
def inService (s : State) : Bool := s.service.bringUp ≥ 7 && s.power.powered && !s.power.packageOff

/-! ### Partial resets in progress (R380) -/

/-- A unit of a scope that is being reset answers requests with target reset (R380). -/
def stackResetting (s : State) (st : Nat) : Bool :=
  s.service.resets.any fun r =>
    match r.scope with
    | .region n => n = st
    | .die n => st / 5 = n
    | _ => false

/-- A tile is inside a scope that is being reset. -/
def tileResetting (s : State) (l : Nat) : Bool :=
  s.service.resets.any fun r =>
    match r.scope with
    | .tile n => n = l
    | .cluster n => clusterOf l = n
    | .region n => regionOf l = n
    | .die n => dieOf l = n
    | .spring _ => false

/-! ### Error reports (R367–R370, R430) -/

/-- A source path (R367). -/
def sourcePath (level number unit index : Nat) : W32 :=
  BitVec.ofNat 32 (fieldAt 28 level + fieldAt 16 number + fieldAt 8 unit + index)

/-- The number of a match key: source, class, cause and tenant (R369). -/
def matchKey (source : W32) (cls cause : Nat) (tenant : Option Nat) : Nat :=
  ((source.toNat * 16 + cls) * 256 + cause) * 2048 +
    (match tenant with | none => 0 | some t => t + 1)

/-- The cycle count a source stamps its reports with (R369): a tile's own count; open for the other
islands, which the model does not clock (log 5). -/
def stampOf (s : State) (source : W32) : W64 :=
  if source.toNat / 2 ^ 28 = 0 then (tileAt s (bits source.toNat 27 16)).cycle
  else BitVec.ofNat 64 (free s source.toNat)

/-- Count one report at its source (R368): class 0 corrected, 1 uncorrectable, others events. -/
def countReport (c : SourceCount) (cls : Nat) : SourceCount :=
  match cls with
  | 0 => { c with corrected := satAdd 32 c.corrected 1 }
  | 1 => { c with uncorrectable := satAdd 32 c.uncorrectable 1 }
  | _ => { c with events := satAdd 32 c.events 1 }

/-- A report of this source still waits for the Lodge; whether another then outruns the intake is open (R370; log 116). -/
def outruns (s : State) (source : W32) (key n : Nat) : Bool :=
  (s.log.pending.any fun r => r.source = source) && free s (2 ^ 40 * (n + 1) + key) % 2 = 1

/-- A source makes a report: its counter and its number under the match key advance, and the report
goes to the Lodge, or is dropped and counted while no Lodge takes it or where it outruns the intake (R368–R370, R388). -/
def State.report (s : State) (source : W32) (cls cause : Nat) (tenant : Option Nat) (detail : W32) : State :=
  let key := matchKey source cls cause tenant
  let n := mgetD s.log.seqs key 0
  let r : Report := { source := source, cls := cls, cause := cause, tenant := tenant, detail := detail,
                      seq := n, stamp := stampOf s source }
  s.updLog fun l =>
    let c := (mget l.counters source.toNat).getD { corrected := 0, uncorrectable := 0, events := 0 }
    let l := { l with counters := mset l.counters source.toNat (countReport c cls),
                      seqs := mset l.seqs key (n + 1) }
    if s.service.lodgeAway || outruns s source key n then { l with droppedReports := satAdd 32 l.droppedReports 1 }
    else { l with pending := l.pending ++ [r] }

/-! ### Freezing (R360–R365) -/

/-- Master ID of a group (R360). -/
def groupMaster (tile slot g : Nat) : W32 :=
  BitVec.ofNat 32 (fieldAt 28 1 + fieldAt 17 tile + fieldAt 11 slot + g)
/-- Master ID of a block. -/
def blockMaster (tile slot : Nat) : W32 := BitVec.ofNat 32 (fieldAt 28 2 + fieldAt 17 tile + fieldAt 11 slot)
/-- Master ID of the stream that holds a tag. -/
def streamMaster (kind : StreamKind) (tile tag : Nat) : W32 :=
  let k := match kind with | .copy => 3 | .gather => 4 | .exchange => 5
  BitVec.ofNat 32 (fieldAt 28 k + fieldAt 17 tile + tag)
/-- Master ID of a work queue. -/
def queueMaster (q : Nat) : W32 := BitVec.ofNat 32 (fieldAt 28 6 + q)
/-- Master ID of a set's spring-chip job. -/
def jobMaster (p : Nat) : W32 := BitVec.ofNat 32 (fieldAt 28 7 + p)

/-- Kind field of a master ID. -/
def masterKind (m : W32) : Nat := bits m.toNat 31 28
/-- Tile field of a master ID. -/
def masterTile (m : W32) : Nat := bits m.toNat 27 17
/-- Block-slot field of a master ID. -/
def masterSlot (m : W32) : Nat := bits m.toNat 13 11
/-- Index field of a master ID. -/
def masterIndex (m : W32) : Nat := bits m.toNat 5 0

/-- Does a freeze record of the tenant name this master (R365). -/
def isFrozen (s : State) (tenant : Nat) (m : W32) : Bool :=
  (tenantAt s tenant).freezes.any fun r => r.master = m

/-- Codes of the cause table (R362). -/
def causeResumable (cause : Nat) (m : W32) : Bool :=
  match cause with
  | 0x02 | 0x20 | 0x21 | 0x23 | 0x40 | 0x41 | 0x60 | 0x61 | 0x80 | 0x81 => true
  | 0x22 => masterKind m ≠ 7
  | _ => false

/-- The source that reports a master's freeze (R367, R430; log 6). -/
def masterSource (m : W32) (chip : Nat) : W32 :=
  match masterKind m with
  | 1 | 2 => sourcePath 0 (masterTile m) 0 0
  | 4 => sourcePath 2 (regionOf (masterTile m)) 2 0
  | 6 => sourcePath 4 0 3 0
  | 7 => sourcePath 3 chip 2 0
  | _ => sourcePath 0 (masterTile m) 3 0

/-- Append a freeze record with the tenant's next ordinal, count it, and report it (R361, R365,
R368, R430). Nothing else of the state changes. -/
def State.freeze (s : State) (tenant : Nat) (r : FreezeRec) : State :=
  let s := s.updTenant tenant fun t =>
    { t with freezes := t.freezes ++ [{ r with seq := t.freezeSeq % 2 ^ 16 }],
             freezeSeq := t.freezeSeq + 1,
             nFreezes := satAdd 32 t.nFreezes 1,
             nUncorrectable := satAdd 32 t.nUncorrectable (if r.cause = 0x22 then 1 else 0) }
  let chip := match r.layer with
    | some k => bits (mgetD (setAt s tenant (masterIndex r.master)).layerMap k 0).toNat 11 10
    | none => 0
  s.report (masterSource r.master chip) 2 r.cause (some tenant) r.master

/-- A freeze record with nothing but master, cause and address. -/
def freezeRec (m : W32) (cause address : Nat) : FreezeRec :=
  { master := m, cause := cause, address := address, pc := 0, blockId := 0, live := 0, parked := 0,
    seq := 0, desc := [], layer := none }

/-! ### Code words (R149, R185) -/

/-- The 16-byte words a range touches. -/
def wordsOf (a n : Nat) : List Nat :=
  if n = 0 then [] else (List.range ((a + n - 1) / 16 - a / 16 + 1)).map fun i => a / 16 + i

/-- Does a read meet an uncorrectable word. -/
def readBad (bad : List Nat) (a n : Nat) : Bool := (wordsOf a n).any fun w => bad.contains w

/-- Is a word of a write covered only in part. -/
def partialWord (a n w : Nat) : Bool := !(a ≤ 16 * w && 16 * w + 16 ≤ a + n)

/-- Write bytes word by word: a partly covered uncorrectable word keeps its content and its error, a
whole word is replaced and its error cleared. Answers memory, marks and whether a word did not land
(R149, R185). -/
def writeWords (m : SMap Byte) (bad : List Nat) (a : Nat) (bs : List Byte) : SMap Byte × List Nat × Bool :=
  let n := bs.length
  let lost := (wordsOf a n).filter fun w => bad.contains w && partialWord a n w
  let keep (i : Nat) : Bool := !lost.contains ((a + i) / 16)
  let m' := ((List.range n).zip bs).foldl (fun m e => if keep e.1 then mput 0 m (a + e.1) e.2 else m) m
  let whole := (wordsOf a n).filter fun w => !partialWord a n w
  (m', bad.filter (fun w => !whole.contains w), !lost.isEmpty)

/-- Mark words uncorrectable: a physical fact an access reports. -/
def markBad (bad : List Nat) (addrs : List Nat) : List Nat := addrs.foldl (fun b a => ninsert b (a / 16)) bad

/-! ### The device address map (R157, R158, R184) -/

/-- Bytes of a GiB. -/
def gib : Nat := 2 ^ 30

/-- Key of the interleaved byte at DPA `d`, whatever is backed (R158). -/
def interleavedKey (d : Nat) : Nat :=
  let g := d / 4096
  let q := g / 20
  let h := (q ^^^ (q / 32) ^^^ (q / 1024)) % 20
  2 ^ 36 * ((g % 20 + h) % 20) + (4096 * q + d % 4096)

/-- Is DPA `d` in the interleaved view. -/
def inInterleaved (m : MemState) (d : Nat) : Bool := d < gib * (20 * m.span)

/-- Stack and offset of a stack-view DPA inside a view (R157): offsets from the span to 56 GiB. -/
def stackView (m : MemState) (d : Nat) : Option (Nat × Nat) :=
  if d < 0x040000000000 then none
  else
    let st := d / 2 ^ 36 - 64
    let o := d % 2 ^ 36
    if st < 20 && gib * m.span ≤ o && o < 56 * gib then some (st, o) else none

/-- Fast-tier key of a DPA inside a view. -/
def fastKey (m : MemState) (d : Nat) : Option Nat :=
  if inInterleaved m d then some (interleavedKey d)
  else (stackView m d).map fun (st, o) => 2 ^ 36 * st + o

/-- Is a fast-tier key backed: its stack in service, and below 55 GiB where its stack has a retired
channel, or any stack has for interleaved rows (R184). -/
def keyBacked (s : State) (key : Nat) : Bool :=
  let st := key / 2 ^ 36
  let o := key % 2 ^ 36
  !s.service.stacksOut.contains st &&
    (o < 55 * gib || (if o < gib * s.mem.span then s.mem.retired.isEmpty else (mget s.mem.retired st).isNone))

/-- Backed fast-tier key of a DPA, if any (R157). -/
def backedKey (s : State) (d : Nat) : Option Nat :=
  match fastKey s.mem d with
  | some k => if keyBacked s k then some k else none
  | none => none

/-- Page number of a DPA in `PageOwnerMap` (R354). -/
def pageOf (m : MemState) (d : Nat) : Option Nat :=
  if inInterleaved m d then some (d / 2 ^ 21)
  else (stackView m d).map fun (st, o) => 573440 + 28672 * st + o / 2 ^ 21

/-- DPA of a page number (R354). -/
def pageDpa (p : Nat) : Nat :=
  if p < 573440 then 2 ^ 21 * p
  else 0x040000000000 + 2 ^ 36 * ((p - 573440) / 28672) + 2 ^ 21 * ((p - 573440) % 28672)

/-- Is every byte of a page backed (R354). -/
def pageBacked (s : State) (p : Nat) : Bool :=
  (backedKey s (pageDpa p)).isSome && (backedKey s (pageDpa p + 2 ^ 21 - 1)).isSome &&
    (p ≥ 573440 || s.service.stacksOut.isEmpty)

/-- Entry of `PageOwnerMap`; zero where the page is unbacked (R354). -/
def pageEntry (s : State) (p : Nat) : BitVec 16 :=
  if pageBacked s p then mgetD s.mem.pageOwner p 0 else 0

/-- The page belongs to the tenant as an ordinary page (R155, R203). -/
def ownsPage (s : State) (tenant p : Nat) : Bool :=
  let e := (pageEntry s p).toNat
  bit e 15 && !bit e 14 && bits e 9 0 = tenant

/-- DPA range of the page-table area (R157). -/
def inPtArea (m : MemState) (d : Nat) : Bool := m.ptBase ≤ d && d < m.ptBase + 2 ^ 20 * m.ptSize
/-- DPA range of the queue area (R305). -/
def inQueueArea (s : State) (d : Nat) : Bool := s.host.queueArea ≤ d && d < s.host.queueArea + 2 ^ 31

/-- Cut a write at 16-byte boundaries: (address, bytes) pieces, each inside one word. -/
def piecesOf (fuel a : Nat) (bs : List Byte) : List (Nat × List Byte) :=
  match fuel with
  | 0 => []
  | k + 1 =>
    if bs.isEmpty then []
    else
      let n := 16 - a % 16
      (a, bs.take n) :: piecesOf k (a + n) (bs.drop n)

/-- Bytes at a DPA, zero where unbacked. -/
def dpaBytes (s : State) (a n : Nat) : List Byte :=
  (List.range n).map fun i =>
    match backedKey s (a + i) with
    | some k => mgetD s.mem.fast k 0
    | none => 0

/-- Does a read at a DPA meet uncorrectable data: a bad word or an unbacked byte (R157, R185). -/
def dpaBad (s : State) (a n : Nat) : Bool :=
  (wordsOf a n).any fun w =>
    match backedKey s (16 * w) with
    | some k => s.mem.fastBad.contains (k / 16)
    | none => true

/-- Write bytes at a DPA; answers the state and whether some word did not land (R157, R185). -/
def State.writeDpa (s : State) (a : Nat) (bs : List Byte) : State × Bool :=
  (piecesOf (bs.length + 1) a bs).foldl
    (fun (acc : State × Bool) p =>
      match backedKey acc.1 p.1 with
      | none => (acc.1, true)
      | some k =>
        let (m, b, lost) := writeWords acc.1.mem.fast acc.1.mem.fastBad k p.2
        (acc.1.updMem fun x => { x with fast := m, fastBad := b }, acc.2 || lost))
    (s, false)

/-- Mark fast-tier words at DPAs uncorrectable and report corrected ones (R185, R368): what an
access found. -/
def State.fastEcc (s : State) (e : Ecc) : State :=
  let s := s.updMem fun x =>
    { x with fastBad := e.bad.foldl (fun b d => match fastKey x d with | some k => ninsert b (k / 16) | none => b) x.fastBad }
  e.corrected.foldl
    (fun s d =>
      match fastKey s.mem d with
      | some k =>
        let o := k % 2 ^ 36
        let ch := (bits o 14 10) ^^^ (bits o 26 22)
        s.report (sourcePath 2 (k / 2 ^ 36) 1 ch) 0 0 none (BitVec.ofNat 32 (d / 2 ^ 13))
      | none => s) s

/-- Channel of a fast-tier key (R180). -/
def channelOf (key : Nat) : Nat := (bits (key % 2 ^ 36) 14 10) ^^^ (bits (key % 2 ^ 36) 26 22)
/-- Bank group of a fast-tier key (R180). -/
def bankGroupOf (key : Nat) : Nat := (bits (key % 2 ^ 36) 16 15) ^^^ (bits (key % 2 ^ 36) 21 20)

/-- Queue a channel for retraining once (R187). -/
def State.wantRetrain (s : State) (unit channel : Nat) : State :=
  s.updMem fun x =>
    let c := 32 * unit + channel
    if x.retrainQueue.contains c then x else { x with retrainQueue := x.retrainQueue ++ [c] }

/-- The uncorrectable report of a failed fast-tier word (R430): shared memory carries no tenant. Its
channel retrains at once (R187). -/
def State.fastUncorrectable (s : State) (d : Nat) : State :=
  match fastKey s.mem d with
  | some k =>
    (s.report (sourcePath 2 (k / 2 ^ 36) 1 (channelOf k)) 1 0 none (BitVec.ofNat 32 (d / 2 ^ 13))).wantRetrain
      (k / 2 ^ 36) (channelOf k)
  | none => s.report (sourcePath 4 0 5 0) 1 0 none (BitVec.ofNat 32 (d / 2 ^ 13))

/-- Zero the bytes of the fast tier whose key satisfies a test; fresh check symbols (R358). -/
def State.zeroFast (s : State) (p : Nat → Bool) : State :=
  s.updMem fun x =>
    { x with fast := x.fast.filter fun e => !p e.1, fastBad := x.fastBad.filter fun w => !p (16 * w) }

/-- DPA of a fast-tier key (R158, inverse). -/
def keyDpa (m : MemState) (key : Nat) : Nat :=
  let st := key / 2 ^ 36
  let o := key % 2 ^ 36
  if o < gib * m.span then
    let q := o / 4096
    let h := (q ^^^ (q / 32) ^^^ (q / 1024)) % 20
    4096 * (20 * q + (st + 20 - h) % 20) + o % 4096
  else 0x040000000000 + 2 ^ 36 * st + o

/-- A request to a DPA would be answered with target reset. -/
def dpaResetting (s : State) (d : Nat) : Bool :=
  match fastKey s.mem d with
  | some k => stackResetting s (k / 2 ^ 36)
  | none => false

/-- A request to a DPA waits for its channel to finish retraining (R187). -/
def dpaRetraining (s : State) (d : Nat) : Bool :=
  match fastKey s.mem d with
  | some k => mget s.mem.retraining (k / 2 ^ 36) = some (channelOf k)
  | none => false

/-! ### Translation (R152–R156, R159) -/

/-- What an access needs of a page (R153). -/
inductive Need where
  | r | w | rw | x
  deriving DecidableEq, Repr

/-- How a translation ends: a board address, a freeze cause, or a wait for a scope that is being reset or a channel
that retrains (R187, R381). -/
inductive Trans where
  | ok (board : Nat)
  | fail (cause : Nat)
  | wait
  deriving DecidableEq, Repr

/-- One walk: the leaf and whether it is a 1 GiB page, or a cause; malformed entries counted; the DPA of an entry that
could not be read; and that the walk waits (R187, R381). -/
structure Walk where
  leaf : Option (Nat × Bool) := none
  cause : Nat := 0
  malformed : Nat := 0
  badAt : Option Nat := none
  waits : Bool := false
  deriving DecidableEq, Repr

/-- Table entry at a DPA of the page-table area. -/
def tableEntry (s : State) (d : Nat) : Nat := leNat (dpaBytes s d 8)

/-- Is a valid entry malformed at a level: 0 root, 1 middle, 2 last (R154). -/
def entryMalformed (s : State) (level e : Nat) : Bool :=
  let addr := fieldAt 12 (bits e 47 12)
  let leaf := bit e 1
  bits e 63 48 ≠ 0 || bits e 11 5 ≠ 0 ||
    (if leaf then
      level = 0 || (level = 1 && bits addr 29 12 ≠ 0) || (level = 2 && bits addr 20 12 ≠ 0)
    else level = 2 || bits addr 47 45 ≠ 0 || !inPtArea s.mem addr)

/-- Walk from the table at `d` (R152, R154). `levels` counts those left. -/
def walkFrom (s : State) (va d level levels : Nat) : Walk :=
  match levels with
  | 0 => { cause := 0x20 }
  | k + 1 =>
    let idx := bits va (47 - 9 * level) (39 - 9 * level)
    let a := d + 8 * idx
    if dpaResetting s a || dpaRetraining s a then { waits := true }
    else if dpaBad s a 8 then { cause := 0x22, badAt := some a }
    else
      let e := tableEntry s a
      if !bit e 0 then { cause := 0x20 }
      else if entryMalformed s level e then { cause := 0x20, malformed := 1 }
      else if bit e 1 then { leaf := some (e, level = 1) }
      else walkFrom s va (fieldAt 12 (bits e 47 12)) (level + 1) k

/-- Walk a tenant's tables (R152–R154). -/
def walk (s : State) (tenant va : Nat) : Walk :=
  let root := (tenantAt s tenant).ptRoot
  if root = 0 || va ≥ 2 ^ 48 then { cause := 0x20 }
  else walkFrom s va root 0 3

/-- What a walk leaves behind: malformed entries counted (R190), and a report of an entry that could not be read
(R368, R430). -/
def State.noteWalk (s : State) (w : Walk) : State :=
  let s1 := s.updMem fun m => { m with malformed := satAdd 32 m.malformed w.malformed }
  match w.badAt with
  | some d => s1.fastUncorrectable d
  | none => s1

/-- Board address a leaf gives an address (R153). -/
def leafTarget (leaf va : Nat) (giant : Bool) : Nat :=
  fieldAt 12 (bits leaf 47 12) + va % (if giant then 2 ^ 30 else 2 ^ 21)

/-- The leaf's permission bits grant the need (R153). -/
def leafGrants (leaf : Nat) (need : Need) : Bool :=
  match need with
  | .r => bit leaf 2
  | .w => bit leaf 3
  | .rw => bit leaf 2 && bit leaf 3
  | .x => bit leaf 4

/-- Slot of a board address (R22). -/
def boardSlotOf (b : Nat) : Nat := bits b 47 45
/-- DPA of a board address (R22). -/
def boardDpa (b : Nat) : Nat := b % 2 ^ 45

/-- Target rules of R155 on this module: inside a view, outside the page-table area, assigned to the
tenant. -/
def targetAllowed (s : State) (tenant d : Nat) : Bool :=
  match pageOf s.mem d with
  | some p => !inPtArea s.mem d && !inQueueArea s d && ownsPage s tenant p
  | none => false

/-- Check a leaf for an access (R155, R159). -/
def checkLeaf (s : State) (tenant va leaf : Nat) (giant : Bool) (need : Need) : Trans :=
  let b := leafTarget leaf va giant
  if !leafGrants leaf need then .fail 0x21
  else if boardSlotOf b ≠ s.service.boardSlot then (if need = .x then .fail 0x21 else .ok b)
  else if targetAllowed s tenant (boardDpa b) then .ok b
  else .fail 0x21

/-- Translate for a region's unit: a cached entry or a fresh walk may be used, the choice open
(R156; log 7). Fills the cache and counts malformed entries; a walk that waits changes nothing. -/
def State.translate (s : State) (region tenant va : Nat) (need : Need) : State × Trans :=
  let vpn := va / 2 ^ 21
  let w := walk s tenant va
  match s.mem.tlb.find? fun e => e.region = region && e.tenant = tenant && e.vpn = vpn with
  | some e =>
    if (free s va) % 2 = 0 then (s, checkLeaf s tenant va e.leaf.toNat e.giant need)
    else if w.waits then (s, .wait)
    else
      match w.leaf with
      | some (leaf, giant) => (s, checkLeaf s tenant va leaf giant need)
      | none => (s.noteWalk w, .fail w.cause)
  | none =>
    if w.waits then (s, .wait)
    else
      match w.leaf with
      | some (leaf, giant) =>
        (s.updMem fun m =>
          { m with tlb := { region := region, tenant := tenant, vpn := vpn, leaf := BitVec.ofNat 64 leaf, giant := giant } :: m.tlb },
         checkLeaf s tenant va leaf giant need)
      | none => (s.noteWalk w, .fail w.cause)

/-- Translate without the caches, for the module's own accesses (R137, R226, R429). -/
def translateNow (s : State) (tenant va : Nat) (need : Need) : Trans :=
  let w := walk s tenant va
  if w.waits then .wait
  else
    match w.leaf with
    | some (leaf, giant) => checkLeaf s tenant va leaf giant need
    | none => .fail w.cause

/-- A board address is on this module's slot (R159). -/
def isLocal (s : State) (b : Nat) : Bool := boardSlotOf b = s.service.boardSlot

end Sys2Proof.Machine
end

