-- ==== Sys2Proof/Machine/Flags.lean ====
section
/-!
DEFINITION. Flag and count computations: SAT and NONFINITE (R81, R111), the conversion counters
(R119), census accumulators and tensor records (R131, R132), predicates (R34).
-/

namespace Sys2Proof.Machine

/-- Raise a tile's SAT and NONFINITE flags; they are sticky (R81). -/
def Tile.flag (t : Tile) (sat nonfinite : Bool) : Tile :=
  { t with sat := t.sat || sat, nonfinite := t.nonfinite || nonfinite }

/-- Count saturating and non-finite conversions module-wide (R111, R119). -/
def State.countConversions (s : State) (sats nonfinite : Nat) : State :=
  s.updGlobals fun g => { g with convSats := satAdd 64 g.convSats sats,
                                 convNonfinite := satAdd 64 g.convNonfinite nonfinite }

/-- The larger of two non-negative finite FP32 encodings. -/
def maxMagnitude (a b : W32) : W32 := if a.toNat < b.toNat then b else a

/-- Magnitude bits of a finite value in FP32; 0 for a value that is not finite (R132). -/
def magnitudeBits (w : Num) : W32 := BitVec.ofNat 32 (scaledMagnitude w 0)

/-- Is an encoding ±0. -/
def isZeroBits (f : Fmt) (v : Nat) : Bool := v % 2 ^ (f.ebits + f.fbits) = 0

/-- Is an encoding infinite or NaN. -/
def isNonfiniteBits (f : Fmt) (v : Nat) : Bool := !(decodeNum f v).isFin

/-- Count one element (R132): `w` the scaled source, `out` the result written in format `f`. -/
def Census.count (c : Census) (w : Num) (f : Fmt) (out : Nat) (sat : Bool) : Census :=
  { elements := satAdd 32 c.elements 1,
    zeros := satAdd 32 c.zeros (b2n (isZeroBits f out)),
    sats := satAdd 32 c.sats (b2n sat),
    nonfinite := satAdd 32 c.nonfinite (b2n (isNonfiniteBits f out)),
    amax := if w.isFin then maxMagnitude c.amax (magnitudeBits w) else c.amax }

/-- Count one element of a copy that counts directly: its magnitude is kept exactly until the record's scale is known
(R132). -/
def Census.countExact (c : Census) (w : Num) (f : Fmt) (out : Nat) (sat : Bool) : Census :=
  let k := c.count (.fin false 0 0) f out sat
  match w with
  | .fin _ m e =>
    if (Num.fin false c.exactM c.exactE).magLe (.fin false m e) then { k with exactM := m, exactE := e } else k
  | _ => k

/-- The exact maximum of `a` is at most that of `b`. -/
def Census.smaller (a b : Census) : Bool := (Num.fin false a.exactM a.exactE).magLe (.fin false b.exactM b.exactE)

/-- Add the counts of one accumulator to another, keeping the larger maximum (R131). -/
def Census.merge (a b : Census) : Census :=
  { elements := satAdd 32 a.elements b.elements,
    zeros := satAdd 32 a.zeros b.zeros,
    sats := satAdd 32 a.sats b.sats,
    nonfinite := satAdd 32 a.nonfinite b.nonfinite,
    amax := maxMagnitude a.amax b.amax,
    exactM := if a.smaller b then b.exactM else a.exactM,
    exactE := if a.smaller b then b.exactE else a.exactE }

/-- Is an accumulator empty. -/
def Census.isEmpty (c : Census) : Bool := c = {}

/-- The magnitude an element stands for: |w| × 2^scale, at most the largest finite FP32 (R132). -/
def representedMax (amax : W32) (scale : Int) : W32 :=
  BitVec.ofNat 32 (scaledMagnitude (decodeNum fp32 amax.toNat) scale)

/-- Add a report's counts to a tensor record's open fields (R127, R132). -/
def TensorRecord.addCensus (r : TensorRecord) (c : Census) : TensorRecord :=
  { r with elementsOpen := satAdd 32 r.elementsOpen c.elements,
           zeroOpen := satAdd 32 r.zeroOpen c.zeros,
           satOpen := satAdd 32 r.satOpen c.sats,
           nonfiniteOpen := satAdd 32 r.nonfiniteOpen c.nonfinite,
           amaxOpen := maxMagnitude r.amaxOpen
             (maxMagnitude (representedMax c.amax r.scale)
               (BitVec.ofNat 32 (scaledMagnitude (.fin false c.exactM c.exactE) r.scale))) }

/-! ### Predicates -/

/-- Lanes where predicate `p` reads true: p7 always (R34). -/
def predMask (g : Group) (p : Nat) : W32 := if p = 7 then 0xFFFFFFFF else mgetD g.preds p 0

/-- Lanes where the guard lets an instruction execute (R57). -/
def guardMask (g : Group) (f : Fields) : W32 :=
  let m := predMask g f.guard.toNat
  if f.guardNeg then ~~~m else m

/-- Write predicate `p` on the lanes of `mask`; a write of p7 is discarded (R34). -/
def Group.setPred (g : Group) (p : Nat) (mask value : W32) : Group :=
  if p = 7 then g
  else { g with preds := mput 0 g.preds p ((predMask g p &&& ~~~mask) ||| (value &&& mask)) }

end Sys2Proof.Machine
end

