-- ==== Sys2Proof/Machine/Array.lean ====
section
/-!
DEFINITION. The matrix array in the tile's cycles: slot units and chains (R72, R88, R90), the scoreboard (R76–R78), and
what each cycle in which the array advances does for the operations that run (R68, R69, R73, R75, R89).
-/

namespace Sys2Proof.Machine

/-! ### Units, chains and the scoreboard -/

/-- Accumulator slot of a unit, numbered as its `acc_mask` bit (R36, R72). -/
def unitSlot (u : Nat) : Nat := u % 2
/-- First row of a unit (R88). -/
def unitRow0 (large : Bool) (u : Nat) : Nat := if large then 0 else 32 * (u / 4)
/-- First column of a unit (R88). -/
def unitCol0 (large : Bool) (u : Nat) : Nat := if large then 0 else 32 * (u / 2 % 2)
/-- Rows and columns of a unit. -/
def unitSide (large : Bool) : Nat := if large then 64 else 32

/-- Key of a cell in a slot's table. -/
def accKey (slot row col : Nat) : Nat := 4096 * slot + 64 * row + col
/-- A unit's cell in its own coordinates. -/
def unitKey (large : Bool) (u r c : Nat) : Nat :=
  accKey (unitSlot u) (unitRow0 large u + r) (unitCol0 large u + c)

/-- Rows and columns of a square, row by row. -/
def cellsOf (n : Nat) : List (Nat × Nat) := (List.range n).flatMap fun r => (List.range n).map fun c => (r, c)

/-- Channel mode of a captured descriptor: none unless its kind is channel (R84, R95). -/
def chMode (d : List Byte) : Option Nat := if dbits d 3 0 = 2 then some (dbits d 195 192) else none
/-- The modes that accumulate into both slots (R97). -/
def bothSlots (d : List Byte) : Bool := chMode d = some 0 || chMode d = some 1 || chMode d = some 3

/-- Units an operation names; a pair drain reads both of its slots (R97, R98). -/
def opUnits (o : ArrayOp) : List Nat :=
  match o.kind with
  | .mmaReg q s _ _ _ => [2 * q + s]
  | .mmaDesc s _ d _ => if bothSlots d then [s, 1 - s] else [s]
  | .drain u _ _ _ pair => if pair then [u, 1 - u] else [u]
  | .fill u _ => [u]

/-- Two operations name a common cell of a slot. -/
def unitsOverlap (a b : ArrayOp) : Bool :=
  if a.large = b.large then (opUnits a).any fun u => (opUnits b).contains u
  else (opUnits a).any fun u => (opUnits b).any fun v => u % 2 = v % 2

/-- Drains and fills use the shadow chains (R76). -/
def usesChains (o : ArrayOp) : Bool :=
  match o.kind with
  | .drain .. => true
  | .fill .. => true
  | _ => false

/-- Half of the columns a small unit's chains serve (R90). -/
def chainHalf (o : ArrayOp) : Nat := ((opUnits o).headD 0) / 2 % 2
/-- Two operations take the same chains (R76, R90). -/
def chainsShared (a b : ArrayOp) : Bool :=
  usesChains a && usesChains b && (a.large || b.large || chainHalf a = chainHalf b)

/-- An accumulation may perform: earlier accumulations on its units are complete and earlier drains and
fills have copied (R77). -/
def mayAccumulate (ops : List ArrayOp) (o : ArrayOp) : Bool :=
  ops.all fun e => !(e.serial < o.serial) || !unitsOverlap e o || e.copied

/-- Shift cycles for which a drain or fill holds its chains: 64, and 128 for a pair drained with FP32 target (R73, R75,
R90, R98). -/
def chainCycles (o : ArrayOp) : Nat :=
  match o.kind with
  | .drain _ _ _ half pair => if pair && !half then 128 else 64
  | .fill .. => 64
  | _ => 0

/-- An operation's shifting is over: its drain's rows have left and passed the chains, or its fill has copied and left
(R77, R90). -/
def shifted (o : ArrayOp) : Bool :=
  match o.kind with
  | .drain .. => o.copied && o.run ≥ chainCycles o
  | _ => false

/-- The chains are free of earlier shifting (R75–R77, R90). -/
def chainsFree (ops : List ArrayOp) (o : ArrayOp) : Bool :=
  ops.all fun e => !(e.serial < o.serial) || !chainsShared e o || shifted e

/-- A drain may copy into the shadows (R76, R77). -/
def mayCopy (ops : List ArrayOp) (o : ArrayOp) : Bool := mayAccumulate ops o && chainsFree ops o

/-- Values of a unit's cells, keyed in unit coordinates as 64 × row + column. -/
def unitValues (t : Tile) (large : Bool) (u : Nat) : SMap W32 :=
  (cellsOf (unitSide large)).foldl (fun m rc => mput 0 m (64 * rc.1 + rc.2) (mgetD t.acc (unitKey large u rc.1 rc.2) 0)) []

/-- Put values into the shadows of a unit's cells (R72, R73). -/
def setShadow (t : Tile) (large : Bool) (u : Nat) (v : SMap W32) : Tile :=
  { t with shadow := (cellsOf (unitSide large)).foldl (fun m rc =>
      mput 0 m (64 * (unitRow0 large u + rc.1) + (unitCol0 large u + rc.2)) (mgetD v (64 * rc.1 + rc.2) 0)) t.shadow }

/-- Replace an operation in the scoreboard. -/
def putOp (ops : List ArrayOp) (old new : ArrayOp) : List ArrayOp := ops.map fun e => if e = old then new else e
/-- An operation leaves the scoreboard. -/
def dropOp (ops : List ArrayOp) (serial : Nat) : List ArrayOp := ops.filter fun e => e.serial ≠ serial

/-- A group's `ACC.WAIT` ends once every operation it names is complete (R78). -/
def releaseAccGroup (ops : List ArrayOp) (g : Group) : Group :=
  match g.wait with
  | .arrayOps ids => if ops.any fun o => ids.contains o.serial && !o.done then g else { g with wait := .none }
  | _ => g

/-- Release the tile's groups that wait for array operations (R78). -/
def releaseAcc (t : Tile) : Tile :=
  { t with blocks := t.blocks.map fun e => (e.1, { e.2 with groups := e.2.groups.map (releaseAccGroup t.ops) }) }

/-! ### Writes into local memory -/

/-- A gather that has not read its lists, or a product, keeps what a write replaces (R78, R196). -/
def ArrayOp.keepSeen (lm : SMap Byte) (bad : List Nat) (o : ArrayOp) : ArrayOp :=
  match o.kind with
  | .mmaDesc s z d seen => { o with kind := .mmaDesc s z d (seen ++ [(lm, bad)]) }
  | _ => o

/-- As `ArrayOp.keepSeen`, for a stream. -/
def Stream.keepSeen (lm : SMap Byte) (st : Stream) : Stream :=
  if st.kind = .gather && !st.outReady then { st with seen := st.seen ++ [lm] } else st

/-- Every write into a tile's local memory: who may see either content keeps the old one (R78, R196). -/
def Tile.setLm (t : Tile) (lm : SMap Byte) (bad : List Nat) : Tile :=
  { t with lm := lm, lmBad := bad, ops := t.ops.map (ArrayOp.keepSeen t.lm t.lmBad),
           streams := t.streams.map fun e => (e.1, e.2.keepSeen t.lm) }

/-- Source path of a tile's local memory (R367). -/
def lmSource (l : Nat) : W32 := sourcePath 0 l 1 0

/-- Report uncorrectable words the array met: counted toward the tenant, nothing freezes (R149, R430). -/
def State.arrayBad (s : State) (l tenant : Nat) (words : List Nat) : State :=
  words.foldl (fun s w =>
    (s.report (lmSource l) 1 0 (some tenant) (BitVec.ofNat 32 (16 * w / 2 ^ 13))).updTenant tenant fun t =>
      { t with nUncorrectable := satAdd 32 t.nUncorrectable 1 }) s

/-! ### Drains and fills, row by row -/

/-- Bytes of a row of a drained unit (R73). -/
def rowBytes (large half : Bool) : Nat := unitSide large * (if half then 2 else 4)

/-- The row of its unit that leaves or enters with shift cycle `n`, if one does: a drain's array row 64 − n, a fill's
array row n − 1 (R73, R75, R90). -/
def shiftRow (large fill : Bool) (u n : Nat) : Option Nat :=
  let i := if fill then (n - 1) % 64 else 63 - (n - 1) % 64
  if unitRow0 large u ≤ i && i < unitRow0 large u + unitSide large then some (i - unitRow0 large u) else none

/-- One drained element: the bits written and the conversion's flags; the random bits are those of its column's
B-feeder generator in this cycle (R73, R113, R116). -/
def drainElement (t : Tile) (gradient half : Bool) (col : Nat) (v : Nat) : Conv :=
  if !half then { bits := v, sat := false, nonfinite := false }
  else if gradient then convSr fp16 (decodeNum fp32 v) 13 (genBits t (128 + col) 13)
  else convRn fp16 (decodeNum fp32 v)

/-- Source values of row `r` as shift cycle `n` of a drain writes them: a pair's sum and compensation are added for an
FP16 target, and leave one after the other for an FP32 one (R98; log 22). -/
def drainSource (o : ArrayOp) (half pair : Bool) (n r c : Nat) : Nat :=
  let h := (mgetD o.held (64 * r + c) 0).toNat
  let h2 := (mgetD o.held2 (64 * r + c) 0).toNat
  if pair && half then (arrayAdd h h2).bits else if n > 64 then h2 else h

/-- A drain's row is written, counted and flagged (R73, R78, R98, R111, R131): from its cycle on a load sees it, and a store
before that cycle is overwritten (log 22). -/
def drainRow (s : State) (l : Nat) (o : ArrayOp) (u dst : Nat) (gradient half pair : Bool) (n r : Nat) : State :=
  let t := tileAt s l
  let cs := (List.range (unitSide o.large)).map fun c =>
    let v := drainSource o half pair n r c
    (v, drainElement t gradient half (unitCol0 o.large u + c) v)
  let m := writeWords t.lm t.lmBad (dst + (if n > 64 then 16384 else 0) + r * rowBytes o.large half)
    (cs.flatMap fun e => leBytes (if half then 2 else 4) e.2.bits)
  let census (b : Block) : Block :=
    { b with census := cs.foldl (fun k e =>
        k.count (decodeNum fp32 e.1) (if half then fp16 else fp32) e.2.bits e.2.sat) b.census }
  let sats := (cs.filter fun e => e.2.sat).length
  let nf := (cs.filter fun e => e.2.nonfinite).length
  let t := (t.setLm m.1 m.2.1).flag (sats > 0) (nf > 0)
  let t := { t with blocks := t.blocks.map fun (e : Nat × Block) => if e.1 = o.slot then (e.1, census e.2) else e }
  (s.setTile l t).countConversions sats nf

/-- A fill takes a row; an uncorrectable word enters as NaNs and is reported (R75, R149). -/
def fillRow (s : State) (l tenant : Nat) (o : ArrayOp) (src r : Nat) : State × SMap W32 :=
  let t := tileAt s l
  let at_ (c : Nat) : Nat := src + r * rowBytes o.large false + 4 * c
  let value (c : Nat) : W32 :=
    if readBad t.lmBad (at_ c) 4 then BitVec.ofNat 32 (arithNan fp32 8 (at_ c) 0 0)
    else BitVec.ofNat 32 (leNat (readBytes t.lm (at_ c) 4))
  (s.arrayBad l tenant ((wordsOf (at_ 0) (rowBytes o.large false)).filter t.lmBad.contains),
   (List.range (unitSide o.large)).foldl (fun m c => mput 0 m (64 * r + c) (value c)) o.held)

/-! ### The array's cycle -/

/-- Change one operation of a tile's scoreboard. -/
def Tile.updOp (t : Tile) (serial : Nat) (f : ArrayOp → ArrayOp) : Tile :=
  { t with ops := t.ops.map fun o => if o.serial = serial then f o else o }

/-- A quadrant's product may make an accumulation at cell (0, 0) in this cycle: six cycles have passed since its issue,
the one ahead of it has made its last, and its unit is clear (R77, R89). -/
def mayInject (ops : List ArrayOp) (o : ArrayOp) (q : Nat) : Bool :=
  o.age + 1 ≥ 6 && ops.all fun e => !(e.serial < o.serial) ||
    (match e.kind with
     | .mmaReg q' _ _ _ _ => q' ≠ q || e.run ≥ 32
     | .mmaDesc .. => true
     | _ => !unitsOverlap e o || e.copied)

/-- The next cycle of an operation, on the scoreboard as the cycle found it (R68, R73, R75, R77, R89). -/
def advanceOp (l tenant : Nat) (ops : List ArrayOp) (s : State) (o : ArrayOp) : State :=
  let put (s : State) (f : ArrayOp → ArrayOp) : State := s.setTile l ((tileAt s l).updOp o.serial f)
  let s := put s fun o => { o with age := o.age + 1 }
  match o.kind with
  | .mmaReg q _ _ _ _ => if o.run > 0 || mayInject ops o q then put s fun o => { o with run := o.run + 1 } else s
  | .mmaDesc .. => s
  | .drain u dst gradient half pair =>
    if o.copied then
      let s := match shiftRow o.large false u (o.run + 1) with
        | some r => if o.run < chainCycles o then drainRow s l o u dst gradient half pair (o.run + 1) r else s
        | none => s
      put s fun o => { o with run := o.run + 1 }
    else if mayCopy ops o then
      let t := tileAt s l
      let v := unitValues t o.large u
      let v2 := if pair then unitValues t o.large (1 - u) else []
      (s.setTile l (setShadow t o.large u v)) |> fun s => put s fun o => { o with copied := true, held := v, held2 := v2 }
    else s
  | .fill u src =>
    if o.run < 64 && chainsFree ops o then
      match shiftRow o.large true u (o.run + 1) with
      | some r =>
        let x := fillRow s l tenant o src r
        put x.1 fun o => { o with run := o.run + 1, held := x.2 }
      | none => put s fun o => { o with run := o.run + 1 }
    else s

/-- Drop the operations that are complete and hold nothing (R78, R90). -/
def Tile.sweepOps (t : Tile) : Tile := { t with ops := t.ops.filter fun o => !(o.done && shifted o) }

/-- The array may lack an operand at a feeder: a product runs (R69). -/
def feederActive (ops : List ArrayOp) : Bool :=
  ops.any fun o => match o.kind with
    | .mmaDesc .. => true
    | _ => false

/-- A drain or fill has a row to hand over or take (R69). -/
def chainActive (ops : List ArrayOp) : Bool :=
  ops.any fun o => match o.kind with
    | .drain .. => o.copied && o.run < chainCycles o
    | .fill .. => o.run < 64 && chainsFree ops o
    | _ => false

/-- A cycle in which the array stands still: the freezes are counted and nothing moves (R69, R70, R81). -/
def frozenCycle (s : State) (l : Nat) (dry stuck : Bool) : State :=
  let t := tileAt s l
  s.setTile l { t with feederFreezes := satAdd 32 t.feederFreezes (b2n dry),
                       drainFreezes := satAdd 32 t.drainFreezes (b2n stuck) }

/-- One cycle of a tile's array. Whether a feeder lacks an operand, or the drain or fill its row, is open (R69; log 22);
such a cycle is counted and moves nothing (R69, R70, R81). -/
def arrayCycle (s : State) (l tenant : Nat) : State :=
  let t := tileAt s l
  if t.ops = [] then s
  else
    let choice := free s (2 ^ 40 + t.cycle.toNat)
    let dry : Bool := feederActive t.ops && choice % 2 = 1
    let stuck : Bool := chainActive t.ops && choice / 2 % 2 = 1
    if dry || stuck then frozenCycle s l dry stuck
    else
      let s := t.ops.foldl (advanceOp l tenant t.ops) s
      s.setTile l (tileAt s l).sweepOps

/-- A cycle that a command reports as a freeze of the feeders or of the chains: an ordinary cycle where none of these can
freeze (R69; log 22). -/
def reportedFreeze (dry stuck : Bool) (s : State) (l tenant : Nat) : State :=
  let ops := (tileAt s l).ops
  let d := dry && feederActive ops
  let c := stuck && chainActive ops
  if d || c then frozenCycle s l d c else arrayCycle s l tenant

end Sys2Proof.Machine
end

