-- ==== Sys2Proof/Machine/Operands.lean ====
section
/-!
DEFINITION. Instruction issue and operand forms: a tile's cycles (R50, R115), which group may issue
(R41), the field checks (R55, R59, R60), registers (R34), paths (R43, R44), and precise freezing of a
group (R62).
-/

namespace Sys2Proof.Machine

/-! ### Cycles of a tile island -/

/-- A block is frozen: a record names it (R50). -/
def blockFrozen (s : State) (tenant tile slot : Nat) : Bool := isFrozen s tenant (blockMaster tile slot)

/-- The lowest program counter of a list of paths. -/
def lowestPath (ps : List ThreadPath) : Option ThreadPath :=
  match ps with
  | [] => none
  | p :: rest =>
    match lowestPath rest with
    | some q => if q.pc < p.pc then some q else some p
    | none => some p

/-- Program counter a freeze of a group records: that of the path it would issue (R62). -/
def Group.pc (g : Group) : Nat := ((lowestPath g.paths).map ThreadPath.pc).getD 0

/-- Threads parked in a group. -/
def Group.parkedMask (g : Group) : W32 := g.parked.foldl (fun m p => m ||| p.mask) 0

/-- End of one tile cycle for the barrier watchdogs: each running one counts (R50). -/
def tickBlock (frozen : Bool) (b : Block) : Block :=
  if b.watchRunning && !frozen then { b with watchCount := b.watchCount + 1 } else b

/-- Blocks whose watchdog has reached its limit and that are not frozen yet. -/
def expired (s : State) (tenant tile : Nat) (bs : SMap Block) : List (Nat × Block) :=
  bs.filter fun e => e.2.watchRunning && e.2.watchCount ≥ e.2.launch.params.watchdog &&
    !blockFrozen s tenant tile e.1

/-- The freeze record of a block (R50, R365). -/
def blockFreeze (tile slot : Nat) (b : Block) : FreezeRec :=
  { freezeRec (blockMaster tile slot) 0x02 0 with
    blockId := b.launch.params.blockId,
    pc := ((b.groups.filter fun g => !g.ended).map Group.pc).head?.getD 0 }

/-- One tile cycle ends: generators advance (R115), the array has its cycle, running watchdogs count, and a block
whose watchdog reaches its limit freezes with BARRIER_TIMEOUT (R50, R51). -/
def cycleWith (array : State → Nat → Nat → State) (s : State) (l : Nat) : State :=
  let t := tileAt s l
  let s := s.setTile l { t with cycle := t.cycle + 1, gens := t.gens.map genStep, issued := [] }
  match ownerOf s l with
  | none => s
  | some tenant =>
    let s := array s l tenant
    let t := tileAt s l
    let bs := t.blocks.map fun e => (e.1, tickBlock (blockFrozen s tenant l e.1) e.2)
    let s1 := s.setTile l { t with blocks := bs }
    (expired s1 tenant l bs).foldl (fun s e => s.freeze tenant (blockFreeze l e.1 e.2)) s1

/-- One tile cycle (R68–R70). -/
def tickOnce (s : State) (l : Nat) : State := cycleWith arrayCycle s l

/-- `n` tile cycles in which feeders or chains freeze, as a command reports. -/
def stall (dry stuck : Bool) (s : State) (l n : Nat) : State :=
  match n with
  | 0 => s
  | k + 1 => stall dry stuck (cycleWith (reportedFreeze dry stuck) s l) l k

/-- `n` tile cycles. -/
def tick (s : State) (l n : Nat) : State :=
  match n with
  | 0 => s
  | k + 1 => tick (tickOnce s l) l k

/-- The cycles that pass to the end of an array operation: those in which it met freezes, then `n` more (R69; log 22). -/
def arrayTicks (s : State) (l feederFreezes drainFreezes n : Nat) : State :=
  tick (stall false true (stall true false s l feederFreezes) l drainFreezes) l n

/-! ### Issue -/

/-- An issuing instruction: state after the elapsed cycles, tenant, tile, block, group, path. -/
structure Ctx where
  s : State
  tenant : Nat
  l : Nat
  slot : Nat
  gi : Nat
  port : Nat
  tile : Tile
  block : Block
  group : Group
  path : ThreadPath

/-- The group an `Issue` names, when nothing but the issue ports holds it back (R41): the module is in
service, the tile has an owner and is in no reset, the block is resident and not frozen, the group has not ended, is not
frozen, waits for nothing and has a schedulable path. -/
def groupCtx (s0 : State) (i : Issue) : Option Ctx :=
  let s := (tick s0 i.tile i.elapsed).redraw
  let t := tileAt s i.tile
  match ownerOf s i.tile, mget t.blocks i.slot with
  | some tenant, some b =>
    match b.groups[i.group]? with
    | some g =>
      match lowestPath g.paths with
      | some p =>
        if inService s && g.wait = .none && !g.ended && !t.reloading && !tileResetting s i.tile &&
            !blockFrozen s tenant i.tile i.slot &&
            !isFrozen s tenant (groupMaster i.tile i.slot i.group) then
          some { s := s, tenant := tenant, l := i.tile, slot := i.slot, gi := i.group, port := i.port,
                 tile := t, block := b, group := g, path := p }
        else none
      | none => none
    | none => none
  | _, _ => none

/-- A port of the two is free in this cycle, and the group has not issued in it (R41). -/
def portFree (c : Ctx) : Bool :=
  c.port < 2 && !(c.tile.issued.any fun x => x.1 = c.port || (x.2.1 = c.slot && x.2.2 = c.gi))

/-- The group an `Issue` names, when it may issue on the port it names (R41). -/
def ctxOf (s : State) (i : Issue) : Option Ctx :=
  match groupCtx s i with
  | some c => if portFree c then some c else none
  | none => none

/-- Run an instruction that issues; one that may not issue changes nothing (log 8). -/
def issue (s : State) (i : Issue) (k : Ctx → State) : State :=
  match ctxOf s i with
  | some c => k c
  | none => s

/-- Run an instruction of the array's scoreboard: of two that issue in one cycle the one on port 0 is the earlier, so it
does not follow an instruction of that cycle on port 1 (R76; log 67). -/
def issueArray (s : State) (i : Issue) (k : Ctx → State) : State :=
  issue s i fun c => if c.port = 0 && c.tile.issued.any fun x => x.1 = 1 then s else k c

/-- Put a group back into its block. -/
def Block.setGroup (b : Block) (i : Nat) (g : Group) : Block := { b with groups := updateAt b.groups i fun _ => g }

/-- Mark the issue slot used and the group as the one that issued last (R41). -/
def Ctx.markTile (c : Ctx) (t : Tile) (b : Block) (g : Group) : Tile :=
  let g := { g with lastIssue := t.cycle.toNat }
  { t with issued := (c.port, c.slot, c.gi) :: t.issued,
           blocks := mset t.blocks c.slot (b.setGroup c.gi g) }

/-- Merge paths whose program counters are equal (R43). -/
def mergePath (ps : List ThreadPath) (p : ThreadPath) : List ThreadPath :=
  if p.mask = 0 then ps
  else
    match ps with
    | [] => [p]
    | q :: rest => if q.pc = p.pc then { q with mask := q.mask ||| p.mask } :: rest else q :: mergePath rest p

/-- Replace the issuing path by others. -/
def Group.replacePath (g : Group) (p : ThreadPath) (new : List ThreadPath) : Group :=
  { g with paths := new.foldl mergePath (g.paths.filter fun q => q.pc ≠ p.pc) }

/-- Advance the issuing path past its instruction (R57: 8 bytes); the counter does not wrap (log 126). -/
def Group.advance (g : Group) (p : ThreadPath) : Group := g.replacePath p [{ p with pc := p.pc + 8 }]

/-- The instruction completes: its tile, block and group replace the old ones and its path advances. -/
def Ctx.finish (c : Ctx) (t : Tile) (b : Block) (g : Group) : State :=
  c.s.setTile c.l (c.markTile t b (g.advance c.path))

/-- The instruction completes with only its group changed. -/
def Ctx.done (c : Ctx) (g : Group) : State := c.finish c.tile c.block g

/-- The instruction leaves its path as `g` has it. -/
def Ctx.keep (c : Ctx) (t : Tile) (b : Block) (g : Group) : State := c.s.setTile c.l (c.markTile t b g)

/-- Freeze a group precisely: its instruction has no effect, and its pc, masks and registers stay (R62,
R365). -/
def Ctx.freezeGroup (c : Ctx) (cause address : Nat) : State :=
  (c.s.setTile c.l c.tile).freeze c.tenant
    { freezeRec (groupMaster c.l c.slot c.gi) cause address with
      pc := c.path.pc, blockId := c.block.launch.params.blockId,
      live := c.group.live, parked := c.group.parkedMask }

/-- Freeze the issuing group; the issue slot is used. -/
def Ctx.freeze (c : Ctx) (cause address : Nat) : State :=
  { c with tile := { c.tile with issued := (c.port, c.slot, c.gi) :: c.tile.issued } }.freezeGroup cause address

/-! ### Fields (R57–R60) -/

/-- The registers and bits an opcode uses. Spaces: 0 unused, 1 thread, 2 uniform, 3 predicate, 4 array
descriptor, 5 fragment. `uniformB` lets bit 15 of `mod` make `src_b` uniform; `types` lists the
operand types the opcode operates on, empty where it uses none; `mod` masks the bits it uses. -/
structure Use where
  dst : Nat := 0
  a : Nat := 0
  b : Nat := 0
  c : Nat := 0
  uniformB : Bool := false
  types : List Nat := []
  mod : Nat := 0
  imm : Bool := false
  deriving DecidableEq, Repr

/-- Field content that R59 makes illegal: an unused field that is not zero, a type the opcode does
not operate on, a modifier bit it does not use, bit 15 among them where `src_b` is unused or always uniform (log 124), an
immediate it has no form for. -/
def fieldsIllegal (u : Use) (f : Fields) : Bool :=
  (u.dst = 0 && f.dst ≠ 0) || (u.a = 0 && f.srcA ≠ 0) ||
  (u.b = 0 && f.srcB ≠ 0) || (u.c = 0 && f.srcC ≠ 0) ||
  (if u.types = [] then f.ty ≠ 0 else !u.types.contains f.ty.toNat) ||
  (f.imm.isSome && (!u.imm || f.srcB ≠ 0 || f.srcC ≠ 0 || f.mod ≠ 0)) ||
  (f.mod &&& ~~~(BitVec.ofNat 16 (u.mod + if u.uniformB then 2 ^ 15 else 0))) ≠ 0

/-- A register field names a register its space does not have (R60). -/
def regBad (space regs : Nat) (v : Byte) : Bool :=
  match space with
  | 1 => v ≠ 255 && v.toNat ≥ regs
  | 2 => v.toNat > 63
  | 3 => v.toNat > 7
  | 4 => v.toNat > 15
  | 5 => v.toNat + 16 > regs
  | _ => false

/-- Space of `src_b`: uniform where bit 15 of `mod` says so (R57). -/
def bSpace (u : Use) (f : Fields) : Nat := if u.uniformB && f.mod.getLsbD 15 then 2 else u.b

/-- REGISTER_BOUNDS of R60. An immediate form names no `src_b`. -/
def fieldsOutOfBounds (u : Use) (regs : Nat) (f : Fields) : Bool :=
  regBad u.dst regs f.dst || regBad u.a regs f.srcA ||
  (!f.imm.isSome && regBad (bSpace u f) regs f.srcB) || regBad u.c regs f.srcC

/-- Check an instruction's fields, then run it (R59, R60): of two that fail the illegal encoding counts (log 124). -/
def Ctx.checked (c : Ctx) (u : Use) (f : Fields) (k : State) : State :=
  if fieldsIllegal u f then c.freeze 0x04 0
  else if fieldsOutOfBounds u c.block.launch.params.regs f then c.freeze 0x05 0
  else k

/-- Guard rule of the once-per-issue instructions: p7 unnegated (R49, R55). -/
def guardAlways (f : Fields) : Bool := f.guard = 7 && !f.guardNeg

/-- Check of a once-per-issue instruction (R55, R59, R60). -/
def Ctx.checkedOnce (c : Ctx) (u : Use) (f : Fields) (k : State) : State :=
  if !guardAlways f then c.freeze 0x04 0 else c.checked u f k

/-! ### Registers -/

/-- Thread register of a lane: t255 reads zero (R34). -/
def readReg (g : Group) (r : Byte) (lane : Nat) : W32 :=
  if r = 255 then 0 else mgetD g.regs (32 * r.toNat + lane) 0

/-- Write a thread register of a lane: a write of t255 is discarded (R34). -/
def writeReg (g : Group) (r : Byte) (lane : Nat) (v : W32) : Group :=
  if r = 255 then g else { g with regs := mput 0 g.regs (32 * r.toNat + lane) v }

/-- Uniform register (R34). -/
def readU (g : Group) (r : Byte) : W32 := mgetD g.uregs r.toNat 0
/-- Write a uniform register. -/
def writeU (g : Group) (r : Byte) (v : W32) : Group := { g with uregs := mput 0 g.uregs r.toNat v }

/-- Lane `i` is in a mask. -/
def inMask (m : W32) (i : Nat) : Bool := m.getLsbD i

/-- Lanes of a mask, ascending. -/
def lanesOf (m : W32) : List Nat := (List.range 32).filter fun i => inMask m i

/-- Lanes that execute a per-thread instruction: active and with a true guard (R44). -/
def Ctx.lanes (c : Ctx) (f : Fields) : W32 := c.path.mask &&& guardMask c.group f

/-- Second source of a lane: immediate, uniform or thread register (R57). -/
def operandB (g : Group) (f : Fields) (lane : Nat) : W32 :=
  match f.imm with
  | some v => v
  | none => if f.mod.getLsbD 15 then readU g f.srcB else readReg g f.srcB lane

/-- Write one result per executing lane, all operands read before any result is written. -/
def writeLanes (g : Group) (dst : Byte) (mask : W32) (value : Nat → W32) : Group :=
  (lanesOf mask).foldl (fun h i => writeReg h dst i (value i)) g

/-- A per-thread instruction that writes one thread register per executing lane. -/
def laneOp (s : State) (i : Issue) (u : Use) (f : Fields) (value : Ctx → Nat → W32) : State :=
  issue s i fun c =>
    c.checked u f (c.done (writeLanes c.group f.dst (c.lanes f) (value c)))

/-- A 64-bit value in a register pair, low register first (R152; log 15). -/
def readPair (g : Group) (r : Byte) (lane : Nat) : Nat :=
  (readReg g r lane).toNat + 2 ^ 32 * (readReg g (if r = 255 then 255 else r + 1) lane).toNat

/-- Both registers of a pair exist (R60). -/
def pairBad (regs : Nat) (v : Byte) : Bool := v ≠ 255 && v.toNat + 1 ≥ regs

end Sys2Proof.Machine
end

