-- ==== Sys2Proof/Machine/Arith.lean ====
section
/-!
DEFINITION. Classes 0x0 to 0x7: arithmetic, logic, compare, special functions, conversion and moves
(R58, R61, R109–R113, R116).
-/

namespace Sys2Proof.Machine

/-! ### Integer arithmetic (class 0x0) -/

/-- Fields of an integer operation: types U32 and I32 (R57, R58). -/
def useInt (op : IntOp) : Use :=
  match op with
  | .mad => { dst := 1, a := 1, b := 1, c := 1, uniformB := true, types := [0, 1] }
  | _ => { dst := 1, a := 1, b := 1, uniformB := true, types := [0, 1], imm := true }

/-- An integer result; min and max order by the operand type (R57, R58). -/
def intResult (op : IntOp) (isSigned : Bool) (a b c : W32) : W32 :=
  match op with
  | .add => a + b
  | .sub => a - b
  | .mul => a * b
  | .mad => a * b + c
  | .min => if isSigned then (if b.slt a then b else a) else (if b < a then b else a)
  | .max => if isSigned then (if a.slt b then b else a) else (if a < b then b else a)

/-- INTEGER_ARITHMETIC (R58). -/
def execIntegerArithmetic (i : Issue) (op : IntOp) (f : Fields) (s : State) :
    Host.Outcome State Fault Refusal :=
  .next <| laneOp s i (useInt op) f fun c lane =>
    intResult op (f.ty = 1) (readReg c.group f.srcA lane) (operandB c.group f lane)
      (readReg c.group f.srcC lane)

/-! ### FP32 and packed FP16 (classes 0x1 and 0x2) -/

/-- Fields of a floating operation on operand type `ty` (R57, R58). -/
def useFp (op : FpOp) (ty : Nat) : Use :=
  match op with
  | .fma => { dst := 1, a := 1, b := 1, c := 1, uniformB := true, types := [ty] }
  | .abs => { dst := 1, a := 1, types := [ty] }
  | _ => { dst := 1, a := 1, b := 1, uniformB := true, types := [ty], imm := true }

/-- A lane operation in one format (R109). -/
def fpResult (fm : Fmt) (op : FpOp) (a b c : Nat) : Nat :=
  match op with
  | .add => laneAdd fm a b
  | .mul => laneMul fm a b
  | .fma => laneFma fm a b c
  | .min => laneMin fm a b
  | .max => laneMax fm a b
  | .abs => laneAbs fm a

/-- FP32_ARITHMETIC (R109). -/
def execFp32Arithmetic (i : Issue) (op : FpOp) (f : Fields) (s : State) :
    Host.Outcome State Fault Refusal :=
  .next <| laneOp s i (useFp op 2) f fun c lane =>
    BitVec.ofNat 32 (fpResult fp32 op (readReg c.group f.srcA lane).toNat
      (operandB c.group f lane).toNat (readReg c.group f.srcC lane).toNat)

/-- The same operation on both halves of a register (R58, R109). -/
def packedResult (op : FpOp) (a b c : W32) : W32 :=
  let half (k : Nat) := fpResult fp16 op (bits a.toNat (k + 15) k) (bits b.toNat (k + 15) k)
    (bits c.toNat (k + 15) k)
  BitVec.ofNat 32 (half 0 + 2 ^ 16 * half 16)

/-- PACKED_FP16_ARITHMETIC (R109). -/
def execPackedFp16Arithmetic (i : Issue) (op : FpOp) (f : Fields) (s : State) :
    Host.Outcome State Fault Refusal :=
  .next <| laneOp s i (useFp op 3) f fun c lane =>
    packedResult op (readReg c.group f.srcA lane) (operandB c.group f lane)
      (readReg c.group f.srcC lane)

/-! ### Logic, shift and bit fields (class 0x3) -/

/-- Fields of a logic operation (R57, R58; its types: log 124). -/
def useLogic (op : LogicOp) : Use :=
  match op with
  | .not => { dst := 1, a := 1, types := [0, 1] }
  | .bfe _ _ => { dst := 1, a := 1, types := [0, 1] }
  | _ => { dst := 1, a := 1, b := 1, uniformB := true, types := [0, 1], imm := true }

/-- A logic result. A shift by 32 or more, and a field that is empty or leaves the register, have no
stated result: a free value `open_` (log 12). -/
def logicResult (op : LogicOp) (isSigned : Bool) (a b : W32) (open_ : Nat) : W32 :=
  match op with
  | .and => a &&& b
  | .or => a ||| b
  | .xor => a ^^^ b
  | .not => ~~~a
  | .shl => if b.toNat < 32 then a <<< b.toNat else BitVec.ofNat 32 open_
  | .shr =>
    if b.toNat < 32 then (if isSigned then a.sshiftRight b.toNat else a >>> b.toNat)
    else BitVec.ofNat 32 open_
  | .bfe pos len =>
    if 0 < len && pos + len ≤ 32 then
      let v := bits a.toNat (pos + len - 1) pos
      if isSigned then BitVec.ofInt 32 (signed len v) else BitVec.ofNat 32 v
    else BitVec.ofNat 32 open_
  | .bfi pos len =>
    if 0 < len && pos + len ≤ 32 then
      let m := BitVec.ofNat 32 ((2 ^ len - 1) * 2 ^ pos)
      (a &&& ~~~m) ||| ((b <<< pos) &&& m)
    else BitVec.ofNat 32 open_

/-- LOGIC_SHIFT_BITFIELD (R58). -/
def execLogicShiftBitfield (i : Issue) (op : LogicOp) (f : Fields) (s : State) :
    Host.Outcome State Fault Refusal :=
  .next <| laneOp s i (useLogic op) f fun c lane =>
    logicResult op (f.ty = 1) (readReg c.group f.srcA lane) (operandB c.group f lane) (free c.s lane)

/-! ### Compare and predicate set (class 0x4) -/

/-- Fields of a compare: the destination is a predicate (R57, R58; its types: log 124). -/
def useCmp : Use := { dst := 3, a := 1, b := 1, uniformB := true, types := [0, 1, 2], imm := true }

/-- Less-than and equality in the operand type (R57); a NaN is neither. -/
def cmpLt (ty : Nat) (a b : W32) : Bool :=
  match ty with
  | 0 => a < b
  | 1 => a.slt b
  | _ => (decodeNum fp32 a.toNat).lt (decodeNum fp32 b.toNat) &&
    !(decodeNum fp32 a.toNat).eqv (decodeNum fp32 b.toNat)

/-- Equality in the operand type. -/
def cmpEq (ty : Nat) (a b : W32) : Bool :=
  if ty = 2 then (decodeNum fp32 a.toNat).eqv (decodeNum fp32 b.toNat) else a = b

/-- A comparison meets a NaN. -/
def cmpOpen (ty : Nat) (a b : W32) : Bool :=
  ty = 2 && ((decodeNum fp32 a.toNat).isNan || (decodeNum fp32 b.toNat).isNan)

/-- A comparison's truth; that of a floating comparison with a NaN is open (log 16). -/
def cmpResult (op : CmpOp) (ty : Nat) (a b : W32) (open_ : Nat) : Bool :=
  if cmpOpen ty a b then open_ % 2 = 1
  else match op with
  | .eq => cmpEq ty a b
  | .ne => !cmpEq ty a b
  | .lt => cmpLt ty a b
  | .le => cmpLt ty a b || cmpEq ty a b
  | .gt => cmpLt ty b a
  | .ge => cmpLt ty b a || cmpEq ty a b

/-- A mask with the lanes where `p` holds. -/
def maskWhere (p : Nat → Bool) : W32 :=
  (List.range 32).foldl (fun m i => if p i then m ||| (1 <<< i) else m) 0

/-- COMPARE_PREDICATE_SET (R58). -/
def execComparePredicateSet (i : Issue) (op : CmpOp) (f : Fields) (s : State) :
    Host.Outcome State Fault Refusal :=
  .next <| issue s i fun c =>
    c.checked useCmp f <|
      let truth := maskWhere fun lane =>
        cmpResult op f.ty.toNat (readReg c.group f.srcA lane) (operandB c.group f lane) (free c.s lane)
      c.done (c.group.setPred f.dst.toNat (c.lanes f) truth)

/-! ### Special functions (class 0x5) -/

/-- SPECIAL_FUNCTION (R109). -/
def execSpecialFunction (i : Issue) (fn : SpecialFn) (f : Fields) (s : State) :
    Host.Outcome State Fault Refusal :=
  .next <| laneOp s i { dst := 1, a := 1, types := [2] } f fun c lane =>
    BitVec.ofNat 32 (specialFn fn (readReg c.group f.srcA lane).toNat)

/-! ### Conversion (class 0x6) -/

/-- Fields of CVT.RN and CVT.SR (R61). -/
def useCvt : Use := { dst := 1, a := 1, b := 2, mod := 0xFF }

/-- Source format code: `mod[7:4]` (R61). -/
def cvtSrc (f : Fields) : Nat := bits f.mod.toNat 7 4
/-- Target format code: `mod[3:0]` (R61). -/
def cvtDst (f : Fields) : Nat := bits f.mod.toNat 3 0
/-- Scale operand k: `src_b`[7:0], signed (R61, R107). -/
def cvtScale (g : Group) (f : Fields) : Int := signed 8 (readU g f.srcB).toNat

/-- The scaled source of a conversion in one lane (R107). -/
def cvtSource (g : Group) (f : Fields) (lane : Nat) : Num :=
  (decodeNum (fmtOf (cvtSrc f)) ((readReg g f.srcA lane).toNat % 2 ^ (fmtOf (cvtSrc f)).width)).scale (cvtScale g f)

/-- Convert on every executing lane: results, flags, module counts and the block's census (R111,
R131). -/
def convertLanes (c : Ctx) (f : Fields) (conv : Nat → Num → Conv) : State :=
  let ls := lanesOf (c.lanes f)
  let fm := fmtOf (cvtDst f)
  let rs := ls.map fun lane => (lane, cvtSource c.group f lane, conv lane (cvtSource c.group f lane))
  let g := rs.foldl (fun g e => writeReg g f.dst e.1 (BitVec.ofNat 32 e.2.2.bits)) c.group
  let census := rs.foldl (fun n e => n.count e.2.1 fm e.2.2.bits e.2.2.sat) c.block.census
  let sats := (rs.filter fun e => e.2.2.sat).length
  let nonf := (rs.filter fun e => e.2.2.nonfinite).length
  (c.finish (c.tile.flag (sats > 0) (nonf > 0)) { c.block with census := census } g).countConversions sats nonf

/-- A conversion instruction; format codes 4 to 15 are reserved (R61, R105). -/
def convert (s : State) (i : Issue) (f : Fields) (conv : Ctx → Nat → Num → Conv) : State :=
  issue s i fun c =>
    if cvtSrc f > 3 || cvtDst f > 3 then c.freeze 0x04 0
    else c.checked useCvt f (convertLanes c f (conv c))

/-- CVT.RN (R61, R107, R110). -/
def execCvtRn (i : Issue) (f : Fields) (s : State) : Host.Outcome State Fault Refusal :=
  .next <| convert s i f fun _ _ x => convRn (fmtOf (cvtDst f)) x

/-- Gradient-tagged conversion with the top bits of a generator word (R112, R113, R116). -/
def convGradient (src dst : Fmt) (t : Tile) (gen : Nat) (x : Num) : Conv :=
  let n := srBits src dst
  if n = 0 then convRn dst x else convSr dst x n (genBits t gen n)

/-- CVT.SR: lane i of a group on port p draws from vector lane 32p + i (R113, R116). -/
def execCvtSr (i : Issue) (f : Fields) (s : State) : Host.Outcome State Fault Refusal :=
  .next <| convert s i f fun c lane x =>
    convGradient (fmtOf (cvtSrc f)) (fmtOf (cvtDst f)) c.tile (32 * c.port + lane) x

/-! ### Moves (class 0x7) -/

/-- MOV: a thread register or an immediate (R58; log 17). -/
def execMov (i : Issue) (f : Fields) (s : State) : Host.Outcome State Fault Refusal :=
  .next <| laneOp s i { dst := 1, a := if f.imm.isSome then 0 else 1, b := b2n f.imm.isSome, imm := true } f
    fun c lane =>
      match f.imm with
      | some v => v
      | none => readReg c.group f.srcA lane

/-- The value `MOV.U` moves into a uniform register: an immediate, or that of the executing lanes where they
agree and a free value where they differ; the register stays where every thread skips (R44; log 17). -/
def uniformValue (c : Ctx) (f : Fields) : W32 :=
  match lanesOf (c.lanes f) with
  | [] => readU c.group f.dst
  | lane :: rest =>
    match f.imm with
    | some v => v
    | none =>
      let v := readReg c.group f.srcA lane
      if rest.all fun j => readReg c.group f.srcA j = v then v else BitVec.ofNat 32 (free c.s 0)

/-- MOV.U (table row MOV_U). -/
def execMovU (i : Issue) (dir : UMove) (f : Fields) (s : State) : Host.Outcome State Fault Refusal :=
  .next <|
    match dir with
    | .toUniform =>
      issue s i fun c =>
        c.checked { dst := 2, a := if f.imm.isSome then 0 else 1, b := b2n f.imm.isSome, imm := true } f
          (c.done (writeU c.group f.dst (uniformValue c f)))
    | .fromUniform =>
      laneOp s i { dst := 1, a := 2 } f fun c _ => readU c.group f.srcA

/-- A special register of a thread (R35). -/
def specialReg (c : Ctx) (n lane : Nat) : W32 :=
  let p := c.block.launch.params
  match n with
  | 0x00 => BitVec.ofNat 32 lane
  | 0x01 => BitVec.ofNat 32 c.gi
  | 0x02 => p.blockId
  | 0x03 => BitVec.ofNat 32 c.l
  | 0x04 => BitVec.ofNat 32 c.tenant
  | 0x05 => BitVec.ofNat 32 p.lmBase
  | 0x06 => BitVec.ofNat 32 p.lmSize
  | 0x07 => c.group.live
  | 0x08 => c.path.mask
  | 0x09 => BitVec.ofNat 32 c.tile.cycle.toNat
  | _ => BitVec.ofNat 32 (c.tile.cycle.toNat / 2 ^ 32)

/-- MOV.SR: `src_a` is the special register's number; 0x0B and above are reserved (R35, R59). -/
def execMovSr (i : Issue) (f : Fields) (s : State) : Host.Outcome State Fault Refusal :=
  .next <| issue s i fun c =>
    if f.srcA.toNat > 0x0A then c.freeze 0x04 0
    else c.checked { dst := 1, a := 6 } f
      (c.done (writeLanes c.group f.dst (c.lanes f) fun lane => specialReg c f.srcA.toNat lane))

/-- SHFL: each executing lane reads `src_a` of the lane its second operand names, as that register
stands (R45; log 13). -/
def execShfl (i : Issue) (f : Fields) (s : State) : Host.Outcome State Fault Refusal :=
  .next <| laneOp s i { dst := 1, a := 1, b := 1, uniformB := true, imm := true } f fun c lane =>
    readReg c.group f.srcA ((operandB c.group f lane).toNat % 32)

/-- RAND: the top 32 bits of the executing lane's generator word (R116). -/
def execRand (i : Issue) (f : Fields) (s : State) : Host.Outcome State Fault Refusal :=
  .next <| laneOp s i { dst := 1 } f fun c lane => BitVec.ofNat 32 (genBits c.tile (32 * c.port + lane) 32)

/-- VOTE over the active threads (R45): `all` and `any` write predicate `dst`, `ballot` the mask of
active threads where predicate `src_a` is true into register `dst` (log 13). -/
def execVote (i : Issue) (mode : VoteMode) (f : Fields) (s : State) : Host.Outcome State Fault Refusal :=
  .next <| issue s i fun c =>
    c.checked { dst := if mode = .ballot then 1 else 3, a := 3 } f <|
      let hits := predMask c.group f.srcA.toNat &&& c.path.mask
      match mode with
      | .all => c.done (c.group.setPred f.dst.toNat (c.lanes f) (if hits = c.path.mask then 0xFFFFFFFF else 0))
      | .any => c.done (c.group.setPred f.dst.toNat (c.lanes f) (if hits = 0 then 0 else 0xFFFFFFFF))
      | .ballot => c.done (writeLanes c.group f.dst (c.lanes f) fun _ => hits)

end Sys2Proof.Machine
end

