-- ==== Sys2Proof/Machine/SetOps.lean ====
section
/-!
DEFINITION. What every unit needs of a parameter set: its frozen job (R226, R363), its attempt block
and what a write to it means (R235, R250), and the module's own accesses to tenant memory (R429).
-/

namespace Sys2Proof.Machine

/-- The set's spring-chip job is frozen. -/
def jobFrozen (s : State) (t p : Nat) : Bool := isFrozen s t (jobMaster p)

/-- `SetState` as it reads: 7 while the job is frozen; what a release of the job made it while the attempt's last rounds
still run (R241, R253, R355, R363). -/
def setStateRead (s : State) (t p : Nat) : Nat :=
  if jobFrozen s t p then 7 else (runAt s t p).releasedTo.getD (setAt s t p).state

/-- The set's job froze during the attempt (R246). -/
def jobTroubled (s : State) (t p : Nat) : Bool := jobFrozen s t p || (setAt s t p).jobFroze

/-- A set is off or paused (R253: 0, 5 or 8). -/
def setIdle (s : State) (t p : Nat) : Bool := let x := setStateRead s t p; x = 0 || x = 5 || x = 8

/-- Freeze a set's spring-chip job; one already frozen keeps its first record. -/
def State.freezeJob (s : State) (t p cause address : Nat) (layer : Option (Nat × List Byte)) : State :=
  if jobFrozen s t p then s
  else
    (s.updSet t p fun x => { x with jobFroze := true }).freeze t
      { freezeRec (jobMaster p) cause address with
        blockId := BitVec.ofNat 32 (setAt s t p).attempts,
        layer := layer.map Prod.fst, desc := (layer.map Prod.snd).getD [] }

/-- DPA of a block of the module's own in tenant memory, or the cause that stops the access: no
translation, no permission, or another slot (R429). -/
def ownBlock (s : State) (t va : Nat) (need : Need) : Trans :=
  match translateNow s t va need with
  | .ok b => if isLocal s b then .ok (boardDpa b) else .fail 0x21
  | .fail c => .fail c
  | .wait => .wait

/-- The state once every reset is over and every channel trained: what an access that waits will find (R187, R380). -/
def calm (s : State) : State :=
  { s with mem := { s.mem with retraining := [] }, service := { s.service with resets := [] } }

/-- DPA of a block of the module's own, whatever waits (R429). -/
def ownPlace (s : State) (t va : Nat) (need : Need) : Trans := ownBlock (calm s) t va need

/-- `n` bytes at a DPA lie in a scope that is being reset or a channel that retrains (R187, R381). -/
def dpaWaits (s : State) (d n : Nat) : Bool :=
  (wordsOf d n).any fun w => dpaResetting s (16 * w) || dpaRetraining s (16 * w)

/-- The set's job freezes at an own access that failed; what its walk met is counted and reported (R154, R190, R429,
R430). -/
def State.ownFail (s : State) (t p va cause : Nat) : State :=
  (s.noteWalk (walk s t va)).freezeJob t p cause va none

/-- An own access to `n` bytes of tenant memory waits for a scope that is being reset or a channel that retrains
(R187, R381). -/
def ownWaits (s : State) (t va n : Nat) : Bool :=
  match ownBlock s t va .r with
  | .wait => true
  | .ok d => dpaWaits s d n
  | .fail _ => false

/-- A DPA lies in a host-bias page (R301). -/
def hostBias (s : State) (a : Nat) : Bool :=
  match pageOf s.mem a with
  | some p => s.host.bias.contains p
  | none => false

/-- An access to `n` bytes first sends the host a request for each of its 64-byte lines that lies in a host-bias page
(R301, R302). -/
def State.touchBias (s : State) (a n : Nat) : State :=
  let lines := ((List.range ((a + n - 1) / 64 - a / 64 + 1)).map fun i => 64 * (a / 64 + i)).filter (hostBias s)
  if s.host.hdmCommitted && 0 < n then
    s.updHost fun h => { h with biasRequests := h.biasRequests ++ lines.map (h.hdmBase + ·) }
  else s

/-- Read `n` bytes at an offset of the attempt block. -/
def attRead (s : State) (t p off n : Nat) : Nat :=
  match ownPlace s t (setAt s t p).attBlock .r with
  | .ok d => leNat (dpaBytes s (d + off) n)
  | _ => 0

/-- Write `n` bytes at an offset of the attempt block; a block that is not reachable freezes the job
(R429). -/
def State.attWrite (s : State) (t p off n v : Nat) : State :=
  match ownPlace s t (setAt s t p).attBlock .rw with
  | .ok d => ((s.touchBias (d + off) n).writeDpa (d + off) (leBytes n v)).1
  | .fail c => s.ownFail t p (setAt s t p).attBlock c
  | .wait => s

/-- A set's own limit: 140,000 spring-chip cycles after its previous attempt opened (R237). -/
def ownLimit (s : State) (t p : Nat) : Nat :=
  let r := runAt s t p
  if r.everOpened then r.openedAt + 140000 else 0

/-- Put a set that runs no attempt of its own into a state; one whose last rounds still run passes to it with them
(R241, R363). -/
def State.rest (s : State) (t p v : Nat) : State :=
  if (runAt s t p).releasedTo.isSome then s.updRun t p fun r => { r with releasedTo := some v }
  else s.updSet t p fun x => { x with state := v }

/-- Ask for the set's next attempt to open; pacing grants it from when the set is ready (R236, R237,
R250). -/
def State.wantOpen (s : State) (t p : Nat) : State :=
  if s.globals.openQueue.contains (t, p) then s
  else
    (s.updGlobals fun g => { g with openQueue := g.openQueue ++ [(t, p)] }).updRun t p fun r =>
      { r with readyAt := max s.globals.springNow (ownLimit s t p) }

/-- The parts' reports as the block holds them; in an open attempt a bit outside `part_mask` freezes the job (R235, R238,
R249, R253). -/
def State.takeArrivals (s : State) (t p : Nat) (a : BitVec 256) : State :=
  let s := s.updSet t p fun x => { x with arrivals := a }
  if (setAt s t p).state = 1 && a &&& ~~~(setAt s t p).partMask ≠ 0 then s.freezeJob t p 0x80 0 none else s

/-- A request to abandon the open attempt: taken before this module contributed (R235, R249). -/
def State.askAbort (s : State) (t p attempt : Nat) : State :=
  let x := setAt s t p
  if x.state = 1 && !x.contributed && attempt = x.attempts && x.forced = 0 then
    s.updSet t p fun x => { x with forced := 3 }
  else s

/-- A request to resume a paused set (R235, R250). -/
def State.askResume (s : State) (t p v : Nat) : State :=
  if setStateRead s t p = 5 && v = (runAt s t p).outcomeAttempt + 1 then s.wantOpen t p else s

/-- The stack controller reports a write that touches an attempt block (R235). -/
def noticeBlock (s : State) (t p d a n : Nat) : State :=
  let field (off : Nat) : Nat := leNat (dpaBytes s (d + off) 8)
  let s1 := if overlaps (d + 64) 32 a n then
      s.takeArrivals t p (BitVec.ofNat 256 (leNat (dpaBytes s (d + 64) 32)))
    else s
  let s2 := if overlaps (d + 56) 8 a n then s1.askAbort t p (field 56) else s1
  if overlaps (d + 48) 8 a n then s2.askResume t p (field 48) else s2

/-- After a tenant's write of `n` bytes at DPA `a`: each of its attempt blocks the write touches is
reported (R235). -/
def State.noticeWrite (s : State) (t a n : Nat) : State :=
  [0, 1, 2, 3].foldl
    (fun s p =>
      if (setAt s t p).attBlock = 0 then s
      else
        match ownPlace s t (setAt s t p).attBlock .r with
        | .ok d => if overlaps d 128 a n then noticeBlock s t p d a n else s
        | _ => s) s

end Sys2Proof.Machine
end

