-- ==== Sys2Proof/Machine/ThreadMem.lean ====
section
/-!
DEFINITION. Classes 0x8 and 0x9, `DLD`, memory responses and instruction fetch (R61, R147–R152,
R162, R174–R176, R276).
-/

namespace Sys2Proof.Machine

/-! ### Local memory -/

/-- Bytes of an access size. -/
def sizeBytes (z : Size) : Nat :=
  match z with
  | .b1 => 1
  | .b2 => 2
  | .b4 => 4
  | .b8 => 8

/-- An address rounded down to the access size (R175). -/
def roundDown (a n : Nat) : Nat := a - a % n

/-- A range lies inside a block's window (R36). -/
def inWindow (p : BlockParams) (a n : Nat) : Bool := p.lmBase ≤ a && a + n ≤ p.lmBase + p.lmSize

/-- Report what an access to local memory found: marks and corrected words (R149, R368). -/
def Ctx.ecc (c : Ctx) (e : Ecc) : Ctx :=
  let t := { c.tile with lmBad := markBad c.tile.lmBad e.bad }
  let s := e.corrected.foldl
    (fun s a => s.report (lmSource c.l) 0 0 (some c.tenant) (BitVec.ofNat 32 (a / 2 ^ 13))) c.s
  { c with tile := t, s := s.setTile c.l t }

/-- Freeze the group for uncorrectable local memory: an uncorrectable report by the local memory and
the freeze (R149, R430). -/
def Ctx.freezeLm (c : Ctx) (a : Nat) : State :=
  { c with s := c.s.report (lmSource c.l) 1 0 (some c.tenant) (BitVec.ofNat 32 (a / 2 ^ 13)) }.freeze 0x22 a

/-- Insert a lane by its free key. -/
def insertLane (key : Nat → Nat) (l : List Nat) (i : Nat) : List Nat :=
  match l with
  | [] => [i]
  | j :: rest => if key i < key j then i :: j :: rest else j :: insertLane key rest i

/-- The order in which the lanes of one store or atomic perform: open (R176; log 18). -/
def laneOrder (s : State) (mask : W32) : List Nat :=
  (lanesOf mask).foldl (insertLane fun i => free s (100 + i)) []

/-- The value of a load in a lane register: the bytes below, the rest open for a narrow load (log 14). -/
def loadValue (z : Size) (v : Nat) (open_ : Nat) : W32 :=
  match z with
  | .b1 => BitVec.ofNat 32 (v % 2 ^ 8 + 2 ^ 8 * open_)
  | .b2 => BitVec.ofNat 32 (v % 2 ^ 16 + 2 ^ 16 * open_)
  | _ => BitVec.ofNat 32 v

/-- Write a loaded value: one register, or a pair for 8 bytes, low first. -/
def writeLoaded (g : Group) (dst : Byte) (lane : Nat) (z : Size) (v open_ : Nat) : Group :=
  let g := writeReg g dst lane (loadValue z v open_)
  if z = .b8 && dst ≠ 255 then writeReg g (dst + 1) lane (BitVec.ofNat 32 (v / 2 ^ 32)) else g

/-- Check of the registers of an access: pairs where 8 bytes move (R60). -/
def pairsBad (regs : Nat) (z : Size) (rs : List Byte) : Bool := z = .b8 && rs.any (pairBad regs)

/-- Tile offset a lane addresses in class 0x8. -/
def lmAddress (g : Group) (f : Fields) (z : Size) (lane : Nat) : Nat :=
  roundDown (readReg g f.srcA lane).toNat (sizeBytes z)

/-- First lane of a list that satisfies a test. -/
def firstLane (ls : List Nat) (p : Nat → Bool) : Option Nat := ls.find? p

/-- LOCAL_MEMORY_LOAD (R147, R149). -/
def execLocalMemoryLoad (i : Issue) (z : Size) (f : Fields) (ecc : Ecc) (s : State) :
    Host.Outcome State Fault Refusal :=
  .next <| issue s i fun c0 =>
    let c := c0.ecc ecc
    let p := c.block.launch.params
    let ls := lanesOf (c.lanes f)
    let adr := lmAddress c.group f z
    c.checked { dst := 1, a := 1 } f <|
      if pairsBad p.regs z [f.dst] then c.freeze 0x05 0
      else
        match firstLane ls fun n => !inWindow p (adr n) (sizeBytes z) with
        | some n => c.freeze 0x07 (adr n)
        | none =>
          match firstLane ls fun n => readBad c.tile.lmBad (adr n) (sizeBytes z) with
          | some n => c.freezeLm (adr n)
          | none =>
            c.done (ls.foldl (fun g n =>
              writeLoaded g f.dst n z (leNat (readBytes c.tile.lm (adr n) (sizeBytes z))) (free c.s n)) c.group)

/-- Value a store writes: a register, or a pair for 8 bytes. -/
def storeValue (g : Group) (r : Byte) (z : Size) (lane : Nat) : Nat :=
  if z = .b8 then readPair g r lane else (readReg g r lane).toNat

/-- LOCAL_MEMORY_STORE (R147, R149, R176). -/
def execLocalMemoryStore (i : Issue) (z : Size) (f : Fields) (ecc : Ecc) (s : State) :
    Host.Outcome State Fault Refusal :=
  .next <| issue s i fun c0 =>
    let c := c0.ecc ecc
    let p := c.block.launch.params
    let ls := laneOrder c.s (c.lanes f)
    let adr := lmAddress c.group f z
    c.checked { a := 1, b := 1 } f <|
      if pairsBad p.regs z [f.srcB] then c.freeze 0x05 0
      else
        match firstLane ls fun n => !inWindow p (adr n) (sizeBytes z) with
        | some n => c.freeze 0x07 (adr n)
        | none =>
          match firstLane ls fun n => readBad c.tile.lmBad (adr n) (sizeBytes z) with
          | some n => c.freezeLm (adr n)
          | none =>
            let m := ls.foldl (fun m n =>
              writeBytes m (adr n) (leBytes (sizeBytes z) (storeValue c.group f.srcB z n))) c.tile.lm
            c.finish (c.tile.setLm m c.tile.lmBad) c.block c.group

/-! ### Atomics (R175) -/

/-- Operand types an atomic accepts: add, min and max by type; the rest untyped; 64-bit integers. -/
def atomTypes (op : AtomOp) (wide : Bool) : List Nat :=
  match op with
  | .add | .min | .max => if wide then [0, 1] else [0, 1, 2]
  | _ => [0, 1]

/-- New value of an atomic on `w`-bit operands (R175). -/
def atomResult (op : AtomOp) (ty : Nat) (w : Nat) (old v cmp : Nat) : Nat :=
  match op with
  | .add => if ty = 2 then laneAdd fp32 old v else (old + v) % 2 ^ w
  | .min =>
    if ty = 2 then laneMin fp32 old v
    else if ty = 1 then (if signed w v < signed w old then v else old) else min old v
  | .max =>
    if ty = 2 then laneMax fp32 old v
    else if ty = 1 then (if signed w old < signed w v then v else old) else max old v
  | .and => old &&& v
  | .or => old ||| v
  | .xor => old ^^^ v
  | .xchg => v
  | .cas => if old = cmp then v else old

/-- Fields of an atomic: `src_c` is the compare value of a compare-exchange. -/
def useAtomic (op : AtomOp) (wide : Bool) : Use :=
  { dst := 1, a := 1, b := 1, c := if op = .cas then 1 else 0, types := atomTypes op wide }

/-- Size of an atomic's operands. -/
def atomSize (wide : Bool) : Size := if wide then .b8 else .b4

/-- LOCAL_MEMORY_ATOMIC (R149, R175): the lanes perform one after another. -/
def execLocalMemoryAtomic (i : Issue) (op : AtomOp) (wide : Bool) (f : Fields) (ecc : Ecc) (s : State) :
    Host.Outcome State Fault Refusal :=
  .next <| issue s i fun c0 =>
    let c := c0.ecc ecc
    let z := atomSize wide
    let p := c.block.launch.params
    let ls := laneOrder c.s (c.lanes f)
    let adr := lmAddress c.group f z
    c.checked (useAtomic op wide) f <|
      if pairsBad p.regs z ([f.dst, f.srcB] ++ if op = .cas then [f.srcC] else []) then c.freeze 0x05 0
      else
        match firstLane ls fun n => !inWindow p (adr n) (sizeBytes z) with
        | some n => c.freeze 0x07 (adr n)
        | none =>
          match firstLane ls fun n => readBad c.tile.lmBad (adr n) (sizeBytes z) with
          | some n => c.freezeLm (adr n)
          | none =>
            let run := ls.foldl (fun (x : SMap Byte × Group) n =>
              let old := leNat (readBytes x.1 (adr n) (sizeBytes z))
              let new := atomResult op f.ty.toNat (8 * (sizeBytes z)) old (storeValue c.group f.srcB z n)
                (storeValue c.group f.srcC z n)
              (writeBytes x.1 (adr n) (leBytes (sizeBytes z) new), writeLoaded x.2 f.dst n z old 0))
              (c.tile.lm, c.group)
            c.finish (c.tile.setLm run.1 c.tile.lmBad) c.block run.2

/-! ### Array descriptor loads -/

/-- Reserved content of an array descriptor that `DLD` checks (R83, R84, R93, R95). -/
def arrayDescReserved (d : List Byte) : Bool :=
  let z (m l : Nat) : Bool := dbits d m l ≠ 0
  let kind := dbits d 3 0
  let range (v lo hi : Nat) : Bool := v < lo || v > hi
  z 511 312 || z 191 180 || z 159 148 || z 127 116 || z 95 84 || z 63 61 || z 47 47 || z 39 39 || z 15 14 ||
    dbits d 11 8 > 3 || dbits d 7 4 > 3 || kind > 2 ||
    range (dbits d 60 48) 1 4096 || range (dbits d 46 40) 1 64 || range (dbits d 38 32) 1 64 ||
    (kind = 0 && z 311 192) ||
    (kind = 1 && (z 295 295 || z 291 291 || z 287 287 || z 283 283 || z 255 252 || z 239 236 || z 223 220 ||
      z 207 204 || dbits d 279 276 = 0 || dbits d 275 272 = 0 || dbits d 251 240 = 0 ||
      dbits d 235 224 = 0 || dbits d 219 208 = 0 || dbits d 203 192 = 0)) ||
    (kind = 2 && (z 311 304 || z 287 276 || z 255 244 || z 223 196 || dbits d 195 192 > 3 ||
      (dbits d 195 192 ≠ 2 && z 303 288) || (dbits d 195 192 = 3 && (z 275 256 || z 243 224))))

/-- DLD: load a 64-byte array descriptor, checking only reserved content (R61, R63, R83). -/
def execDld (i : Issue) (f : Fields) (ecc : Ecc) (s : State) : Host.Outcome State Fault Refusal :=
  .next <| issue s i fun c0 =>
    let c := c0.ecc ecc
    c.checkedOnce { dst := 4, a := 2 } f <|
      let a := (readU c.group f.srcA).toNat
      let d := readBytes c.tile.lm a 64
      if a % 64 ≠ 0 || !inWindow c.block.launch.params a 64 then c.freeze 0x07 a
      else if readBad c.tile.lmBad a 64 then c.freezeLm a
      else if arrayDescReserved d then c.freeze 0x06 a
      else c.finish c.tile { c.block with dregs := mset c.block.dregs f.dst.toNat d } c.group

/-! ### Class 0x9: the L1 and outstanding accesses -/

/-- An 8-way set of the L1 that a line falls in (R150; log 19). -/
def l1Set (line : Nat) : Nat := line % 64

/-- Put a line into the L1: a full set drops one of its ways, the choice `pick` (R150; log 19). -/
def l1Fill (pick : Nat) (m : SMap (List Byte)) (line : Nat) (bytes : List Byte) : SMap (List Byte) :=
  if (mget m line).isSome then mset m line bytes
  else
    let ways := m.filter fun e => l1Set e.1 = l1Set line
    let m := if ways.length < 8 then m
      else
        match ways[pick % ways.length]? with
        | some e => merase m e.1
        | none => m
    mset m line bytes

/-- A line as the tile sees it: its bytes in memory with the stores to this module's slot that the tile has
outstanding, in their order (R150, R174). -/
def withStores (s : State) (as : List Access) (line : Nat) (bytes : List Byte) : List Byte :=
  as.foldl (fun bs a =>
    if a.kind = .store && isLocal s a.target && boardDpa a.target / 256 = line then
      splice bs (boardDpa a.target % 256) (leBytes a.size a.data.toNat)
    else bs) bytes

/-- A store updates a line it hits (R150). -/
def l1Store (m : SMap (List Byte)) (a : Nat) (bs : List Byte) : SMap (List Byte) :=
  match mget m (a / 256) with
  | some line => mset m (a / 256) (splice line (a % 256) bs)
  | none => m

/-- A tenant virtual address of a lane in class 0x9 (R152). -/
def vaAddress (g : Group) (f : Fields) (z : Size) (lane : Nat) : Nat := roundDown (readPair g f.srcA lane) (sizeBytes z)

/-- Translate every lane's address; the first failure stops with its cause, or with cause 0 where the translation
waits (R62, R152, R381). -/
def translateLanes (s : State) (region tenant : Nat) (need : Need) (adr : Nat → Nat) (ls : List Nat) :
    State × Except (Nat × Nat) (List (Nat × Nat)) :=
  match ls with
  | [] => (s, .ok [])
  | n :: rest =>
    if adr n ≥ 2 ^ 48 then (s, .error (0x20, adr n))
    else
      match s.translate region tenant (adr n) need with
      | (s, .fail cause) => (s, .error (cause, adr n))
      | (s, .wait) => (s, .error (0, adr n))
      | (s, .ok b) =>
        match translateLanes s region tenant need adr rest with
        | (s, .ok l) => (s, .ok ((n, b) :: l))
        | (s, .error e) => (s, .error e)

/-- An access of one lane. -/
def newAccess (c : Ctx) (serial : Nat) (kind : AccessKind) (z : Size) (f : Fields) (n va target : Nat) : Access :=
  { serial := serial, slot := c.slot, group := c.gi, thread := n, kind := kind, pc := c.path.pc, va := va,
    target := target, size := (sizeBytes z), dst := f.dst.toNat,
    data := BitVec.ofNat 64 (storeValue c.group f.srcB z n),
    cmp := BitVec.ofNat 64 (storeValue c.group f.srcC z n) }

/-- The size of an access in bytes as a `Size`. -/
def sizeOf (n : Nat) : Size :=
  match n with
  | 1 => .b1
  | 2 => .b2
  | 8 => .b8
  | _ => .b4

/-- Write the results of a completed load or atomic into its group's registers. -/
def writeResults (s : State) (as : List Access) (g : Group) : Group :=
  as.foldl (fun g a =>
    match a.result with
    | some v => writeLoaded g (BitVec.ofNat 8 a.dst) a.thread (sizeOf a.size) v.toNat (free s a.thread)
    | none => g) g

/-- Number accesses from the tile's next serial. -/
def numberFrom (n : Nat) (as : List Access) : List Access :=
  match as with
  | [] => []
  | a :: rest => { a with serial := n } :: numberFrom (n + 1) rest

/-! ### Request slots (R162, R181) -/

/-- Bank group of a board address, counted by target: stack, channel and bank group (R180, R181). -/
def bankGroupKey (s : State) (b : Nat) : Option (Nat × Nat × Nat × Nat) :=
  (fastKey s.mem (boardDpa b)).map fun k => (boardSlotOf b, k / 2 ^ 36, channelOf k, bankGroupOf k)

/-- A request of the copy engine still waits or holds a slot. -/
def reqLive (t : Tile) (r : SlotReq) : Bool :=
  match r with
  | .access n => t.accesses.any fun a => a.serial = n && a.result.isNone && !a.frozen
  | .copy n => t.streams.any fun e => e.2.serial = n && e.2.phase = .moving

/-- The requests of the copy engine in the order of their address streams: those of `order`, then those that have come
since (R162, R181). -/
def requestOrder (t : Tile) : List SlotReq :=
  let new (rs : List SlotReq) : List SlotReq := rs.filter fun r => reqLive t r && !t.order.contains r
  (t.order.filter (reqLive t)) ++ new (t.accesses.map fun a => .access a.serial) ++
    new ((t.streams.filter fun e => e.2.kind = .copy).map fun e => .copy e.2.serial)

/-- Board address that a request names in tenant memory; none in local memory. -/
def reqTarget (t : Tile) (r : SlotReq) : Option Nat :=
  match r with
  | .access n => (t.accesses.find? fun a => a.serial = n).map Access.target
  | .copy n => (t.streams.find? fun e => e.2.serial = n).bind fun e => e.2.target

/-- Bank group that a request counts against (R181). -/
def reqGroup (s : State) (t : Tile) (r : SlotReq) : Option (Nat × Nat × Nat × Nat) := (reqTarget t r).bind (bankGroupKey s)

/-- Of requests in order, those that hold one of the 64 slots, at most 4 against one bank group (R162, R181). -/
def holders (s : State) (t : Tile) (rs held : List SlotReq) : List SlotReq :=
  match rs with
  | [] => held
  | r :: rest =>
    let same := if (reqGroup s t r).isNone then 0 else (held.filter fun x => reqGroup s t x = reqGroup s t r).length
    if held.length < 64 && same < 4 then holders s t rest (held ++ [r]) else holders s t rest held

/-- A request of a tile's copy engine holds a slot (R162, R181). -/
def holdsSlot (s : State) (l : Nat) (r : SlotReq) : Bool := (holders s (tileAt s l) (requestOrder (tileAt s l)) []).contains r

/-- Put a request behind those that stand after it and are not among its `later` ones: a returned request goes ahead
of the later ones to its bank group, the next request of a copy to the end (R181, R182). -/
def Tile.requeue (t : Tile) (r : SlotReq) (later : SlotReq → Bool) : Tile :=
  let os := requestOrder t
  let after := (os.dropWhile fun x => x ≠ r).drop 1
  { t with order := (os.takeWhile fun x => x ≠ r) ++ (after.filter fun x => !later x) ++ [r] ++ after.filter later }

/-! ### Board-window requests (R160, R268, R276) -/

/-- Operation code of an atomic in a packet's `aux` (R266; the numbering is open: log 20). -/
def atomCode (op : AtomOp) (ty : Nat) : Nat :=
  let k := match op with
    | .add => 0 | .min => 1 | .max => 2 | .and => 3 | .or => 4 | .xor => 5 | .xchg => 6 | .cas => 7
  k + 8 * (ty % 4)

/-- A packet with nothing but its routing. -/
def basePacket (src dst tenant ptype tag : Nat) : Packet :=
  { addr := 0, aux := 0, length := 0, dst := dst, src := src, tenant := tenant, ptype := ptype, status := 0,
    hops := 0, key := 0, tag := tag, rsv := 0, data := [], badWords := [] }

/-- Node of the board slot an address names (R269). -/
def slotNode (s : State) (b : Nat) : Nat := s.links.nodeId / 8 * 8 + boardSlotOf b

/-- The request packet of an access (R266, R276). -/
def accessPacket (s : State) (tenant : Nat) (a : Access) (ty tag : Nat) : Packet :=
  let base := { basePacket s.links.nodeId (slotNode s a.target) tenant 0 tag with
    addr := BitVec.ofNat 48 a.target }
  match a.kind with
  | .load => { base with aux := BitVec.ofNat 64 (a.size - 1) }
  | .store =>
    -- one 16-byte line with byte enables
    let off := a.target % 16
    { base with
      ptype := 1, addr := BitVec.ofNat 48 (a.target - off), length := 16,
      aux := BitVec.ofNat 64 ((2 ^ a.size - 1) * 2 ^ off),
      data := splice (List.replicate 16 0) off (leBytes a.size a.data.toNat) }
  | .atomic op wide =>
    { base with
      ptype := 2, length := 16, aux := BitVec.ofNat 64 (atomCode op ty + (if wide then 32 else 0)),
      data := leBytes 8 a.data.toNat ++ leBytes 8 a.cmp.toNat }

/-- Send a packet for a requester: it waits in the outbox for the router (R273, R274), and the request
table remembers who waits for its answer. -/
def State.sendRequest (s : State) (who : Requester) (p : Packet) : State :=
  let tag := s.links.nextTag
  let p := { p with tag := tag % 2 ^ 24 }
  s.updLinks fun l =>
    { l with outbox := l.outbox ++ [p], nextTag := tag + 1,
             requests := mset l.requests (tag % 2 ^ 24) { who := who, packet := p } }

/-- A write or atomic of the tile is in flight in the same aligned 1 KiB block (R268). -/
def blockBusy (as : List Access) (a : Access) : Bool :=
  as.any fun x => x.sent && x.kind ≠ .load && x.serial ≠ a.serial && x.target / 1024 = a.target / 1024

/-- A board-window write of the tile's copy engine is in flight in the same aligned 1 KiB block (R162, R268). -/
def copyBlockBusy (s : State) (l b : Nat) : Bool :=
  s.links.requests.any fun (e : Nat × Request) =>
    match e.2.who with
    | .copyWrite t _ _ => t = l && e.2.packet.addr.toNat / 1024 = b / 1024
    | _ => false

/-- A board-window store or atomic of the tile is in flight in an aligned 1 KiB block (R162, R268). -/
def accessBlockBusy (s : State) (l b : Nat) : Bool :=
  (tileAt s l).accesses.any fun x => x.sent && x.kind ≠ .load && x.target / 1024 = b / 1024

/-- Type bits an access's atomic carries. -/
def accessTy (a : Access) : Nat := a.dst / 256

/-- Send each board-window access that may go (R268, R276). -/
def pumpList (fuel : Nat) (s : State) (l tenant : Nat) : State :=
  match fuel with
  | 0 => s
  | k + 1 =>
    let t := tileAt s l
    match t.accesses.find? fun a => !a.sent && !a.frozen && a.result.isNone && !isLocal s a.target &&
        !blockBusy t.accesses a && !copyBlockBusy s l a.target && holdsSlot s l (.access a.serial) with
    | none => s
    | some a =>
      let s1 := s.setTile l { t with accesses := t.accesses.map fun x =>
        if x.serial = a.serial then { x with sent := true } else x }
      pumpList k (s1.sendRequest (.access l a.serial) (accessPacket s tenant a (accessTy a) 0)) l tenant

/-- Send what may be sent of a tile's board-window accesses. -/
def State.pump (s : State) (l tenant : Nat) : State := pumpList (tileAt s l).accesses.length s l tenant

/-- The group of a block of a tile. -/
def groupAt (t : Tile) (slot g : Nat) : Option Group := (mget t.blocks slot).bind fun b => b.groups[g]?

/-- Replace a group of a tile. -/
def Tile.setGroup (t : Tile) (slot g : Nat) (v : Group) : Tile :=
  match mget t.blocks slot with
  | some b => { t with blocks := mset t.blocks slot (b.setGroup g v) }
  | none => t

/-- Complete an instruction whose accesses have all returned: registers are written and the path
advances (R62). -/
def completeAccesses (s : State) (l slot gi : Nat) : State :=
  let t := tileAt s l
  match groupAt t slot gi with
  | some g =>
    match g.wait with
    | .accesses ids =>
      let mine := t.accesses.filter fun a => ids.contains a.serial
      if mine.all fun a => a.result.isSome then
        let g1 := writeResults s mine { g with wait := .none }
        let pc := (mine.head?.map Access.pc).getD g.pc
        let g2 := match g1.paths.find? fun p => p.pc = pc with
          | some p => g1.advance p
          | none => g1
        s.setTile l ({ t with accesses := t.accesses.filter fun a => !ids.contains a.serial }.setGroup slot gi g2)
      else s
    | _ =>
      -- a group that was discarded leaves its loads and atomics as they return (R64)
      if g.ended then
        s.setTile l { t with accesses := t.accesses.filter fun a => !(a.slot = slot && a.group = gi && a.result.isSome) }
      else s
  | none => s

/-- Issue loads or atomics: lanes that hit have their value; the others are outstanding and hold the
group (R42, R62, R150; log 67). -/
def issueAccesses (c : Ctx) (as : List Access) (t : Tile) : State :=
  let as := numberFrom t.serial as
  let ids := as.map Access.serial
  let t := { t with accesses := t.accesses ++ as, serial := t.serial + as.length }
  let g := { c.group with wait := .accesses ids }
  (completeAccesses (c.keep t c.block g) c.l c.slot c.gi).pump c.l c.tenant

/-- LOAD (R150, R152): every lane's address is translated before anything is read; a line in the L1
serves this module's own slot. -/
def execLoad (i : Issue) (z : Size) (f : Fields) (s : State) : Host.Outcome State Fault Refusal :=
  .next <| issue s i fun c =>
    let p := c.block.launch.params
    c.checked { dst := 1, a := 1 } f <|
      if pairBad p.regs f.srcA || pairsBad p.regs z [f.dst] then c.freeze 0x05 0
      else
        let ls := lanesOf (c.lanes f)
        match translateLanes c.s (regionOf c.l) c.tenant .r (vaAddress c.group f z) ls with
        | (s1, .error (cause, va)) => if cause = 0 then s else { c with s := s1 }.freeze cause va
        | (s1, .ok targets) =>
          let one (e : Nat × Nat) : Access :=
            let a := newAccess c 0 .load z f e.1 (vaAddress c.group f z e.1) e.2
            if isLocal s1 e.2 then
              match mget c.tile.l1 (boardDpa e.2 / 256) with
              | some line => { a with result := some (BitVec.ofNat 64 (leNat ((line.drop (e.2 % 256)).take (sizeBytes z)))) }
              | none => a
            else a
          issueAccesses { c with s := s1 } (targets.map one) c.tile

/-- STORE (R150): translated and checked, then written through; a line it hits is updated. -/
def execStore (i : Issue) (z : Size) (f : Fields) (s : State) : Host.Outcome State Fault Refusal :=
  .next <| issue s i fun c =>
    let p := c.block.launch.params
    c.checked { a := 1, b := 1 } f <|
      if pairBad p.regs f.srcA || pairsBad p.regs z [f.srcB] then c.freeze 0x05 0
      else
        let ls := laneOrder c.s (c.lanes f)
        match translateLanes c.s (regionOf c.l) c.tenant .w (vaAddress c.group f z) ls with
        | (s1, .error (cause, va)) => if cause = 0 then s else { c with s := s1 }.freeze cause va
        | (s1, .ok targets) =>
          let as := numberFrom c.tile.serial
            (targets.map fun e => newAccess c 0 .store z f e.1 (vaAddress c.group f z e.1) e.2)
          let l1 := as.foldl (fun m a =>
            if isLocal s1 a.target then l1Store m (boardDpa a.target) (leBytes a.size a.data.toNat) else m) c.tile.l1
          let t := { c.tile with accesses := c.tile.accesses ++ as, serial := c.tile.serial + as.length, l1 := l1 }
          ({ c with s := s1 }.finish t c.block c.group).pump c.l c.tenant

/-- An access that an earlier execution of the group's present atomic has performed (R62; log 108). -/
def keptAtomic (c : Ctx) (a : Access) : Bool := a.slot = c.slot && a.group = c.gi && a.frozen && a.kind ≠ .store && a.pc = c.path.pc

/-- Its old value, for the lane and target it had. -/
def keptResult (c : Ctx) (lane target : Nat) : Option W64 :=
  (c.tile.accesses.find? fun a => keptAtomic c a && a.thread = lane && a.target = target).bind Access.result

/-- ATOMIC (R150, R175): bypasses the L1, invalidates the line it addresses and performs at the target
controller. -/
def execAtomic (i : Issue) (op : AtomOp) (wide : Bool) (f : Fields) (s : State) :
    Host.Outcome State Fault Refusal :=
  .next <| issue s i fun c =>
    let p := c.block.launch.params
    let z := atomSize wide
    c.checked (useAtomic op wide) f <|
      if pairBad p.regs f.srcA ||
          pairsBad p.regs z ([f.dst, f.srcB] ++ if op = .cas then [f.srcC] else []) then c.freeze 0x05 0
      else
        let ls := laneOrder c.s (c.lanes f)
        match translateLanes c.s (regionOf c.l) c.tenant .rw (vaAddress c.group f z) ls with
        | (s1, .error (cause, va)) => if cause = 0 then s else { c with s := s1 }.freeze cause va
        | (s1, .ok targets) =>
          let as := targets.map fun e =>
            { newAccess c 0 (.atomic op wide) z f e.1 (vaAddress c.group f z e.1) e.2 with
              dst := f.dst.toNat + 256 * f.ty.toNat, result := keptResult c e.1 e.2 }
          let l1 := as.foldl (fun m a => merase m (boardDpa a.target / 256)) c.tile.l1
          issueAccesses { c with s := s1 } as
            { c.tile with l1 := l1, accesses := c.tile.accesses.filter fun a => !keptAtomic c a }

/-! ### Responses -/

/-- Freeze the group of an access whose response brought a fault: the instruction's other accesses end
with it, a store stays to be performed again on resume, and a lane of an atomic that another module has performed keeps
its old value for the resume (R62, R267; log 108). An access whose group or block has ended freezes nothing (R39; log 29). -/
def freezeAccess (s : State) (l tenant : Nat) (a : Access) (cause : Nat) : State :=
  let t := tileAt s l
  let g := (groupAt t a.slot a.group).getD {}
  let ids := match g.wait with
    | .accesses ids => ids
    | _ => []
  let t1 := if a.kind = .store then
      { t with l1 := merase t.l1 (boardDpa a.target / 256),
               accesses := t.accesses.map fun x => if x.serial = a.serial then { x with frozen := true, sent := false } else x }
    else
      { t with accesses := (t.accesses.filter fun (x : Access) =>
          !ids.contains x.serial || (x.kind ≠ AccessKind.load && x.result.isSome && !isLocal s x.target)).map fun (x : Access) =>
            if ids.contains x.serial then { x with frozen := true } else x }.setGroup a.slot a.group { g with wait := .none }
  let b := (mget t.blocks a.slot).map fun b => b.launch.params.blockId
  let m := groupMaster l a.slot a.group
  let s1 := s.setTile l t1
  if g.ended || a.orphan then
    (s.setTile l { t with accesses := t.accesses.filter fun x => x.serial ≠ a.serial }).updTenant tenant fun x =>
      { x with nUncorrectable := satAdd 32 x.nUncorrectable (if cause = 0x22 then 1 else 0) }
  else if isFrozen s tenant m then s1
  else s1.freeze tenant
    { freezeRec m cause a.va with pc := a.pc, blockId := b.getD 0, live := g.live, parked := g.parkedMask }

/-- Change an outstanding access. -/
def State.setAccess (s : State) (l serial : Nat) (f : Access → Access) : State :=
  s.setTile l { tileAt s l with accesses := (tileAt s l).accesses.map fun x => if x.serial = serial then f x else x }

/-- Perform one lane of an atomic at this module's controller: its line leaves the L1 (R150, R175). -/
def performAtomic (s0 : State) (l tenant : Nat) (a : Access) : State :=
  match a.kind with
  | .atomic op _ =>
    let d := boardDpa a.target
    let s := s0.touchBias d a.size
    let old := leNat (dpaBytes s d a.size)
    let new := atomResult op (accessTy a) (8 * a.size) old a.data.toNat a.cmp.toNat
    let s1 := (s.writeDpa d (leBytes a.size new)).1.noticeWrite tenant d a.size
    let s2 := s1.setTile l { tileAt s1 l with l1 := merase (tileAt s1 l).l1 (d / 256) }
    s2.setAccess l a.serial fun x => { x with result := some (BitVec.ofNat 64 old), ready := false }
  | _ => s0

/-- The lanes of an atomic that a group waits for, once each has answered: a fault freezes the group with no effect at
this module, else those at this module perform, in their order, and the instruction completes (R62). -/
def settleAtomics (s : State) (l tenant slot gi : Nat) : State :=
  let t := tileAt s l
  match (groupAt t slot gi).map Group.wait with
  | some (.accesses ids) =>
    let mine := t.accesses.filter fun a => ids.contains a.serial
    if mine.all fun a => a.result.isSome || a.ready || a.fault.isSome then
      match mine.find? fun a => a.fault.isSome with
      | some a => freezeAccess s l tenant a (a.fault.getD 0)
      | none =>
        match mine.find? fun a => a.ready && dpaBad s (boardDpa a.target) a.size with
        | some a => freezeAccess (s.fastUncorrectable (boardDpa a.target)) l tenant a 0x22
        | none =>
          completeAccesses ((mine.filter fun a => a.ready).foldl (fun s a => performAtomic s l tenant a) s) l slot gi
    else s
  | _ => s

/-- The group still waits for this lane of an atomic. -/
def atomicWaits (s : State) (l : Nat) (a : Access) : Bool :=
  match a.kind, (groupAt (tileAt s l) a.slot a.group).map Group.wait with
  | .atomic _ _, some (.accesses ids) => ids.contains a.serial
  | _, _ => false

/-- An access meets a fault (R62, R185, R267). -/
def faultAccess (s : State) (l tenant : Nat) (a : Access) (cause : Nat) : State :=
  if atomicWaits s l a then
    settleAtomics (s.setAccess l a.serial fun x => { x with fault := some cause, sent := false }) l tenant a.slot a.group
  else freezeAccess s l tenant a cause

/-- Give an access its result and complete its instruction when it was the last (R62). -/
def returnAccess (s : State) (l tenant : Nat) (a : Access) (v : W64) : State :=
  let s1 := s.setAccess l a.serial fun x => { x with result := some v }
  if atomicWaits s1 l a then settleAtomics s1 l tenant a.slot a.group
  else completeAccesses s1 l a.slot a.group

/-- A fence of a group is satisfied once every store it names has performed (R174). -/
def releaseFence (s : State) (l slot gi : Nat) : State :=
  let t := tileAt s l
  match groupAt t slot gi with
  | some g =>
    match g.wait with
    | .fence ids inv =>
      if t.accesses.any fun a => ids.contains a.serial then s
      else s.setTile l ({ t with l1 := if inv then [] else t.l1 }.setGroup slot gi { g with wait := .none })
    | _ => s
  | none => s

/-- A store has performed or been acknowledged: it leaves, and a fence may release. -/
def retireStore (s : State) (l : Nat) (a : Access) : State :=
  let t := tileAt s l
  releaseFence (s.setTile l { t with accesses := t.accesses.filter fun x => x.serial ≠ a.serial }) l a.slot a.group

/-- An earlier access of the same group to the same bytes has not performed (R174). -/
def orderedBehind (as : List Access) (a : Access) : Bool :=
  as.any fun x => x.serial < a.serial && x.slot = a.slot && x.group = a.group && x.orphan = a.orphan && x.result.isNone &&
    overlaps x.target x.size a.target a.size

/-- The page that run-ahead from an address may touch: bytes of it, 1 GiB under a leaf of the middle level, as a
cached entry or the tables give it (R152, R178). -/
def pageSpan (s : State) (region tenant va : Nat) : Nat :=
  let cached := s.mem.tlb.any fun e => e.region = region && e.tenant = tenant && e.vpn = va / 2 ^ 21 && e.giant
  match (walk s tenant va).leaf with
  | some (_, true) => 2 ^ 30
  | _ => if cached then 2 ^ 30 else 2 ^ 21

/-- The line after an address's lies in the same page (R178). -/
def nextLineInPage (s : State) (region tenant va : Nat) : Bool :=
  (va / 256 * 256 + 256) / pageSpan s region tenant va = va / pageSpan s region tenant va

/-- The line at a DPA may be read ahead for a tenant: whole and readable at once, on a page that R155 lets the tenant
reach, and on no host-bias page, of which no copy may stay (R155, R178, R179, R302). -/
def lineReadable (s : State) (tenant d : Nat) : Bool :=
  targetAllowed s tenant d && !dpaBad s d 256 && !dpaRetraining s d && !dpaResetting s d && !hostBias s d

/-- The next-line prefetch after a demanded miss: issued or not, the choice open (log 64); dropped where it would
leave the page or may not be read at once (R177–R179). -/
def l1Prefetch (s : State) (l tenant va d : Nat) (t : Tile) : SMap (List Byte) :=
  let next := d / 256 * 256 + 256
  if free s 210 % 2 = 0 || !nextLineInPage s (regionOf l) tenant va || (mget t.l1 (next / 256)).isSome ||
      !lineReadable s tenant next then t.l1
  else l1Fill (free s 211) t.l1 (next / 256) (withStores s t.accesses (next / 256) (dpaBytes s next 256))

/-- Perform an access of this module's own slot at the stack controller (R150, R175, R185). The line of a load is kept
where all of it can be read and no host-bias page holds it (R150, R302). -/
def performAccess (s0 : State) (l tenant : Nat) (a : Access) : State :=
  let d := boardDpa a.target
  match a.kind with
  | .load =>
    let s := s0.touchBias d a.size
    if dpaBad s d a.size then faultAccess (s.fastUncorrectable d) l tenant a 0x22
    else
      let v := BitVec.ofNat 64 (leNat (dpaBytes s d a.size))
      let base := d / 256 * 256
      let t := tileAt s l
      let pre := l1Prefetch s l tenant a.va d t
      let t := if dpaBad s base 256 || hostBias s d then { t with l1 := pre }
        else { t with l1 := l1Fill (free s 200) pre (d / 256) (withStores s t.accesses (d / 256) (dpaBytes s base 256)) }
      returnAccess (s.setTile l t) l tenant a v
  | .store =>
    let s := s0.touchBias d a.size
    let r := s.writeDpa d (leBytes a.size a.data.toNat)
    if r.2 then faultAccess (r.1.fastUncorrectable d) l tenant a 0x22
    else
      let s1 := r.1.noticeWrite tenant d a.size
      retireStore (s1.setTile l { tileAt s1 l with l1 := l1Store (tileAt s1 l).l1 d (leBytes a.size a.data.toNat) }) l a
  | .atomic .. =>
    if dpaBad s0 d a.size then faultAccess (s0.fastUncorrectable d) l tenant a 0x22
    else if atomicWaits s0 l a then
      settleAtomics (s0.setAccess l a.serial fun x => { x with ready := true }) l tenant a.slot a.group
    else completeAccesses (performAtomic s0 l tenant a) l a.slot a.group

/-- An outstanding access of this module's own slot may perform now: it holds a slot, and neither an earlier access to
the same bytes, nor a channel that retrains, nor an answer it already has holds it back (R162, R174, R187). -/
def mayPerform (s : State) (l : Nat) (a : Access) : Bool :=
  isLocal s a.target && holdsSlot s l (.access a.serial) && a.result.isNone && !a.frozen && !a.ready && a.fault.isNone &&
    !a.retried && !orderedBehind (tileAt s l).accesses a && !dpaRetraining s (boardDpa a.target)

/-- MEMORY_RESPONSE (R162, R166): the named outstanding access of this module's own slot performs; one into a scope
being reset is held for its reissue, and so is every one of a tile that is being reset (R380). -/
def memoryResponseRow (tile serial elapsed : Nat) (ecc : Ecc) (s0 : State) : State :=
    let s := (tick s0 tile elapsed).redraw
    match ownerOf s tile, (tileAt s tile).accesses.find? fun a => a.serial = serial with
    | some tenant, some a =>
      if tileResetting s tile || !mayPerform s tile a then s0
      else if dpaResetting s (boardDpa a.target) then s.setAccess tile serial fun x => { x with retried := true }
      else (performAccess (s.fastEcc ecc) tile tenant a).pump tile tenant
    | _, _ => s0

/-- A request of a tile's copy engine comes back from its controller: its slot is free, and it stands ahead of the later
requests to its bank group (R182). -/
def retryRequest (s : State) (l : Nat) (r : SlotReq) : State :=
  let t := tileAt s l
  s.setTile l (t.requeue r fun x => reqGroup s t x = reqGroup s t r)

/-- STACK_RETRY (R182): the controller could not queue the request of an access or a copy, or the read of a gather's
index; it goes back to its address stream and nothing else changes. -/
def execStackRetry (tile : Nat) (request : RetriedRequest) (s : State) : Host.Outcome State Fault Refusal :=
  .next <|
    let t := tileAt s tile
    match t.accesses.find? (fun a => a.serial = request.serial), t.streams.find? fun e => e.2.serial = request.serial with
    | some a, _ => if isLocal s a.target && holdsSlot s tile (.access request.serial) then retryRequest s tile (.access request.serial) else s
    | none, some (tag, st) =>
      match st.kind with
      | .copy =>
        if holdsSlot s tile (.copy request.serial) && st.inflight.isEmpty && (st.target.map (isLocal s)).getD false then
          retryRequest s tile (.copy request.serial)
        else s
      | .gather =>
        let back (r : Route) : State :=
          s.setTile tile { t with streams := mset t.streams tag { st with routes := mset st.routes request.index r } }
        match mget st.routes request.index with
        | some (.home b) => back (.retryHome b)
        | some (.pool k b) => back (.retryPool k b)
        | _ => s
      | .exchange => s
    | _, _ => s

/-! ### Instruction fetch (R151, R155) -/

/-- Put a line into the instruction cache of 256 lines: a full one drops a line, the choice `pick`. -/
def icacheFill (pick : Nat) (m : SMap (Nat × List Byte)) (line : Nat) (v : Nat × List Byte) : SMap (Nat × List Byte) :=
  if (mget m line).isSome || m.length < 256 then mset m line v
  else
    match m[pick % m.length]? with
    | some e => mset (merase m e.1) line v
    | none => m

/-- Instruction prefetch ahead of the program counter, inside the page that holds it: issued or not, the choice open
(R177–R179; log 64). -/
def icachePrefetch (s : State) (l tenant va d : Nat) (m : SMap (Nat × List Byte)) : SMap (Nat × List Byte) :=
  let next := d / 256 * 256 + 256
  if free s 310 % 2 = 0 || !nextLineInPage s (regionOf l) tenant va || !lineReadable s tenant next then m
  else icacheFill (free s 311) m (va / 256 + 1) (next, dpaBytes s next 256)

/-- A demanded instruction read from memory: the line is kept where all of it can be read and no host-bias page holds
it (R151, R302). -/
def fetchLine (s0 : State) (l tenant va d : Nat) : State :=
  let s := s0.touchBias d 8
  let t := tileAt s l
  let pre := icachePrefetch s l tenant va d t.icache
  let base := d / 256 * 256
  if dpaBad s base 256 || hostBias s d then s.setTile l { t with icache := pre }
  else s.setTile l { t with icache := icacheFill (free s 300) pre (va / 256) (base, dpaBytes s base 256) }

/-- INSTRUCTION_FETCH (R151, R155): the demanded fetch of the group's next instruction is served by the instruction
cache, returns from memory, or freezes the group; it takes no issue port. -/
def execInstructionFetch (tile slot group elapsed : Nat) (ecc : Ecc) (s0 : State) :
    Host.Outcome State Fault Refusal :=
  .next <|
    match groupCtx s0 { tile := tile, slot := slot, group := group, port := 0, elapsed := elapsed } with
    | none => s0
    | some c =>
      let va := c.block.launch.params.entry + c.path.pc
      if (mget c.tile.icache (va / 256)).isSome then c.s
      else if va ≥ 2 ^ 48 then c.freezeGroup 0x20 va
      else
        match c.s.translate (regionOf c.l) c.tenant va .x with
        | (s1, .fail cause) => { c with s := s1 }.freezeGroup cause va
        | (_, .wait) => s0
        | (s1, .ok b) =>
          let s2 := s1.fastEcc ecc
          let d := boardDpa b
          if dpaResetting s1 d || dpaRetraining s1 d then s0
          else if dpaBad s2 d 8 then { c with s := (s2.touchBias d 8).fastUncorrectable d }.freezeGroup 0x22 va
          else fetchLine s2 c.l c.tenant va d

end Sys2Proof.Machine
end

