-- ==== Sys2Proof/Machine/ArrayOps.lean ====
section
/-!
DEFINITION. Array descriptors (R83–R87, R91, R93, R95) and the arithmetic of a product (R67, R85, R94, R96, R98).
-/

namespace Sys2Proof.Machine

/-! ### Descriptors -/

/-- Bytes of an element of an operand format code. -/
def elemBytes (code : Nat) : Nat := (fmtOf code).bytes

/-- Last byte of an operand plane plus one, from its base (R87). -/
def planeExtent (d : List Byte) (isA : Bool) : Nat :=
  let m := dbits d 38 32
  let n := dbits d 46 40
  let k := dbits d 60 48
  if isA then
    let ea := elemBytes (dbits d 7 4)
    let st := dbits d 147 128
    if dbits d 3 0 = 1 then (dbits d 219 208 - 1) * st + dbits d 203 192 * dbits d 235 224 * ea
    else if bit (leNat d) 12 then (k - 1) * st + m * ea
    else (m - 1) * st + k * ea
  else
    let eb := elemBytes (dbits d 11 8)
    let st := dbits d 179 160
    if bit (leNat d) 13 then (n - 1) * st + k * eb else (k - 1) * st + n * eb

/-- Modes that read alternate planes (R95). -/
def usesAlternates (d : List Byte) : Bool := chMode d = some 0 || chMode d = some 1 || chMode d = some 2

/-- Field rules `MMA.DESC` checks (R83 step 2: R84, R86, R91, R93, R95) on a tile's personality. -/
def arrayDescBad (d : List Byte) (personality : Nat) : Bool :=
  let kind := dbits d 3 0
  let fa := dbits d 7 4
  let fb := dbits d 11 8
  let ea := elemBytes fa
  arrayDescReserved d ||
  dbits d 83 64 % 16 ≠ 0 || dbits d 115 96 % 16 ≠ 0 || dbits d 147 128 % 16 ≠ 0 || dbits d 179 160 % 16 ≠ 0 ||
  (fa = 0 && fb ≠ 0) || (fa ≠ 0 && fb = 0) || (fa = 0 && kind ≠ 0) ||
  (kind = 1 && personality ≠ 0) || (kind = 2 && personality ≠ 1) ||
  (kind = 1 && (dbits d 60 48 ≠ dbits d 279 276 * dbits d 275 272 * dbits d 235 224 ||
    bit (leNat d) 12 || dbits d 235 224 * ea % 16 ≠ 0 ||
    dbits d 147 128 < dbits d 203 192 * dbits d 235 224 * ea ||
    dbits d 311 304 * 65536 + dbits d 271 256 + dbits d 38 32 - 1 ≥ 2 ^ 24)) ||
  (chMode d = some 2 && (fa ≠ 1 || fb ≠ 1)) ||
  (usesAlternates d && (dbits d 243 224 % 16 ≠ 0 || dbits d 275 256 % 16 ≠ 0))

/-- An operand plane leaves the block's window (R87). -/
def arrayExtentBad (p : BlockParams) (d : List Byte) : Bool :=
  !inWindow p (dbits d 83 64) (planeExtent d true) || !inWindow p (dbits d 115 96) (planeExtent d false) ||
  (usesAlternates d &&
    (!inWindow p (dbits d 243 224) (planeExtent d true) || !inWindow p (dbits d 275 256) (planeExtent d false)))

/-! ### Operands -/

/-- Offset of A's element (i, k) in its main (0) or alternate (1) plane; none where zero is fed (R85,
R94). -/
def aOffset (d : List Byte) (plane i k : Nat) : Option Nat :=
  let base := if plane = 0 then dbits d 83 64 else dbits d 243 224
  let ea := elemBytes (dbits d 7 4)
  let st := dbits d 147 128
  if i ≥ dbits d 38 32 then none
  else if dbits d 3 0 = 1 then
    let p := dbits d 311 304 * 65536 + dbits d 271 256 + i
    let cin := dbits d 235 224
    let ch := k % cin
    let kx := k / cin % dbits d 275 272
    let ky := k / (cin * dbits d 275 272)
    let iy : Int := (p / dbits d 251 240 * (dbits d 286 284 + 1) + ky * (dbits d 294 292 + 1) : Nat) - dbits d 303 300
    let ix : Int := (p % dbits d 251 240 * (dbits d 282 280 + 1) + kx * (dbits d 290 288 + 1) : Nat) - dbits d 299 296
    if 0 ≤ iy && iy < dbits d 219 208 && 0 ≤ ix && ix < dbits d 203 192 then
      some (base + iy.toNat * st + (ix.toNat * cin + ch) * ea)
    else none
  else if bit (leNat d) 12 then some (base + k * st + i * ea)
  else some (base + i * st + k * ea)

/-- Offset of B's element (k, j) (R85). -/
def bOffset (d : List Byte) (plane k j : Nat) : Option Nat :=
  let base := if plane = 0 then dbits d 115 96 else dbits d 275 256
  let eb := elemBytes (dbits d 11 8)
  let st := dbits d 179 160
  if j ≥ dbits d 46 40 then none
  else if bit (leNat d) 13 then some (base + j * st + k * eb)
  else some (base + k * st + j * eb)

/-- The local memories an element fed now may have been read from: those that writes since the issue replaced, and the
present one (R78). -/
def operandViews (t : Tile) (seen : List (SMap Byte × List Nat)) : List (SMap Byte × List Nat) := seen ++ [(t.lm, t.lmBad)]

/-- The one of them that the element with this key saw: open (R78). -/
def viewOf (s : State) (views : List (SMap Byte × List Nat)) (key : Nat) : SMap Byte × List Nat :=
  views.getD (free s (1000 + key) % views.length) ([], [])

/-- An element as the feeder takes it: zero where none is read, a NaN where its word cannot be
corrected (R85, R149). -/
def feed (s : State) (views : List (SMap Byte × List Nat)) (fmt key : Nat) (off : Option Nat) : Num :=
  match off with
  | none => .fin false 0 0
  | some o =>
    let m := viewOf s views key
    if readBad m.2 o (elemBytes fmt) then .nan false
    else decodeNum (fmtOf fmt) (leNat (readBytes m.1 o (elemBytes fmt)))

/-- Key of an A element's choice. -/
def aKey (plane i k : Nat) : Nat := 2 ^ 19 * plane + 4096 * i + k
/-- Key of a B element's choice. -/
def bKey (plane k j : Nat) : Nat := 2 ^ 20 + 2 ^ 19 * plane + 4096 * j + k

/-- A's element as fed. -/
def feedA (s : State) (m : List (SMap Byte × List Nat)) (d : List Byte) (plane i k : Nat) : Num :=
  feed s m (dbits d 7 4) (aKey plane i k) (aOffset d plane i k)
/-- B's element as fed. -/
def feedB (s : State) (m : List (SMap Byte × List Nat)) (d : List Byte) (plane k j : Nat) : Num :=
  feed s m (dbits d 11 8) (bKey plane k j) (bOffset d plane k j)

/-! ### Products -/

/-- Two slots of a cell and the flags raised so far. -/
structure Cell where
  s : Nat
  s2 : Nat
  sat : Bool
  nonfinite : Bool
  deriving DecidableEq, Repr

/-- Accumulate into slot s. -/
def Cell.into (c : Cell) (r : Conv) : Cell :=
  { c with s := r.bits, sat := c.sat || r.sat, nonfinite := c.nonfinite || r.nonfinite }
/-- Accumulate into the other slot. -/
def Cell.into2 (c : Cell) (r : Conv) : Cell :=
  { c with s2 := r.bits, sat := c.sat || r.sat, nonfinite := c.nonfinite || r.nonfinite }

/-- The feeder's FP16 sum of two planes, rounded to nearest even (R96). -/
def planeSum (x y : Num) : Num := decodeNum fp16 (laneRound fp16 (x.add y) fp16.nanMag)

/-- One depth index in one cell (R67, R96, R98). -/
def cellStep (d : List Byte) (a a' b b' : Num) (c : Cell) : Cell :=
  let sa : Int := signed 8 (dbits d 23 16)
  let sb : Int := signed 8 (dbits d 31 24)
  let k := sa + sb
  match chMode d with
  | none => if dbits d 7 4 = 0 then c.into (arrayFma c.s a b k) else c.into (arrayMac c.s a b k false)
  | some 0 =>
    let c := c.into (arrayMac c.s a b k false)
    let c := c.into (arrayMac c.s a' b' k true)
    let c := c.into2 (arrayMac c.s2 a b' k false)
    c.into2 (arrayMac c.s2 a' b k false)
  | some 1 =>
    let c := c.into (arrayMac c.s a b k false)
    let c := c.into2 (arrayMac c.s2 a b k true)
    let c := c.into (arrayMac c.s a' b' k true)
    let c := c.into2 (arrayMac c.s2 a' b' k true)
    c.into2 (arrayMac c.s2 (planeSum a a') (planeSum b b') k false)
  | some 2 =>
    let c := c.into (arrayMac c.s a b k false)
    let c := c.into (arrayMac c.s a b' (sa + signed 8 (dbits d 303 296)) false)
    c.into (arrayMac c.s a' b (signed 8 (dbits d 295 288) + sb) false)
  | some _ =>
    let r := arrayCompensated c.s c.s2 a b k
    (c.into r.1).into2 r.2

/-- A cell's product in ascending k (R67). -/
def cellRun (s : State) (m : List (SMap Byte × List Nat)) (d : List Byte) (i j : Nat) (c : Cell) : Cell :=
  (List.range (dbits d 60 48)).foldl (fun c k =>
    cellStep d (feedA s m d 0 i k) (feedA s m d 1 i k) (feedB s m d 0 k j) (feedB s m d 1 k j) c) c

/-- Uncorrectable words a product's feeders met (R149). -/
def feederBadWords (s : State) (m : List (SMap Byte × List Nat)) (d : List Byte) : List Nat :=
  let planes := if usesAlternates d then [0, 1] else [0]
  let depth := List.range (dbits d 60 48)
  let reads : List (Nat × Nat) :=
    planes.flatMap fun p => depth.flatMap fun k =>
      ((List.range 64).filterMap fun i => (aOffset d p i k).map fun o => (aKey p i k, o)) ++
      ((List.range 64).filterMap fun j => (bOffset d p k j).map fun o => (bKey p k j, o))
  let hit (w : Nat) : Bool := reads.any fun r => r.2 / 16 = w && (viewOf s m r.1).2.contains w
  ((m.flatMap Prod.snd).foldl ninsert []).filter hit

/-- Perform an `MMA.DESC` on a tile (R67, R96–R98). -/
def runDesc (s : State) (t : Tile) (slot : Nat) (zeroFirst : Bool) (d : List Byte)
    (seen : List (SMap Byte × List Nat)) : Tile :=
  let m := operandViews t seen
  let both := bothSlots d
  let start (sl i j : Nat) : Nat := if zeroFirst then 0 else (mgetD t.acc (accKey sl i j) 0).toNat
  let cells := (cellsOf 64).map fun rc =>
    (rc, cellRun s m d rc.1 rc.2 { s := start slot rc.1 rc.2, s2 := start (1 - slot) rc.1 rc.2, sat := false, nonfinite := false })
  let acc := cells.foldl (fun a e => mput 0 a (accKey slot e.1.1 e.1.2) (BitVec.ofNat 32 e.2.s)) t.acc
  let acc := if both then cells.foldl (fun a e => mput 0 a (accKey (1 - slot) e.1.1 e.1.2) (BitVec.ofNat 32 e.2.s2)) acc
    else acc
  { t with acc := acc }.flag (cells.any fun e => e.2.sat) (cells.any fun e => e.2.nonfinite)

/-- Perform an `MMA.REG`: A by rows, B by columns, depth 32, no scale (R89). -/
def runReg (t : Tile) (q slot : Nat) (zeroFirst : Bool) (a b : List (BitVec 16)) : Tile :=
  let u := 2 * q + slot
  let el (l : List (BitVec 16)) (i k : Nat) : Num := decodeNum fp16 (l.getD (32 * i + k) 0).toNat
  let cells := (cellsOf 32).map fun rc =>
    (rc, (List.range 32).foldl (fun (c : Cell) k => c.into (arrayMac c.s (el a rc.1 k) (el b rc.2 k) 0 false))
      { s := if zeroFirst then 0 else (mgetD t.acc (unitKey false u rc.1 rc.2) 0).toNat, s2 := 0, sat := false, nonfinite := false })
  let acc := cells.foldl (fun a e => mput 0 a (unitKey false u e.1.1 e.1.2) (BitVec.ofNat 32 e.2.s)) t.acc
  { t with acc := acc }.flag (cells.any fun e => e.2.sat) (cells.any fun e => e.2.nonfinite)

end Sys2Proof.Machine
end

