-- ==== Sys2Proof/Machine/Streams.lean ====
section
/-!
DEFINITION. What copies, gathers and exchanges share: tags and their retirement (R39, R61, R162),
freezing a stream (R169), reads and writes of a stream in its address
spaces, and the copy descriptor with its units (R163–R165, R170–R172).
-/

namespace Sys2Proof.Machine

/-! ### Tags -/

/-- The stream that holds a tag. -/
def streamAt (s : State) (l tag : Nat) : Option Stream := mget (tileAt s l).streams tag

/-- Replace the stream of a tag. -/
def State.setStream (s : State) (l tag : Nat) (st : Stream) : State :=
  s.setTile l { tileAt s l with streams := mset (tileAt s l).streams tag st }

/-- The lowest-numbered free tag (R162). -/
def freeTag (t : Tile) : Option Nat := (List.range 64).find? fun k => (mget t.streams k).isNone

/-- A group's `COPY.WAIT` ends once every stream it names has retired (R61). -/
def releaseTagGroup (streams : SMap Stream) (g : Group) : Group :=
  match g.wait with
  | .tags ids => if streams.any fun e => ids.contains e.2.serial then g else { g with wait := .none }
  | _ => g

/-- Release the tile's groups that wait for tags. -/
def releaseTags (t : Tile) : Tile :=
  { t with blocks := t.blocks.map fun (e : Nat × Block) =>
      (e.1, { e.2 with groups := e.2.groups.map (releaseTagGroup t.streams) }) }

/-- A tag retires (R166, R199, R279). -/
def State.retireTag (s : State) (l tag : Nat) : State :=
  s.setTile l (releaseTags { tileAt s l with streams := merase (tileAt s l).streams tag })

/-- `block_id` of the block that issued a stream. -/
def streamBlockId (s : State) (l : Nat) (st : Stream) : W32 :=
  ((mget (tileAt s l).blocks st.slot).map fun b => b.launch.params.blockId).getD 0

/-- Freeze a stream (R169, R365). -/
def State.freezeStream (s : State) (l tenant tag : Nat) (st : Stream) (cause address : Nat) : State :=
  s.freeze tenant
    { freezeRec (streamMaster st.kind l tag) cause address with
      blockId := streamBlockId s l st, desc := st.desc }

/-- A stream is frozen. -/
def streamFrozen (s : State) (l tenant tag : Nat) (st : Stream) : Bool :=
  isFrozen s tenant (streamMaster st.kind l tag)

/-- Every earlier access of the issuing group has performed (R166). -/
def earlierDone (t : Tile) (st : Stream) : Bool :=
  !t.accesses.any fun a => a.slot = st.slot && a.group = st.group && !a.orphan && a.serial < st.serial

/-! ### Reads and writes of a stream -/

/-- How one request of a stream ends: with data, done, to be tried again, asked of another module at a
board address, or with a fault at an address. -/
inductive Part where
  | data (bs : List Byte)
  | done
  | wait
  | remote (board : Nat)
  | fault (cause address : Nat)

/-- What a stream found in a tile's local memory: words it could not correct, and corrected ones, which are counted
(R149, R368). -/
def State.localEcc (s : State) (l tenant : Nat) (e : Ecc) : State :=
  e.corrected.foldl (fun s a => s.report (lmSource l) 0 0 (some tenant) (BitVec.ofNat 32 (a / 2 ^ 13)))
    (s.setTile l { tileAt s l with lmBad := markBad (tileAt s l).lmBad e.bad })

/-- Read a tile's local memory for a stream (R149). -/
def readLocal (s : State) (l tenant a n : Nat) : State × Part :=
  let t := tileAt s l
  match (wordsOf a n).find? fun w => t.lmBad.contains w with
  | some w =>
    (s.report (lmSource l) 1 0 (some tenant) (BitVec.ofNat 32 (16 * w / 2 ^ 13)), .fault 0x22 a)
  | none => (s, .data (readBytes t.lm a n))

/-- Write a tile's local memory for a stream (R149). -/
def writeLocal (s : State) (l tenant a : Nat) (bs : List Byte) : State × Part :=
  let t := tileAt s l
  let r := writeWords t.lm t.lmBad a bs
  let s1 := s.setTile l (t.setLm r.1 r.2.1)
  if r.2.2 then (s1.report (lmSource l) 1 0 (some tenant) (BitVec.ofNat 32 (a / 2 ^ 13)), .fault 0x22 a)
  else (s1, .done)

/-- Translate for a stream (R152–R155); the address space ends at 2^48. -/
def streamTranslate (s : State) (l tenant va : Nat) (need : Need) : State × Trans :=
  if va ≥ 2 ^ 48 then (s, .fail 0x20) else s.translate (regionOf l) tenant va need

/-- Read tenant memory for a stream: at this module, or asked of another (R155, R159, R185). -/
def readTenant (s : State) (l tenant va n : Nat) : State × Part :=
  match streamTranslate s l tenant va .r with
  | (s1, .fail cause) => (s1, .fault cause va)
  | (_, .wait) => (s, .wait)
  | (s1, .ok b) =>
    let d := boardDpa b
    if !isLocal s1 b then (s1, .remote b)
    else if dpaResetting s1 d || dpaRetraining s1 d then (s, .wait)
    else
      let s2 := s1.touchBias d n
      if dpaBad s2 d n then (s2.fastUncorrectable d, .fault 0x22 va)
      else (s2, .data (dpaBytes s2 d n))

/-- Write tenant memory for a stream (R155, R159, R185). -/
def writeTenant (s : State) (l tenant va : Nat) (bs : List Byte) : State × Part :=
  match streamTranslate s l tenant va .w with
  | (s1, .fail cause) => (s1, .fault cause va)
  | (_, .wait) => (s, .wait)
  | (s1, .ok b) =>
    let d := boardDpa b
    if !isLocal s1 b then (s1, .remote b)
    else if dpaResetting s1 d || dpaRetraining s1 d then (s, .wait)
    else
      let r := (s1.touchBias d bs.length).writeDpa d bs
      if r.2 then (r.1.fastUncorrectable d, .fault 0x22 va)
      else (r.1.noticeWrite tenant d bs.length, .done)

/-- Bytes of the next request of a range: within an aligned 1 KiB block (R162), and for a write in
tenant memory one partial line or whole lines (R266). -/
def pieceLen (a rem : Nat) (lines : Bool) : Nat :=
  let m := min rem (1024 - a % 1024)
  if lines then
    if a % 16 ≠ 0 then min m (16 - a % 16) else if m ≥ 16 then m - m % 16 else m
  else m

/-- Packet of a board-window read (R266, R276). -/
def readPacket (s : State) (tenant b n : Nat) : Packet :=
  { basePacket s.links.nodeId (slotNode s b) tenant 0 0 with
    addr := BitVec.ofNat 48 b, aux := BitVec.ofNat 64 (n - 1) }

/-- Packet of a board-window write: byte enables for one line, all ones otherwise (R266). -/
def writePacket (s : State) (tenant b : Nat) (bs : List Byte) : Packet :=
  let off := b % 16
  let line : Bool := off + bs.length ≤ 16
  { basePacket s.links.nodeId (slotNode s b) tenant 1 0 with
    addr := BitVec.ofNat 48 (b - off),
    length := if line then 16 else bs.length,
    aux := BitVec.ofNat 64 (if line then (2 ^ bs.length - 1) * 2 ^ off else 0xFFFF),
    data := if line then splice (List.replicate 16 0) off bs else bs }

/-! ### The copy descriptor (R163) -/

/-- Operation: 0 copy, 1–4 saves and restores. -/
def cOp (d : List Byte) : Nat := dbits d 3 0
/-- Source in tenant memory. -/
def cSrcTenant (d : List Byte) : Bool := dbits d 7 4 = 1
/-- Destination space. -/
def cDstSpace (d : List Byte) : Nat := dbits d 11 8
/-- Source format code. -/
def cSrcFmt (d : List Byte) : Nat := dbits d 15 12
/-- Destination format code. -/
def cDstFmt (d : List Byte) : Nat := dbits d 19 16
/-- Converted element by element. -/
def cConvert (d : List Byte) : Bool := dbits d 20 20 = 1
/-- Tagged gradient. -/
def cGradient (d : List Byte) : Bool := dbits d 21 21 = 1
/-- Scale operand. -/
def cScale (d : List Byte) : Int := signed 8 (dbits d 31 24)
/-- Named tiles. -/
def cMulticast (d : List Byte) : Nat := dbits d 47 32
/-- Watch entry. -/
def cWatch (d : List Byte) : Nat := dbits d 63 48
/-- Parameter set. -/
def cParamSet (d : List Byte) : Nat := dbits d 65 64
/-- Sounding operation. -/
def cSound (d : List Byte) : Nat := dbits d 68 66
/-- Source address. -/
def cSrc (d : List Byte) : Nat := dbits d 143 96
/-- Destination address. -/
def cDst (d : List Byte) : Nat := dbits d 191 144
/-- Elements per row, or granules. -/
def cRowLen (d : List Byte) : Nat := dbits d 211 192
/-- Rows. -/
def cRows (d : List Byte) : Nat := dbits d 227 212 + 1
/-- Bytes between source rows. -/
def cSrcStride (d : List Byte) : Nat := dbits d 287 256
/-- Bytes between destination rows. -/
def cDstStride (d : List Byte) : Nat := dbits d 319 288
/-- Flag enabled. -/
def cFlagEn (d : List Byte) : Bool := dbits d 372 372 = 1
/-- Flag offset. -/
def cFlagOff (d : List Byte) : Nat := dbits d 371 352

/-- Code of a Q8r row (R105). -/
def q8r : Nat := 4
/-- Element size of a format code in a copy: bytes where the copy does not convert (R164). -/
def copyElem (convert : Bool) (fmt : Nat) : Nat := if !convert then 1 else if fmt = q8r then 1 else (fmtOf fmt).bytes
/-- Bytes of a row of `n` elements (R120, R165). -/
def copyRowBytes (convert : Bool) (fmt n : Nat) : Nat :=
  if convert && fmt = q8r then 4 + n else n * copyElem convert fmt
/-- Either side is Q8r. -/
def cQ8r (d : List Byte) : Bool := cConvert d && (cSrcFmt d = q8r || cDstFmt d = q8r)

/-- Bytes of a slot of a saved granule (R170, R172). -/
def slotBytes (d : List Byte) : Nat :=
  if cOp d = 1 || cOp d = 2 then 4112 else if cSrcFmt d = 1 then 2064 else 1040

/-- Source bytes from the source address (R165, R170, R172). -/
def srcExtent (d : List Byte) : Nat :=
  match cOp d with
  | 0 => (cRows d - 1) * cSrcStride d + copyRowBytes (cConvert d) (cSrcFmt d) (cRowLen d)
  | 1 | 3 => 4096 * cRowLen d
  | _ => slotBytes d * cRowLen d

/-- Destination bytes from the destination address. -/
def dstExtent (d : List Byte) : Nat :=
  match cOp d with
  | 0 => (cRows d - 1) * cDstStride d + copyRowBytes (cConvert d) (cDstFmt d) (cRowLen d)
  | 1 | 3 => slotBytes d * cRowLen d
  | _ => 4096 * cRowLen d

/-- Tiles a multicast names (R163). -/
def multicastTiles (l : Nat) (d : List Byte) : List Nat :=
  ((List.range 16).filter fun k => bit (cMulticast d) k).map fun k => 16 * clusterOf l + k

/-- Tiles of local memory a copy writes: its own, or those named (R163, R167). -/
def copyTiles (l : Nat) (d : List Byte) : List Nat :=
  match cDstSpace d with
  | 0 => [l]
  | 2 => multicastTiles l d
  | _ => []

/-- Does an address break the element alignment of a side (R164). -/
def misaligned (convert : Bool) (fmt a : Nat) : Bool :=
  if convert && fmt = q8r then a % 2 ≠ 0 else a % copyElem convert fmt ≠ 0

/-- A used stride breaks its alignment, or is too short for a Q8r row (R164). -/
def strideBad (d : List Byte) (fmt stride : Nat) : Bool :=
  cRows d > 1 && (misaligned (cConvert d) fmt stride || (cConvert d && fmt = q8r && stride < 4 + cRowLen d))

/-- Conditions of a compare copy (R164). -/
def compareOk (d : List Byte) : Bool :=
  cOp d = 0 && cConvert d && dbits d 7 4 = 0 && cDstSpace d = 0 &&
  1 ≤ cSrcFmt d && cSrcFmt d ≤ 3 && cDstFmt d = 0 && cRows d = 1 && cRowLen d ≤ 65536 &&
  !cFlagEn d && cMulticast d = 0

/-- Conditions of a loss copy (R164). -/
def lossOk (d : List Byte) : Bool :=
  cOp d = 0 && !cConvert d && dbits d 7 4 = 0 && cRowLen d = 8 && cRows d = 1 &&
  cDst d = 0 && cDstStride d = 0 && cDstSpace d = 0 && cDstFmt d = 0 && cMulticast d = 0 &&
  dbits d 372 320 = 0

/-- Field rules of R164 that need nothing but the descriptor, the issuing tile and the quota (R130). -/
def copyDescBad (d : List Byte) (l quota : Nat) : Bool :=
  dbits d 511 373 ≠ 0 || dbits d 255 228 ≠ 0 || dbits d 95 69 ≠ 0 || dbits d 23 22 ≠ 0 ||
  cRowLen d = 0 || cOp d > 4 || dbits d 7 4 > 1 || cDstSpace d > 2 ||
  cSrcFmt d > 4 || cDstFmt d > 4 || cSound d > 5 || cFlagOff d % 4 ≠ 0 ||
  (cOp d = 0 && !cConvert d && (cSrcFmt d ≠ 0 || cDstFmt d ≠ 0 || cScale d ≠ 0 || cGradient d)) ||
  (cOp d = 0 && (misaligned (cConvert d) (cSrcFmt d) (cSrc d) || misaligned (cConvert d) (cDstFmt d) (cDst d) ||
    strideBad d (cSrcFmt d) (cSrcStride d) || strideBad d (cDstFmt d) (cDstStride d))) ||
  (cOp d ≠ 0 && (cConvert d || cRows d ≠ 1 || cSrcStride d ≠ 0 || cDstStride d ≠ 0 || cDstFmt d ≠ 0 ||
    cScale d ≠ 0 || cGradient d || cSrcFmt d > 1)) ||
  (cSound d = 4 && !compareOk d) || (cSound d = 5 && !lossOk d) ||
  (cFlagEn d && cDstSpace d = 1) ||
  (cSound d ≠ 4 && cSound d ≠ 5 && dbits d 7 4 = 0 && (copyTiles l d).contains l &&
    overlaps (cSrc d) (srcExtent d) (cDst d) (dstExtent d)) ||
  (cDstSpace d = 2 && cMulticast d = 0) || (cDstSpace d ≠ 2 && cMulticast d ≠ 0) ||
  (1 ≤ cSound d && cSound d ≤ 4 && cWatch d ≥ quota)

/-- Local extents that leave the window of R36, or a named tile's memory (R164, R167). -/
def copyExtentBad (p : BlockParams) (d : List Byte) (l : Nat) : Bool :=
  let own (a n : Nat) : Bool := !inWindow p a n
  (dbits d 7 4 = 0 && own (cSrc d) (srcExtent d)) ||
  (cSound d = 4 && own (cDst d) (4 * cRowLen d)) ||
  (cSound d ≠ 4 && cSound d ≠ 5 && (copyTiles l d).any fun m =>
    if m = l then own (cDst d) (dstExtent d) || (cFlagEn d && own (cFlagOff d) 4)
    else cDst d + dstExtent d > 0x100000 || (cFlagEn d && cFlagOff d + 4 > 0x100000))

/-! ### Units of a copy -/

/-- One unit of a copy: its first element, how far it advances, and its ranges. -/
structure CopyUnit where
  first : Nat
  step : Nat
  src : Nat
  srcLen : Nat
  dst : Nat

/-- Format that an element is converted from: a Q8r row dequantises to FP16 first (R121). -/
def elementFmt (d : List Byte) : Fmt := fmtOf (if cSrcFmt d = q8r then 1 else cSrcFmt d)

/-- Does a conversion draw random bits (R112, R113, R122). -/
def copyDraws (d : List Byte) : Bool :=
  cConvert d && cGradient d && cDstFmt d ≠ q8r && srBits (elementFmt d) (fmtOf (cDstFmt d)) > 0

/-- A copy goes row by row: a side is Q8r and no element draws (R116, R122). -/
def cRowUnits (d : List Byte) : Bool := cQ8r d && !copyDraws d

/-- Number of units' positions: elements, rows of a Q8r copy, or granules. -/
def copyTotal (d : List Byte) : Nat :=
  if cOp d ≠ 0 then cRowLen d else if cRowUnits d then cRows d else cRows d * cRowLen d

/-- Elements of the run that starts at a position: inside one 1 KiB block on both sides, whole lines or
part of one in tenant memory, and one draw per generator (R116, R162, R266). -/
def copyRun (d : List Byte) (pos sa da : Nat) : Nat :=
  let ss := copyElem (cConvert d) (cSrcFmt d)
  let ds := copyElem (cConvert d) (cDstFmt d)
  let left := cRowLen d - pos % cRowLen d
  let n := min left ((1024 - sa % 1024) / ss)
  let n := if copyDraws d then min n (64 - pos % 64) else n
  max 1 (pieceLen da (n * ds) (cDstSpace d = 1) / ds)

/-- The unit at a position; one of drawing elements of a Q8r row reads the whole row. -/
def copyUnit (d : List Byte) (pos : Nat) : CopyUnit :=
  match cOp d with
  | 0 =>
    if cRowUnits d then
      { first := pos * cRowLen d, step := 1, src := cSrc d + pos * cSrcStride d,
        srcLen := copyRowBytes true (cSrcFmt d) (cRowLen d), dst := cDst d + pos * cDstStride d }
    else
      let r := pos / cRowLen d
      let i := pos % cRowLen d
      let row := cSrc d + r * cSrcStride d
      let sa := row + i * copyElem (cConvert d) (cSrcFmt d)
      let da := cDst d + r * cDstStride d + i * copyElem (cConvert d) (cDstFmt d)
      if cQ8r d then
        { first := pos, step := copyRun d pos 0 da, src := row, srcLen := 4 + cRowLen d, dst := da }
      else
        let n := copyRun d pos sa da
        { first := pos, step := n, src := sa, srcLen := n * copyElem (cConvert d) (cSrcFmt d), dst := da }
  | 1 | 3 => { first := 0, step := 1, src := cSrc d + 4096 * pos, srcLen := 4096, dst := cDst d + slotBytes d * pos }
  | 2 => { first := 0, step := 1, src := cSrc d + 4112 * pos, srcLen := 16, dst := cDst d + 4096 * pos }
  | _ => { first := 0, step := 1, src := cSrc d + slotBytes d * pos, srcLen := slotBytes d, dst := cDst d + 4096 * pos }

/-! ### Saved granules (R170–R172) -/

/-- Bytes of an element of a plane. -/
def planeElem (d : List Byte) : Nat := (fmtOf (cSrcFmt d)).bytes
/-- Elements of a granule. -/
def granuleElems (d : List Byte) : Nat := 4096 / planeElem d
/-- Encodings of a granule. -/
def encodings (size : Nat) (bs : List Byte) : List Nat :=
  (List.range (bs.length / size)).map fun i => leNat ((bs.drop (size * i)).take size)

/-- Bits as bytes, from bit 0 upwards. -/
def packBits (bs : List Bool) : List Byte :=
  (List.range ((bs.length + 7) / 8)).map fun i =>
    BitVec.ofNat 8 ((List.range 8).foldl (fun v k => v + if bs.getD (8 * i + k) false then 2 ^ k else 0) 0)

/-- Bits of a number, low first. -/
def lowBits (n v : Nat) : List Bool := (List.range n).map fun i => bit v i

/-- Runs of equal exponents, at most 256 long: (exponent, length). -/
def exponentRuns (es : List Nat) : List (Nat × Nat) :=
  (es.foldl (fun (rs : List (Nat × Nat)) e =>
    match rs with
    | (x, n) :: rest => if x = e && n < 256 then (x, n + 1) :: rest else (e, 1) :: (x, n) :: rest
    | [] => [(e, 1)]) []).reverse

/-- Sign of an encoding. -/
def signOf (f : Fmt) (v : Nat) : Bool := bit v (f.ebits + f.fbits)
/-- Exponent field of an encoding. -/
def expOf (f : Fmt) (v : Nat) : Nat := v / 2 ^ f.fbits % 2 ^ f.ebits

/-- Payload of planes mode (R171). -/
def planesPayload (f : Fmt) (es : List Nat) : List Byte :=
  let runs := exponentRuns (es.map (expOf f))
  padTo 16 (packBits (es.map (signOf f)) ++
    (runs.flatMap fun r => [BitVec.ofNat 8 r.1, BitVec.ofNat 8 (r.2 - 1)]) ++
    packBits (es.flatMap fun v => lowBits f.fbits v))

/-- Payload of sparse mode (R171). -/
def sparsePayload (f : Fmt) (es : List Nat) : List Byte :=
  padTo 16 (packBits (es.map fun v => v ≠ 0) ++ (es.filter fun v => v ≠ 0).flatMap fun v => leBytes f.bytes v)

/-- A slot of save plane: the smallest mode, the lower number on a tie (R170, R171). -/
def savePlane (fmt : Nat) (bs : List Byte) : List Byte :=
  let f := fmtOf fmt
  let es := encodings f.bytes bs
  let p1 := planesPayload f es
  let p2 := sparsePayload f es
  let header (mode runs nonzero len : Nat) : List Byte :=
    leBytes 16 (mode + fieldAt 4 fmt + fieldAt 16 runs + fieldAt 32 nonzero + fieldAt 48 len)
  if bs.length ≤ p1.length && bs.length ≤ p2.length then header 0 0 0 bs.length ++ bs
  else if p1.length ≤ p2.length then header 1 (exponentRuns (es.map (expOf f))).length 0 p1.length ++ p1
  else header 2 0 (es.filter fun v => v ≠ 0).length p2.length ++ p2

/-- Bit `i` of bytes. -/
def bitAt (bs : List Byte) (i : Nat) : Bool := (bs.getD (i / 8) 0).getLsbD (i % 8)

/-- A header of a saved granule that breaks R170. -/
def headerBad (fmt : Nat) (h : List Byte) : Bool :=
  let mode := dbits h 3 0
  let len := dbits h 63 48
  dbits h 127 64 ≠ 0 || dbits h 15 8 ≠ 0 || mode > 2 || dbits h 7 4 ≠ fmt ||
  len % 16 ≠ 0 || len < 16 || len > 4096 || (mode ≠ 1 && dbits h 31 16 ≠ 0) ||
  (mode ≠ 2 && dbits h 47 32 ≠ 0) || (mode = 0 && len ≠ 4096)

/-- Expand a run list. -/
def expandRuns (bs : List Byte) : List Nat :=
  match bs with
  | e :: n :: rest => List.replicate (n.toNat + 1) e.toNat ++ expandRuns rest
  | _ => []

/-- Restore a saved granule: none where the header and the payload do not agree (R171, R173). -/
def restorePlane (fmt : Nat) (h p : List Byte) : Option (List Byte) :=
  let f := fmtOf fmt
  let n := 4096 / f.bytes
  match dbits h 3 0 with
  | 0 => some p
  | 1 =>
    let runs := dbits h 31 16
    let es := expandRuns ((p.drop (n / 8)).take (2 * runs))
    let fr := p.drop (n / 8 + 2 * runs)
    let need := n / 8 + 2 * runs + (n * f.fbits + 7) / 8
    if es.length ≠ n || (es.any fun e => e ≥ 2 ^ f.ebits) || (need + 15) / 16 * 16 ≠ p.length then none
    else
      some ((List.range n).flatMap fun i =>
        let frac := (List.range f.fbits).foldl (fun v k => v + if bitAt fr (f.fbits * i + k) then 2 ^ k else 0) 0
        leBytes f.bytes (f.withSign (bitAt p i) (es.getD i 0 * 2 ^ f.fbits + frac)))
  | _ =>
    let marks := (List.range n).map fun i => bitAt p i
    let nz := (marks.filter id).length
    let need := n / 8 + nz * f.bytes
    if nz ≠ dbits h 47 32 || (need + 15) / 16 * 16 ≠ p.length then none
    else
      some (((List.range n).foldl (fun (acc : List Byte × Nat) i =>
        if marks.getD i false then
          (acc.1 ++ ((p.drop (n / 8 + f.bytes * acc.2)).take f.bytes), acc.2 + 1)
        else (acc.1 ++ List.replicate f.bytes 0, acc.2)) ([], 0)).1)

/-- A power of two's multiple of 448 reaches a magnitude: max ≤ 448 × 2^e. -/
def fitsNarrow (x : Num) (e : Int) : Bool := !(Num.fin false 448 e).lt x

/-- The least exponent in −128 … 127 that fits, searched upwards (R172). -/
def narrowFrom (n : Nat) (x : Num) (e : Int) : Int :=
  match n with
  | 0 => 127
  | k + 1 => if fitsNarrow x e then e else narrowFrom k x (e + 1)

/-- Magnitude of a finite value; zero for another. -/
def finiteAbs (x : Num) : Num :=
  match x with
  | .fin _ m e => .fin false m e
  | _ => .fin false 0 0

/-- Exponent e_b of a block (R172). -/
def narrowExp (xs : List Num) : Int :=
  let fin := xs.filter Num.isFin
  if fin.isEmpty then 0
  else narrowFrom 256 (maxNum (.fin false 0 0) (fin.map finiteAbs)) (-128)

/-- Outcome of converting a unit: bytes, saturations, non-finite sources, census. -/
structure Converted where
  bytes : List Byte
  sats : Nat
  nonfinite : Nat
  census : Census

/-- A slot of save narrow (R172). -/
def saveNarrow (fmt : Nat) (bs : List Byte) : Converted :=
  let f := fmtOf fmt
  let xs := (encodings f.bytes bs).map (decodeNum f)
  let blocks := (List.range (xs.length / 256)).map fun b => (xs.drop (256 * b)).take 256
  let es := blocks.map narrowExp
  let cs := (blocks.zip es).flatMap fun be => be.1.map fun x => convRn f8n (x.scale (-be.2))
  { bytes := (es.map fun e => BitVec.ofNat 8 (unsigned 8 e)) ++ List.replicate (16 - es.length) 0 ++
      cs.flatMap fun c => leBytes 1 c.bits,
    sats := (cs.filter fun c => c.sat).length, nonfinite := (cs.filter fun c => c.nonfinite).length, census := {} }

/-- An exponent block with unused bytes that are not zero breaks R172. -/
def exponentsBad (fmt : Nat) (h : List Byte) : Bool := (h.drop (granuleOf fmt)).any fun b => b ≠ 0
where
  /-- Exponents in use: 8 for FP16, 4 for FP32. -/
  granuleOf (fmt : Nat) : Nat := if fmt = 1 then 8 else 4

/-- Restore a narrow granule (R172). -/
def restoreNarrow (fmt : Nat) (bs : List Byte) : Converted :=
  let f := fmtOf fmt
  let body := bs.drop 16
  let cs := (List.range body.length).map fun i =>
    convRn f ((decodeNum f8n (body.getD i 0).toNat).scale (signed 8 (bs.getD (i / 256) 0).toNat))
  { bytes := cs.flatMap fun c => leBytes f.bytes c.bits,
    sats := (cs.filter fun c => c.sat).length, nonfinite := (cs.filter fun c => c.nonfinite).length, census := {} }

/-! ### Conversion of a unit (R107–R113, R121, R122, R165) -/

/-- Elements of a Q8r row, dequantised (R121). -/
def q8rElements (bs : List Byte) : List Conv :=
  let sc := leNat (bs.take 2)
  let off := leNat ((bs.drop 2).take 2)
  (bs.drop 4).map fun q => dequantQ8r sc off q.toNat

/-- Source elements of a unit as numbers, each with whether dequantising it saturated (R110, R121). -/
def sourceNums (fmt : Nat) (bs : List Byte) : List (Num × Bool) :=
  if fmt = q8r then (q8rElements bs).map fun c => (decodeNum fp16 c.bits, c.sat)
  else (encodings (fmtOf fmt).bytes bs).map fun v => (decodeNum (fmtOf fmt) v, false)

/-- A row quantised to Q8r, with the census of what its elements read back as (R122; log 24). -/
def convertToQ8r (ws : List Num) (sats : Nat) : Converted :=
  let r := quantQ8r ws
  let bytes := leBytes 2 r.scale ++ leBytes 2 r.offset ++ r.codes.map fun q => BitVec.ofNat 8 q
  let back := (ws.zip (r.codes.map fun q => (dequantQ8r r.scale r.offset q).bits))
  let c := back.foldl (fun (n : Census) e => n.countExact e.1 fp16 e.2 false) {}
  { bytes := bytes, sats := sats + r.sats, nonfinite := r.nonfinite,
    census := { c with sats := satAdd 32 c.sats r.sats } }

/-- Convert the elements of a unit; `first` is the number of its first element in the copy (R116). An element of a
Q8r row saturates, once, where its dequantisation or its conversion does (R110, R121; log 24). -/
def convertUnit (d : List Byte) (t : Tile) (first : Nat) (bs : List Byte) : Converted :=
  if !cConvert d then { bytes := bs, sats := 0, nonfinite := 0, census := {} }
  else
    let all := sourceNums (cSrcFmt d) bs
    let src := if cQ8r d && copyDraws d then (all.drop (first % cRowLen d)).take (copyUnit d first).step else all
    let ws := src.map fun x => x.1.scale (cScale d)
    if cDstFmt d = q8r then convertToQ8r ws (src.filter Prod.snd).length
    else
      let fd := fmtOf (cDstFmt d)
      let idx := List.range ws.length
      let cs := ((ws.zip (src.map Prod.snd)).zip idx).map fun e =>
        let x := if cGradient d then convGradient' (elementFmt d) fd t (64 + (first + e.2) % 64) e.1.1 else convRn fd e.1.1
        (e.1.1, { x with sat := x.sat || e.1.2 })
      { bytes := cs.flatMap fun c => leBytes fd.bytes c.2.bits,
        sats := (cs.filter fun c => c.2.sat).length,
        nonfinite := (cs.filter fun c => c.2.nonfinite).length,
        census := cs.foldl (fun (n : Census) c => n.countExact c.1 fd c.2.bits c.2.sat) {} }
where
  /-- Gradient conversion with an A-feeder generator (R113, R116). -/
  convGradient' (src dst : Fmt) (t : Tile) (gen : Nat) (x : Num) : Conv :=
    let n := srBits src dst
    if n = 0 then convRn dst x else convSr dst x n (genBits t gen n)

end Sys2Proof.Machine
end

