-- ==== Sys2Proof/Machine/Async.lean ====
section
/-!
DEFINITION. Classes 0xD and 0xE: issuing copies, gathers and exchanges, the requests of a copy and the
packets of an exchange, `COPY.WAIT` and the fences (R61, R141, R164–R169, R174, R194–R195, R277–R280).
-/

namespace Sys2Proof.Machine

/-! ### Issue -/

/-- Read the 64-byte descriptor a uniform register names, then run an issue (R61, R63, R149). -/
def Ctx.withDescriptor (c : Ctx) (f : Fields) (k : List Byte → State) : State :=
  c.checkedOnce { dst := 2, a := 2 } f <|
    let a := (readU c.group f.srcA).toNat
    if !inWindow c.block.launch.params a 64 then c.freeze 0x07 a
    else if readBad c.tile.lmBad a 64 then c.freezeLm a
    else k (readBytes c.tile.lm a 64)

/-- Take the lowest free tag and start a stream; with no free tag the group waits (R61, R162). -/
def Ctx.takeTag (c : Ctx) (s : State) (dst : Byte) (kind : StreamKind) (d : List Byte)
    (k : State → Nat → State) : State :=
  match freeTag c.tile with
  | none => s
  | some tag =>
    let st : Stream := { kind := kind, serial := c.tile.serial, slot := c.slot, group := c.gi, desc := d }
    let t := { c.tile with streams := mset c.tile.streams tag st, serial := c.tile.serial + 1 }
    k (c.finish t c.block (writeU c.group dst (BitVec.ofNat 32 tag))) tag

/-- A multicast names a tile that another tenant holds (R164). -/
def multicastForeign (s : State) (tenant : Nat) (ts : List Nat) : Bool := ts.any fun m => ownerOf s m ≠ some tenant

/-- The set's poison refuses a copy: gradient-tagged, to tenant memory (R141). -/
def copyRefused (s : State) (tenant : Nat) (d : List Byte) : Bool :=
  cGradient d && cDstSpace d = 1 && (setAt s tenant (cParamSet d)).poisoned

/-- Bytes of a unit's source still needed: the payload of a saved granule follows its header (R170);
none where the header breaks its rules (R173). -/
def sourceNeed (d : List Byte) (u : CopyUnit) (head : List Byte) : Option Nat :=
  if cOp d = 2 && head.length ≥ 16 then
    (if headerBad (cSrcFmt d) (head.take 16) then none else some (16 + dbits (head.take 16) 63 48))
  else some u.srcLen

/-- Source bytes of the present unit fetched so far, from its start. -/
def fetched (st : Stream) : List Byte := st.got.flatMap fun e => e.2

/-- A tenant virtual address's target as the tables stand. -/
def peekTarget (s : State) (tenant va : Nat) : Option Nat :=
  ((walk s tenant va).leaf).map fun e => leafTarget e.1 va e.2

/-- Board address of the request a copy makes next, where it is one in tenant memory (R162, R181). -/
def copyTarget (s : State) (tenant : Nat) (st : Stream) : Option Nat :=
  let d := st.desc
  if cSound d = 4 || cSound d = 5 || st.next ≥ copyTotal d then none
  else
    let u := copyUnit d st.next
    if st.outReady then (if cDstSpace d = 1 then peekTarget s tenant (u.dst + st.wrote) else none)
    else
      match sourceNeed d u (fetched st) with
      | some need =>
        if (fetched st).length < need && cSrcTenant d then peekTarget s tenant (u.src + (fetched st).length)
        else if (fetched st).length ≥ need && cDstSpace d = 1 then peekTarget s tenant u.dst
        else none
      | none => none

/-- A copy whose request is done goes on to its next one, at the end of the tile's address streams (R162, R181). -/
def State.aimCopy (s : State) (l tenant tag : Nat) (old : Option Stream) : State :=
  match streamAt s l tag with
  | some st =>
    if old = some st then s else
    let t := (tileAt s l).requeue (.copy st.serial) fun _ => false
    s.setTile l { t with streams := mset t.streams tag { st with target := copyTarget s tenant st } }
  | none => s

/-- COPY.ISSUE (R61, R130, R141, R164). -/
def execCopyIssue (i : Issue) (f : Fields) (ecc : Ecc) (s : State) : Host.Outcome State Fault Refusal :=
  .next <| issue s i fun c0 =>
    let c := c0.ecc ecc
    c.withDescriptor f fun d =>
      let ts := multicastTiles c.l d
      let quota := (tenantAt c.s c.tenant).watch.quota
      if copyDescBad d c.l quota || (cDstSpace d = 2 && ts.any fun m => !tilePresent c.s m) then c.freeze 0x06 0
      else if copyExtentBad c.block.launch.params d c.l then c.freeze 0x07 (cSrc d)
      else if cDstSpace d = 2 && multicastForeign c.s c.tenant ts then c.freeze 0x21 0
      else
        c.takeTag s f.dst .copy d fun s tag =>
          if copyRefused s c.tenant d then
            (s.retireTag c.l tag).updWatch c.tenant fun w => { w with refusedStores := satAdd 32 w.refusedStores 1 }
          else s.aimCopy c.l c.tenant tag none

/-- COPY.WAIT (R61): one tag, or every tag of the block. -/
def execCopyWait (i : Issue) (f : Fields) (s : State) : Host.Outcome State Fault Refusal :=
  .next <| issue s i fun c =>
    c.checkedOnce { a := 2, mod := 1 } f <|
      let tag := (readU c.group f.srcA).toNat
      let mine := c.tile.streams.filter fun e => e.2.slot = c.slot && (f.mod.getLsbD 0 || e.1 = tag)
      match mine with
      | [] => c.done c.group
      | _ => c.done { c.group with wait := .tags (mine.map fun e => e.2.serial) }

/-! ### Gather descriptors (R194, R195) -/

/-- Table descriptor of a tenant; zeros where none is written (R191). -/
def tableDesc (s : State) (tenant table : Nat) : List Byte :=
  (mget (tenantAt s tenant).tables table).getD (List.replicate 32 0)
/-- Rows of a table. -/
def tRows (td : List Byte) : Nat := dbits td 79 48
/-- Elements per row. -/
def tWidth (td : List Byte) : Nat := dbits td 95 80
/-- Row format code. -/
def tFormat (td : List Byte) : Nat := dbits td 99 96
/-- Row bytes of a table (R191). -/
def tRowBytes (td : List Byte) : Nat := copyRowBytes true (tFormat td) (tWidth td)

/-- Pooling of a gather. -/
def gPooling (d : List Byte) : Nat := dbits d 3 0
/-- Indices of a gather. -/
def gCount (d : List Byte) : Nat := dbits d 39 24 + 1
/-- Lengths come from a list. -/
def gLengthsEn (d : List Byte) : Bool := dbits d 15 15 = 1
/-- Output bytes of a row (R195). -/
def gOutBytes (d td : List Byte) : Nat := tWidth td * (if dbits d 19 16 = 1 then 2 else 4)
/-- Output rows: one per index, or one per bag (R195, R196). -/
def gOutputs (d : List Byte) : Nat :=
  if gPooling d = 0 then gCount d
  else if gLengthsEn d then dbits d 55 40
  else gCount d / max 1 (dbits d 55 40)

/-- Field rules of R195 and R194. -/
def gatherDescBad (d td : List Byte) : Bool :=
  dbits d 511 212 ≠ 0 || dbits d 191 180 ≠ 0 || dbits d 159 148 ≠ 0 || dbits d 127 116 ≠ 0 || dbits d 95 84 ≠ 0 ||
  dbits d 63 56 ≠ 0 || dbits d 23 20 ≠ 0 || gPooling d > 3 || dbits d 13 12 = 3 || dbits d 19 16 > 1 ||
  dbits d 211 192 % 16 ≠ 0 || dbits d 179 160 % 16 ≠ 0 || dbits d 83 64 % 4 ≠ 0 ||
  (if gLengthsEn d then dbits d 147 128 % 2 ≠ 0 else dbits d 147 128 ≠ 0) ||
  (if gPooling d = 3 then dbits d 115 96 % 2 ≠ 0 else dbits d 115 96 ≠ 0) ||
  (if gPooling d = 0 then dbits d 55 40 ≠ 0 else dbits d 55 40 = 0) ||
  (gPooling d = 0 && gLengthsEn d) ||
  tRows td = 0 ||
  (gPooling d ≠ 0 && !gLengthsEn d && gCount d % max 1 (dbits d 55 40) ≠ 0) ||
  dbits d 211 192 < gOutBytes d td

/-- Extents of a gather that leave the window (R195). -/
def gatherExtentBad (p : BlockParams) (d td : List Byte) : Bool :=
  !inWindow p (dbits d 83 64) (4 * gCount d) ||
  (gPooling d = 3 && !inWindow p (dbits d 115 96) (2 * gCount d)) ||
  (gLengthsEn d && !inWindow p (dbits d 147 128) (2 * dbits d 55 40)) ||
  !inWindow p (dbits d 179 160) ((gOutputs d - 1) * dbits d 211 192 + gOutBytes d td)

/-- Bytes of the index, weight and length lists of a gather, in that order, as local memory stands (R194). -/
def gatherLists (lm : SMap Byte) (d : List Byte) : List Byte :=
  readBytes lm (dbits d 83 64) (4 * gCount d) ++
    (if gPooling d = 3 then readBytes lm (dbits d 115 96) (2 * gCount d) else []) ++
    (if gLengthsEn d then readBytes lm (dbits d 147 128) (2 * dbits d 55 40) else [])

/-- GATHER.ISSUE (R61, R195). The lists may be read from here on (R199). -/
def execGatherIssue (i : Issue) (f : Fields) (ecc : Ecc) (s : State) : Host.Outcome State Fault Refusal :=
  .next <| issue s i fun c0 =>
    let c := c0.ecc ecc
    c.withDescriptor f fun d =>
      let td := tableDesc c.s c.tenant (dbits d 11 4)
      if gatherDescBad d td then c.freeze 0x06 0
      else if gatherExtentBad c.block.launch.params d td then c.freeze 0x07 (dbits d 83 64)
      else
        c.takeTag s f.dst .gather d fun s tag =>
          match streamAt s c.l tag with
          | some st =>
            (s.setStream c.l tag { st with out := gatherLists c.tile.lm d, turn := s.globals.gatherClock }).updGlobals fun g =>
              { g with gatherClock := g.gatherClock + 1 }
          | none => s

/-! ### Exchanges (R277–R280) -/

/-- Bytes of an exchange. -/
def xLen (d : List Byte) : Nat := dbits d 63 40 + 1
/-- Destination in the peer's tenant memory. -/
def xDstTenant (d : List Byte) : Bool := dbits d 21 21 = 1
/-- Source in tenant memory. -/
def xSrcTenant (d : List Byte) : Bool := dbits d 20 20 = 1
/-- A flag follows the data. -/
def xFlagEn (d : List Byte) : Bool := dbits d 22 22 = 1

/-- A dimension is in use: some link serves it; `LinkDimension` 15 serves none (R256, R257). -/
def dimInUse (s : State) (dim : Nat) : Bool := dim ≠ 15 && s.links.links.any fun e => e.2.dimension = dim

/-- Default mask of a dimension (R270). -/
def defaultMask (dim : Nat) : W32 := BitVec.ofNat 32 (2 ^ dim + fieldAt 16 (2 ^ dim))
/-- `PartnerMask` of a dimension. -/
def partnerMask (s : State) (dim : Nat) : Nat := (mgetD s.links.partnerMask dim (defaultMask dim)).toNat
/-- Partner of a node on a dimension (R270). -/
def partnerOf (s : State) (node dim : Nat) : Nat :=
  let m := partnerMask s dim
  node ^^^ (if bit node (bits m 31 28) then bits m 27 16 else bits m 11 0)

/-- Node an exchange names (R277). -/
def xNode (s : State) (d : List Byte) : Nat :=
  if dbits d 3 0 = 0 then partnerOf s s.links.nodeId (dbits d 7 4) else dbits d 19 8

/-- Field rules of R277 and R278. -/
def exchangeDescBad (s : State) (d : List Byte) : Bool :=
  dbits d 511 224 ≠ 0 || dbits d 191 180 ≠ 0 || dbits d 39 35 ≠ 0 || dbits d 23 23 ≠ 0 || dbits d 3 0 > 1 ||
  xLen d % 16 ≠ 0 || dbits d 111 64 % 16 ≠ 0 || dbits d 159 112 % 16 ≠ 0 || dbits d 179 160 % 4 ≠ 0 ||
  (xFlagEn d && xDstTenant d) ||
  (if xDstTenant d then dbits d 34 24 ≠ 0 else dbits d 34 24 > 1279 || dbits d 159 132 ≠ 0) ||
  (if dbits d 3 0 = 0 then dbits d 19 8 ≠ 0 || !dimInUse s (dbits d 7 4) else dbits d 7 4 ≠ 0) ||
  (!xDstTenant d && dbits d 159 112 + xLen d > 0x100000)

/-- Data packets of an exchange (R279). -/
def xParts (d : List Byte) : Nat := (xLen d + 4095) / 4096
/-- Bytes of one of them. -/
def xPartLen (d : List Byte) (k : Nat) : Nat := min 4096 (xLen d - 4096 * k)

/-- Exchange data packet k (R265, R266, R279). -/
def exchangePacket (s : State) (tenant : Nat) (d : List Byte) (k : Nat) (bs : List Byte) : Packet :=
  { basePacket s.links.nodeId (xNode s d) tenant 5 0 with
    addr := BitVec.ofNat 48 (dbits d 159 112 + 4096 * k),
    aux := BitVec.ofNat 64 (fieldAt 53 (dbits d 34 24) + fieldAt 52 (b2n (xDstTenant d))),
    length := bs.length, key := (tenantAt s tenant).exchangeKey, data := bs }

/-- Exchange flag packet (R266, R268). -/
def flagPacket (s : State) (tenant : Nat) (d : List Byte) : Packet :=
  { basePacket s.links.nodeId (xNode s d) tenant 6 0 with
    addr := BitVec.ofNat 48 (dbits d 179 160),
    aux := BitVec.ofNat 64 (fieldAt 53 (dbits d 34 24) + dbits d 223 192),
    key := (tenantAt s tenant).exchangeKey }

/-- Read a range of tenant memory piece by piece, each inside one 1 KiB block. -/
def readRange (fuel : Nat) (s : State) (l tenant va n : Nat) : State × Part :=
  match fuel with
  | 0 => (s, .data [])
  | k + 1 =>
    if n = 0 then (s, .data [])
    else
      let m := pieceLen va n false
      match readTenant s l tenant va m with
      | (s1, .data bs) =>
        match readRange k s1 l tenant (va + m) (n - m) with
        | (s2, .data rest) => (s2, .data (bs ++ rest))
        | r => r
      | r => r

/-- Read the source of an exchange packet (R166, R278); a page of another slot is no source (R277; log 25). -/
def exchangeSource (s : State) (l tenant : Nat) (d : List Byte) (k : Nat) : State × Part :=
  let a := dbits d 111 64 + 4096 * k
  if xSrcTenant d then
    match readRange 8 s l tenant a (xPartLen d k) with
    | (s, .remote _) => (s, .fault 0x21 a)
    | r => r
  else readLocal s l tenant a (xPartLen d k)

/-- Send the next packet of an exchange, or its flag, when it may go (R166, R268, R279). -/
def pumpExchangeOnce (s : State) (l tenant tag : Nat) : Option State :=
  match streamAt s l tag with
  | some st =>
    if st.kind ≠ .exchange || streamFrozen s l tenant tag st || !earlierDone (tileAt s l) st then none
    else if st.next < xParts st.desc then
      match exchangeSource s l tenant st.desc st.next with
      | (s1, .data bs) =>
        some ((s1.setStream l tag { st with next := st.next + 1, inflight := st.inflight ++ [st.next] }).sendRequest
          (.exchangePart l tag st.next) (exchangePacket s1 tenant st.desc st.next bs))
      | (s1, .fault cause a) => some (s1.freezeStream l tenant tag st cause a)
      | _ => none
    else if st.inflight.isEmpty && !st.flagSent && xFlagEn st.desc && st.written.length = xParts st.desc then
      some ((s.setStream l tag { st with flagSent := true }).sendRequest (.exchangeFlag l tag)
        (flagPacket s tenant st.desc))
    else none
  | none => none

/-- Send every packet of an exchange that may go. -/
def pumpExchange (fuel : Nat) (s : State) (l tenant tag : Nat) : State :=
  match fuel with
  | 0 => s
  | k + 1 =>
    match pumpExchangeOnce s l tenant tag with
    | some s1 => pumpExchange k s1 l tenant tag
    | none => s

/-- Packets of an exchange and its flag. -/
def exchangeFuel (s : State) (l tag : Nat) : Nat :=
  match streamAt s l tag with
  | some st => xParts st.desc + 1
  | none => 0

/-- XCHG.ISSUE (R61, R278). -/
def execXchgIssue (i : Issue) (f : Fields) (ecc : Ecc) (s : State) : Host.Outcome State Fault Refusal :=
  .next <| issue s i fun c0 =>
    let c := c0.ecc ecc
    c.withDescriptor f fun d =>
      if exchangeDescBad c.s d then c.freeze 0x06 0
      else if !xSrcTenant d && !inWindow c.block.launch.params (dbits d 111 64) (xLen d) then
        c.freeze 0x07 (dbits d 111 64)
      else c.takeTag s f.dst .exchange d fun s tag => pumpExchange (exchangeFuel s c.l tag) s c.l c.tenant tag

/-! ### Requests of a copy -/

/-- Convert the present unit (R165, R170–R173); none where a restore meets a broken granule. -/
def convertCopy (d : List Byte) (t : Tile) (u : CopyUnit) (bs : List Byte) : Option Converted :=
  let plain (bs : List Byte) : Converted := { bytes := bs, sats := 0, nonfinite := 0, census := {} }
  match cOp d with
  | 0 => some (convertUnit d t u.first bs)
  | 1 => some (plain (savePlane (cSrcFmt d) bs))
  | 2 => (restorePlane (cSrcFmt d) (bs.take 16) (bs.drop 16)).map plain
  | 3 => some (saveNarrow (cSrcFmt d) bs)
  | _ => if exponentsBad (cSrcFmt d) (bs.take 16) then none else some (restoreNarrow (cSrcFmt d) bs)

/-- The piece of tenant memory that follows a fetched one in the copy's own source: in the same unit, or the first of the
next (R177). -/
def aheadPiece (d : List Byte) (u : CopyUnit) (next off need : Nat) : Option (Nat × Nat) :=
  if off < need then some (u.src + off, pieceLen (u.src + off) (need - off) false)
  else if next + u.step < copyTotal d then
    let v := copyUnit d (next + u.step)
    some (v.src, pieceLen v.src v.srcLen false)
  else none

/-- Look-ahead of a copy within its own descriptor, in the page its in-order progress has reached: issued or not, the
choice open; dropped where translation or permission fails, at the board window, and where the data may not be read at
once (R177–R179; log 23). -/
def copyAhead (s : State) (l tenant tag at_ : Nat) (piece : Option (Nat × Nat)) : State :=
  match piece, streamAt s l tag with
  | some (a, n), some st =>
    let page := pageSpan s (regionOf l) tenant at_
    if free s 320 % 2 = 0 || a / page ≠ at_ / page || (a + n - 1) / page ≠ at_ / page then s
    else
      match translateNow s tenant a .r with
      | .ok b =>
        let d := boardDpa b
        if !isLocal s b || dpaResetting s d || dpaRetraining s d || dpaBad s d n then s
        else (s.touchBias d n).setStream l tag { st with ahead := mset st.ahead a (dpaBytes s d n) }
      | _ => s
  | _, _ => s

/-- Fetch the next piece of the present unit's source, or take it from what was read ahead (R165, R177). -/
def copyFetch (s : State) (l tenant tag : Nat) (st : Stream) (u : CopyUnit) (need : Nat) : State :=
  let off := (fetched st).length
  let a := u.src + off
  let n := pieceLen a (need - off) false
  let held := (mget st.ahead a).bind fun bs => if bs.length ≥ n then some (bs.take n) else none
  let r := match held with
    | some bs => (s, Part.data bs)
    | none => if cSrcTenant st.desc then readTenant s l tenant a n else readLocal s l tenant a n
  match r with
  | (s1, .data bs) =>
    let s2 := s1.setStream l tag { st with got := mset st.got off bs, ahead := merase st.ahead a }
    if cSrcTenant st.desc then copyAhead s2 l tenant tag a (aheadPiece st.desc u st.next (off + n) need) else s2
  | (s1, .remote b) =>
    if copyBlockBusy s1 l b || accessBlockBusy s1 l b then s else
    (s1.setStream l tag { st with inflight := [off] }).sendRequest (.copyRead l tag off) (readPacket s1 tenant b n)
  | (s1, .fault cause a) => s1.freezeStream l tenant tag st cause a
  | (_, _) => s

/-- Write bytes into every tile of a multicast that has not lost its part (R167). -/
def writeTiles (s : State) (ts : List Nat) (tenant a : Nat) (bs : List Byte) : State × Part :=
  ts.foldl (fun (acc : State × Part) m =>
    match acc.2 with
    | .done => writeLocal acc.1 m tenant a bs
    | _ => acc) (s, .done)

/-- The present unit is finished. -/
def nextUnit (st : Stream) (u : CopyUnit) : Stream :=
  { st with next := st.next + u.step, moved := st.moved + st.out.length, got := [], out := [], outReady := false, wrote := 0 }

/-- After `n` more bytes of the present unit are written. -/
def wroteBytes (st : Stream) (u : CopyUnit) (n : Nat) : Stream :=
  let st := { st with wrote := st.wrote + n }
  if st.wrote ≥ st.out.length then nextUnit st u else st

/-- Tiles still served by a copy into local memory. -/
def liveTiles (l : Nat) (st : Stream) : List Nat := (copyTiles l st.desc).filter fun m => !st.multicastLost.contains m

/-- Write the next piece of the present unit's result. -/
def copyWrite (s : State) (l tenant tag : Nat) (st : Stream) (u : CopyUnit) : State :=
  let a := u.dst + st.wrote
  let tenantDst : Bool := cDstSpace st.desc = 1
  let n := pieceLen a (st.out.length - st.wrote) tenantDst
  let bs := (st.out.drop st.wrote).take n
  let r := if tenantDst then writeTenant s l tenant a bs else writeTiles s (liveTiles l st) tenant a bs
  match r with
  | (s1, .done) => s1.setStream l tag (wroteBytes st u n)
  | (s1, .remote b) =>
    if copyBlockBusy s1 l b || accessBlockBusy s1 l b then s else
    (s1.setStream l tag { st with inflight := [n] }).sendRequest (.copyWrite l tag n) (writePacket s1 tenant b bs)
  | (s1, .fault cause a) => (s1.setStream l tag st).freezeStream l tenant tag st cause a
  | (_, _) => s

/-- Convert the present unit and count it (R111, R132). -/
def copyConvert (s : State) (l tenant tag : Nat) (st : Stream) (u : CopyUnit) : State :=
  match convertCopy st.desc (tileAt s l) u (fetched st) with
  | none => s.freezeStream l tenant tag st 0x06 u.src
  | some c =>
    let counted : Bool := cSound st.desc = 1 || cSound st.desc = 2
    let st' := { st with out := c.bytes, outReady := true,
                         census := if counted then st.census.merge c.census else st.census }
    let s1 := (s.setTile l ((tileAt s l).flag (c.sats > 0) (c.nonfinite > 0))).countConversions c.sats c.nonfinite
    copyWrite s1 l tenant tag st' u

/-- After the last unit: the flag, then the report or retirement (R129, R133, R166, R167). -/
def copyTail (s : State) (l tenant tag : Nat) (st : Stream) : State :=
  let d := st.desc
  let finish (s : State) : State :=
    if 1 ≤ cSound d && cSound d ≤ 3 then
      match streamAt s l tag with
      | some st => s.setStream l tag { st with phase := .reporting }
      | none => s
    else s.retireTag l tag
  if cFlagEn d && !st.flagSent then
    match writeTiles s (liveTiles l st) tenant (cFlagOff d) (leBytes 4 (dbits d 351 320)) with
    | (s1, .done) => finish (s1.setStream l tag { st with flagSent := true })
    | (s1, .fault cause a) => s1.freezeStream l tenant tag st cause a
    | (_, _) => s
  else finish s

/-- A compare or loss copy reads its operands and waits for the watch unit (R135, R141). -/
def copyOperands (s : State) (l tenant tag : Nat) (st : Stream) : State :=
  let d := st.desc
  match readLocal s l tenant (cSrc d) (srcExtent d) with
  | (s1, .data a) =>
    if cSound d = 5 then s1.setStream l tag { st with got := [(0, a)], phase := .reporting }
    else
      match readLocal s1 l tenant (cDst d) (4 * cRowLen d) with
      | (s2, .data b) => s2.setStream l tag { st with got := [(0, a), (1, b)], phase := .reporting }
      | (s2, .fault cause x) => s2.freezeStream l tenant tag st cause x
      | (_, _) => s
  | (s1, .fault cause x) => s1.freezeStream l tenant tag st cause x
  | (_, _) => s

/-- One request of a copy (R162–R167). `fresh` is that the tile has advanced since its last event, which a
gradient draw needs (R116). -/
def copyRequest (s : State) (l tenant tag : Nat) (st : Stream) (fresh : Bool) : State :=
  let d := st.desc
  if cSound d = 4 || cSound d = 5 then copyOperands s l tenant tag st
  else if st.next ≥ copyTotal d then copyTail s l tenant tag st
  else
    let u := copyUnit d st.next
    if st.outReady then copyWrite s l tenant tag st u
    else
      match sourceNeed d u (fetched st) with
      | none => s.freezeStream l tenant tag st 0x06 u.src
      | some need =>
        if (fetched st).length < need then copyFetch s l tenant tag st u need
        else if copyDraws d && !fresh then s
        else copyConvert s l tenant tag st u

/-- COPY_REQUEST_COMPLETE (R166, R169): one request of a copy that holds a slot (R162, R181), or the next packets of an
exchange. -/
def copyRequestCompleteRow (tile tag elapsed : Nat) (ecc : Ecc) (s0 : State) : State :=
    let s := (tick s0 tile elapsed).redraw
    match ownerOf s tile, streamAt s tile tag with
    | some tenant, some st =>
      if tileResetting s tile || streamFrozen s tile tenant tag st || st.phase ≠ .moving || !earlierDone (tileAt s tile) st then s0
      else
        match st.kind with
        | .copy =>
          if !st.inflight.isEmpty || !holdsSlot s tile (.copy st.serial) then s0
          else
            let s1 := if cSrcTenant st.desc then s.fastEcc ecc else s.localEcc tile tenant ecc
            (copyRequest s1 tile tenant tag st (elapsed > 0)).aimCopy tile tenant tag (some st)
        | .exchange => pumpExchange (exchangeFuel s tile tag) s tile tenant tag
        | .gather => s0
    | _, _ => s0

/-! ### Fences (R174) -/

/-- Earlier stores of the group that a fence waits for. -/
def fenceStores (s : State) (t : Tile) (slot g : Nat) (board : Bool) : List Nat :=
  (t.accesses.filter fun a => a.slot = slot && a.group = g && !a.orphan && a.kind = .store && (board || isLocal s a.target)).map
    Access.serial

/-- A fence: wait for the stores it names, then drop the L1 where it does (R174). -/
def fence (s : State) (i : Issue) (f : Fields) (board drop : Bool) : State :=
  issue s i fun c =>
    c.checkedOnce {} f <|
      match fenceStores c.s c.tile c.slot c.gi board with
      | [] => if drop then c.finish { c.tile with l1 := [] } c.block c.group else c.done c.group
      | ids => c.done { c.group with wait := .fence ids drop }

/-- FENCE.LOCAL (R174): local memory shows the tile every earlier access of the group; a store that missed the L1 shows
once it has performed. -/
def execFenceLocal (i : Issue) (f : Fields) (s : State) : Host.Outcome State Fault Refusal :=
  .next (fence s i f false false)

/-- FENCE.REGION (R174). -/
def execFenceRegion (i : Issue) (f : Fields) (s : State) : Host.Outcome State Fault Refusal :=
  .next (fence s i f false true)

/-- FENCE.BOARD (R174). -/
def execFenceBoard (i : Issue) (f : Fields) (s : State) : Host.Outcome State Fault Refusal :=
  .next (fence s i f true true)

end Sys2Proof.Machine
end

