-- ==== Sys2Proof/Machine/QueueOps.lean ====
section
/-!
DEFINITION. Work queues: the rings, completion records and mirrors (R303, R305, R306, R314–R317), queue
freezes (R310, R321), and which queue the engine serves next (R312, R313, R356).
-/

namespace Sys2Proof.Machine

/-- `QueueMask` assigns the queue to the tenant. -/
def queueAssigned (s : State) (t q : Nat) : Bool := (tenantAt s t).queueMask.getLsbD q
/-- The queue is in use (R306). -/
def queueInUse (s : State) (t q : Nat) : Bool := queueAssigned s t q && (queueAt s t q).entries ≠ 0
/-- The queue is frozen. -/
def queueFrozen (s : State) (t q : Nat) : Bool := isFrozen s t (queueMaster q)
/-- `QueueState` (R323). -/
def queueState (s : State) (t q : Nat) : Nat :=
  if !queueAssigned s t q then 3 else if !queueInUse s t q then 0 else if queueFrozen s t q then 2 else 1

/-- DPA of a tenant's slice of the queue area (R305). -/
def sliceBase (s : State) (t : Nat) : Nat := s.host.queueArea + 2 ^ 21 * t
/-- DPA of descriptor `n` of a queue (R304, R306). -/
def descAddress (s : State) (t q n : Nat) : Nat :=
  sliceBase s t + 0x20000 * q + 64 * ((n - 1) % max 1 (queueAt s t q).entries)
/-- DPA of the completion record of descriptor `n`. -/
def recordAddress (s : State) (t q n : Nat) : Nat :=
  sliceBase s t + 0x100000 + 0x10000 * q + 32 * ((n - 1) % max 1 (queueAt s t q).entries)

/-- `HostWindows` entry of a tenant's window (R303). -/
def hostWindow (s : State) (t w : Nat) : Nat := (mgetD s.host.windows (4 * t + w) 0).toNat
/-- Size of a window in bytes; 0: none. -/
def windowSize (e : Nat) : Nat := bits e 127 64
/-- Host physical base of a window. -/
def windowBase (e : Nat) : Nat := fieldAt 12 (bits e 63 12)

/-- The module writes host memory; nothing goes while the link is down (R320). -/
def State.writeHost (s : State) (a : Nat) (bs : List Byte) : State :=
  if s.host.linkWidth = 0 then s else s.updHost fun h => { h with written := h.written ++ [(a, bs)] }

/-- A completion record (R314). -/
def recordBytes (seq q status cause detail moved : Nat) : List Byte :=
  leBytes 8 seq ++ leBytes 2 status ++ leBytes 1 cause ++ leBytes 1 q ++ leBytes 4 detail ++ leBytes 8 moved ++ leBytes 8 seq

/-- Write a completion record to the ring and then to the mirror, the seal last (R316, R317). -/
def State.putRecord (s : State) (t q seq status cause detail moved : Nat) : State :=
  let bs := recordBytes seq q status cause detail moved
  let a := recordAddress s t q seq
  let s1 := ((s.touchBias a 32).writeDpa a bs).1
  let x := queueAt s t q
  if x.mirrorWindow = 0xFF then s1
  else
    let a := windowBase (hostWindow s t x.mirrorWindow) + x.mirrorOffset + 32 * ((seq - 1) % max 1 x.entries)
    (s1.writeHost a (bs.take 24)).writeHost (a + 24) (bs.drop 24)

/-- The largest n with descriptors up to n all complete, from those done above (R318). -/
def completedThrough (fuel n : Nat) (done : List Nat) : Nat :=
  match fuel with
  | 0 => n
  | k + 1 => if done.contains (n + 1) then completedThrough k (n + 1) done else n

/-- Count a descriptor complete (R318). -/
def Queue.finish (x : Queue) (seq : Nat) : Queue :=
  let done := ninsert x.done seq
  let c := completedThrough done.length x.completed done
  { x with completed := c, done := done.filter (· > c) }

/-- A descriptor completes: its record is written and counted; the record of work begun before a
Function Level Reset is discarded (R316, R320). -/
def State.completeDesc (s : State) (t q seq epoch status cause detail moved : Nat) : State :=
  if (queueAt s t q).epoch ≠ epoch || !queueInUse s t q then s
  else (s.putRecord t q seq status cause detail moved).updQueue t q fun x => x.finish seq

/-- Freeze a queue at a descriptor, whose status 3 record is written; it completes only on release
(R310, R315, R321; log 28). `moved` is what a FEED or EXPORT had moved (R314). -/
def State.freezeQueue (s : State) (t q seq cause : Nat) (desc : List Byte) (moved : Nat := 0) : State :=
  let s1 := if seq = 0 then s else s.putRecord t q seq 3 cause 0 moved
  (s1.updQueue t q fun x => { x with lastCause := cause }).freeze t
    { freezeRec (queueMaster q) cause seq with desc := desc }

/-- Put a queue in use: tail, head, completed count and read pointer 0, and every completion and mirror
slot zero (R306). -/
def State.startQueue (s : State) (t q n : Nat) : State :=
  let s1 := s.updQueue t q fun x =>
    { x with entries := n, tail := 0, head := 0, completed := 0, readPtr := 0, done := [], reread := [] }
  let s2 := (s1.writeDpa (sliceBase s t + 0x100000 + 0x10000 * q) (List.replicate (32 * n) 0)).1
  let x := queueAt s1 t q
  if x.mirrorWindow = 0xFF then s2
  else s2.writeHost (windowBase (hostWindow s t x.mirrorWindow) + x.mirrorOffset) (List.replicate (32 * n) 0)

/-! ### Dispatch -/

/-- Number of the descriptor a queue reads next: the first to reread, or the one after the head. -/
def nextDesc (s : State) (t q : Nat) : Nat :=
  let x := queueAt s t q
  x.reread.headD (x.head + 1)

/-- Bytes of the descriptor it reads next. -/
def nextDescBytes (s : State) (t q : Nat) : List Byte := dpaBytes s (descAddress s t q (nextDesc s t q)) 64

/-- The descriptor waits behind its fence (R307; log 27). -/
def fenced (s : State) (t q : Nat) : Bool :=
  bit (leNat (nextDescBytes s t q)) 6 && (queueAt s t q).completed + 1 < nextDesc s t q

/-- The engine may read the queue's next descriptor (R311, R313, R356); with a stack out of service the module
serves no tenant (R391). -/
def queueReady (s : State) (t q : Nat) : Bool :=
  inService s && s.service.stacksOut.isEmpty && queueInUse s t q && !queueFrozen s t q && !(tenantAt s t).clearingHold &&
    nextDesc s t q ≤ (queueAt s t q).tail && !fenced s t q

/-- Tenants with state, ascending; queues of any other tenant are not in use. -/
def queueKeys (s : State) : List Nat :=
  s.tenants.flatMap fun e => ((List.range 8).filter fun q => queueReady s e.1 q).map fun q => 8 * e.1 + q

/-- It is the queue's turn: the first ready queue after the one served last (R313). -/
def queueTurn (s : State) (t q : Nat) : Bool :=
  let ks := queueKeys s
  ks.contains (8 * t + q) &&
    (match ks.find? (· > s.host.turn) with
     | some k => k = 8 * t + q
     | none => ks.head? = some (8 * t + q))

/-- The engine has read the descriptor (R313). -/
def State.readDesc (s : State) (t q : Nat) : State :=
  (s.updHost fun h => { h with turn := 8 * t + q }).updQueue t q fun x =>
    match x.reread with
    | _ :: rest => { x with reread := rest }
    | [] => { x with head := x.head + 1 }

/-- Serve the next descriptor when it is of the type a command names: `run` starts it, or gives the cause
that freezes the queue before it starts (R310, R313). A read of the ring waits for its channel or scope (R187, R381). -/
def serveQueue (s : State) (t q ty : Nat) (run : State → Nat → List Byte → State ⊕ Nat) : State :=
  if !queueTurn s t q || dpaWaits s (descAddress s t q (nextDesc s t q)) 64 then s
  else
    let n := nextDesc s t q
    let d := nextDescBytes s t q
    let served (s : State) : State := s.updHost fun h => { h with turn := 8 * t + q }
    let s1 := s.redraw.touchBias (descAddress s t q n) 64
    if dpaBad s (descAddress s t q n) 64 then (served (s1.fastUncorrectable (descAddress s t q n))).freezeQueue t q n 0x22 d
    else if dbits d 4 0 ≠ ty then s
    else
      match run (s1.readDesc t q) n d with
      | .inl s2 => s2
      | .inr cause => (served s1).freezeQueue t q n cause d

/-- Reserved bits of the header and of a range (R307, R310). -/
def descReserved (d : List Byte) (hi lo : Nat) : Bool := dbits d 15 7 ≠ 0 || dbits d 5 5 ≠ 0 || dbits d hi lo ≠ 0

end Sys2Proof.Machine
end

