-- ==== Sys2Proof/Machine/Blocks.lean ====
section
/-!
DEFINITION. Blocks: launching (R33, R34, R36, R38), ending (R39, R131) and the end of a personality
reload (R92).
-/

namespace Sys2Proof.Machine

/-- Thread registers per thread as allocated (R36). -/
def allocated (regs : Nat) : Nat := (regs + 7) / 8 * 8

/-- Groups of a block that have not ended. -/
def liveGroups (b : Block) : Nat := (b.groups.filter fun g => !g.ended).length

/-- Resident groups of a tile. -/
def residentGroups (t : Tile) : Nat := t.blocks.foldl (fun n e => n + liveGroups e.2) 0

/-- Thread registers held on a tile. -/
def residentRegs (t : Tile) : Nat :=
  t.blocks.foldl (fun n e => n + 32 * liveGroups e.2 * allocated e.2.launch.params.regs) 0

/-- Conditions of R38 for a block on a tile. -/
def fitsTile (t : Tile) (p : BlockParams) : Bool :=
  t.blocks.length < 8 && residentGroups t + p.groups ≤ 32 &&
  residentRegs t + 32 * p.groups * allocated p.regs ≤ 65536 &&
  t.blocks.all fun e =>
    let r := e.2.launch.params
    !overlaps p.lmBase p.lmSize r.lmBase r.lmSize && p.accMask &&& r.accMask = 0 && p.large = r.large

/-- A group at its start (R34). -/
def startGroup (init : List W32) : Group :=
  { live := 0xFFFFFFFF, paths := [{ pc := 0, mask := 0xFFFFFFFF }],
    uregs := (List.range 8).foldl (fun m i => mput 0 m i (init.getD i 0)) [] }

/-- The lowest free block slot (R360). -/
def freeSlot (t : Tile) : Nat := ((List.range 8).find? fun i => (mget t.blocks i).isNone).getD 0

/-- A block as launched; the default watchdog limit is taken now (R36). -/
def startBlock (la : Launch) (dflt : Nat) : Block :=
  let p := { la.params with watchdog := if la.params.watchdog = 0 then dflt else la.params.watchdog }
  { launch := { la with params := p }, groups := List.replicate p.groups (startGroup p.uniformInit) }

/-- An activation of tile microcode runs (R388). -/
def microcodeJob (s : State) : Bool := s.service.job.kind = 2 && s.service.job.phase = 1 && s.service.job.image = 2

/-- BLOCK_LAUNCH (R33, R38, R92, R388): the block that waits longest launches once it fits. -/
def execBlockLaunch (tile elapsed : Nat) (s0 : State) : Host.Outcome State Fault Refusal :=
  .next <|
    let s := (tick s0 tile elapsed).redraw
    let t := tileAt s tile
    match t.waiting with
    | [] => s0
    | la :: rest =>
      if inService s && !t.reloading && !tileResetting s tile && ownerOf s tile = some la.tenant && fitsTile t la.params &&
          !(microcodeJob s && clusterOf tile = s.service.job.progress) then
        s.setTile tile { t with waiting := rest,
                                blocks := mset t.blocks (freeSlot t) (startBlock la s.globals.barrierDefault) }
      else s0

/-- A block's asynchronous work has retired: streams, products from descriptors and drains (R39; log 29). -/
def asyncDone (t : Tile) (slot : Nat) : Bool :=
  !(t.streams.any fun e => e.2.slot = slot) &&
  !(t.ops.any fun o => o.slot = slot && !o.done &&
    (match o.kind with
     | .mmaDesc .. => true
     | .drain .. => true
     | _ => false))

/-- Stores of a block that ends go on to perform without it (R39; log 29). -/
def orphanStores (as : List Access) (slot : Nat) : List Access :=
  as.map fun a => if a.slot = slot then { a with orphan := true } else a

/-- Add an accumulator to the tenant's unattributed census; its maximum is discarded (R130, R131). -/
def State.unattribute (s : State) (tenant : Nat) (c : Census) : State :=
  s.updWatch tenant fun w => { w with unattributed := { w.unattributed.merge c with amax := 0, exactM := 0, exactE := 0 } }

/-- End a block: its slot, window and slots are free, its census is kept unattributed, and its LAUNCH
completes (R39, R131, R315). -/
def endBlock (s : State) (tile slot : Nat) (b : Block) (status cause : Nat) : State :=
  let t := tileAt s tile
  let la := b.launch
  let s1 := s.setTile tile { t with blocks := merase t.blocks slot, accesses := orphanStores t.accesses slot }
  let s2 := if b.census.isEmpty then s1 else s1.unattribute la.tenant b.census
  s2.completeDesc la.tenant la.queue la.seq la.epoch status cause (if status = 0 then 0 else tile) 0

/-- BLOCK_END (R39, R315). -/
def execBlockEnd (tile slot elapsed : Nat) (s0 : State) : Host.Outcome State Fault Refusal :=
  .next <|
    let s := (tick s0 tile elapsed).redraw
    let t := tileAt s tile
    match mget t.blocks slot with
    | some b =>
      if (b.groups.all fun g => g.ended) && asyncDone t slot then
        match b.discard with
        | none => endBlock s tile slot b 0 0
        | some cause => endBlock s tile slot b 1 cause
      else s0
    | none => s0

/-- PERSONALITY_RELOAD_COMPLETE (R92). -/
def execPersonalityReloadComplete (tile elapsed : Nat) (s0 : State) : Host.Outcome State Fault Refusal :=
  .next <|
    let s := tick s0 tile elapsed
    let t := tileAt s tile
    if t.reloading then s.setTile tile { t with reloading := false } else s0

end Sys2Proof.Machine
end

