-- ==== Sys2Proof/Machine/Control.lean ====
section
/-!
DEFINITION. Class 0xA: branches, calls and exits (R43–R45), the block barrier and its watchdog
(R47–R51), and words the decoder of a tile finds illegal (R59).
-/

namespace Sys2Proof.Machine

/-! ### Branches -/

/-- Target of a branch or call in one thread: the immediate, or register `src_a` (log 9). -/
def targetOf (g : Group) (f : Fields) (lane : Nat) : Nat :=
  match f.imm with
  | some v => v.toNat
  | none => (readReg g f.srcA lane).toNat

/-- Move each executing thread of the issuing path to its own target and the others past the
instruction: the path splits by program counter, and paths that meet merge (R43, R44). -/
def Group.jump (g : Group) (p : ThreadPath) (mask : W32) (target : Nat → Nat) : Group :=
  let stay : ThreadPath := { pc := p.pc + 8, mask := p.mask &&& ~~~mask }
  g.replacePath p (stay :: (lanesOf mask).map fun n => { pc := target n, mask := 1 <<< n })

/-- A branch target is not a multiple of 8: an immediate whatever threads execute, a register's in those that do (R59). -/
def targetBad (f : Fields) (ls : List Nat) (target : Nat → Nat) : Bool :=
  (match f.imm with
   | some v => v.toNat % 8 ≠ 0
   | none => false) || ls.any fun n => target n % 8 ≠ 0

/-- Fields of a branch: an immediate, or a thread register (log 9). -/
def useJump (dst : Nat) (f : Fields) : Use :=
  { dst := dst, a := if f.imm.isSome then 0 else 1, b := b2n f.imm.isSome, imm := true }

/-- BRA (R43, R59). -/
def execBra (i : Issue) (f : Fields) (s : State) : Host.Outcome State Fault Refusal :=
  .next <| issue s i fun c =>
    c.checked (useJump 0 f) f <|
      if targetBad f (lanesOf (c.lanes f)) (targetOf c.group f) then c.freeze 0x04 0
      else c.keep c.tile c.block (c.group.jump c.path (c.lanes f) (targetOf c.group f))

/-- CALL (R44): a branch that leaves the address after it in thread register `dst` (log 9). -/
def execCall (i : Issue) (f : Fields) (s : State) : Host.Outcome State Fault Refusal :=
  .next <| issue s i fun c =>
    c.checked (useJump 1 f) f <|
      if targetBad f (lanesOf (c.lanes f)) (targetOf c.group f) then c.freeze 0x04 0
      else
        let g := writeLanes c.group f.dst (c.lanes f) fun _ => BitVec.ofNat 32 (c.path.pc + 8)
        c.keep c.tile c.block (g.jump c.path (c.lanes f) (targetOf c.group f))

/-- RET (R44): each executing thread goes to the address in its register `src_a` (log 9). -/
def execRet (i : Issue) (f : Fields) (s : State) : Host.Outcome State Fault Refusal :=
  .next <| issue s i fun c =>
    c.checked { a := 1 } f <|
      if targetBad f (lanesOf (c.lanes f)) (fun n => (readReg c.group f.srcA n).toNat) then c.freeze 0x04 0
      else c.keep c.tile c.block
        (c.group.jump c.path (c.lanes f) fun n => (readReg c.group f.srcA n).toNat)

/-- NOP (R58). -/
def execNop (i : Issue) (f : Fields) (s : State) : Host.Outcome State Fault Refusal :=
  .next <| issue s i fun c => c.checked {} f (c.done c.group)

/-! ### The barrier -/

/-- A group has arrived at the barrier or ended (R47). -/
def Group.arrived (g : Group) : Bool := g.live = 0 || g.parkedMask = g.live

/-- Every parked thread becomes schedulable after the barrier it executed (R48). -/
def Group.release (g : Group) : Group :=
  { g with paths := (g.parked.map fun p => { pc := p.resume, mask := p.mask : ThreadPath }).foldl mergePath g.paths,
           parked := [] }

/-- The barrier releases when every group has arrived or ended and at least one has arrived (R48); the
watchdog stops (R50). -/
def Block.tryRelease (b : Block) : Block :=
  if b.groups.all Group.arrived && b.groups.any fun g => g.parkedMask ≠ 0 then
    { b with groups := b.groups.map Group.release, watchRunning := false }
  else b

/-- Threads park under the program counter at which they resume (R47, R48). -/
def parkAt (ps : List Parked) (resume : Nat) (mask : W32) : List Parked :=
  match ps with
  | [] => [{ resume := resume, mask := mask }]
  | p :: rest =>
    if p.resume = resume then { p with mask := p.mask ||| mask } :: rest else p :: parkAt rest resume mask

/-- Park the issuing path (R47). -/
def Group.park (g : Group) (p : ThreadPath) : Group :=
  { g.replacePath p [] with parked := parkAt g.parked (p.pc + 8) p.mask }

/-- A group with no live thread has ended, and its registers are free (R39). -/
def Group.settle (g : Group) : Group :=
  if g.live = 0 then
    { live := 0, ended := true, lastIssue := g.lastIssue }
  else g

/-- The watchdog starts from zero with the first thread parked in a barrier instance (R50). -/
def Block.startWatch (b : Block) : Block :=
  if b.watchRunning then b else { b with watchRunning := true, watchCount := 0 }

/-- Put a changed block of the issuing group back and try to release its barrier. -/
def Ctx.barrier (c : Ctx) (b : Block) (g : Group) : State :=
  let t := c.markTile c.tile b g
  c.s.setTile c.l { t with blocks := mset t.blocks c.slot (((mget t.blocks c.slot).getD b).tryRelease) }

/-- EXIT (R39, R45). -/
def execExit (i : Issue) (f : Fields) (s : State) : Host.Outcome State Fault Refusal :=
  .next <| issue s i fun c =>
    c.checked {} f <|
      let gone := c.lanes f
      let g := c.group.replacePath c.path [{ pc := c.path.pc + 8, mask := c.path.mask &&& ~~~gone }]
      c.barrier c.block ({ g with live := g.live &&& ~~~gone }.settle)

/-- BAR.BLOCK (R47–R50). -/
def execBarBlock (i : Issue) (f : Fields) (s : State) : Host.Outcome State Fault Refusal :=
  .next <| issue s i fun c =>
    c.checkedOnce {} f (c.barrier c.block.startWatch (c.group.park c.path))

/-- BARRIER_TIMEOUT (R50, R51): the tile's cycles pass, and a watchdog that reaches its limit freezes
its block. -/
def execBarrierTimeout (tile _slot elapsed : Nat) (s : State) : Host.Outcome State Fault Refusal :=
  .next (tick s tile elapsed)

/-- ILLEGAL_INSTRUCTION (R59): a word of class 0xF or an unassigned op freezes its group; a word of an assigned one is
not this event (log 8). -/
def execIllegalInstruction (i : Issue) (opcode : Byte) (s : State) : Host.Outcome State Fault Refusal :=
  .next <| if opcodeAssigned opcode then s else issue s i fun c => c.freeze 0x04 0

end Sys2Proof.Machine
end

