-- ==== Sys2Proof/Machine/Rules.lean ====
section
/-!
DEFINITION. The four update rules of the spring chips on FP32 bits (R228).
-/

namespace Sys2Proof.Machine

/-- FP32 sum. -/
def fAdd (a b : Nat) : Nat := laneAdd fp32 a b
/-- FP32 difference. -/
def fSub (a b : Nat) : Nat := laneAdd fp32 a (b ^^^ 2 ^ 31)
/-- FP32 product. -/
def fMul (a b : Nat) : Nat := laneMul fp32 a b
/-- A number of FP32 as bits: an integer rounded once. -/
def fOfNat (n : Nat) : Nat := (convRn fp32 (.fin false n 0)).bits

/-- A value within 2 units in the last place of an exact one, the choice open (R228; log 39). -/
def nearMag (op a b m : Nat) (e : Int) : Nat := 
  min (nearSpecial m e (Config.layerUlp op a b)).natAbs fp32.infMag

/-- Division by a layer constant: within 2 ulp (R228). -/
def layerDiv (a b : Nat) : Nat :=
  match (decodeNum fp32 a).div (decodeNum fp32 b) with
  | .fin s m e => fp32.withSign s (if m = 0 then 0 else nearMag 0 a b m e)
  | _ => laneDiv fp32 a b

/-- A power β^t of a layer constant: within 2 ulp (R228). -/
def layerPow (beta t : Nat) : Nat :=
  match decodeNum fp32 beta, decodeNum fp32 t with
  | .fin s m e, .fin _ tm te =>
    let n := if te ≥ 0 then tm * 2 ^ te.toNat else tm / 2 ^ (-te).toNat
    fp32.withSign (s && n % 2 = 1) (if m = 0 then 0 else nearMag 1 beta t (m ^ n) (e * n))
  | _, _ => arithNan fp32 61 beta t 0

/-- FP32 one. -/
def fOne : Nat := 0x3F800000

/-- U0 MOMENTUM, one element: new m and w. -/
def ruleU0 (lr decay beta1 m w g : Nat) : Nat × Nat :=
  let m := fAdd (fMul beta1 m) g
  (m, fSub (fSub w (fMul lr m)) (fMul (fMul lr decay) w))

/-- U1 ADAPTIVE, one element: new m, v and w; c1 and c2 formed once per layer. -/
def ruleU1 (lr decay beta1 beta2 eps c1 c2 m v w g : Nat) : Nat × Nat × Nat :=
  let m := fAdd (fMul beta1 m) (fMul (fSub fOne beta1) g)
  let v := fAdd (fMul beta2 v) (fMul (fMul (fSub fOne beta2) g) g)
  let q := laneDiv fp32 (layerDiv m c1) (fAdd (laneSqrt fp32 (layerDiv v c2)) eps)
  (m, v, fSub w (fMul lr (fAdd q (fMul decay w))))

/-! ### U2 ORTHO -/

/-- Exact sum as an FP32 pair. -/
def twoSum (a b : Nat) : Nat × Nat :=
  let s := fAdd a b
  let bp := fSub s a
  (s, fAdd (fSub a (fSub s bp)) (fSub b bp))

/-- Accumulate into a pair. -/
def pairAdd (p : Nat × Nat) (x : Nat) : Nat × Nat :=
  let (s, e) := twoSum p.1 x
  twoSum s (fAdd e p.2)

/-- Frobenius norm, its squares summed as a pair (R228). -/
def frobenius (xs : List Nat) : Nat :=
  let p := xs.foldl (fun p x => pairAdd p (fMul x x)) (0, 0)
  laneSqrt fp32 (fAdd p.1 p.2)

/-- Positions of a dot product in the array's order (log 38). -/
def dotOrder (n : Nat) : List Nat := (List.range n).mergeSort fun a b => Config.orthoOrder a ≤ Config.orthoOrder b

/-- A dot product on the spring chip's array (R228; log 38). -/
def dotFp32 (xs ys : List Nat) : Nat :=
  (dotOrder xs.length).foldl (fun acc k =>
    let x := xs.getD k 0
    let y := ys.getD k 0
    if Config.orthoFused then laneFma fp32 x y acc else fAdd acc (fMul x y)) 0

/-- Rows of a row-major matrix. -/
def rowsOfMatrix (cols : Nat) (xs : List Nat) : List (List Nat) :=
  (List.range (xs.length / cols)).map fun r => (xs.drop (r * cols)).take cols
/-- Transpose of a matrix of `c` columns. -/
def transposed (c : Nat) (rows : List (List Nat)) : List (List Nat) :=
  (List.range c).map fun j => rows.map fun r => r.getD j 0

/-- One Newton–Schulz iteration on r × c (R228). -/
def newtonSchulz (c : Nat) (x : List (List Nat)) : List (List Nat) :=
  let a := x.map fun r => x.map fun q => dotFp32 r q
  let xt := transposed c x
  (x.zip a).map fun e =>
    (e.1.zip xt).map fun f => fSub (fMul 0x3FC00000 f.1) (fMul 0x3F000000 (dotFp32 e.2 f.2))

/-- n iterations. -/
def iterate (n c : Nat) (x : List (List Nat)) : List (List Nat) :=
  match n with
  | 0 => x
  | k + 1 => iterate k c (newtonSchulz c x)

/-- U2 ORTHO on a layer of `cols` columns: new m and w (R228). -/
def ruleU2 (lr decay beta1 eps gain iters rows cols : Nat) (ms ws gs : List Nat) : List Nat × List Nat :=
  let ms := (ms.zip gs).map fun e => fAdd (fMul beta1 e.1) e.2
  let flip : Bool := rows > cols
  let m := if flip then transposed cols (rowsOfMatrix cols ms) else rowsOfMatrix cols ms
  let c := max rows cols
  let norm := fAdd (frobenius ms) eps
  let x := iterate iters c (m.map fun r => r.map fun v => layerDiv v norm)
  let xs := (if flip then transposed c x else x).flatten
  (ms, (ws.zip xs).map fun e => fSub (fSub e.1 (fMul (fMul lr gain) e.2)) (fMul (fMul lr decay) e.1))

/-- U3 ROWWISE, one entry: new accumulator and row. -/
def ruleU3 (lr decay eps acc : Nat) (ws gs : List Nat) : Nat × List Nat :=
  let sq := gs.foldl (fun a g => fAdd a (fMul g g)) 0
  let acc := fAdd acc (layerDiv sq (fOfNat gs.length))
  let step := laneDiv fp32 lr (fAdd (laneSqrt fp32 acc) eps)
  (acc, (ws.zip gs).map fun e => fSub (fSub e.1 (fMul step e.2)) (fMul (fMul lr decay) e.1))

end Sys2Proof.Machine
end

