-- ==== Sys2Proof/Machine/Gather.lean ====
section
/-!
DEFINITION. The gather engines and the Pool: tables and row addresses (R191, R193), the Pool Directory
(R202–R209), and the rows of `GATHER_INDEX_ISSUE`, `GATHER_ROW_ARRIVAL` and `POOL_FILL_COMPLETE`
(R196–R201, R207, R208).
-/

namespace Sys2Proof.Machine

/-! ### Tables (R191, R193) -/

/-- Rows of a table may be held in the Pool. -/
def tPoolEn (td : List Byte) : Bool := dbits td 112 112 = 1
/-- Pool class of a table. -/
def tClass (td : List Byte) : Nat := dbits td 109 108

/-- Tenant virtual address of row `r` (R193). -/
def rowAddress (td : List Byte) (r : Nat) : Nat :=
  let sh := dbits td 107 104 + 1
  let per := max 1 (dbits td 159 128)
  let shard := match dbits td 103 100 with
    | 0 => 0
    | 1 => r % sh
    | _ => r / per
  let loc := match dbits td 103 100 with
    | 0 => r
    | 1 => r / sh
    | _ => r % per
  let block := dbits td 183 176
  let off := if block = 0 then loc * dbits td 175 160
    else 1024 * (loc / block) + loc % block * dbits td 175 160
  dbits td 47 0 + 2 ^ 21 * (shard * dbits td 223 192) + off

/-- The eight counters of a table (R219). -/
def statsAt (s : State) (tenant table : Nat) : List Nat :=
  (mget (tenantAt s tenant).stats table).getD (List.replicate 8 0)

/-- Count in a table's statistics: 0 lookups, 1 hits, 2 merged, 3 misses, 4 fills, 5 declined, 6 bypassed,
7 skipped (R219). -/
def State.countTable (s : State) (tenant table : Nat) (which : List Nat) : State :=
  s.updTenant tenant fun t =>
    { t with stats := mset t.stats table (which.foldl (fun l k => updateAt l k fun v => satAdd 64 v 1) (statsAt s tenant table)) }

/-! ### The Pool Directory (R202–R206) -/

/-- `SetGroupMap` entry of a group; a group out of service holds nothing. -/
def setGroup (s : State) (g : Nat) : Nat := if s.mem.groupsOut.contains g then 0 else (mgetD s.mem.setGroups g 0).toNat
/-- Pool area of a group. -/
def groupArea (e : Nat) : Nat := fieldAt 12 (bits e 32 0)
/-- Bytes of a slot of a group. -/
def groupSlot (e : Nat) : Nat := 64 * 2 ^ bits e 39 36

/-- The tenant's groups of a class in a slice, ascending (R206). -/
def classGroups (s : State) (tenant cls slice : Nat) : List Nat :=
  (s.mem.setGroups.filter fun (e : Nat × W64) =>
    let v := setGroup s e.1
    bit v 63 && bits v 55 46 = tenant && bits v 45 44 = cls && e.1 / 1024 = slice).map Prod.fst

/-- The hash of R206. -/
def rowHash (table r : Nat) : Nat :=
  let x := r ^^^ (fieldAt 24 table % 2 ^ 32)
  let x := (0x045D9F3B * (x ^^^ (x / 2 ^ 16))) % 2 ^ 32
  x ^^^ (x / 2 ^ 16)

/-- The four way keys a row may stand in; a way's key is 4 × (1024 × group + set) + way. -/
def rowWays (gs : List Nat) (table r : Nat) : List Nat :=
  let j := rowHash table r % (1024 * gs.length)
  (List.range 4).map fun w => 4 * (1024 * gs.getD (j / 1024) 0 + j % 1024) + w

/-- DPA of a way's slot (R206). -/
def slotAddress (s : State) (key : Nat) : Nat :=
  let e := setGroup s (key / 4096)
  groupArea e + key % 4096 * groupSlot e

/-- An invalid way. -/
def noWay : Way := { tenant := 0, table := 0, row := 0, state := 0, doomed := false, declined := false, age := 0 }
/-- A way of the directory. -/
def wayAt (s : State) (key : Nat) : Way := (mget s.mem.dir key).getD noWay
/-- Replace a way. -/
def State.setWay (s : State) (key : Nat) (w : Way) : State :=
  s.updMem fun m => { m with dir := if w.state = 0 then merase m.dir key else mset m.dir key w }
/-- The way holds this row, whatever its state. -/
def wayMatches (s : State) (tenant table r key : Nat) : Bool :=
  let w := wayAt s key
  w.state ≠ 0 && w.tenant = tenant && w.table = table && w.row = r

/-- Make a way the most recently used of its set (R205, R207; log 35). -/
def State.touchWay (s : State) (key : Nat) : State :=
  let old := (wayAt s key).age
  (List.range 4).foldl (fun s i =>
    let k := key / 4 * 4 + i
    let w := wayAt s k
    if k = key then s.setWay k { w with age := 0 }
    else if w.age < old then s.setWay k { w with age := w.age + 1 }
    else s) s

/-- Age that orders the valid ways for replacement, largest first; ties to the lowest way (R207). -/
def oldest (s : State) (ks : List Nat) : Option Nat :=
  ks.foldl (fun (acc : Option Nat) k =>
    match acc with
    | none => some k
    | some a => if (wayAt s a).age < (wayAt s k).age then some k else some a) none

/-- The way a miss takes: invalid, else stale, else the oldest valid (R207). -/
def victim (s : State) (ks : List Nat) : Option Nat :=
  match ks.find? fun k => (wayAt s k).state = 0 with
  | some k => some k
  | none =>
    match ks.find? fun k => (wayAt s k).state = 3 with
    | some k => some k
    | none => oldest s (ks.filter fun k => (wayAt s k).state = 2)

/-- Set the route of an index of a stream. -/
def State.setRoute (s : State) (l tag i : Nat) (r : Route) : State :=
  match streamAt s l tag with
  | some st => s.setStream l tag { st with routes := mset st.routes i r }
  | none => s

/-- Indices that wait for a read to end take their own way again. -/
def State.reroute (s : State) (ws : List (Nat × Nat × Nat)) : State :=
  ws.foldl (fun s w =>
    match streamAt s w.1 w.2.1 with
    | some st =>
      match mget st.routes w.2.2 with
      | some (.joined _) | some (.shared _ _ _) => s.setRoute w.1 w.2.1 w.2.2 .slotless
      | _ => s
    | none => s) s

/-- Drop an entry of the directory; reads that joined its fill go on by themselves. -/
def State.dropWay (s : State) (key : Nat) : State :=
  let w := wayAt s key
  (s.setWay key noWay).reroute w.waiters

/-- What a directory lookup found in the code words of the directory, by byte address 8 × way key: two
entries a word (R205, R208). -/
def State.directoryEcc (s : State) (e : Ecc) : State :=
  let src (a : Nat) : W32 := sourcePath 3 (a / 8 / 4096 / 1024) 1 0
  let s := e.corrected.foldl (fun s a =>
    (s.updMem fun m => { m with dirCorrected := satAdd 32 m.dirCorrected 1 }).report (src a) 0 0 none 0) s
  e.bad.foldl (fun s a =>
    let k := a / 16 * 2
    let s := ((s.dropWay k).dropWay (k + 1)).updMem fun m => { m with dirUncorrectable := satAdd 32 m.dirUncorrectable 2 }
    s.report (src a) 1 0 none 0) s

/-! ### Lists and outputs of a gather (R194, R196) -/

/-- Index `i` of a gather. -/
def gIndex (st : Stream) (i : Nat) : Nat := leNat ((st.out.drop (4 * i)).take 4)
/-- Weight `i`, FP16. -/
def gWeight (st : Stream) (i : Nat) : Nat := leNat ((st.out.drop (4 * gCount st.desc + 2 * i)).take 2)
/-- Bytes before the length list. -/
def lengthsAt (d : List Byte) : Nat := 4 * gCount d + if gPooling d = 3 then 2 * gCount d else 0
/-- Length of bag `k`. -/
def gLength (st : Stream) (k : Nat) : Nat :=
  if gLengthsEn st.desc then leNat ((st.out.drop (lengthsAt st.desc + 2 * k)).take 2) else dbits st.desc 55 40
/-- First index of bag `k`. -/
def bagStart (st : Stream) (k : Nat) : Nat := (List.range k).foldl (fun n j => n + gLength st j) 0
/-- Indices of output `k`: one without pooling, a bag otherwise. -/
def outIndices (st : Stream) (k : Nat) : List Nat :=
  if gPooling st.desc = 0 then [k] else (List.range (gLength st k)).map (bagStart st k + ·)
/-- Output an index belongs to. -/
def outputOf (st : Stream) (i : Nat) : Nat :=
  if gPooling st.desc = 0 then i
  else ((List.range (gOutputs st.desc)).find? fun k => i < bagStart st (k + 1)).getD 0

/-- Lists as read: each element as one of the local memories since the issue held it, the choice open (R199; log 10). -/
def mixLists (s : State) (idx : Nat) (views : List (List Byte)) (n : Nat) : List Byte :=
  (List.range n).map fun j =>
    let e := if j < idx then j / 4 else idx + j / 2
    (views.getD (free s (1000 + e) % views.length) []).getD j 0

/-- Elements of a stored row, dequantised to FP16 (R121, R196). -/
def rowElements (td : List Byte) (bs : List Byte) : List Conv :=
  match tFormat td with
  | 4 => q8rElements bs
  | 1 => (encodings 2 bs).map fun v => { bits := v, sat := false, nonfinite := false }
  | c => (encodings 1 bs).map fun v => convRn fp16 (decodeNum (fmtOf c) v)

/-- Count conversions made by a gather engine: no tile's flag is set (R111, R119; log 34). -/
def State.countEngine (s : State) (cs : List Conv) : State :=
  s.countConversions (cs.filter fun c => c.sat).length (cs.filter fun c => c.nonfinite).length

/-- FP16 bits widened to FP32. -/
def widen16 (v : Nat) : Conv := convRn fp32 (decodeNum fp16 v)

/-- One row of a bag added to the accumulators (R196). -/
def poolRow (d : List Byte) (w : Nat) (row acc : List Nat) : List Nat :=
  (acc.zip row).map fun e =>
    let x := (widen16 e.2).bits
    if gPooling d = 3 then laneFma fp32 (widen16 w).bits x e.1 else laneAdd fp32 e.1 x

/-- FP32 accumulators of a bag in list order (R196). -/
def poolBag (st : Stream) (td : List Byte) (k : Nat) : List Nat :=
  let acc := (outIndices st k).foldl (fun acc i =>
    match mget st.got i with
    | some bs => poolRow st.desc (gWeight st i) ((rowElements td bs).map Conv.bits) acc
    | none => acc) (List.replicate (tWidth td) 0)
  if gPooling st.desc = 2 && gLength st k > 0 then
    acc.map fun a => laneDiv fp32 a (convRn fp32 (.fin false (gLength st k) 0)).bits
  else acc

/-- Elements of output `k` in its format. -/
def outElements (st : Stream) (td : List Byte) (k : Nat) : List Conv :=
  let half : Bool := dbits st.desc 19 16 = 1
  if gPooling st.desc = 0 then
    match mget st.got k with
    | some bs => (rowElements td bs).map fun c => if half then { c with sat := false, nonfinite := false } else widen16 c.bits
    | none => List.replicate (tWidth td) { bits := 0, sat := false, nonfinite := false }
  else
    (poolBag st td k).map fun a => convRn (if half then fp16 else fp32) (decodeNum fp32 a)

/-- Output `k` may be written: every index of it has arrived or is skipped. -/
def outputReady (st : Stream) (k : Nat) : Bool :=
  !st.written.contains k && (outIndices st k).all fun i =>
    match mget st.routes i with
    | some .arrived | some .skipped => true
    | _ => false

/-- Write output `k` into local memory (R196, R199). -/
def writeOutput (s : State) (l tenant tag k : Nat) : State :=
  match streamAt s l tag with
  | some st =>
    let d := st.desc
    let td := tableDesc s tenant (dbits d 11 4)
    let cs := outElements st td k
    let n := if dbits d 19 16 = 1 then 2 else 4
    match writeLocal (s.countEngine cs) l tenant (dbits d 179 160 + k * dbits d 211 192) (cs.flatMap fun c => leBytes n c.bits) with
    | (s1, .fault cause a) => s1.setRoute l tag ((outIndices st k).headD 0) (.fault cause a)
    | (s1, _) => s1.setStream l tag { st with written := ninsert st.written k }
  | none => s

/-- Streams of a region's gather engine: the gathers of its tiles (R201). -/
def engineStreams (s : State) (region : Nat) : List (Nat × Nat × Stream) :=
  (s.tiles.filter fun (e : Nat × Tile) => regionOf e.1 = region).flatMap fun e =>
    (e.2.streams.filter fun (x : Nat × Stream) => x.2.kind = .gather).map fun x => (e.1, x.1, x.2)

/-- Indices that share a read in flight. -/
def sharers (s : State) (l tag i : Nat) : List (Nat × Nat × Nat) :=
  (engineStreams s (regionOf l)).flatMap fun e =>
    (e.2.2.routes.filter fun (r : Nat × Route) => r.2 = .shared l tag i).map fun r => (e.1, e.2.1, r.1)

/-- A row's bytes reach an index. -/
def State.gotRow (s : State) (bs : List Byte) (w : Nat × Nat × Nat) : State :=
  match streamAt s w.1 w.2.1 with
  | some st => s.setStream w.1 w.2.1 { st with got := mset st.got w.2.2 bs }
  | none => s

/-- A read's data reach its index and every index that shares it (R200). -/
def State.deliverRow (s : State) (l tag i : Nat) (bs : List Byte) : State :=
  ((l, tag, i) :: sharers s l tag i).foldl (fun s w => s.gotRow bs w) s

/-- A read met a fault: its index holds it, and those that shared it read for themselves (R197). -/
def State.rowFault (s : State) (l tag i cause a : Nat) : State :=
  (s.reroute (sharers s l tag i)).setRoute l tag i (.fault cause a)

/-- The stream of a read ends before its data are here: the first index that shares the read takes it over, and the
others share it with that one (R200). -/
def State.passOn (s : State) (l tag i : Nat) (r : Route) : State :=
  match sharers s l tag i with
  | [] => s
  | w :: rest =>
    let s1 := rest.foldl (fun s x => s.setRoute x.1 x.2.1 x.2.2 (.shared w.1 w.2.1 w.2.2)) (s.setRoute w.1 w.2.1 w.2.2 r)
    let who (q : Requester) : Requester :=
      match q with
      | .gatherRow a b j fill => if a = l && b = tag && j = i then .gatherRow w.1 w.2.1 w.2.2 fill else q
      | _ => q
    s1.updLinks fun x => { x with requests := x.requests.map fun (e : Nat × Request) => (e.1, { e.2 with who := who e.2.who }) }

/-! ### Freezing and retiring (R198, R199) -/

/-- Index at which a resumed gather restarts (R198). -/
def restartAt (st : Stream) (i : Nat) : Nat :=
  if gPooling st.desc = 0 then i else bagStart st (outputOf st i)

/-- Outputs of indices before `i`, or of bags wholly before it, are written (R198). -/
def writtenBefore (st : Stream) (i : Nat) : Bool :=
  (List.range (outputOf st i)).all fun k => st.written.contains k

/-- Reads the stream has asked of other modules no longer wait for it; fills go on. -/
def State.orphan (s : State) (l tag : Nat) : State :=
  let release (w : Requester) : Requester :=
    match w with
    | .gatherRow a b _ (some k) => if a = l && b = tag then .poolFill k (regionOf l) else w
    | .gatherRow a b _ none => if a = l && b = tag then .gatherGone (regionOf l) else w
    | .copyRead a b _ | .copyWrite a b _ | .exchangePart a b _ | .exchangeFlag a b => if a = l && b = tag then .none else w
    | _ => w
  s.updLinks fun x => { x with requests := x.requests.map fun (e : Nat × Request) => (e.1, { e.2 with who := release e.2.who }) }

/-- The reads of a gather end: those that others share go on for them, joins are withdrawn (R200). -/
def State.dropReads (s : State) (l tag : Nat) : State :=
  match streamAt s l tag with
  | some st =>
    let s0 := s.setStream l tag { st with routes := [], got := [] }
    let s1 := (st.routes.filter fun (r : Nat × Route) => (mget st.got r.1).isNone).foldl
      (fun s (r : Nat × Route) => s.passOn l tag r.1 r.2) s0
    let s2 := s1.updMem fun m => { m with dir := m.dir.map fun (e : Nat × Way) =>
      (e.1, { e.2 with waiters := e.2.waiters.filter fun w => !(w.1 = l && w.2.1 = tag) }) }
    s2.orphan l tag
  | none => s

/-- Freeze a gather at index `i` (R198). -/
def freezeGather (s : State) (l tenant tag : Nat) (st : Stream) (i cause a : Nat) : State :=
  let keep := outputOf st (restartAt st i)
  ((s.dropReads l tag).setStream l tag
    { st with next := i, routes := [], got := [], written := st.written.filter (· < keep) }).freezeStream l tenant tag st cause a

/-- The lowest index that met a fault. -/
def firstFault (st : Stream) : Option (Nat × Nat × Nat) :=
  st.routes.findSome? fun (r : Nat × Route) =>
    match r.2 with
    | .fault c a => some (r.1, c, a)
    | _ => none

/-- Write every output that is ready, then retire the tag after the last, or freeze at a fault once every
output before it is written (R198, R199). -/
def settleGather (s0 : State) (l tenant tag : Nat) : State :=
  match streamAt s0 l tag with
  | some st0 =>
    let s := ((List.range (gOutputs st0.desc)).filter (outputReady st0)).foldl (fun s k => writeOutput s l tenant tag k) s0
    match streamAt s l tag with
    | some st =>
      if st.written.length = gOutputs st.desc then s.retireTag l tag
      else
        match firstFault st with
        | some (i, c, a) => if writtenBefore st i then freezeGather s l tenant tag st i c a else s
        | none => s
    | none => s
  | none => s0

/-! ### Issuing an index (R200, R201, R207) -/

/-- Board address whose bank group a read counts against: the Pool slot of a hit, else the home (R181). -/
def readTarget (s : State) (r : Route) : Option Nat :=
  match r with
  | .home b => some b
  | .pool k _ => some (2 ^ 45 * s.service.boardSlot + slotAddress s k)
  | .remote b => some b
  | _ => none

/-- Targets of the reads an engine has in flight, those whose stream has gone included: each holds a slot (R200). -/
def slotsHeld (s : State) (region : Nat) : List Nat :=
  ((engineStreams s region).flatMap fun e =>
    e.2.2.routes.filterMap fun (r : Nat × Route) =>
      if (mget e.2.2.got r.1).isSome then none else readTarget s r.2) ++
  s.links.requests.filterMap fun (e : Nat × Request) =>
    match e.2.who with
    | .poolFill _ r | .gatherGone r => if r = region then some e.2.packet.addr.toNat else none
    | _ => none

/-- The engine has a slot for a read of a target: 4,096 in all, 256 against one bank group (R181, R200). -/
def slotFree (s : State) (region target : Nat) : Bool :=
  let held := slotsHeld s region
  held.length < 4096 &&
    (held.filter fun b => bankGroupKey s b = bankGroupKey s target).length < 256

/-- A read in flight in the engine of the same tenant's row (R200). -/
def rowInFlight (s : State) (region tenant table r : Nat) : Option (Nat × Nat × Nat) :=
  (engineStreams s region).findSome? fun e =>
    if ownerOf s e.1 = some tenant && dbits e.2.2.desc 11 4 = table then
      e.2.2.routes.findSome? fun (x : Nat × Route) =>
        if (readTarget s x.2).isSome && (mget e.2.2.got x.1).isNone && gIndex e.2.2 x.1 = r then some (e.1, e.2.1, x.1) else none
    else none

/-- Ask the home module for a row (R209, R276). -/
def askRow (s : State) (l tenant tag i b n : Nat) (fill : Option Nat) : State :=
  (s.setRoute l tag i (.remote b)).sendRequest (.gatherRow l tag i fill) (readPacket s tenant b n)

/-- Look a row up in the Pool Directory (R206, R207). -/
def poolLookup (s : State) (l tenant tag : Nat) (st : Stream) (td : List Byte) (gs : List Nat) (i r b : Nat) : State :=
  let table := dbits st.desc 11 4
  let ks := rowWays gs table r
  let n := tRowBytes td
  let home (s : State) (fill : Option Nat) : State := askRow s l tenant tag i b n fill
  match ks.find? fun k => wayMatches s tenant table r k && (wayAt s k).state ≠ 3 with
  | some k =>
    if (wayAt s k).state = 2 then
      if slotFree s (regionOf l) (2 ^ 45 * s.service.boardSlot + slotAddress s k) then
        ((s.countTable tenant table [0, 1]).touchWay k).setRoute l tag i (.pool k b)
      else s.setRoute l tag i .slotless
    else
      let w := wayAt s k
      let s1 := (s.countTable tenant table [0, 2]).setRoute l tag i (.joined k)
      match w.data with
      | some bs => s1.gotRow bs (l, tag, i)
      | none => s1.setWay k { w with waiters := w.waiters ++ [(l, tag, i)] }
  | none =>
    if !slotFree s (regionOf l) b then s.setRoute l tag i .slotless
    else
      let s1 := s.countTable tenant table [0, 3]
      let take := if dbits st.desc 13 12 = 2 then
          (match ks.find? fun k => wayMatches s tenant table r k with
           | some k => some k
           | none => victim s ks)
        else none
      match take with
      | some k =>
        let w : Way := { tenant := tenant, table := table, row := r, state := 1, doomed := false, declined := false,
                         age := 3, fillTag := s.links.nextTag % 2 ^ 24 }
        home (s1.setWay k w) (some k)
      | none => home s1 none

/-- Take one index: bounds, translation, a read in flight of the same row, the home row of this module or
of another, or the Pool (R197, R200, R207). -/
def issueIndex (s : State) (l tenant tag : Nat) (st : Stream) (i : Nat) : State :=
  let d := st.desc
  let table := dbits d 11 4
  let td := tableDesc s tenant table
  let r := gIndex st i
  if r ≥ tRows td then
    if dbits d 14 14 = 1 then (s.countTable tenant table [7]).setRoute l tag i .skipped
    else s.setRoute l tag i (.fault 0x24 (dbits d 83 64 + 4 * i))
  else
    let va := rowAddress td r
    match streamTranslate s l tenant va .r with
    | (s1, .fail c) => s1.setRoute l tag i (.fault c va)
    | (_, .wait) => s.setRoute l tag i .slotless
    | (s1, .ok b) =>
      match rowInFlight s1 (regionOf l) tenant table r with
      | some w => (s1.countTable tenant table [2]).setRoute l tag i (.shared w.1 w.2.1 w.2.2)
      | none =>
        let gs := classGroups s1 tenant (tClass td) (dieOf l)
        if isLocal s1 b then
          if slotFree s1 (regionOf l) b then (s1.countTable tenant table [6]).setRoute l tag i (.home b)
          else s1.setRoute l tag i .slotless
        else if dbits d 13 12 = 0 || !tPoolEn td || gs.isEmpty then
          if slotFree s1 (regionOf l) b then askRow (s1.countTable tenant table [6]) l tenant tag i b (tRowBytes td) none
          else s1.setRoute l tag i .slotless
        else poolLookup s1 l tenant tag st td gs i r b

/-- The engine reads the lists of a descriptor before its first index: uncorrectable lists, or lengths that
do not sum to the indices, freeze the stream (R197, R199); empty bags are written at once (R196). -/
def readLists (s : State) (l tenant tag : Nat) (st : Stream) : State :=
  let d := st.desc
  let ranges := [(dbits d 83 64, 4 * gCount d)] ++
    (if gPooling d = 3 then [(dbits d 115 96, 2 * gCount d)] else []) ++
    (if gLengthsEn d then [(dbits d 147 128, 2 * dbits d 55 40)] else [])
  let t := tileAt s l
  match ranges.find? fun r => readBad t.lmBad r.1 r.2 with
  | some r =>
    (s.report (lmSource l) 1 0 (some tenant) (BitVec.ofNat 32 (r.1 / 2 ^ 13))).freezeStream l tenant tag st 0x22 r.1
  | none =>
    let st1 := { st with out := mixLists s (4 * gCount d) ((st.seen ++ [t.lm]).map fun m => gatherLists m d) st.out.length, seen := [] }
    if gPooling d ≠ 0 && bagStart st1 (gOutputs d) ≠ gCount d then s.freezeStream l tenant tag st 0x06 (dbits d 147 128)
    else settleGather (s.setStream l tag { st1 with outReady := true }) l tenant tag

/-- Indices that wait in the engine's address stream, in list order (R182, R201). -/
def waitingIndices (st : Stream) : List Nat :=
  (st.routes.filter fun (r : Nat × Route) =>
    match r.2 with
    | .slotless | .retryHome _ | .retryPool _ _ => true
    | _ => false).map Prod.fst

/-- Take a waiting index again: one that a controller returned needs a slot alone (R182). -/
def retakeIndex (s : State) (l tenant tag : Nat) (st : Stream) (i : Nat) : State :=
  match mget st.routes i with
  | some (.retryHome b) => if slotFree s (regionOf l) b then s.setRoute l tag i (.home b) else s
  | some (.retryPool k b) =>
    if slotFree s (regionOf l) (2 ^ 45 * s.service.boardSlot + slotAddress s k) then s.setRoute l tag i (.pool k b) else s
  | _ => issueIndex s l tenant tag st i

/-- Take the first waiting index that can go on; answers whether one did (R201). -/
def retakeWaiting (s : State) (l tenant tag : Nat) (is_ : List Nat) : State × Bool :=
  match is_ with
  | [] => (s, false)
  | i :: rest =>
    match streamAt s l tag with
    | some st =>
      let s1 := retakeIndex s l tenant tag st i
      if (streamAt s1 l tag).bind (fun x => mget x.routes i) = mget st.routes i then retakeWaiting s1 l tenant tag rest
      else (s1, true)
    | none => (s, false)

/-- The engine can take a further index of a stream. -/
def mayTake (s : State) (l tag : Nat) (st : Stream) : Bool :=
  (match ownerOf s l with
   | some tenant => !streamFrozen s l tenant tag st
   | none => false) && !tileResetting s l && st.next < gCount st.desc && (firstFault st).isNone

/-- It is a stream's turn: no other descriptor of the region that can go on was served, or came, before (R201). -/
def gatherTurn (s : State) (l tag : Nat) (st : Stream) : Bool :=
  mayTake s l tag st && (engineStreams s (regionOf l)).all fun e => st.turn ≤ e.2.2.turn || !mayTake s e.1 e.2.1 e.2.2

/-- Take a waiting index again, and the next index when none goes on and it is the stream's turn (R201). -/
def takeIndices (s : State) (l tenant tag : Nat) (st : Stream) : State :=
  match retakeWaiting s l tenant tag (waitingIndices st) with
  | (s1, true) => s1
  | (s1, false) =>
    match streamAt s1 l tag with
    | some st1 =>
      if !gatherTurn s1 l tag st1 then s1
      else
        let st2 := { st1 with next := st1.next + 1, turn := s1.globals.gatherClock }
        issueIndex ((s1.setStream l tag st2).updGlobals fun g => { g with gatherClock := g.gatherClock + 1 }) l tenant tag st2 st1.next
    | none => s1

/-- GATHER_INDEX_ISSUE (R197–R201, R207): `ecc` is what the lookup found in the directory's code words. -/
def gatherIndexIssueRow (tile tag : Nat) (ecc : Ecc) (s0 : State) : State :=
    let s := s0.redraw
    match ownerOf s tile, streamAt s tile tag with
    | some tenant, some st =>
      if st.kind ≠ .gather || tileResetting s tile || streamFrozen s tile tenant tag st then s0
      else
        let s1 := if st.outReady then s else readLists s tile tenant tag st
        match streamAt s1 tile tag with
        | some st1 =>
          if !st1.outReady then s1
          else
            let s2 := s1.directoryEcc ecc
            match streamAt s2 tile tag with
            | some st2 => settleGather (takeIndices s2 tile tenant tag st2) tile tenant tag
            | none => s2
        | none => s1
    | _, _ => s0

/-! ### Arrival and fills (R196, R207, R208) -/

/-- A row has arrived: it is dequantised, and what is complete is written (R196, R199). -/
def arriveRow (s : State) (l tenant tag i : Nat) (bs : List Byte) : State :=
  match streamAt s l tag with
  | some st =>
    let td := tableDesc s tenant (dbits st.desc 11 4)
    settleGather (((s.gotRow bs (l, tag, i)).countEngine (if tFormat td = 1 then [] else rowElements td bs)).setRoute l tag i .arrived)
      l tenant tag
  | none => s

/-- The read of a home row of this module ends (R185, R197). -/
def arriveHome (s : State) (l tenant tag i va b n : Nat) : State :=
  let d := boardDpa b
  let s1 := s.touchBias d n
  if dpaBad s1 d n then settleGather ((s1.fastUncorrectable d).rowFault l tag i 0x22 va) l tenant tag
  else arriveRow (s1.deliverRow l tag i (dpaBytes s1 d n)) l tenant tag i (dpaBytes s1 d n)

/-- The read of a Pool slot ends: an uncorrectable slot, or one given to another row meanwhile, sends the
read home (R208; log 37). -/
def arrivePool (s0 : State) (l tenant tag i table r k home n : Nat) : State :=
  let d := slotAddress s0 k
  let s := s0.touchBias d n
  if !wayMatches s tenant table r k || (wayAt s k).state = 1 then askRow s l tenant tag i home n none
  else if dpaBad s d n then
    askRow (((s.fastUncorrectable d).setWay k noWay).updMem fun m => { m with poolUncorrectable := satAdd 32 m.poolUncorrectable 1 })
      l tenant tag i home n none
  else arriveRow (s.deliverRow l tag i (dpaBytes s d n)) l tenant tag i (dpaBytes s d n)

/-- GATHER_ROW_ARRIVAL (R196, R200, R207, R208): a row of this module is read now; one asked of another
module, joined or shared arrives once its data are here. -/
def gatherRowArrivalRow (tile tag index : Nat) (ecc : Ecc) (s0 : State) : State :=
    let s := s0.redraw
    match ownerOf s tile, streamAt s tile tag with
    | some tenant, some st =>
      if st.kind ≠ .gather || tileResetting s tile || streamFrozen s tile tenant tag st then s0
      else
        let table := dbits st.desc 11 4
        let td := tableDesc s tenant table
        let n := tRowBytes td
        let r := gIndex st index
        let held (d : Nat) : Bool := dpaResetting s d || dpaRetraining s d
        match mget st.routes index, mget st.got index with
        | some (.home b), _ =>
          if held (boardDpa b) then s0
          else arriveHome (s.fastEcc ecc) tile tenant tag index (rowAddress td r) b n
        | some (.pool k home), _ =>
          if held (slotAddress s k) then s0
          else arrivePool (s.fastEcc ecc) tile tenant tag index table r k home n
        | some (.remote _), some bs | some (.joined _), some bs | some (.shared _ _ _), some bs =>
          arriveRow s tile tenant tag index bs
        | _, _ => s0
    | _, _ => s0

/-- POOL_FILL_COMPLETE (R207, R209, R211): the home row is written into the slot and the way becomes valid,
or becomes invalid when doomed, declined or not landed. -/
def execPoolFillComplete (group set way : Nat) (s0 : State) : Host.Outcome State Fault Refusal :=
  .next <|
    let k := 4 * (1024 * group + set) + way
    let w := wayAt s0 k
    match w.data with
    | some bs =>
      if w.state ≠ 1 || set ≥ 1024 || way ≥ 4 then s0
      else if dpaResetting s0 (slotAddress s0 k) || dpaRetraining s0 (slotAddress s0 k) then s0
      else if w.doomed || w.declined then (s0.setWay k noWay).countTable w.tenant w.table [5]
      else
        match (s0.touchBias (slotAddress s0 k) bs.length).writeDpa (slotAddress s0 k) bs with
        | (s1, true) => s1.setWay k noWay
        | (s1, false) =>
          ((s1.setWay k { w with state := 2, data := none, waiters := [], age := 3 }).touchWay k).countTable w.tenant w.table [4]
    | none => s0

end Sys2Proof.Machine
end

