-- ==== Sys2Proof/Machine/Sounding.lean ====
section
/-!
DEFINITION. Sounding: watch records and their reports (R126–R135), the loss and its poison (R141, R142),
the scale controller with the scale page and the mirror (R136, R137, R146), and the copies of watch
records in generation records (R138, R139, R233).
-/

namespace Sys2Proof.Machine

/-! ### Vote, apply and poison messages (R239) -/

/-- The 32 bytes of a message. -/
def voteBytes (m : VoteMsg) : List Byte :=
  leBytes 32 (fieldAt 192 (m.target % 2 ^ 64) + fieldAt 128 (m.attempt % 2 ^ 64) + fieldAt 96 (m.sum % 2 ^ 32) +
    fieldAt 64 m.digest.toNat + fieldAt 54 m.tenant + fieldAt 52 m.set + fieldAt 50 m.phase + fieldAt 46 m.round +
    fieldAt 34 m.sender + fieldAt 1 (b2n m.fatal) + b2n m.ok)

/-- The message of 32 bytes. -/
def voteOf (bs : List Byte) : VoteMsg :=
  let v := leNat (bs.take 32)
  { target := bits v 255 192, attempt := bits v 191 128, sum := bits v 127 96, digest := BitVec.ofNat 32 (bits v 95 64),
    tenant := bits v 63 54, set := bits v 53 52, phase := bits v 51 50, round := bits v 49 46, sender := bits v 45 34,
    fatal := bit v 1, ok := bit v 0 }

/-- Packet of a message to a node (R266). -/
def votePacket (s : State) (m : VoteMsg) (dst : Nat) : Packet :=
  { basePacket s.links.nodeId dst m.tenant 8 0 with length := 32, data := voteBytes m }

/-- A packet of this module's own waits in the outbox for the router. -/
def State.sendControl (s : State) (p : Packet) : State := s.updLinks fun l => { l with outbox := l.outbox ++ [p] }

/-- A packet handed to the module leaves the inbox as it is served. -/
def State.takePacket (s : State) (p : Packet) : State := s.updLinks fun l => { l with inbox := l.inbox.erase p }

/-- A vote, apply or poison packet for this module. -/
def votePacketOk (s : State) (p : Packet) (phase : Nat) : Bool :=
  p.ptype = 8 && p.dst = s.links.nodeId && p.data.length = 32 && (voteOf p.data).phase = phase

/-- Nodes of the subcube a set's vote dimensions span (R240). -/
def participants (s : State) (t p : Nat) : List Nat :=
  ((List.range 12).filter fun d => (setAt s t p).voteDims.getLsbD d).foldl
    (fun ns d => ns ++ (ns.map fun n => partnerOf s n d).filter fun n => !ns.contains n) [s.links.nodeId]

/-! ### Poison (R141, R142) -/

/-- Number of the attempt open in the watch unit (R134): the present one until it ends, then the next. -/
def watchAttempt (s : State) (t p : Nat) : Nat :=
  let x := setAt s t p
  if 1 ≤ x.state ∧ x.state ≤ 3 then x.attempts else x.attempts + 1

/-- The attempt is poisoned from now; once only, and counted once (R141, R142, R144). -/
def State.poison (s : State) (t p : Nat) : State :=
  if (setAt s t p).poisoned then s
  else
    (s.updSet t p fun x => { x with poisoned := true }).updGlobals fun g =>
      { g with poisonedAttempts := satAdd 64 g.poisonedAttempts 1 }

/-- The poison message this module sends (R141, R239). -/
def poisonMsg (s : State) (t p : Nat) : VoteMsg :=
  let x := setAt s t p
  { target := x.generation + 1, attempt := watchAttempt s t p, sum := 0, digest := x.digest, tenant := t, set := p,
    phase := 2, round := 0, sender := s.links.nodeId, fatal := false, ok := false }

/-- Send it to every other module taking part. -/
def State.sendPoison (s : State) (t p : Nat) : State :=
  ((participants s t p).filter (· ≠ s.links.nodeId)).foldl
    (fun s n => s.sendControl (votePacket s (poisonMsg s t p) n)) s

/-- A loss pair that is infinite or NaN. -/
def lossBad (pair : Nat) : Bool := isNonfiniteBits fp32 (bits pair 31 0) || isNonfiniteBits fp32 (bits pair 63 32)

/-- Deliver a loss pair (R141, R142). -/
def State.takeLoss (s : State) (t p pair : Nat) : State :=
  if (setAt s t p).contributed then
    s.updWatch t fun w => { w with lateLoss := satAdd 32 w.lateLoss 1 }
  else
    let s1 := s.updWatch t fun w => { w with lossPair := mset w.lossPair p (BitVec.ofNat 64 pair) }
    if lossBad pair && !(setAt s t p).poisoned then (s1.poison t p).sendPoison t p else s1

/-! ### Reports (R129–R133, R135) -/

/-- The tensor record of an entry, if it is one. -/
def tensorAt (s : State) (t i : Nat) : Option TensorRecord :=
  match mget (tenantAt s t).watch.entries i with
  | some (.tensor r) => some r
  | _ => none

/-- Replace a tensor record. -/
def State.setTensor (s : State) (t i : Nat) (r : TensorRecord) : State :=
  s.updWatch t fun w => { w with entries := mset w.entries i (.tensor r) }

/-- Apply a census report to an entry, or to the unattributed census (R130, R132). -/
def State.reportCensus (s : State) (t i : Nat) (c : Census) : State :=
  match tensorAt s t i with
  | some r => if r.flags.getLsbD 0 then s.setTensor t i (r.addCensus c) else s.unattribute t c
  | none => s.unattribute t c

/-- Take a block's census accumulator and clear it (R129). -/
def State.flushCensus (s : State) (l t slot i : Nat) : State :=
  let tile := tileAt s l
  match mget tile.blocks slot with
  | some b =>
    (s.setTile l { tile with blocks := mset tile.blocks slot { b with census := {} } }).reportCensus t i b.census
  | none => s

/-- A copy whose report the watch unit serves now: its tenant and stream. -/
def reporting (s : State) (l tag op : Nat) : Option (Nat × Stream) :=
  match ownerOf s l, streamAt s l tag with
  | some t, some st => if st.kind = .copy && st.phase = .reporting && cSound st.desc = op then some (t, st) else none
  | _, _ => none

/-- CENSUS_REPORT (R129, R130, R132, R133). -/
def execCensusReport (tile tag : Nat) (s : State) : Host.Outcome State Fault Refusal :=
  .next <|
    match reporting s tile tag 1 with
    | some (t, st) => (s.reportCensus t (cWatch st.desc) st.census).retireTag tile tag
    | none => s

/-- CENSUS_AND_FLUSH_REPORT (R129). -/
def execCensusAndFlushReport (tile tag : Nat) (s : State) : Host.Outcome State Fault Refusal :=
  .next <|
    match reporting s tile tag 2 with
    | some (t, st) =>
      ((s.reportCensus t (cWatch st.desc) st.census).flushCensus tile t st.slot (cWatch st.desc)).retireTag tile tag
    | none => s

/-- FLUSH_REPORT (R129). -/
def execFlushReport (tile tag : Nat) (s : State) : Host.Outcome State Fault Refusal :=
  .next <|
    match reporting s tile tag 3 with
    | some (t, st) => (s.flushCensus tile t st.slot (cWatch st.desc)).retireTag tile tag
    | none => s

/-- Relative error of a sample (R135): every step rounded to nearest, elements ascending. -/
def relativeError (xs rs : List Num) : Nat :=
  if (xs ++ rs).any fun x => !x.isFin then arithNan fp32 60 xs.length 0 0
  else
    let d := (xs.zip rs).foldl (fun acc e =>
      let v := laneRound fp32 (e.1.add e.2.neg) 0
      laneAdd fp32 acc (laneMul fp32 v v)) 0
    let q := rs.foldl (fun acc r =>
      let v := laneRound fp32 r 0
      laneAdd fp32 acc (laneMul fp32 v v)) 0
    if isZeroBits fp32 q then (if isZeroBits fp32 d then 0 else fp32.maxMag)
    else laneSqrt fp32 (laneDiv fp32 d q)

/-- Put a sample into a record (R135). -/
def TensorRecord.sample (r : TensorRecord) (err : Nat) : TensorRecord :=
  let e := BitVec.ofNat 32 err
  let r := { r with samples := satAdd 32 r.samples 1, errLast := e }
  if isNonfiniteBits fp32 err then r
  else { r with errMax := maxMagnitude r.errMax e, errSum := BitVec.ofNat 32 (laneAdd fp32 r.errSum.toNat err) }

/-- COMPARE_REPORT (R130, R135). -/
def execCompareReport (tile tag : Nat) (s : State) : Host.Outcome State Fault Refusal :=
  .next <|
    match reporting s tile tag 4 with
    | some (t, st) =>
      let d := st.desc
      let xs := (encodings (fmtOf (cSrcFmt d)).bytes ((mget st.got 0).getD [])).map fun v =>
        (decodeNum (fmtOf (cSrcFmt d)) v).scale (cScale d)
      let rs := (encodings 4 ((mget st.got 1).getD [])).map (decodeNum fp32)
      let s1 := match tensorAt s t (cWatch d) with
        | some r =>
          if r.flags.getLsbD 1 then s.setTensor t (cWatch d) (r.sample (relativeError xs rs))
          else s.updWatch t fun w => { w with unattributedCompares := satAdd 32 w.unattributedCompares 1 }
        | none => s.updWatch t fun w => { w with unattributedCompares := satAdd 32 w.unattributedCompares 1 }
      s1.retireTag tile tag
    | none => s

/-- LOSS_REPORT (R141, R142). -/
def execLossReport (tile tag : Nat) (s : State) : Host.Outcome State Fault Refusal :=
  .next <|
    match reporting s tile tag 5 with
    | some (t, st) => (s.takeLoss t (cParamSet st.desc) (leNat ((mget st.got 0).getD []))).retireTag tile tag
    | none => s

/-- POISON_MESSAGE (R141, R142): one for an attempt this module has yet to open is held for it. -/
def execPoisonMessage (p : Packet) (s0 : State) : Host.Outcome State Fault Refusal :=
  .next <|
    let m := voteOf p.data
    if !votePacketOk s0 p 2 then s0
    else
      let s := s0.takePacket p
      let n := watchAttempt s m.tenant m.set
      if (setAt s m.tenant m.set).mode = 0 then s
      else if m.attempt = n then s.poison m.tenant m.set
      else if m.attempt > n then s.updRun m.tenant m.set fun r => { r with held := r.held ++ [m] }
      else s

/-! ### Closing and the scale controller (R134, R136) -/

/-- Tensor records of a set, by entry. -/
def recordsOf (s : State) (t p : Nat) : List (Nat × TensorRecord) :=
  (tenantAt s t).watch.entries.filterMap fun (e : Nat × WatchEntry) =>
    match e.2 with
    | .tensor r => if r.paramSet = p then some (e.1, r) else none
    | _ => none

/-- A record's open fields become its closed fields (R134). -/
def TensorRecord.close (r : TensorRecord) : TensorRecord :=
  { r with amaxClosed := r.amaxOpen, nonfiniteClosed := r.nonfiniteOpen, satClosed := r.satOpen,
           zeroClosed := r.zeroOpen, elementsClosed := r.elementsOpen,
           amaxOpen := 0, nonfiniteOpen := 0, satOpen := 0, zeroOpen := 0, elementsOpen := 0 }

/-- Close every record of a set at the module's contribution (R134). -/
def State.closeRecords (s : State) (t p : Nat) : State :=
  (recordsOf s t p).foldl (fun s e => s.setTensor t e.1 e.2.close) s

/-- Controlled record (R136, R145). -/
def TensorRecord.controlled (r : TensorRecord) : Bool := r.histState ≠ 0
/-- Extensions of a record with H positions (R128). -/
def extensions (h : Nat) : Nat := (h + 14) / 15

/-- History of a controlled record, newest first: its H positions (R128). -/
def historyOf (s : State) (t : Nat) (r : TensorRecord) : List W32 :=
  ((List.range (extensions r.histLen)).flatMap fun j =>
    match mget (tenantAt s t).watch.entries (r.histFirst + j) with
    | some (.history _ h) => h
    | _ => List.replicate 15 0).take r.histLen

/-- Write a record's history into its extensions. -/
def State.setHistory (s : State) (t i : Nat) (r : TensorRecord) (h : List W32) : State :=
  (List.range (extensions r.histLen)).foldl (fun s j =>
    let part := (h.drop (15 * j)).take 15
    let e : WatchEntry := .history i (part ++ List.replicate (15 - part.length) 0)
    s.updWatch t fun w => { w with entries := mset w.entries (r.histFirst + j) e }) s

/-- E_M of a target format: 15 for FP16 and F8w, 8 for F8n. -/
def eMax (fmt : Nat) : Int := if fmt = 2 then 8 else 15

/-- Exponent a peak asks for (R136): floor(log2(peak)) + 1 − E_M + m. -/
def scaleTarget (peak : W32) (fmt margin : Nat) : Int :=
  match decodeNum fp32 peak.toNat with
  | .fin _ m e => e + bitLen m - 1 + 1 - eMax fmt + margin
  | _ => 0

/-- A value held within −128 … 127. -/
def clampScale (e : Int) : Int := max (-128) (min 127 e)

/-- Twice a maximum, at most the largest finite value. -/
def doubled (v : W32) : W32 := BitVec.ofNat 32 (scaledMagnitude (decodeNum fp32 v.toNat) 1)

/-- One record at an attempt's end: its new fields and history (R136). -/
def endRecord (r : TensorRecord) (hist : List W32) (committed poisoned : Bool) : TensorRecord × List W32 :=
  let dirty := r.satClosed > 0 || r.nonfiniteClosed > 0
  let h1 := if committed then (r.amaxClosed :: hist).take r.histLen else hist
  let r1 := if committed then { r with histCount := min (r.histCount + 1) r.histLen } else r
  let back := dirty || (poisoned && r.flags.getLsbD 2)
  let h2 := if back then (h1.take r1.histCount).map doubled ++ h1.drop r1.histCount else h1
  let r2 := { r1 with backedOff := back }
  let peak := (h2.take r2.histCount).foldl maxMagnitude 0
  if r2.histState ≥ 2 then
    if r2.histCount = r2.histLen then
      ({ r2 with histState := 1, scale := if peak ≠ 0 then clampScale (scaleTarget peak r2.targetFormat r2.margin) else r2.scale }, h2)
    else (r2, h2)
  else if peak = 0 then (r2, h2)
  else
    let e := scaleTarget peak r2.targetFormat r2.margin
    let e := if committed then max e (r2.scale - 1) else max e r2.scale
    ({ r2 with scale := clampScale e }, h2)

/-- The scale controller at an attempt's end: every controlled record of the set (R136). -/
def State.endRecords (s : State) (t p : Nat) (committed : Bool) : State :=
  let poisoned := (setAt s t p).poisoned
  ((recordsOf s t p).filter fun e => e.2.controlled).foldl
    (fun s e =>
      let r := endRecord e.2 (historyOf s t e.2) committed poisoned
      (s.setTensor t e.1 r.1).setHistory t e.1 r.1 r.2) s

/-! ### Layouts (R127, R128) -/

/-- The 64 bytes of a tensor record (R127). -/
def TensorRecord.bytes (r : TensorRecord) : List Byte :=
  leBytes 64 (fieldAt 480 r.errSum.toNat + fieldAt 448 r.errMax.toNat + fieldAt 416 r.errLast.toNat + fieldAt 384 r.samples +
    fieldAt 352 r.amaxOpen.toNat + fieldAt 320 r.amaxClosed.toNat + fieldAt 288 r.nonfiniteOpen + fieldAt 256 r.satOpen +
    fieldAt 224 r.zeroOpen + fieldAt 192 r.elementsOpen + fieldAt 160 r.nonfiniteClosed + fieldAt 128 r.satClosed +
    fieldAt 96 r.zeroClosed + fieldAt 64 r.elementsClosed + fieldAt 48 r.histFirst + fieldAt 40 (unsigned 8 r.scale) +
    fieldAt 38 r.histState + fieldAt 31 r.histLen + fieldAt 24 r.histCount + fieldAt 20 r.targetFormat +
    fieldAt 16 r.agreeLog2 + fieldAt 14 r.paramSet + fieldAt 11 r.flags.toNat + fieldAt 8 r.margin + 1)

/-- The 64 bytes of an entry (R126–R128). -/
def WatchEntry.bytes (e : WatchEntry) : List Byte :=
  match e with
  | .tensor r => r.bytes
  | .history owner h =>
    leBytes 4 (fieldAt 16 owner + 2) ++ (List.range 15).flatMap fun i => leBytes 4 (h.getD i 0).toNat

/-! ### Scale page and mirror (R137, R146) -/

/-- One of the watch unit's own writes to tenant memory; dropped and counted where it cannot be made. -/
def State.watchWrite (s : State) (t va : Nat) (ok : Bool) (bs : List Byte) : State :=
  let drop := s.updWatch t fun w => { w with scaleFailures := satAdd 32 w.scaleFailures 1 }
  if !ok then drop
  else
    match ownPlace s t va .w with
    | .wait => s
    | .fail _ => (s.noteWalk (walk s t va)).updWatch t fun w => { w with scaleFailures := satAdd 32 w.scaleFailures 1 }
    | .ok d => match (s.touchBias d bs.length).writeDpa d bs with
      | (s1, false) => s1.noticeWrite t d bs.length
      | (_, true) => drop

/-- One of those writes would wait for a reset or a retraining (R187, R380). -/
def watchWaits (s : State) (t p : Nat) : Bool :=
  let base := mgetD (tenantAt s t).watch.scalePage p 0
  let mirror := (tenantAt s t).watch.mirror
  (recordsOf s t p).any fun e =>
    (base ≠ 0 && e.2.controlled && ownWaits s t (base + 2 * e.1) 2) ||
      (mirror ≠ 0 && mirror % 64 = 0 && ownWaits s t (mirror + 64 * e.1) 64)

/-- Write the scale page entries of a set's controlled records (R137). -/
def State.writeScalePage (s : State) (t p : Nat) : State :=
  let base := mgetD (tenantAt s t).watch.scalePage p 0
  if base = 0 then s
  else
    ((recordsOf s t p).filter fun e => e.2.controlled).foldl
      (fun s e =>
        let a := base + 2 * e.1
        let v := unsigned 8 e.2.scale + fieldAt 8 (b2n (e.2.histState ≥ 2)) + fieldAt 9 (b2n e.2.backedOff)
        s.watchWrite t a (a / 2 ^ 21 = base / 2 ^ 21) (leBytes 2 v)) s

/-- Write the watch mirror of a set's records (R146). -/
def State.writeMirror (s : State) (t p : Nat) : State :=
  let base := (tenantAt s t).watch.mirror
  if base = 0 || base % 64 ≠ 0 then s
  else (recordsOf s t p).foldl (fun s e => s.watchWrite t (base + 64 * e.1) true e.2.bytes) s

/-! ### Generation records (R138, R139, R233) -/

/-- Key of a bank of a set's generation record. -/
def genKey (t p bank : Nat) : Nat := 8 * t + 2 * p + bank

/-- Publication of h writes bank h mod 2: header and copies of the controlled records and their histories
(R138, R233). -/
def State.saveRecords (s : State) (t p h : Nat) : State :=
  let cs := (recordsOf s t p).filter fun e => e.2.controlled
  let ids := cs.flatMap fun e => e.1 :: (List.range (extensions e.2.histLen)).map (e.2.histFirst + ·)
  let es := (tenantAt s t).watch.entries.filter fun (e : Nat × WatchEntry) => ids.contains e.1
  let g : GenRecord := { generation := h, attempt := (setAt s t p).attempts, entries := es, bad := [] }
  s.updMem fun m => { m with genRecords := mset m.genRecords (genKey t p (h % 2)) g }

/-- `scale_init` of an entry's setup (R145). -/
def scaleInit (s : State) (t i : Nat) : Int := signed 8 (bits (mgetD (tenantAt s t).watch.setup i 0).toNat 47 40)

/-- A record's history is lost: just-in-time after lost history, every position +0 (R139). -/
def State.loseHistory (s : State) (t i : Nat) (r : TensorRecord) (keepScale : Bool) : State :=
  let r1 := { r with histState := 2, histCount := 0, scale := if keepScale then r.scale else scaleInit s t i }
  (s.setTensor t i r1).setHistory t i r1 []

/-- Histories of every controlled record of a set are lost (R139). -/
def State.loseHistories (s : State) (t p : Nat) (keepScale : Bool) : State :=
  ((recordsOf s t p).filter fun e => e.2.controlled).foldl (fun s e => s.loseHistory t e.1 e.2 keepScale) s

/-- One controlled record restored from a bank: its copy and its histories, or its history lost (R138,
R139). -/
def State.restoreRecord (s : State) (t i : Nat) (r : TensorRecord) (g : GenRecord) : State :=
  let copy := g.entries.find? fun e => e.1 = i
  match copy with
  | some (_, .tensor c) =>
    if g.bad.contains i then s.loseHistory t i r false
    else
      let ids := (List.range (extensions c.histLen)).map (c.histFirst + ·)
      let c := { c with backedOff := false }
      if ids.any fun k => g.bad.contains k then s.loseHistory t i c true
      else
        (s.setTensor t i c).updWatch t fun w =>
          { w with entries := g.entries.foldl (fun m e => if ids.contains e.1 then mset m e.1 e.2 else m) w.entries }
  | _ => s.loseHistory t i r false

/-- A recovery returns the set to generation g: controlled records come back from bank g mod 2, and the
scale page and mirror are written again (R138, R139). -/
def State.restoreRecords (s : State) (t p g : Nat) : State :=
  let cs := (recordsOf s t p).filter fun e => e.2.controlled
  let s1 := match mget s.mem.genRecords (genKey t p (g % 2)) with
    | some b =>
      if b.generation = g then cs.foldl (fun s e => s.restoreRecord t e.1 e.2 b) s else s.loseHistories t p false
    | none => s.loseHistories t p false
  let s2 := cs.foldl (fun s e =>
    match tensorAt s t e.1 with
    | some r => s.setTensor t e.1 { r with backedOff := false }
    | none => s) s1
  (s2.writeScalePage t p).writeMirror t p

end Sys2Proof.Machine
end

