-- ==== Sys2Proof/Machine/Layers.lean ====
section
/-!
DEFINITION. Layers on this module: slot areas (R222, R224), capture (R225–R227), applying (R228–R232),
undo (R231), and the images of export and import (R254).
-/

namespace Sys2Proof.Machine

/-! ### Layers and slots (R221–R224) -/

/-- Layers of a set this module owns: (layer, chip, slot), ascending (R223). -/
def ownedLayers (s : State) (t p : Nat) : List (Nat × Nat × Nat) :=
  (setAt s t p).layerMap.filterMap fun (e : Nat × W32) =>
    let v := e.2.toNat
    if bit v 31 && bits v 27 16 = s.links.nodeId then some (e.1, bits v 11 10, bits v 9 0) else none

/-- Number of layers with `present` set (R243). -/
def presentLayers (s : State) (t p : Nat) : Nat :=
  ((setAt s t p).layerMap.filter fun (e : Nat × W32) => bit e.2.toNat 31).length

/-- `LayerSlotMap` entry of a slot (R222). -/
def slotEntry (s : State) (chip slot : Nat) : Nat := (mgetD s.globals.layerSlots (1024 * chip + slot) 0).toNat
/-- Slow-tier key of a slot area's first byte. -/
def slotBase (s : State) (chip slot : Nat) : Nat := 2 ^ 38 * chip + 2 ^ 21 * bits (slotEntry s chip slot) 16 0
/-- Bytes of a slot area. -/
def slotSize (s : State) (chip slot : Nat) : Nat := 2 ^ 21 * bits (slotEntry s chip slot) 33 17

/-- Up to the next 4 KiB boundary (R224). -/
def align4k (n : Nat) : Nat := (n + 4095) / 4096 * 4096
/-- Up to the next multiple of 16. -/
def align16 (n : Nat) : Nat := (n + 15) / 16 * 16

/-! ### Rule blocks (R225) -/

/-- Rule of a block. -/
def rRule (d : List Byte) : Nat := dbits d 3 0
/-- Kind: 0 dense, 1 table shard. -/
def rKind (d : List Byte) : Nat := dbits d 7 4
/-- Master scale exponent. -/
def rScale (d : List Byte) : Int := signed 8 (dbits d 19 12)
/-- Rows of a dense layer. -/
def rRows (d : List Byte) : Nat := dbits d 63 32
/-- Columns of a dense layer. -/
def rCols (d : List Byte) : Nat := dbits d 95 64
/-- Elements of a dense layer. -/
def rElems (d : List Byte) : Nat := rRows d * rCols d
/-- Hi bank of a dense layer. -/
def rHi (d : List Byte) (bank : Nat) : Nat := if bank = 0 then dbits d 159 96 else dbits d 223 160
/-- Gradient buffer. -/
def rGrad (d : List Byte) : Nat := dbits d 287 224
/-- Pair view buffer. -/
def rView (d : List Byte) : Nat := dbits d 351 288
/-- Learning rate. -/
def rLr (d : List Byte) : Nat := dbits d 383 352
/-- Decay. -/
def rDecay (d : List Byte) : Nat := dbits d 415 384
/-- First decay or momentum. -/
def rBeta1 (d : List Byte) : Nat := dbits d 447 416
/-- Second-moment decay. -/
def rBeta2 (d : List Byte) : Nat := dbits d 479 448
/-- Stabiliser. -/
def rEps (d : List Byte) : Nat := dbits d 511 480
/-- Gain of U2. -/
def rGain (d : List Byte) : Nat := dbits d 543 512
/-- Generation before the first update of U1. -/
def rT0 (d : List Byte) : Nat := dbits d 607 544
/-- Table of a shard. -/
def rTable (d : List Byte) : Nat := dbits d 39 32
/-- Shard number. -/
def rShard (d : List Byte) : Nat := dbits d 42 40

/-- Bank layout of a dense layer: offsets of lo, m and v of a bank from the area's first byte (R224). -/
def denseBank (d : List Byte) (bank : Nat) : Nat × Nat × Nat :=
  let n := rElems d
  let size := align4k (2 * n) + align4k (4 * n) + if rRule d = 1 then align4k (4 * n) else 0
  let lo := bank * size
  let m := lo + align4k (2 * n)
  (lo, m, m + align4k (4 * n))

/-- Bytes R224 requires of a dense layer. -/
def denseBytes (d : List Byte) : Nat :=
  let n := rElems d
  let banks := 2 * (align4k (2 * n) + align4k (4 * n) + if rRule d = 1 then align4k (4 * n) else 0)
  if rRule d = 2 then banks + 2 * align4k (4 * n) + 4 * min (rRows d) (rCols d) ^ 2 else banks

/-- Rows of a shard (R193). -/
def shardRows (td : List Byte) (k : Nat) : Nat :=
  let rows := tRows td
  let sh := dbits td 107 104 + 1
  match dbits td 103 100 with
  | 0 => if k = 0 then rows else 0
  | 1 => (rows + sh - 1 - k) / sh
  | _ => min (dbits td 159 128) (rows - k * dbits td 159 128)

/-- Shard and local row of a table row (R193). -/
def shardOf (td : List Byte) (r : Nat) : Nat × Nat :=
  let sh := dbits td 107 104 + 1
  let per := max 1 (dbits td 159 128)
  match dbits td 103 100 with
  | 0 => (0, r)
  | 1 => (r % sh, r / sh)
  | _ => (r / per, r % per)

/-- Table row of a local row. -/
def rowOfShard (td : List Byte) (k local_ : Nat) : Nat :=
  match dbits td 103 100 with
  | 0 => local_
  | 1 => local_ * (dbits td 107 104 + 1) + k
  | _ => k * dbits td 159 128 + local_

/-- Bytes of a row's record (R224). -/
def recordSize (td : List Byte) : Nat := align16 (4 + tWidth td * if tFormat td = 1 then 2 else 4)
/-- Offset of a shard's undo ring (R224). -/
def ringStart (td : List Byte) (shard : Nat) : Nat := align4k (shardRows td shard * recordSize td)
/-- Bytes of an undo entry (R231). -/
def undoBytes (td : List Byte) : Nat := align16 (16 + tRowBytes td + recordSize td)
/-- Bytes of a row entry of a gradient buffer (R227). -/
def entryBytes (td : List Byte) : Nat := align16 (16 + 4 * tWidth td)

/-! ### Reads and writes of a spring chip -/

/-- Read the slow tier: bytes, and the key of the first word that is uncorrectable. -/
def slowRead (s : State) (key n : Nat) : List Byte × Option Nat :=
  (readBytes s.mem.slow key n, ((wordsOf key n).find? s.mem.slowBad.contains).map (16 * ·))
/-- Package of a slow-tier key (R184; log 40). -/
def packageOf (key : Nat) : Nat := bits key 14 12
/-- An access to the slow tier waits for its package to finish retraining (R187). -/
def slowWaits (s : State) (key n : Nat) : Bool :=
  !s.mem.retraining.isEmpty && (wordsOf key n).any fun w => mget s.mem.retraining (20 + 16 * w / 2 ^ 38) = some (packageOf (16 * w))
/-- Write the slow tier. -/
def State.slowWrite (s : State) (key : Nat) (bs : List Byte) : State :=
  let r := writeWords s.mem.slow s.mem.slowBad key bs
  s.updMem fun m => { m with slow := r.1, slowBad := r.2.1 }

/-- DPA of an address through captured translations (R226). -/
def capAddress (pages : List (Nat × Nat)) (va : Nat) : Option Nat :=
  (pages.find? fun e => e.1 = va / 2 ^ 21).map fun e => e.2 + va % 2 ^ 21

/-- Cut a range at 2 MiB page boundaries: (address, bytes). -/
def pageCuts (fuel va n : Nat) : List (Nat × Nat) :=
  match fuel with
  | 0 => []
  | k + 1 =>
    if n = 0 then []
    else
      let m := min n (2 ^ 21 - va % 2 ^ 21)
      (va, m) :: pageCuts k (va + m) (n - m)

/-- Cuts of a range. -/
def cutsOf (va n : Nat) : List (Nat × Nat) := pageCuts (n / 2 ^ 21 + 2) va n

/-- Read a range through captured translations: bytes, and the address of the first word that is uncorrectable or out
of reach. -/
def capRead (s : State) (pages : List (Nat × Nat)) (va n : Nat) : List Byte × Option Nat :=
  (cutsOf va n).foldl (fun (acc : List Byte × Option Nat) c =>
    match capAddress pages c.1 with
    | some d =>
      let bad := ((wordsOf d c.2).find? fun w => dpaBad s (16 * w) 1).map fun w => max va (c.1 + 16 * w - d)
      (acc.1 ++ dpaBytes s d c.2, if acc.2.isSome then acc.2 else bad)
    | none => (acc.1 ++ List.replicate c.2 0, if acc.2.isSome then acc.2 else some c.1)) ([], none)

/-- An access through captured translations waits for a reset or a retraining (R187, R380). -/
def capWaits (s : State) (pages : List (Nat × Nat)) (va n : Nat) : Bool :=
  (cutsOf va n).any fun c =>
    match capAddress pages c.1 with
    | some d => dpaWaits s d c.2
    | none => false

/-- A read or write through captured translations asks for its host-bias lines (R301). -/
def State.capTouch (s : State) (pages : List (Nat × Nat)) (va n : Nat) : State :=
  (cutsOf va n).foldl (fun s c =>
    match capAddress pages c.1 with
    | some d => s.touchBias d c.2
    | none => s) s

/-- The word of a write that does not land: part of a word that cannot be read, or an unbacked one (R157, R185). -/
def lostWord (s : State) (d n : Nat) : Option Nat :=
  (wordsOf d n).find? fun w =>
    match backedKey s (16 * w) with
    | some k => s.mem.fastBad.contains (k / 16) && partialWord d n w
    | none => true

/-- Write through captured translations; a word that does not land is reported, and its address answered (R430). -/
def State.capWrite (s : State) (t : Nat) (pages : List (Nat × Nat)) (va : Nat) (bs : List Byte) : State × Option Nat :=
  (cutsOf va bs.length).foldl (fun (acc : State × Option Nat) c =>
    match capAddress pages c.1 with
    | some d =>
      let lost := lostWord acc.1 d c.2
      let s1 := ((acc.1.touchBias d c.2).writeDpa d ((bs.drop (c.1 - va)).take c.2)).1
      let s2 := match lost with
        | some w => s1.fastUncorrectable (16 * w)
        | none => s1
      (s2.noticeWrite t d c.2, if acc.2.isSome then acc.2 else lost.map fun w => max va (c.1 + 16 * w - d))
    | none => (acc.1, if acc.2.isSome then acc.2 else some c.1)) (s, none)

/-- Errors a chip found in its slow tier: marked, and corrected ones reported (R185, R368). -/
def State.slowEcc (s : State) (chip : Nat) (e : Ecc) : State :=
  let s := s.updMem fun m => { m with slowBad := e.bad.foldl (fun b a => ninsert b ((2 ^ 38 * chip + a) / 16)) m.slowBad }
  e.corrected.foldl (fun s a => s.report (sourcePath 3 chip 3 (packageOf a)) 0 0 none (BitVec.ofNat 32 (a / 2 ^ 13))) s

/-- An uncorrectable slow-tier read reports it (R430); its package retrains (R187; log 40 places packages). -/
def State.slowUncorrectable (s : State) (key : Nat) : State :=
  let chip := key / 2 ^ 38
  (s.report (sourcePath 3 chip 3 (packageOf key)) 1 0 none (BitVec.ofNat 32 (key % 2 ^ 38 / 2 ^ 13))).wantRetrain
    (20 + chip) (packageOf key)

/-- Bytes of FP32 values. -/
def fp32Bytes (vs : List Nat) : List Byte := vs.flatMap fun v => leBytes 4 v
/-- Bytes of FP16 values. -/
def fp16Bytes (vs : List Nat) : List Byte := vs.flatMap fun v => leBytes 2 v

/-! ### Capture (R226, R227) -/

/-- A capture of one layer: what it caught, and whether the layer lets the clean flag stand; or a freeze
cause with its address. -/
structure LayerCapture where
  captured : Captured
  clean : Bool
  short : Bool

/-- Translate every page of a range for the apply (R226); `other` is the cause where a page is on another
slot. Cause 0 is no fault: the walk waits (R187, R381). -/
def captureRange (s : State) (t : Nat) (need : Need) (other va n : Nat) : Except (Nat × Nat) (List (Nat × Nat)) :=
  (cutsOf va n).foldlM (fun acc c =>
    match if c.1 ≥ 2 ^ 48 then Trans.fail 0x20 else translateNow s t (2 ^ 21 * (c.1 / 2 ^ 21)) need with
    | .fail cause => .error (cause, c.1)
    | .wait => .error (0, c.1)
    | .ok b => if isLocal s b then .ok (acc ++ [(c.1 / 2 ^ 21, boardDpa b)]) else .error (other, c.1)) []

/-- Read a range at capture. -/
def captureRead (s : State) (t va n : Nat) : Except (Nat × Nat) (List Byte) := do
  let pages ← captureRange s t .r 0x21 va n
  if capWaits s pages va n then .error (0, va)
  else
    let r := capRead s pages va n
    match r.2 with
    | some a => .error (0x22, a)
    | none => .ok r.1

/-- Fields of a rule block that break R225 or R226, whatever the slot, the table and the generation. -/
def ruleFieldsBad (d : List Byte) : Bool :=
  dbits d 1023 624 ≠ 0 || dbits d 31 20 ≠ 0 || rKind d > 1 || rRule d > 3 ||
  (rRule d ≠ 2 && rGain d ≠ 0) || (rRule d = 0 && rEps d ≠ 0) || (rRule d ≠ 1 && rBeta2 d ≠ 0) ||
  (rRule d = 3 && rBeta1 d ≠ 0) || rGrad d % 64 ≠ 0 ||
  (if rKind d = 0 then
    rHi d 0 % 2 ^ 21 ≠ 0 || rHi d 1 % 2 ^ 21 ≠ 0 || rRows d = 0 || rRows d > 65536 || rCols d = 0 || rCols d > 65536
   else rHi d 0 ≠ 0 || rHi d 1 ≠ 0 || rCols d ≠ 0 || dbits d 63 43 ≠ 0) ||
  ((rKind d = 1) ≠ (rRule d = 3)) || (rRule d = 2 && (rRows d > 8192 || rCols d > 8192)) ||
  (rView d ≠ 0 && 64 * dbits d 623 608 ≥ rCols d)

/-- Those, and U1's generation before its first update (R226). -/
def ruleBad (d : List Byte) (h : Nat) : Bool := ruleFieldsBad d || (rRule d = 1 && h < rT0 d + 1)

/-- Rule blocks whose slot does not serve the layer (R226). -/
def slotBad (s : State) (t p k chip slot : Nat) (d td : List Byte) : Bool :=
  let e := slotEntry s chip slot
  !(bit e 63 && bits e 62 53 = t) ||
  ((ownedLayers s t p).any fun o => o.1 ≠ k && o.2.1 = chip && o.2.2 = slot) ||
  (if rKind d = 0 then slotSize s chip slot < denseBytes d
   else slotSize s chip slot < shardRows td (rShard d) * recordSize td)

/-- A gradient header that lets the layer be applied (R227, R238). -/
def headerClean (hd : List Byte) : Bool :=
  dbits hd 0 0 = 1 && dbits hd 2 2 = 0 && !isNonfiniteBits fp32 (dbits hd 63 32)

/-- Rows a list of entries names; none where an entry breaks R227 or names a row outside the shard. -/
def entryRows (td : List Byte) (shard : Nat) (bs : List Byte) (n : Nat) : Option (List Nat) :=
  (List.range n).mapM fun i =>
    let pre := leNat ((bs.drop (i * entryBytes td)).take 16)
    let r := pre % 2 ^ 32
    if pre ≥ 2 ^ 32 || r ≥ tRows td || (shardOf td r).1 ≠ shard then none else some r

/-- Distinct values of a list. -/
def distinct (l : List Nat) : List Nat := l.foldl (fun a x => if a.contains x then a else a ++ [x]) []

/-- Capture a dense layer. -/
def captureDense (s : State) (t p k chip slot : Nat) (d : List Byte) (h : Nat) :
    Except (Nat × Nat) LayerCapture := do
  let n := rElems d
  let direct : Bool := (setAt s t p).mode = 2
  let hd ← captureRead s t (rGrad d) 64
  let g ← captureRange s t .r 0x21 (rGrad d) (64 + 4 * n)
  let src := if direct then 0 else (h - 1) % 2
  let dst := if direct then 0 else h % 2
  let a ← captureRange s t .r 0x21 (rHi d src) (2 * n)
  let b ← captureRange s t .w 0x21 (rHi d dst) (2 * n)
  let v ← if rView d = 0 then .ok [] else captureRange s t .w 0x21 (rView d + h % 2 * rRows d * 256) (rRows d * 256)
  .ok { captured := { layer := k, chip := chip, slot := slot, block := d, pages := g ++ a ++ b ++ v, rows := [] },
        clean := headerClean hd, short := false }

/-- Capture a table shard: its row entries are read only where the header is complete and finite (R226). -/
def captureTable (s : State) (t p k chip slot : Nat) (d td : List Byte) :
    Except (Nat × Nat) LayerCapture := do
  let hd ← captureRead s t (rGrad d) 64
  let base : Captured := { layer := k, chip := chip, slot := slot, block := d, pages := [], rows := [] }
  if dbits hd 0 0 = 0 || dbits hd 2 2 = 1 then .ok { captured := base, clean := false, short := false }
  else
    let n := dbits hd 95 64
    let g ← captureRange s t .r 0x21 (rGrad d) (64 + n * entryBytes td)
    let bs ← captureRead s t (rGrad d + 64) (n * entryBytes td)
    match entryRows td (rShard d) bs n with
    | none => .error (0x81, rGrad d)
    | some rows =>
      let pages ← (distinct rows).foldlM (fun acc r => do
        let q ← captureRange s t .rw 0x81 (rowAddress td r) (tRowBytes td)
        .ok (acc ++ q)) []
      let room := slotSize s chip slot - ringStart td (rShard d)
      let short : Bool := (setAt s t p).mode ≠ 2 && (distinct rows).length * undoBytes td > room
      .ok { captured := { base with pages := g ++ pages, rows := rows }, clean := headerClean hd && !short, short := short }

/-- Capture one owned layer (R226). The block read is answered beside a cause, for the freeze record. -/
def captureLayer (s : State) (t p h : Nat) (o : Nat × Nat × Nat) :
    List Byte × Except (Nat × Nat) LayerCapture :=
  let (k, chip, slot) := o
  match captureRead s t ((setAt s t p).ruleTable + 128 * k) 128 with
  | .error e => ([], .error e)
  | .ok d =>
    let td := tableDesc s t (rTable d)
    (d,
      if ruleBad d h then .error (0x81, 0)
      else if rKind d = 1 && (tRows td = 0 || dbits td 225 224 ≠ p) then .error (0x81, 0)
      else if slotBad s t p k chip slot d td then .error (0x81, 0)
      else if rKind d = 0 then captureDense s t p k chip slot d h
      else captureTable s t p k chip slot d td)

/-- What lies behind a freeze of a job at a tenant address: the walk that met a bad entry, or the uncorrectable word at
that address (R190, R430). -/
def State.reportAt (s : State) (t cause va : Nat) : State :=
  match ownPlace s t va .r with
  | .ok d => if cause = 0x22 then s.fastUncorrectable d else s
  | _ => s.noteWalk (walk s t va)

/-- `SpringChipState` of a chip. -/
def chipState (s : State) (chip : Nat) : Nat := mgetD s.service.springState chip 0

/-- A capture would wait for a reset or a retraining (R187, R380). -/
def captureWaits (s : State) (t p h : Nat) : Bool :=
  (ownedLayers s t p).any fun o =>
    chipState s o.2.1 = 2 &&
    match (captureLayer s t p h o).2 with
    | .error e => e.1 = 0
    | .ok _ => false

/-- Capture every owned layer of a set: what a vote contribution needs of it (R226, R238). A layer that
cannot be captured freezes the job; one whose chip is out of service lets no clean flag stand. -/
def State.capture (s : State) (t p h : Nat) : State × Bool :=
  (ownedLayers s t p).foldl (fun (acc : State × Bool) o =>
    if chipState s o.2.1 ≠ 2 then (acc.1, false)
    else
      match captureLayer acc.1 t p h o with
      | (d, .error (cause, a)) => ((acc.1.reportAt t cause a).freezeJob t p cause a (some (o.1, d)), false)
      | (_, .ok c) =>
        let s1 := acc.1.updRun t p fun r => { r with captured := r.captured ++ [c.captured] }
        let s2 := if c.short then s1.updSet t p fun x => { x with undoShortfalls := satAdd 32 x.undoShortfalls 1 } else s1
        (s2, acc.2 && c.clean)) (s, true)

/-! ### Applying a dense layer (R228, R230, R232) -/

/-- How a chip's work on a layer ends (R243). -/
inductive Applied where
  | ok
  | failed
  | fatal
  deriving DecidableEq, Repr

/-- New m, v and w of a dense layer (R228). -/
def denseRule (s : State) (d : List Byte) (h : Nat) (ms vs ws gs : List Nat) : List Nat × List Nat × List Nat :=
  match rRule d with
  | 0 =>
    let r := ((ms.zip ws).zip gs).map fun e => ruleU0 (rLr d) (rDecay d) (rBeta1 d) e.1.1 e.1.2 e.2
    (r.map Prod.fst, vs, r.map Prod.snd)
  | 1 =>
    let t := fOfNat (h - rT0 d)
    let c1 := fSub fOne (layerPow (rBeta1 d) t)
    let c2 := fSub fOne (layerPow (rBeta2 d) t)
    let r := (((ms.zip vs).zip ws).zip gs).map fun e =>
      ruleU1 (rLr d) (rDecay d) (rBeta1 d) (rBeta2 d) (rEps d) c1 c2 e.1.1.1 e.1.1.2 e.1.2 e.2
    (r.map fun x => x.1, r.map fun x => x.2.1, r.map fun x => x.2.2)
  | _ =>
    let n := dbits d 11 8
    let r := ruleU2 (rLr d) (rDecay d) (rBeta1 d) (rEps d) (rGain d) (if n = 0 then s.globals.orthoDefault else n)
      (rRows d) (rCols d) ms ws gs
    (r.1, vs, r.2)

/-- Count the conversions of an apply (R119, R125). -/
def State.countPairs (s : State) (read : List Conv) (ws : List Nat) (ps : List Pair) : State :=
  s.countConversions ((read.filter fun c => c.sat).length + (ps.filter fun q => q.sat).length)
    ((read.filter fun c => c.nonfinite).length + (ws.filter fun w => isNonfiniteBits fp32 w).length)

/-- Pair view of a new value: 64 columns of every row (R232). -/
def viewConvs (d : List Byte) (ps : List Pair) : List Conv :=
  (List.range (rRows d)).flatMap fun r => (List.range 64).map fun j =>
    let c := 64 * dbits d 623 608 + j
    match if c < rCols d then ps[r * rCols d + c]? else none with
    | some q => recombine q.hi q.lo (rScale d)
    | none => { bits := 0, sat := false, nonfinite := false }

/-- Count conversions by their flags (R111, R119, R125). -/
def State.countConvs (s : State) (cs : List Conv) : State :=
  s.countConversions (cs.filter fun c => c.sat).length (cs.filter fun c => c.nonfinite).length

/-- The uncorrectable report for a word at an address of a captured page (R430). -/
def State.badAt (s : State) (pages : List (Nat × Nat)) (va : Nat) : State :=
  match capAddress pages va with
  | some a => s.fastUncorrectable a
  | none => s

/-- Apply a dense layer; `upTo` stops the writes after so many elements (R230, R232, R246). -/
def applyDense (s : State) (t p : Nat) (c : Captured) (h upTo : Nat) : State × Applied :=
  let d := c.block
  let n := rElems d
  let direct : Bool := (setAt s t p).mode = 2
  let src := if direct then 0 else (h - 1) % 2
  let dst := if direct then 0 else h % 2
  let base := slotBase s c.chip c.slot
  let (lo0, m0, v0) := denseBank d src
  let (lo1, m1, v1) := denseBank d dst
  let hi := capRead s c.pages (rHi d src) (2 * n)
  let lo := slowRead s (base + lo0) (2 * n)
  let m := slowRead s (base + m0) (4 * n)
  let v := if rRule d = 1 then slowRead s (base + v0) (4 * n) else ([], none)
  let g := capRead s c.pages (rGrad d + 64) (4 * n)
  let s0 := (s.capTouch c.pages (rHi d src) (2 * n)).capTouch c.pages (rGrad d + 64) (4 * n)
  match hi.2, [lo.2, m.2, v.2].findSome? id, g.2 with
  | some a, _, _ => (s0.badAt c.pages a, .fatal)
  | none, some k, _ => (s0.slowUncorrectable k, .fatal)
  | none, none, some a => ((s0.badAt c.pages a).freezeJob t p 0x22 a (some (c.layer, d)), .failed)
  | none, none, none =>
    let old := ((encodings 2 hi.1).zip (encodings 2 lo.1)).map fun e => recombine e.1 e.2 (rScale d)
    let r := denseRule s d h (encodings 4 m.1) (encodings 4 v.1) (old.map Conv.bits) (encodings 4 g.1)
    let ps := r.2.2.map fun w => splitPair ((decodeNum fp32 w).scale (-(rScale d)))
    let s1 := s0.countPairs old r.2.2 ps
    let s2 := ((s1.slowWrite (base + lo1) (fp16Bytes ((ps.map Pair.lo).take upTo))).slowWrite (base + m1)
      (fp32Bytes (r.1.take upTo)))
    let s3 := if rRule d = 1 then s2.slowWrite (base + v1) (fp32Bytes (r.2.1.take upTo)) else s2
    let w := s3.capWrite t c.pages (rHi d dst) (fp16Bytes ((ps.map Pair.hi).take upTo))
    let w2 := if rView d = 0 then w
      else
        let cs := (viewConvs d ps).take (64 * (upTo / max 1 (rCols d)))
        let x := (w.1.countConvs cs).capWrite t c.pages (rView d + h % 2 * rRows d * 256) (fp32Bytes (cs.map Conv.bits))
        (x.1, if w.2.isSome then w.2 else x.2)
    match w2.2 with
    | some a => (w2.1.freezeJob t p 0x22 a (some (c.layer, d)), .failed)
    | none => (w2.1, .ok)

/-! ### Applying a table shard (R228, R231) -/

/-- Slow-tier key of a row's record. -/
def recordKey (s : State) (c : Captured) (td : List Byte) (r : Nat) : Nat :=
  slotBase s c.chip c.slot + (shardOf td r).2 * recordSize td

/-- Open undo entries of a layer. -/
def undoCount (s : State) (t p layer : Nat) : Nat := mgetD (runAt s t p).undo layer 0

/-- Slow-tier key of undo entry `i` of a layer. -/
def undoKey (s : State) (c : Captured) (td : List Byte) (i : Nat) : Nat :=
  slotBase s c.chip c.slot + ringStart td (rShard c.block) + i * undoBytes td

/-- Append an undo entry before the first write to a row (R231). -/
def State.pushUndo (s : State) (t p h : Nat) (c : Captured) (td : List Byte) (r : Nat) (row record : List Byte) : State :=
  let i := undoCount s t p c.layer
  let head := leBytes 16 (fieldAt 64 (h % 2 ^ 64) + fieldAt 48 (undoBytes td) + fieldAt 32 (rTable c.block) + r)
  (s.slowWrite (undoKey s c td i) (padTo 16 (head ++ row ++ record))).updRun t p fun x =>
    { x with undo := mset x.undo c.layer (i + 1), changedRows := x.changedRows ++ [(rTable c.block, r)] }

/-- New stored row of an 8-bit table, with its saturations and non-finite sources (R228). -/
def storedRow (td : List Byte) (scale : Int) (ws : List Nat) : List Byte × Nat × Nat :=
  let xs := ws.map fun w => (decodeNum fp32 w).scale (-scale)
  if tFormat td = 4 then
    let q := quantQ8r xs
    (leBytes 2 q.scale ++ leBytes 2 q.offset ++ q.codes.map fun v => BitVec.ofNat 8 v, q.sats, q.nonfinite)
  else
    let cs := xs.map (convRn (fmtOf (tFormat td)))
    (cs.flatMap fun x => leBytes 1 x.bits, (cs.filter fun x => x.sat).length, (cs.filter fun x => x.nonfinite).length)

/-- Apply one entry of a gradient list (R228, R231). -/
def applyEntry (s : State) (t p h : Nat) (c : Captured) (td : List Byte) (i r : Nat) : State × Applied :=
  let d := c.block
  let n := tWidth td
  let direct : Bool := (setAt s t p).mode = 2
  let va := rowAddress td r
  let key := recordKey s c td r
  let row := capRead s c.pages va (tRowBytes td)
  let rec_ := slowRead s key (recordSize td)
  let ga := rGrad d + 64 + i * entryBytes td
  let g := capRead s c.pages (ga + 16) (4 * n)
  let s := (s.capTouch c.pages va (tRowBytes td)).capTouch c.pages (ga + 16) (4 * n)
  match row.2, rec_.2, g.2 with
  | some a, _, _ => (s.badAt c.pages a, .fatal)
  | none, some k, _ => (s.slowUncorrectable k, .fatal)
  | none, none, some a => ((s.badAt c.pages a).freezeJob t p 0x22 a (some (c.layer, d)), .failed)
  | none, none, none =>
    let half : Bool := tFormat td = 1
    let his := if half then encodings 2 row.1 else encodings 2 ((rec_.1.drop 4).take (2 * n))
    let los := encodings 2 ((rec_.1.drop (if half then 4 else 4 + 2 * n)).take (2 * n))
    let old := (his.zip los).map fun e => recombine e.1 e.2 (rScale d)
    let u := ruleU3 (rLr d) (rDecay d) (rEps d) (leNat (rec_.1.take 4)) (old.map Conv.bits) (encodings 4 g.1)
    let ps := u.2.map fun w => splitPair ((decodeNum fp32 w).scale (-(rScale d)))
    let fresh : Bool := !(runAt s t p).changedRows.contains (rTable d, r)
    let s1 := if direct then
        s.updRun t p fun x => { x with changedRows := if fresh then x.changedRows ++ [(rTable d, r)] else x.changedRows }
      else if fresh then s.pushUndo t p h c td r row.1 rec_.1 else s
    let s2 := s1.countPairs old u.2 ps
    let newRec := leBytes 4 u.1 ++ (if half then [] else fp16Bytes (ps.map Pair.hi)) ++ fp16Bytes (ps.map Pair.lo)
    let s3 := s2.slowWrite key (newRec ++ List.replicate (recordSize td - newRec.length) 0)
    let (stored, sats, nonf) := if half then (fp16Bytes (ps.map Pair.hi), 0, 0) else storedRow td (rScale d) u.2
    let w := (s3.countConversions sats nonf).capWrite t c.pages va stored
    match w.2 with
    | some a => (w.1.freezeJob t p 0x22 a (some (c.layer, d)), .failed)
    | none => (w.1, .ok)

/-- Apply a table shard, at most `upTo` entries. -/
def applyTable (s : State) (t p h : Nat) (c : Captured) (upTo : Nat) : State × Applied :=
  let td := tableDesc s t (rTable c.block)
  ((List.range c.rows.length).zip (c.rows.take upTo)).foldl (fun (acc : State × Applied) e =>
    match acc.2 with
    | .ok => applyEntry acc.1 t p h c td e.1 e.2
    | _ => acc) (s, .ok)

/-- Captured layers in the order of R242: table shards, then dense layers, ascending. -/
def applyOrder (s : State) (t p : Nat) : List Captured :=
  let cs := (runAt s t p).captured
  (cs.filter fun c => rKind c.block = 1) ++ cs.filter fun c => rKind c.block = 0

/-- Elements or entries of a captured layer. -/
def layerUnits (c : Captured) : Nat := if rKind c.block = 1 then c.rows.length else rElems c.block

/-- Apply every captured layer; answers how it ended and the layers applied (R242, R243). -/
def State.applyAll (s : State) (t p h : Nat) : State × Applied × Nat :=
  (applyOrder s t p).foldl (fun (acc : State × Applied × Nat) c =>
    match acc.2.1 with
    | .ok =>
      let r := if rKind c.block = 1 then applyTable acc.1 t p h c (layerUnits c) else applyDense acc.1 t p c h (layerUnits c)
      (r.1, r.2, if r.2 = .ok then acc.2.2 + 1 else acc.2.2)
    | _ => acc) (s, .ok, 0)

/-- An apply cut short: how far each layer came is open; answers the layers it did apply, and whether an owner met
uncorrectable data (R230, R243, R246). -/
def State.applyPart (s : State) (t p h : Nat) : State × Nat × Bool :=
  ((List.range (applyOrder s t p).length).zip (applyOrder s t p)).foldl (fun (acc : State × Nat × Bool) e =>
    let n := free s (2000 + e.1) % (layerUnits e.2 + 1)
    if n = 0 && layerUnits e.2 ≠ 0 then acc
    else
      let r := if rKind e.2.block = 1 then applyTable acc.1 t p h e.2 n else applyDense acc.1 t p e.2 h n
      (r.1, if n = layerUnits e.2 && r.2 = .ok then acc.2.1 + 1 else acc.2.1, acc.2.2 || r.2 = .fatal)) (s, 0, false)

/-- What applying a layer reads and writes in the fast tier: (address, bytes) (R228, R231, R232). -/
def layerRanges (s : State) (t p h : Nat) (c : Captured) : List (Nat × Nat) :=
  let d := c.block
  let n := rElems d
  if rKind d = 1 then
    let td := tableDesc s t (rTable d)
    (rGrad d + 64, c.rows.length * entryBytes td) :: c.rows.map fun r => (rowAddress td r, tRowBytes td)
  else
    let direct : Bool := (setAt s t p).mode = 2
    [(rHi d (if direct then 0 else (h - 1) % 2), 2 * n), (rHi d (if direct then 0 else h % 2), 2 * n),
     (rGrad d + 64, 4 * n)] ++ if rView d = 0 then [] else [(rView d + h % 2 * rRows d * 256, rRows d * 256)]

/-- Applying would wait for a reset or a retraining of what it reads or writes (R187, R380). -/
def applyWaits (s : State) (t p h : Nat) : Bool :=
  (runAt s t p).captured.any fun c =>
    slowWaits s (slotBase s c.chip c.slot) (slotSize s c.chip c.slot) ||
      (layerRanges s t p h c).any fun r => capWaits s c.pages r.1 r.2

/-! ### Undo (R231) -/

/-- Restore one undo entry: passed by where it cannot be read. -/
def State.popUndo (s : State) (t p : Nat) (c : Captured) (td : List Byte) (i : Nat) : State :=
  let e := slowRead s (undoKey s c td i) (undoBytes td)
  match e.2 with
  | some k => (s.slowUncorrectable k).updRun t p fun x => { x with restoreFailed := true }
  | none =>
    let r := dbits e.1 31 0
    let row := (e.1.drop 16).take (tRowBytes td)
    let record := (e.1.drop (16 + tRowBytes td)).take (recordSize td)
    ((s.capWrite t c.pages (rowAddress td r) row).1).slowWrite (recordKey s c td r) record

/-- Restore every undo ring of a set, newest entry first, and empty it. -/
def State.restoreUndo (s : State) (t p : Nat) : State :=
  let s1 := (runAt s t p).captured.foldl (fun s c =>
    let td := tableDesc s t (rTable c.block)
    (List.range (undoCount s t p c.layer)).reverse.foldl (fun s i => s.popUndo t p c td i) s) s
  s1.updRun t p fun x => { x with undo := [], changedRows := [] }

/-- A row has an open undo entry: its home declines Pool fills of it (R209, R231). -/
def rowUndone (s : State) (t table r : Nat) : Bool :=
  (tenantAt s t).runs.any fun (e : Nat × SetRun) => !e.2.undo.isEmpty && e.2.changedRows.contains (table, r)

/-! ### Images (R254) -/

/-- Image bytes of a layer, each record from a 4 KiB boundary. -/
def imageBytes (td d : List Byte) : Nat :=
  if rKind d = 0 then align4k (rElems d * (if rRule d = 1 then 12 else 8))
  else align4k (shardRows td (rShard d) * (4 * tWidth td + 4))

/-- Rows of the rule table as an import or export reads them: a block that breaks its rules freezes the job. -/
def imageLayers (s : State) (t p : Nat) : State × List (Nat × Nat × Nat × List Byte) :=
  (ownedLayers s t p).foldl (fun (acc : State × List (Nat × Nat × Nat × List Byte)) o =>
    match captureRead acc.1 t ((setAt s t p).ruleTable + 128 * o.1) 128 with
    | .error e => ((acc.1.reportAt t e.1 e.2).freezeJob t p e.1 e.2 (some (o.1, [])), acc.2)
    | .ok d =>
      let td := tableDesc s t (rTable d)
      if ruleFieldsBad d || (rKind d = 1 && (tRows td = 0 || dbits td 225 224 ≠ p)) || slotBad s t p o.1 o.2.1 o.2.2 d td then
        (acc.1.freezeJob t p 0x81 0 (some (o.1, d)), acc.2)
      else (acc.1, acc.2 ++ [(o.1, o.2.1, o.2.2, d)])) (s, [])

/-- Read module memory for an import or export; a fault freezes the job. -/
def imageRead (s : State) (t p va n : Nat) : State × Option (List Byte) :=
  match captureRead s t va n with
  | .ok bs => (s, some bs)
  | .error e => ((s.reportAt t e.1 e.2).freezeJob t p e.1 e.2 none, none)

/-- Write module memory for an import or export; a fault freezes the job. -/
def State.imageWrite (s : State) (t p va : Nat) (bs : List Byte) : State :=
  match captureRange s t .w 0x21 va bs.length with
  | .error e => (s.reportAt t e.1 e.2).freezeJob t p e.1 e.2 none
  | .ok pages =>
    let r := s.capWrite t pages va bs
    match r.2 with
    | some a => r.1.freezeJob t p 0x22 a none
    | none => r.1

/-- Read a slow-tier array for an export; an uncorrectable one freezes the job. -/
def imageSlow (s : State) (t p key n : Nat) : State × List Byte :=
  let r := slowRead s key n
  (match r.2 with
   | some k => (s.slowUncorrectable k).freezeJob t p 0x22 0 none
   | none => s, r.1)

/-- Export one layer of the published generation (R254). -/
def exportLayer (s : State) (t p g at_ : Nat) (o : Nat × Nat × Nat × List Byte) : State :=
  let (_, chip, slot, d) := o
  let base := slotBase s chip slot
  if rKind d = 0 then
    let bank := if (setAt s t p).mode = 2 then 0 else g % 2
    let (lo, m, v) := denseBank d bank
    let n := rElems d
    match imageRead s t p (rHi d bank) (2 * n) with
    | (s1, none) => s1
    | (s1, some hi) =>
      let (s2, los) := imageSlow s1 t p (base + lo) (2 * n)
      let (s3, ms) := imageSlow s2 t p (base + m) (4 * n)
      let (s4, vs) := if rRule d = 1 then imageSlow s3 t p (base + v) (4 * n) else (s3, [])
      let ws := ((encodings 2 hi).zip (encodings 2 los)).map fun e => recombine e.1 e.2 (rScale d)
      (s4.countConvs ws).imageWrite t p at_ (fp32Bytes (ws.map Conv.bits) ++ ms ++ vs)
  else
    let td := tableDesc s t (rTable d)
    let n := tWidth td
    (List.range (shardRows td (rShard d))).foldl (fun s j =>
      let r := rowOfShard td (rShard d) j
      match imageRead s t p (rowAddress td r) (tRowBytes td) with
      | (s1, none) => s1
      | (s1, some row) =>
        let (s2, rec_) := imageSlow s1 t p (base + j * recordSize td) (recordSize td)
        let half : Bool := tFormat td = 1
        let his := if half then encodings 2 row else encodings 2 ((rec_.drop 4).take (2 * n))
        let los := encodings 2 ((rec_.drop (if half then 4 else 4 + 2 * n)).take (2 * n))
        let ws := (his.zip los).map fun e => recombine e.1 e.2 (rScale d)
        (s2.countConvs ws).imageWrite t p (at_ + j * (4 * n + 4)) (fp32Bytes (ws.map Conv.bits) ++ rec_.take 4)) s

/-- Import one layer as generation h (R254). -/
def importLayer (s : State) (t p h at_ : Nat) (o : Nat × Nat × Nat × List Byte) : State :=
  let (_, chip, slot, d) := o
  let base := slotBase s chip slot
  let split (ws : List Nat) : List Pair := ws.map fun w => splitPair ((decodeNum fp32 w).scale (-(rScale d)))
  if rKind d = 0 then
    let bank := if (setAt s t p).mode = 2 then 0 else h % 2
    let (lo, m, v) := denseBank d bank
    let n := rElems d
    match imageRead s t p at_ (n * (if rRule d = 1 then 12 else 8)) with
    | (s1, none) => s1
    | (s1, some bs) =>
      let ws := encodings 4 (bs.take (4 * n))
      let ps := split ws
      let s2 := ((s1.countPairs [] ws ps).slowWrite (base + lo) (fp16Bytes (ps.map Pair.lo))).slowWrite (base + m)
        ((bs.drop (4 * n)).take (4 * n))
      let s3 := if rRule d = 1 then s2.slowWrite (base + v) (bs.drop (8 * n)) else s2
      s3.imageWrite t p (rHi d bank) (fp16Bytes (ps.map Pair.hi))
  else
    let td := tableDesc s t (rTable d)
    let n := tWidth td
    (List.range (shardRows td (rShard d))).foldl (fun s j =>
      let r := rowOfShard td (rShard d) j
      match imageRead s t p (at_ + j * (4 * n + 4)) (4 * n + 4) with
      | (s1, none) => s1
      | (s1, some bs) =>
        let ws := encodings 4 (bs.take (4 * n))
        let ps := split ws
        let half : Bool := tFormat td = 1
        let rec_ := bs.drop (4 * n) ++ (if half then [] else fp16Bytes (ps.map Pair.hi)) ++ fp16Bytes (ps.map Pair.lo)
        let s2 := (s1.countPairs [] ws ps).slowWrite (base + j * recordSize td)
          (rec_ ++ List.replicate (recordSize td - rec_.length) 0)
        let (stored, sats, nonf) := if half then (fp16Bytes (ps.map Pair.hi), 0, 0) else storedRow td (rScale d) ws
        (s2.countConversions sats nonf).imageWrite t p (rowAddress td r) stored) s

/-- Run an import or export over the image, layer by layer, each from a 4 KiB boundary (R254). -/
def State.imageRun (s : State) (t p : Nat) (run : State → Nat → Nat × Nat × Nat × List Byte → State) : State :=
  let x := imageLayers s t p
  (x.2.foldl (fun (acc : State × Nat) o =>
    (run acc.1 acc.2 o, acc.2 + imageBytes (tableDesc s t (rTable o.2.2.2)) o.2.2.2))
    (x.1, (setAt s t p).imageAddr)).1

end Sys2Proof.Machine
end

