-- ==== Sys2Proof/Machine/Springs.lean ====
section
/-!
DEFINITION. Attempts: opening and pacing (R236, R237), contributions (R238), reductions (R240, R241), the
pin words and the generation block (R213, R214, R242, R428, R429), publication and abandonment (R243–R247),
the watchdog (R248), restarts (R249), Pool settlement (R210–R212), and export and import (R254).
-/

namespace Sys2Proof.Machine

/-! ### The generation block (R213, R428, R429) -/

/-- An uncorrectable word of the generation block: a report that concerns the tenant, and freezes nothing (R428,
R430). -/
def State.genBlockBad (s : State) (t d : Nat) : State :=
  (s.updTenant t fun x => { x with nUncorrectable := satAdd 32 x.nUncorrectable 1 }).fastUncorrectable d

/-- Change the word at an offset of the generation block, atomically; one that cannot be read is passed by,
and a block that cannot be reached freezes the job (R428, R429). Nothing happens without a block. -/
def State.genWord (s : State) (t p off : Nat) (f : Nat → Nat) : State :=
  let va := (setAt s t p).genBlock
  if va = 0 then s
  else
    match ownPlace s t va .rw with
    | .wait => s
    | .fail c => s.ownFail t p va c
    | .ok d =>
      if dpaBad s (d + off) 8 then s.genBlockBad t (d + off)
      else ((s.touchBias (d + off) 8).writeDpa (d + off) (leBytes 8 (f (leNat (dpaBytes s (d + off) 8)) % 2 ^ 64))).1

/-- Offset of the pin word of a bank. -/
def pinOffset (bank : Nat) : Nat := 8 + 8 * bank

/-! ### Pool settlement (R210–R212) -/

/-- Modules of the board that run the set. -/
def boardNodes (s : State) (t p : Nat) : List Nat :=
  (participants s t p).filter fun n => n / 8 = s.links.nodeId / 8

/-- Apply an invalidation record in all four slices (R211). -/
def State.invalidate (s : State) (t table r : Nat) : State :=
  s.updMem fun m =>
    { m with
      invalidations := satAdd 64 m.invalidations 1,
      dir := m.dir.map fun (e : Nat × Way) =>
        if e.2.tenant = t && e.2.table = table && e.2.row = r then
          (match e.2.state with
           | 2 => (e.1, { e.2 with state := 3 })
           | 1 => (e.1, { e.2 with doomed := true })
           | _ => e)
        else e }

/-- Records of a generation applied from a sender. -/
def recordsFrom (s : State) (t p h sender : Nat) : Nat :=
  ((runAt s t p).records.find? fun e => e.1 = h && e.2.1 = sender).elim 0 fun e => e.2.2

/-- Count a record of a generation from a sender (R268). -/
def State.countRecord (s : State) (t p h sender : Nat) : State :=
  let n := recordsFrom s t p h sender
  s.updRun t p fun r => { r with records := (h, sender, n + 1) :: r.records.filter fun e => !(e.1 = h && e.2.1 = sender) }

/-- End markers of generation h applied: those whose named records have all been applied (R268). -/
def markerApplied (s : State) (t p h sender : Nat) : Bool :=
  (runAt s t p).markers.any fun m => m.1 = h && m.2.1 = sender && m.2.2 ≤ recordsFrom s t p h sender

/-- Highest generation whose end markers from every module of the board are applied becomes `PoolSettled`,
in the object and in the generation block (R212). -/
def State.settle (s : State) (t p : Nat) : State :=
  let hs := ((runAt s t p).markers.map Prod.fst).filter fun h =>
    h > (runAt s t p).settled && (boardNodes s t p).all fun n => markerApplied s t p h n
  let h := hs.foldl max 0
  if h = 0 || ((setAt s t p).genBlock ≠ 0 && ownWaits s t (setAt s t p).genBlock 64) then s
  else
    (s.updRun t p fun r =>
      { r with settled := h, markers := r.markers.filter (·.1 > h), records := r.records.filter (·.1 > h) }).genWord
      t p 24 fun _ => h

/-- A record's 64 bits (R210). -/
def recordWord (t table r : Nat) : List Byte := leBytes 8 (fieldAt 54 t + fieldAt 46 table + fieldAt 14 r)
/-- An end marker's 64 bits: the set stands in `table`. -/
def markerWord (t p : Nat) : List Byte := leBytes 8 (fieldAt 54 t + fieldAt 46 p + fieldAt 13 1)

/-- Cut a list into parts of `n`. -/
def chunks {α : Type} (fuel n : Nat) (l : List α) : List (List α) :=
  match fuel with
  | 0 => []
  | k + 1 => if l.isEmpty then [] else l.take n :: chunks k n (l.drop n)

/-- Invalidation packets to one node: records, then the end marker last (R210, R266, R268). -/
def invalidationPackets (s : State) (t p h dst : Nat) (rows : List (Nat × Nat)) : List Packet :=
  let words := rows.map (fun e => recordWord t e.1 e.2) ++ [markerWord t p]
  let parts := chunks words.length 512 words
  (List.range parts.length).zip parts |>.map fun e =>
    let data := padTo 16 e.2.flatten
    { basePacket s.links.nodeId dst t 9 0 with
      aux := BitVec.ofNat 64 h, addr := BitVec.ofNat 48 (if e.1 + 1 = parts.length then rows.length else 0),
      length := data.length, data := data }

/-- Send the invalidations of a publication, and mark this module's own (R210, R244). -/
def State.sendInvalidations (s : State) (t p h : Nat) (rows : List (Nat × Nat)) : State :=
  let own := s.links.nodeId
  let s1 := ((boardNodes s t p).filter (· ≠ own)).foldl (fun s n =>
    (invalidationPackets s t p h n rows).foldl State.sendControl s) s
  (s1.updRun t p fun r => { r with markers := (h, own, 0) :: r.markers }).settle t p

/-! ### Ending an attempt (R244, R246, R247) -/

/-- Poison messages held for the attempt now open in the watch unit take effect (R141, R142). -/
def State.heldPoison (s : State) (t p : Nat) : State :=
  let n := watchAttempt s t p
  let r := runAt s t p
  let s1 := s.updRun t p fun x => { x with held := x.held.filter fun m => m.attempt ≥ n && !(m.phase = 2 && m.attempt = n) }
  if r.held.any fun m => m.phase = 2 && m.attempt = n then s1.poison t p else s1

/-- Outcome in the attempt block: `skips` and `outcome`, then `outcome_attempt` (R235, R244, R246). -/
def State.writeOutcome (s : State) (t p code : Nat) : State :=
  let x := setAt s t p
  let s1 := ((s.attWrite t p 16 8 x.skips).attWrite t p 0 8 code).attWrite t p 24 8 x.attempts
  s1.updRun t p fun r => { r with outcome := code, outcomeAttempt := x.attempts }

/-- The attempt is over: what lives for one attempt is cleared (R141, R235). -/
def State.clearAttempt (s : State) (t p : Nat) : State :=
  ((s.updSet t p fun x => { x with poisoned := false, contributed := false }).updRun t p fun r =>
    { r with captured := [], reduction := none, writing := false, applied := false, changedRows := [], undo := [],
             restoreFailed := false, voteSucceeded := false, forcedEarly := false, expired := false,
             releasedTo := none }).heldPoison t p

/-- Outcome code of an abandoned attempt (R247). -/
def outcomeCode (s : State) (t p : Nat) (voteFailed fatal : Bool) : Nat :=
  let x := setAt s t p
  if x.jobFroze || fatal || (runAt s t p).restoreFailed then 6
  else if (runAt s t p).forcedEarly then x.forced
  else if voteFailed then 2
  else 5

/-- State of a set whose attempt has ended: paused, or as a release of its job has made it (R246, R363). -/
def restingState (s : State) (t p : Nat) : Nat := (runAt s t p).releasedTo.getD 5

/-- Abandon the attempt (R246): undo, `writing`, the scale controller, then the outcome; the set pauses. A
reset of the clearing returns the watch records to generation g as well (R138; log 41). -/
def State.abandon (s : State) (t p : Nat) (voteFailed fatal : Bool) : State :=
  let h := (setAt s t p).generation + 1
  let s1 := s.restoreUndo t p
  let s2 := if (runAt s1 t p).writing then s1.genWord t p (pinOffset (h % 2)) fun v => v % 2 ^ 63 else s1
  let s3 := ((s2.endRecords t p false).writeScalePage t p).writeMirror t p
  let s4 := s3.updSet t p fun x => { x with skips := x.skips + 1 }
  let s5 := s4.writeOutcome t p (outcomeCode s4 t p voteFailed fatal)
  let s6 := if fatal || (runAt s5 t p).restoreFailed then s5.freezeJob t p 0x22 0 none else s5
  let s7 := if (setAt s6 t p).resetSeen then s6.restoreRecords t p (setAt s6 t p).generation else s6
  (s7.updSet t p fun x => { x with state := restingState s7 t p, pausePending := false }).clearAttempt t p

/-- Publish generation h, step by step (R244). -/
def State.publish (s : State) (t p : Nat) : State :=
  let h := (setAt s t p).generation + 1
  let rows := (runAt s t p).changedRows
  -- 1: undo rings; 2: scales; 3: generation record
  let s1 := s.updRun t p fun r => { r with undo := [] }
  let s2 := (s1.endRecords t p true).writeScalePage t p
  let s3 := s2.saveRecords t p h
  -- 4: published, then writing, then Generation
  let s4 := s3.genWord t p 0 fun _ => h
  let s5 := if (runAt s4 t p).writing then s4.genWord t p (pinOffset (h % 2)) fun v => v % 2 ^ 63 else s4
  let s6 := (s5.updSet t p fun x => { x with generation := h, state := 4 }).updGlobals fun g =>
    { g with published := satAdd 64 g.published 1 }
  -- 5: mirror and outcome; 6: invalidations
  let s7 := (s6.writeMirror t p).writeOutcome t p 1
  let s8 := (s7.sendInvalidations t p h rows).clearAttempt t p
  -- 7: the next attempt, unless a pause is pending
  if (setAt s8 t p).pausePending || jobTroubled s8 t p then
    s8.updSet t p fun x => { x with state := restingState s7 t p, pausePending := false }
  else s8.wantOpen t p

/-! ### Reductions (R240, R241) -/

/-- Dimensions of the subcube, ascending. -/
def voteDimsOf (s : State) (t p : Nat) : List Nat := (List.range 12).filter fun d => (setAt s t p).voteDims.getLsbD d

/-- Send this module's running values for the present round (R240). -/
def State.sendRound (s : State) (t p : Nat) : State :=
  match (runAt s t p).reduction with
  | some r =>
    match r.dims with
    | d :: _ =>
      let x := setAt s t p
      s.sendControl (votePacket s
        { target := x.generation + 1, attempt := x.attempts, sum := r.sum, digest := x.digest, tenant := t, set := p,
          phase := r.phase, round := d, sender := s.links.nodeId, fatal := r.fatal, ok := r.ok }
        (partnerOf s s.links.nodeId d))
    | [] => s
  | none => s

/-- Begin a reduction with this module's own contribution (R240). -/
def State.startReduction (s : State) (t p phase : Nat) (ok : Bool) (sum : Nat) (fatal : Bool) : State :=
  (s.updRun t p fun r =>
    { r with reduction := some { phase := phase, ok := ok, sum := sum, fatal := fatal, dims := voteDimsOf s t p } }).sendRound t p

/-- Combine the partner's message of the present round; one that differs in digest or target freezes the job
and counts as not ok (R240, R241). -/
def State.combine (s : State) (t p : Nat) (r : Reduction) (m : VoteMsg) : State :=
  let x := setAt s t p
  let same : Bool := m.digest = x.digest && m.target = x.generation + 1
  let s1 := if same then s else s.freezeJob t p 0x80 0 none
  let r' : Reduction := { r with ok := r.ok && m.ok && same, sum := (r.sum + m.sum) % 2 ^ 32, fatal := r.fatal || m.fatal,
                                 dims := r.dims.tail }
  (s1.updRun t p fun q => { q with reduction := some r', held := q.held.erase m }).sendRound t p

/-- Contribute to the apply reduction (R243), or end at once in direct mode (R234). -/
def State.contributeApply (s : State) (t p : Nat) (ok : Bool) (sum : Nat) (fatal : Bool) : State :=
  let s1 := s.updRun t p fun r => { r with applied := true }
  if (setAt s t p).mode = 2 then (if ok && !fatal then s1.publish t p else s1.abandon t p false fatal)
  else s1.startReduction t p 1 ok sum fatal

/-- Try to set `writing` on the pin word of bank h mod 2 (R214, R242, R428, R429). -/
def State.tryPin (s : State) (t p : Nat) : State :=
  let x := setAt s t p
  let off := pinOffset ((x.generation + 1) % 2)
  if x.genBlock = 0 || x.mode = 2 then s
  else
    match ownBlock s t x.genBlock .rw with
    | .wait => s
    | .fail c => (s.ownFail t p x.genBlock c).contributeApply t p false 0 false
    | .ok d =>
      if dpaWaits s (d + off) 8 then s
      else if dpaBad s (d + off) 8 then (s.genBlockBad t (d + off)).contributeApply t p false 0 false
      else if leNat (dpaBytes s (d + off) 8) ≠ 0 then s.touchBias (d + off) 8
      else (((s.touchBias (d + off) 8).writeDpa (d + off) (leBytes 8 (2 ^ 63))).1).updRun t p fun r => { r with writing := true }

/-- The watchdog has run for at least its limit (R248). -/
def watchdogOver (s : State) (t p : Nat) : Bool :=
  let x := setAt s t p
  x.watchdog ≠ 0 && s.globals.springNow - (runAt s t p).openedAt ≥ x.watchdog

/-- It has run for longer than its limit. -/
def watchdogPast (s : State) (t p : Nat) : Bool :=
  let x := setAt s t p
  x.watchdog ≠ 0 && s.globals.springNow - (runAt s t p).openedAt > x.watchdog

/-- The vote is decided: apply, or abandon (R240, R242, R246). A watchdog that expired before now has done nothing and
does nothing more (R248). -/
def State.voteResult (s : State) (t p : Nat) (r : Reduction) : State :=
  let s1 := s.updRun t p fun q => { q with reduction := none, expired := q.expired || watchdogPast s t p }
  if r.ok && r.sum = (setAt s t p).voteExpected then
    ((s1.updSet t p fun x => { x with state := 3 }).updRun t p fun q => { q with voteSucceeded := true }).tryPin t p
  else s1.abandon t p true false

/-- The apply is decided: publish, or abandon (R243, R244, R246). -/
def State.applyResult (s : State) (t p : Nat) (r : Reduction) : State :=
  let s1 := s.updRun t p fun q => { q with reduction := none }
  if r.ok && !r.fatal && r.sum = presentLayers s t p then s1.publish t p else s1.abandon t p false r.fatal

/-- What the end of an attempt writes would wait for a reset or a retraining (R187, R380). -/
def endWaits (s : State) (t p : Nat) : Bool :=
  let x := setAt s t p
  (x.genBlock ≠ 0 && ownWaits s t x.genBlock 64) || ownWaits s t x.attBlock 128 || watchWaits s t p

/-- One move of a set's reduction: combine a held message of the present round, or take the result. -/
def reduceOnce (s : State) (t p : Nat) : Option State :=
  match (runAt s t p).reduction with
  | some r =>
    match r.dims with
    | [] => if endWaits s t p then none else some (if r.phase = 0 then s.voteResult t p r else s.applyResult t p r)
    | d :: _ =>
      ((runAt s t p).held.find? fun m => m.attempt = (setAt s t p).attempts && m.phase = r.phase && m.round = d).map fun m =>
        s.combine t p r m
  | none => none

/-- Moves of a set's reductions until one waits: at most 12 rounds and a result for each phase. -/
def reduce (fuel : Nat) (s : State) (t p : Nat) : State :=
  match fuel with
  | 0 => s
  | k + 1 =>
    match reduceOnce s t p with
    | some s1 => reduce k s1 t p
    | none => s

/-- All moves a set can make. -/
def State.reduceAll (s : State) (t p : Nat) : State := reduce 32 s t p

/-! ### Contributions (R134, R238, R248) -/

/-- Spring-chip cycles pass (R237, R248). -/
def State.springTick (s : State) (n : Nat) : State := s.updGlobals fun g => { g with springNow := g.springNow + n }

/-- Chips that own layers of a set on this module. -/
def owningChips (s : State) (t p : Nat) : List Nat := (ownedLayers s t p).map fun o => o.2.1

/-- Bits set in a mask. -/
def bitCount (v : Nat) : Nat := ((List.range 256).filter fun i => bit v i).length

/-- The expiry of the watchdog forces the contribution, unless an abort came first (R247, R248). -/
def State.forceBy (s : State) (t p code : Nat) : State :=
  s.updSet t p fun x => { x with forced := if x.forced = 0 then code else x.forced }

/-- Contribute to the vote (R134, R226, R238): capture, close the watch records, and send the clean flag and
the sum. -/
def State.contribute (s : State) (t p : Nat) : State :=
  let x := setAt s t p
  let h := x.generation + 1
  let cap := s.capture t p h
  let s1 := cap.1.closeRecords t p
  let clean := cap.2 && !x.poisoned && !x.resetSeen && x.forced = 0 && !jobTroubled s1 t p
  let s2 := (s1.updSet t p fun y => { y with contributed := true, state := 2 }).updRun t p fun r =>
    { r with forcedEarly := x.forced ≠ 0 && x.arrivals ≠ x.partMask }
  if x.mode = 2 then
    if clean then s2.updSet t p fun y => { y with state := 3 } else s2.abandon t p true false
  else (s2.startReduction t p 0 clean (bitCount x.arrivals.toNat) false).reduceAll t p

/-- A contribution would wait for a reset or a retraining (R187, R380). -/
def contributionWaits (s : State) (t p : Nat) : Bool :=
  captureWaits s t p ((setAt s t p).generation + 1) || ((setAt s t p).mode = 2 && endWaits s t p)

/-- A contribution forced by an abort, the watchdog or a frozen job; one that waits is left to the module
(VOTE_CONTRIBUTION). -/
def State.contributeForced (s : State) (t p : Nat) : State :=
  let x := setAt s t p
  if x.state = 1 && !x.contributed && (x.forced ≠ 0 || jobTroubled s t p) && !contributionWaits s t p then s.contribute t p
  else s

/-- Contribute ok 0 to the apply reduction, what the apply has written staying open (R230, R243, R248). -/
def State.failApply (s : State) (t p : Nat) : State :=
  let r := if (runAt s t p).writing || (setAt s t p).genBlock = 0 || (setAt s t p).mode = 2 then
      s.applyPart t p ((setAt s t p).generation + 1) else (s, 0, false)
  (r.1.contributeApply t p false r.2.1 r.2.2).reduceAll t p

/-- The watchdog's expiry falls into the apply (R248). -/
def applyExpired (s : State) (t p : Nat) : Bool := watchdogPast s t p && !(runAt s t p).expired

/-- The apply is under way and has not been contributed. -/
def applying (s : State) (t p : Nat) : Bool := (setAt s t p).state = 3 && !(runAt s t p).applied

/-! ### Rows of this chapter -/

/-- The set may open now (R237): its own limit has passed, the module-wide limit has passed, and no set that
may open became ready before it. -/
def mayOpen (s : State) (t p : Nat) : Bool :=
  let now := s.globals.springNow
  let allowed (e : Nat × Nat) : Bool :=
    let st := (setAt s e.1 e.2).state
    ownLimit s e.1 e.2 ≤ now && (st = 0 || st = 4 || st = 5) && !jobFrozen s e.1 e.2
  s.globals.openQueue.contains (t, p) && allowed (t, p) &&
    (match s.globals.lastOpen with
     | some n => n + 17500 ≤ now
     | none => true) &&
    (s.globals.openQueue.takeWhile (· ≠ (t, p))).all (fun e => !allowed e || (runAt s t p).readyAt < (runAt s e.1 e.2).readyAt) &&
    s.globals.openQueue.all (fun e => !allowed e || (runAt s t p).readyAt ≤ (runAt s e.1 e.2).readyAt)

/-- Open an attempt (R236): clear arrivals, write target, then attempt, start the watchdog. -/
def State.openAttempt (s : State) (t p : Nat) : State :=
  let x := setAt s t p
  let s1 := s.updGlobals fun g =>
    { g with openQueue := g.openQueue.filter (· ≠ (t, p)), lastOpen := some g.springNow }
  let s2 := s1.updSet t p fun y =>
    { y with state := 1, attempts := (y.attempts + 1) % 2 ^ 64, arrivals := 0, contributed := false, forced := 0,
             resetSeen := false, jobFroze := false }
  let s3 := s2.updRun t p fun r =>
    { r with openedAt := s.globals.springNow, everOpened := true, captured := [], reduction := none, writing := false,
             applied := false, voteSucceeded := false, restoreFailed := false, changedRows := [], undo := [],
             forcedEarly := false, expired := false, releasedTo := none }
  let s4 := match ownPlace s3 t x.attBlock .rw with
    | .ok d =>
      match (wordsOf d 128).find? fun w => dpaBad s3 (16 * w) 1 with
      | some w => (s3.fastUncorrectable (16 * w)).freezeJob t p 0x22 (x.attBlock + 16 * w - d) none
      | none => s3
    | _ => s3
  let mask := attRead s4 t p 96 32
  let s5 := s4.updSet t p fun y => { y with partMask := BitVec.ofNat 256 mask }
  ((s5.attWrite t p 64 32 0).attWrite t p 32 8 (x.generation + 1)).attWrite t p 40 8 (x.attempts + 1)

/-- ATTEMPT_OPEN (R236, R237). -/
def execAttemptOpen (tenant set springCycles : Nat) (s0 : State) : Host.Outcome State Fault Refusal :=
  .next <|
    let s := (s0.springTick springCycles).redraw
    if mayOpen s tenant set && inService s && !ownWaits s tenant (setAt s tenant set).attBlock 128 then
      s.openAttempt tenant set
    else s0

/-- A write of the program to a word of the attempt block: it performs, and its controller reports it
(R235). -/
def attProgramWrite (s : State) (t p off : Nat) (f : Nat → Nat) : State :=
  match ownBlock s t (setAt s t p).attBlock .rw with
  | .ok d =>
    if dpaBad s (d + off) 8 || dpaWaits s (d + off) 8 then s
    else
      let r := (s.touchBias (d + off) 8).writeDpa (d + off) (leBytes 8 (f (leNat (dpaBytes s (d + off) 8)) % 2 ^ 64))
      r.1.noticeWrite t (d + off) 8
  | _ => s

/-- PART_REPORT (R235, R238): an atomic OR of the part's bit; a bit outside `part_mask` freezes the job, and
the module contributes. -/
def execPartReport (tenant set part : Nat) (s : State) : Host.Outcome State Fault Refusal :=
  .next <|
    if part ≥ 256 || (setAt s tenant set).attBlock = 0 then s
    else
      (attProgramWrite s.redraw tenant set (64 + 8 * (part / 64)) fun v => v ||| 2 ^ (part % 64)).contributeForced tenant set

/-- ATTEMPT_BLOCK_ABORT (R235, R249). -/
def execAttemptBlockAbort (tenant set : Nat) (value : W64) (s : State) : Host.Outcome State Fault Refusal :=
  .next <|
    if (setAt s tenant set).attBlock = 0 then s
    else (attProgramWrite s.redraw tenant set 56 fun _ => value.toNat).contributeForced tenant set

/-- ATTEMPT_BLOCK_RESUME (R235, R250). -/
def execAttemptBlockResume (tenant set : Nat) (value : W64) (s : State) : Host.Outcome State Fault Refusal :=
  .next <|
    if (setAt s tenant set).attBlock = 0 then s
    else attProgramWrite s.redraw tenant set 48 fun _ => value.toNat

/-- VOTE_CONTRIBUTION (R238, R249): once every part has reported, or when forced; it waits for a chip that
restarts. -/
def execVoteContribution (tenant set springCycles : Nat) (ecc : Ecc) (s0 : State) : Host.Outcome State Fault Refusal :=
  .next <|
    let s1 := ((s0.springTick springCycles).redraw).fastEcc ecc
    let s := if watchdogPast s1 tenant set then s1.forceBy tenant set 4 else s1
    let x := setAt s tenant set
    let forced : Bool := x.forced ≠ 0 || jobTroubled s tenant set
    let waits : Bool := (owningChips s tenant set).any fun c => chipState s c = 1 || chipState s c = 3
    if x.state = 1 && !x.contributed && (forced || (x.arrivals = x.partMask && !waits)) &&
        !contributionWaits s tenant set then s.contribute tenant set
    else s0

/-- A message for the reductions of a set, held until its round begins (R240). -/
def State.holdVote (s : State) (m : VoteMsg) : State :=
  if m.attempt < (setAt s m.tenant m.set).attempts then s
  else (s.updRun m.tenant m.set fun r => { r with held := r.held ++ [m] }).reduceAll m.tenant m.set

/-- VOTE_MESSAGE (R240–R242). -/
def voteMessageRow (p : Packet) (s : State) : State :=
  if votePacketOk s p 0 then (s.redraw.takePacket p).holdVote (voteOf p.data) else s

/-- APPLY_MESSAGE (R243, R244). -/
def applyMessageRow (p : Packet) (s : State) : State :=
  if votePacketOk s p 1 then (s.redraw.takePacket p).holdVote (voteOf p.data) else s

/-- The apply still waits for its pin word. -/
def pinWaits (s : State) (t p : Nat) : Bool :=
  applying s t p && !(runAt s t p).writing && (setAt s t p).genBlock ≠ 0 && (setAt s t p).mode = 1

/-- PIN_RETRY (R242, R428). -/
def pinRetryRow (tenant set springCycles : Nat) (ecc : Ecc) (s0 : State) : State :=
    let s := ((s0.springTick springCycles).redraw).fastEcc ecc
    if pinWaits s tenant set then
      (if applyExpired s tenant set then s.failApply tenant set else (s.tryPin tenant set).reduceAll tenant set)
    else s0

/-- APPLY_COMPLETE (R242, R243): the owning chips apply their layers and the module contributes; past the
watchdog's limit it contributes ok 0 (R248). -/
def applyCompleteRow (tenant set springCycles : Nat) (fast : Ecc) (slow : List (Nat × Ecc)) (s0 : State) : State :=
    let s := slow.foldl (fun s e => s.slowEcc e.1 e.2) (((s0.springTick springCycles).redraw).fastEcc fast)
    if !applying s tenant set || pinWaits s tenant set || (owningChips s tenant set).any fun c => chipState s c ≠ 2 then s0
    else if applyWaits s tenant set ((setAt s tenant set).generation + 1) ||
        ((setAt s tenant set).mode = 2 && endWaits s tenant set) then s0
    else if applyExpired s tenant set then s.failApply tenant set
    else
      let r := s.applyAll tenant set ((setAt s tenant set).generation + 1)
      (r.1.contributeApply tenant set (r.2.1 = .ok && !jobTroubled r.1 tenant set) r.2.2 (r.2.1 = .fatal)).reduceAll tenant set

/-- A reset or a retraining is over: reductions and settlements that waited for it go on (R187, R380). -/
def State.resumeSets (s : State) : State :=
  s.tenants.foldl (fun s (e : Nat × Tenant) => [0, 1, 2, 3].foldl (fun s p => (s.reduceAll e.1 p).settle e.1 p) s) s

/-- ATTEMPT_WATCHDOG_EXPIRY (R248): before the contribution it forces clean 0, during the apply ok 0, and
between contribution and result it does nothing. -/
def attemptWatchdogExpiryRow (tenant set springCycles : Nat) (s0 : State) : State :=
    let s := (s0.springTick springCycles).redraw
    if !watchdogOver s tenant set then s0
    else if (setAt s tenant set).state = 1 then (s.forceBy tenant set 4).contributeForced tenant set
    else if applying s tenant set && !(runAt s tenant set).expired then
      (if applyWaits s tenant set ((setAt s tenant set).generation + 1) then s0 else s.failApply tenant set)
    else if (setAt s tenant set).state = 2 then s.updRun tenant set fun r => { r with expired := true }
    else s

/-- A spring chip restarts: an apply under way is restored from the undo rings and starts again, and
an island that was shut off runs again (R249, R414). -/
def State.restartChip (s : State) (chip : Nat) : State :=
  let s1 := s.tenants.foldl (fun s (e : Nat × Tenant) => [0, 1, 2, 3].foldl (fun s p =>
    if applying s e.1 p && (owningChips s e.1 p).contains chip then s.restoreUndo e.1 p else s) s) s
  (s1.updService fun v => { v with springState := mset v.springState chip 2 }).updPower fun p =>
    { p with islands := p.islands.filter fun (e : Nat × Island) => !(e.1 = 1472 + chip && e.2.state = 3) }

/-- SPRING_CHIP_RESTART (R249): the chip restores the undo rings of its layers in sets that are still
applying, which then apply again from bank h − 1, and returns to service. A failed chip stays failed, and
one in a reset comes back with it (R380). -/
def execSpringChipRestart (chip : Nat) (slow : Ecc) (s0 : State) : Host.Outcome State Fault Refusal :=
  .next <|
    if chip ≥ 4 || chipState s0 chip ≤ 1 || chipState s0 chip = 4 || (s0.service.resets.any fun r => r.scope = .spring chip) then s0
    else
      (s0.redraw.slowEcc chip slow).restartChip chip

/-- The pages of a range wait for a reset or a retraining. -/
def rangeWaits (s : State) (t va n : Nat) : Bool := (cutsOf va n).any fun c => ownWaits s t c.1 c.2

/-- An import or export would wait for what it reads or writes (R187, R380). -/
def imageWaits (s : State) (t p : Nat) : Bool :=
  let ls := (imageLayers (calm s) t p).2
  let total := (ls.map fun o => imageBytes (tableDesc s t (rTable o.2.2.2)) o.2.2.2).foldl (· + ·) 0
  rangeWaits s t (setAt s t p).imageAddr total ||
    (ownedLayers s t p).any (fun o => rangeWaits s t ((setAt s t p).ruleTable + 128 * o.1) 128) ||
    ls.any fun o =>
      let d := o.2.2.2
      let td := tableDesc s t (rTable d)
      slowWaits s (slotBase s o.2.1 o.2.2.1) (slotSize s o.2.1 o.2.2.1) ||
        (if rKind d = 0 then [0, 1].any fun b => rangeWaits s t (rHi d b) (2 * rElems d)
         else (List.range (shardRows td (rShard d))).any fun j =>
           rangeWaits s t (rowAddress td (rowOfShard td (rShard d) j)) (tRowBytes td))

/-- IMPORT_EXPORT_COMPLETE (R254): the image is written or read whole, and the set returns to the state R253
gives. -/
def execImportExportComplete (tenant set : Nat) (fast : Ecc) (slow : List (Nat × Ecc)) (s0 : State) :
    Host.Outcome State Fault Refusal :=
  .next <|
    let s := slow.foldl (fun s e => s.slowEcc e.1 e.2) (s0.redraw.fastEcc fast)
    let x := setAt s tenant set
    let r := runAt s tenant set
    if x.state ≠ 6 || imageWaits s tenant set || endWaits s tenant set then s0
    else if r.importing then
      let h := x.importGen
      let s1 := s.imageRun tenant set (fun s at_ o => importLayer s tenant set h at_ o)
      if jobFrozen s1 tenant set then s1.updSet tenant set fun y => { y with state := r.importFrom }
      else
        let s2 := (s1.genWord tenant set 0 fun _ => h).updSet tenant set fun y =>
          { y with generation := h, state := if r.importFrom = 5 then 5 else 0 }
        let s3 := (s2.updRun tenant set fun q => { q with undo := [], importing := false }).loseHistories tenant set false
        (s3.writeScalePage tenant set).writeMirror tenant set
    else
      (s.imageRun tenant set (fun s at_ o => exportLayer s tenant set x.generation at_ o)).updSet tenant set
        fun y => { y with state := r.importFrom }

end Sys2Proof.Machine
end

