-- ==== Sys2Proof/Machine/Replies.lean ====
section
/-!
DEFINITION. Responses on the dictionary's paths (R332, R334, R338–R344), the acknowledgements a rule defers
(R327), and what the module reports of its own health (R16, R377, R387).
-/

namespace Sys2Proof.Machine

/-! ### Health (R377, R387) -/

/-- Backed tiles of a cluster (R14). -/
def clusterTiles (s : State) (c : Nat) : Nat := ((List.range 16).filter fun k => tilePresent s (16 * c + k)).length
/-- `ShortClusterCount` (R14). -/
def shortClusters (s : State) : Nat := ((List.range 80).filter fun c => clusterTiles s c < 16).length
/-- `LogicalTileCount` (R14). -/
def logicalTiles (s : State) : Nat := ((List.range 1280).filter (tilePresent s)).length

/-- A link of the module. -/
def linkAt (s : State) (l : Nat) : Link := (mget s.links.links l).getD {}
/-- Change a link. -/
def State.updLink (s : State) (l : Nat) (f : Link → Link) : State :=
  s.updLinks fun x => { x with links := mset x.links l (f ((mget x.links l).getD {})) }
/-- `CartridgeState` of a cartridge (R383); 5 stands for one that has warmed up and reads 3 until it is returned
(R390). -/
def cartridgeAt (s : State) (k : Nat) : Nat := min (if mgetD s.service.cartridges k 0 = 5 then 3 else mgetD s.service.cartridges k 0) 4

/-- `DegradedReasons` (R387). -/
def degradedReasons (s : State) : Nat :=
  b2n (s.service.mapBuilt && shortClusters s ≠ 0) + fieldAt 1 (b2n (!s.mem.retired.isEmpty)) + fieldAt 2 (b2n (!s.service.stacksOut.isEmpty)) +
  fieldAt 3 (b2n ([0, 1, 2, 3].any fun n => chipState s n = 4)) +
  fieldAt 4 (b2n (s.links.links.any fun e => e.2.state = 3 && e.2.width < 4)) +
  fieldAt 5 (b2n (s.links.links.any fun e => e.2.dimension < 12 && (e.2.state = 4 || e.2.state = 5 || e.2.state = 6))) +
  fieldAt 6 (b2n s.host.cxlNarrow) + fieldAt 7 (b2n ([0, 1, 2, 3, 4, 5, 6].any fun k => cartridgeAt s k ≠ 0)) +
  fieldAt 8 (b2n (!s.mem.groupsOut.isEmpty)) + fieldAt 9 (b2n (!s.service.enginesFailed.isEmpty)) +
  fieldAt 10 (b2n (!s.service.translationOut.isEmpty || !s.service.gatherOut.isEmpty))

/-- After bring-up, `BringUpState` reads 8 while a reason stands, and 7 otherwise; the entry is recorded, at a
Lodge count that no command brings (R377, R383; log 5). -/
def State.regrade (s : State) : State :=
  let n := if degradedReasons s = 0 then 7 else 8
  if s.service.bringUp ≥ 7 && s.service.bringUp ≠ n then
    s.updService fun v => { v with bringUp := n, times := mset v.times n (free s (5300 + n) % 2 ^ 64) }
  else s

/-! ### Responses -/

/-- A message as bytes (R332). -/
def msgBytes (m : DictMsg) : List Byte :=
  leBytes 16 (fieldAt 112 m.tag.toNat + fieldAt 96 m.length.toNat + fieldAt 64 m.offset.toNat + fieldAt 51 m.rsv.toNat +
    fieldAt 41 m.tenant.toNat + fieldAt 40 (b2n m.tenantScope) + fieldAt 24 m.index.toNat + fieldAt 16 m.sub.toNat +
    fieldAt 8 m.status.toNat + m.command.toNat) ++ m.data

/-- The message of bytes, its data everything after the header (R332). -/
def msgOf (bs : List Byte) : DictMsg :=
  let h := leNat (bs.take 16)
  { tag := BitVec.ofNat 16 (bits h 127 112), length := BitVec.ofNat 16 (bits h 111 96), offset := BitVec.ofNat 32 (bits h 95 64),
    rsv := BitVec.ofNat 13 (bits h 63 51), tenant := BitVec.ofNat 10 (bits h 50 41), tenantScope := bit h 40,
    index := BitVec.ofNat 16 (bits h 39 24), sub := BitVec.ofNat 8 (bits h 23 16), status := BitVec.ofNat 8 (bits h 15 8),
    command := BitVec.ofNat 8 (bits h 7 0), data := bs.drop 16 }

/-- The response to a request (R334). -/
def response (m : DictMsg) (status : Nat) (data : List Byte) : DictMsg :=
  { m with
    command := m.command ||| 0x80, status := BitVec.ofNat 8 status, length := BitVec.ofNat 16 data.length, data := data,
    rsv := 0, offset := if 3 ≤ m.command.toNat ∧ m.command.toNat ≤ 5 then m.offset else 0 }

/-- Number of a mailbox in the table of mailboxes: 0 PF 0, k VF k. -/
def mailboxKey (p : Path) : Option Nat :=
  match p with
  | .vf k => some k
  | .pf0 => some 0
  | .session _ => none

/-- A mailbox. -/
def mailboxAt (s : State) (k : Nat) : Mailbox := (mget s.dict.mailboxes k).getD {}
/-- Change a mailbox. -/
def State.updMailbox (s : State) (k : Nat) (f : Mailbox → Mailbox) : State :=
  s.updDict fun d => { d with mailboxes := mset d.mailboxes k (f ((mget d.mailboxes k).getD {})) }

/-- Write a mailbox response, its control word last, for the request taken (R339). -/
def State.mailboxAnswer (s : State) (k : Nat) (bs : List Byte) : State :=
  match (mailboxAt s k).taken with
  | some (control, _) =>
    s.updMailbox k fun b =>
      { b with response := bs, taken := none, control := BitVec.ofNat 64 (2 ^ 30 * (control.toNat / 2 ^ 30) + bs.length) }
  | none => s

/-- A Finuleri header (R341). -/
def finHeader (ty hop sid seq len : Nat) : BitVec 128 :=
  BitVec.ofNat 128 (fieldAt 124 1 + fieldAt 120 ty + fieldAt 112 hop + fieldAt 96 sid + fieldAt 32 seq + fieldAt 16 len)

/-- The additional authenticated data of a frame: addresses, and the header with `hop_limit` zero (R344); in
the mailbox twelve zero bytes stand for the addresses (R340). -/
def frameAad (line : Nat) (dst src : BitVec 48) (hdr : BitVec 128) : List Byte :=
  (if line = 2 then List.replicate 12 0 else beBytes 6 dst.toNat ++ beBytes 6 src.toNat) ++
    beBytes 16 (hdr.toNat - fieldAt 112 (bits hdr.toNat 119 112))

/-- IV of a direction: salt, then sequence (R344). -/
def frameIv (salt : List Byte) (seq : Nat) : BitVec 96 := BitVec.ofNat 96 (fieldAt 64 (beNat salt) + seq)

/-- Send a frame on a line: out of a port, or into the PF 0 mailbox (R340, R342). -/
def State.sendFrame (s : State) (line : Nat) (mac : BitVec 48) (ty sid seq : Nat) (payload : List Byte) : State :=
  let hdr := finHeader ty s.dict.hopDefault sid seq payload.length
  if line = 2 then s.mailboxAnswer 0 (beBytes 16 hdr.toNat ++ payload)
  else
    s.updDict fun d =>
      { d with frames := d.frames ++
          [{ port := line, dstMac := mac, srcMac := Config.macAddress, etherType := BitVec.ofNat 16 d.etherType,
             hdr := hdr, payload := payload, fcsOk := true }] }

/-- A session by id. -/
def sessionOf (s : State) (id : Nat) : Option Session := s.dict.sessions.find? fun x => x.id = id
/-- Change a session. -/
def State.updSession (s : State) (id : Nat) (f : Session → Session) : State :=
  s.updDict fun d => { d with sessions := d.sessions.map fun x => if x.id = id then f x else x }

/-- Encrypt and send on an open session (R344). -/
def State.sessionSend (s : State) (id ty : Nat) (plain : List Byte) : State :=
  match sessionOf s id with
  | some x =>
    let seq := x.seqOut + 1
    let hdr := finHeader ty s.dict.hopDefault id seq (plain.length + 16)
    let ct := Config.gcmSeal (BitVec.ofNat 256 (beNat x.m2cKey)) (frameIv x.m2cIv seq) (frameAad x.line x.mac Config.macAddress hdr) plain
    (s.updSession id fun y => { y with seqOut := seq, framesOut := y.framesOut + 1 }).sendFrame x.line x.mac ty id seq ct
  | none => s

/-- Deliver a response on the path its request came on (R334, R339, R344); a closed session's goes nowhere. -/
def State.respond (s : State) (path : Path) (m : DictMsg) : State :=
  let s1 := s.updDict fun d => { d with replies := d.replies ++ [(path, m)] }
  match path with
  | .session id => if (sessionOf s id).isSome then s1.sessionSend id 3 (msgBytes m) else s
  | .vf k => s1.mailboxAnswer k (msgBytes m)
  | .pf0 => s1.mailboxAnswer 0 (msgBytes m)

/-! ### Deferred acknowledgements (R327) -/

/-- A reset of a scope is in progress, or of a wider scope that holds it (R383). -/
def scopeResetting (s : State) (sc : Scope) : Bool :=
  match sc with
  | .tile n => tileResetting s n
  | .cluster n => s.service.resets.any fun r => r.scope = .cluster n || r.scope = .region (n / 4) || r.scope = .die (n / 20)
  | .region n => s.service.resets.any fun r => r.scope = .region n || r.scope = .die (n / 5)
  | .die n => s.service.resets.any fun r => r.scope = .die n
  | .spring n => s.service.resets.any fun r => r.scope = .spring n

/-- A gather still holds a translated row, or a copy a request of it. -/
def streamTranslated (st : Stream) : Bool :=
  !st.inflight.isEmpty || st.routes.any fun (r : Nat × Route) =>
    match r.2 with
    | .home _ | .pool _ _ | .remote _ => true
    | _ => false

/-- An access or stream of a tile, by serial, still uses a translation. -/
def serialBusy (s : State) (w : Nat × Nat) : Bool :=
  let t := tileAt s w.1
  (t.accesses.any fun a => a.serial = w.2 && a.result.isNone && !a.frozen) ||
    t.streams.any fun (e : Nat × Stream) => e.2.serial = w.2 && streamTranslated e.2

/-- Accesses and streams of a tenant's tiles that use a translation now (R156). -/
def translationUsers (s : State) (tenant : Nat) : List (Nat × Nat) :=
  s.tiles.flatMap fun (e : Nat × Tile) =>
    if ownerOf s e.1 = some tenant then
      (e.2.accesses.filter fun a => a.result.isNone && !a.frozen).map (fun a => (e.1, a.serial)) ++
        (e.2.streams.filter fun (x : Nat × Stream) => streamTranslated x.2).map fun x => (e.1, x.2.serial)
    else []

/-- An apply of the tenant uses captured translations (R156, R226). -/
def applyUses (s : State) (tenant : Nat) : Bool :=
  (tenantAt s tenant).runs.any fun (e : Nat × SetRun) => !e.2.captured.isEmpty && (setAt s tenant e.1).state = 3

/-- Access in flight to a page of the interleaved view (R301). -/
def pageInFlight (s : State) (page : Nat) : Bool :=
  s.tiles.any fun (e : Nat × Tile) =>
    (e.2.accesses.any fun a => a.result.isNone && !a.frozen && isLocal s a.target && boardDpa a.target / 2 ^ 21 = page) ||
    e.2.streams.any fun (x : Nat × Stream) => x.2.routes.any fun (r : Nat × Route) =>
      match r.2 with
      | .home b => boardDpa b / 2 ^ 21 = page
      | .pool k _ => slotAddress s k / 2 ^ 21 = page
      | _ => false

/-- What an acknowledgement waits for has come. -/
def ackReady (s : State) (k : AckKind) : Bool :=
  match k with
  | .retrain c => !s.mem.retrainQueue.contains c && mget s.mem.retraining (c / 32) ≠ some (c % 32)
  | .shootdown t ws => !(ws.any (serialBusy s)) && !applyUses s t
  | .bias page _ => !pageInFlight s page
  | .reset sc => !scopeResetting s sc
  | .reseed ts => !(ts.any fun l => s.globals.reseedPending.contains l)
  | .dimensions mask => !(s.links.links.any fun (e : Nat × Link) =>
      e.2.dimension < 12 && mask.getLsbD e.2.dimension && (e.2.state = 1 || e.2.state = 2))

/-- No tile keeps a copy of a line of a page that is now in host bias (R302). -/
def State.dropPageLines (s : State) (page : Nat) : State :=
  { s with tiles := s.tiles.map fun (e : Nat × Tile) =>
      (e.1, { e.2 with l1 := e.2.l1.filter fun x => 256 * x.1 / 2 ^ 21 ≠ page, icache := e.2.icache.filter fun x => x.2.1 / 2 ^ 21 ≠ page }) }

/-- What an acknowledgement completes: a flip of bias (R301). -/
def State.ackEffect (s : State) (k : AckKind) : State :=
  match k with
  | .bias page toHost =>
    let s1 := s.updHost fun h => { h with bias := if toHost then ninsert h.bias page else h.bias.filter (· ≠ page) }
    if toHost then s1.dropPageLines page else s1
  | _ => s

/-- Give every acknowledgement whose wait is over, unless the Lodge is away (R327, R351). -/
def State.settleAcks (s : State) : State :=
  if s.service.lodgeAway then s
  else
    (s.dict.acks.filter fun a => ackReady s a.kind).foldl (fun s a =>
      ((s.updDict fun d => { d with acks := d.acks.erase a }).ackEffect a.kind).respond a.path (response a.request 0 [])) s

/-- Requests taken and not answered are answered LODGE_RESTARTED, and have had no effect that was still to come
(R351). -/
def State.restartAcks (s : State) : State :=
  s.dict.acks.foldl (fun s a => s.respond a.path (response a.request 0x0C [])) (s.updDict fun d => { d with acks := [] })

/-- Defer a request's acknowledgement; it comes at once where nothing is waited for (R327). -/
def State.deferAck (s : State) (path : Path) (m : DictMsg) (k : AckKind) : State :=
  (s.updDict fun d => { d with acks := d.acks ++ [{ path := path, request := m, kind := k }] }).settleAcks

end Sys2Proof.Machine
end

