-- ==== Sys2Proof/Machine/Settled.lean ====
section
/-!
DEFINITION. The rows that end what an acknowledgement may wait for (R156, R301, R327): each gives, after its own
effect, every acknowledgement that has nothing left to wait for.
-/

namespace Sys2Proof.Machine

/-- MEMORY_RESPONSE. -/
def execMemoryResponse (tile serial elapsed : Nat) (ecc : Ecc) (s0 : State) : Host.Outcome State Fault Refusal :=
  .next (memoryResponseRow tile serial elapsed ecc s0).settleAcks

/-- COPY_REQUEST_COMPLETE. -/
def execCopyRequestComplete (tile tag elapsed : Nat) (ecc : Ecc) (s0 : State) : Host.Outcome State Fault Refusal :=
  .next (copyRequestCompleteRow tile tag elapsed ecc s0).settleAcks

/-- GATHER_INDEX_ISSUE. -/
def execGatherIndexIssue (tile tag : Nat) (ecc : Ecc) (s0 : State) : Host.Outcome State Fault Refusal :=
  .next (gatherIndexIssueRow tile tag ecc s0).settleAcks

/-- GATHER_ROW_ARRIVAL. -/
def execGatherRowArrival (tile tag index : Nat) (ecc : Ecc) (s0 : State) : Host.Outcome State Fault Refusal :=
  .next (gatherRowArrivalRow tile tag index ecc s0).settleAcks

/-- VOTE_MESSAGE. -/
def execVoteMessage (p : Packet) (s : State) : Host.Outcome State Fault Refusal :=
  .next (voteMessageRow p s).settleAcks

/-- APPLY_MESSAGE. -/
def execApplyMessage (p : Packet) (s : State) : Host.Outcome State Fault Refusal :=
  .next (applyMessageRow p s).settleAcks

/-- PIN_RETRY. -/
def execPinRetry (tenant set springCycles : Nat) (ecc : Ecc) (s0 : State) : Host.Outcome State Fault Refusal :=
  .next (pinRetryRow tenant set springCycles ecc s0).settleAcks

/-- APPLY_COMPLETE. -/
def execApplyComplete (tenant set springCycles : Nat) (fast : Ecc) (slow : List (Nat × Ecc)) (s0 : State) : Host.Outcome State Fault Refusal :=
  .next (applyCompleteRow tenant set springCycles fast slow s0).settleAcks

/-- ATTEMPT_WATCHDOG_EXPIRY. -/
def execAttemptWatchdogExpiry (tenant set springCycles : Nat) (s0 : State) : Host.Outcome State Fault Refusal :=
  .next (attemptWatchdogExpiryRow tenant set springCycles s0).settleAcks

end Sys2Proof.Machine
end

