-- ==== Sys2Proof/Machine/Fec.lean ====
section
/-!
DEFINITION. What crosses the lanes of a link (R259): the RS(544,514) code over 10-bit symbols, the 256b/257b
transcoding, both as IEEE 802.3 defines them, and the striping of flits over the active lanes.
-/

namespace Sys2Proof.Machine

/-! ### The field of the symbols -/

/-- Multiply by α, a root of x¹⁰ + x³ + 1 (log 109). -/
def gfDouble (x : BitVec 10) : BitVec 10 := (x <<< 1) ^^^ (if x.getLsbD 9 then 9 else 0)
/-- Product of two symbols. -/
def gfMul (a b : BitVec 10) : BitVec 10 :=
  [9, 8, 7, 6, 5, 4, 3, 2, 1, 0].foldl (fun r i => gfDouble r ^^^ (if b.getLsbD i then a else 0)) 0
/-- Power of a symbol. -/
def gfPow (a : BitVec 10) (n : Nat) : BitVec 10 :=
  match n with
  | 0 => 1
  | k + 1 => gfMul a (gfPow a k)
/-- Inverse of a symbol that is not zero. -/
def gfInv (a : BitVec 10) : BitVec 10 := gfPow a 1022
/-- A power of α; α has order 1,023. -/
def alphaPow (n : Nat) : BitVec 10 := gfPow 2 (n % 1023)

/-! ### Polynomials, lowest degree first -/

/-- Value at a point. -/
def polyEval (p : List (BitVec 10)) (x : BitVec 10) : BitVec 10 := p.foldr (fun c r => c ^^^ gfMul x r) 0
/-- Sum. -/
def polyAdd (p q : List (BitVec 10)) : List (BitVec 10) :=
  (List.range (max p.length q.length)).map fun i => p.getD i 0 ^^^ q.getD i 0
/-- Product with a symbol. -/
def polyScale (c : BitVec 10) (p : List (BitVec 10)) : List (BitVec 10) := p.map (gfMul c)
/-- Coefficient `n` of a product. -/
def polyCoeff (p q : List (BitVec 10)) (n : Nat) : BitVec 10 :=
  (List.range (n + 1)).foldl (fun r i => r ^^^ gfMul (p.getD i 0) (q.getD (n - i) 0)) 0
/-- Formal derivative. -/
def polyDeriv (p : List (BitVec 10)) : List (BitVec 10) :=
  (List.range (p.length - 1)).map fun i => if i % 2 = 0 then p.getD (i + 1) 0 else 0

/-! ### RS(544,514) -/

/-- The generator, ∏ (x + αʲ) for j from 0 to 29. -/
def rsGenerator : List (BitVec 10) := (List.range 30).foldl (fun g j => polyAdd (polyScale (alphaPow j) g) (0 :: g)) [1]

/-- The 30 check symbols of a message, highest degree first as they are sent: the remainder of the message times
x³⁰. -/
def rsCheck (msg : List (BitVec 10)) : List (BitVec 10) :=
  let g := (rsGenerator.take 30).reverse
  msg.foldl (fun r m => polyAdd (r.drop 1 ++ [0]) (polyScale (m ^^^ r.getD 0 0) g)) (List.replicate 30 0)

/-- The code word of a message. -/
def rsEncode (msg : List (BitVec 10)) : List (BitVec 10) := msg ++ rsCheck msg

/-- The 30 syndromes of a received word. -/
def rsSyndromes (w : List (BitVec 10)) : List (BitVec 10) :=
  (List.range 30).map fun j => polyEval w.reverse (alphaPow j)

/-- Progress of the search for the error locator: the locator, its length, and the last locator before a change of
length, already shifted and scaled. -/
structure Locator where
  cur : List (BitVec 10)
  len : Nat
  prev : List (BitVec 10)
  deriving DecidableEq, Repr

/-- One step of the Berlekamp–Massey recursion, at syndrome `n`. -/
def Locator.step (syn : List (BitVec 10)) (x : Locator) (n : Nat) : Locator :=
  let prev := 0 :: x.prev
  let d := polyCoeff x.cur syn n
  if d = 0 then { x with prev := prev }
  else
    let next := polyAdd x.cur (polyScale d prev)
    if 2 * x.len ≤ n then { cur := next, len := n + 1 - x.len, prev := polyScale (gfInv d) x.cur }
    else { x with cur := next, prev := prev }

/-- Degrees at which a received word is in error, by the locator's roots; none where the locator has not as many. -/
def rsPlaces (x : Locator) : Option (List Nat) :=
  let ps := (List.range 544).filter fun i => polyEval x.cur (alphaPow (1023 - i)) = 0
  if ps.length = x.len then some ps else none

/-- Decode a received word: the word with its errors mended and the number of symbols mended, at most 15; none
where it is uncorrectable (R259, R292). -/
def rsDecode (w : List (BitVec 10)) : Option (List (BitVec 10) × Nat) :=
  let syn := rsSyndromes w
  if syn.all (· = 0) then some (w, 0)
  else
    let x := (List.range 30).foldl (Locator.step syn) { cur := [1], len := 0, prev := [1] }
    match rsPlaces x with
    | none => none
    | some ps =>
      let evaluator := (List.range 30).map (polyCoeff syn x.cur)
      let slope := polyDeriv x.cur
      let mend (i : Nat) : BitVec 10 :=
        let y := alphaPow (1023 - i)
        gfMul (alphaPow i) (gfMul (polyEval evaluator y) (gfInv (polyEval slope y)))
      let v := (List.range 544).map fun k => w.getD k 0 ^^^ (if ps.contains (543 - k) then mend (543 - k) else 0)
      if x.len ≤ 15 && (rsSyndromes v).all (· = 0) then some (v, x.len) else none

/-! ### Transcoding: twenty blocks of 257 bits fill the message of a code word -/

/-- The message of twenty 32-byte units: each a data block, header bit first (log 109). -/
def blocksOut (units : List (BitVec 256)) : List (BitVec 10) :=
  let m := ((List.range 20).map fun b => fieldAt (257 * b) (1 + 2 * (units.getD b 0).toNat)).foldl (· + ·) 0
  (List.range 514).map fun i => BitVec.ofNat 10 (m / 2 ^ (10 * i))

/-- The units of a message; a block that is no data block gives an open unit (log 109). -/
def blocksIn (syms : List (BitVec 10)) (other : Nat → Nat) : List (BitVec 256) :=
  let m := ((List.range 514).map fun i => fieldAt (10 * i) (syms.getD i 0).toNat).foldl (· + ·) 0
  (List.range 20).map fun b => BitVec.ofNat 256 (if bit m (257 * b) then m / 2 ^ (257 * b + 1) else other b)

/-! ### Flits and units -/

/-- A flit as a number of 2,048 bits (R260). -/
def flitNumber (f : Flit) : Nat :=
  fieldAt 2016 f.crc.toNat + ((List.range 13).map fun i => fieldAt (144 + 144 * i) (f.payload.getD i 0).toNat).foldl (· + ·) 0 +
    fieldAt 128 f.hdrCheck.toNat + f.hdr.toNat

/-- The eight 32-byte units of a flit. -/
def unitsOf (f : Flit) : List (BitVec 256) := (List.range 8).map fun u => BitVec.ofNat 256 (flitNumber f / 2 ^ (256 * u))

/-- The flit of eight units. -/
def flitOfUnits (us : List (BitVec 256)) : Flit :=
  let n := ((List.range 8).map fun u => fieldAt (256 * u) (us.getD u 0).toNat).foldl (· + ·) 0
  { hdr := BitVec.ofNat 128 n, hdrCheck := BitVec.ofNat 16 (n / 2 ^ 128),
    payload := (List.range 13).map fun i => BitVec.ofNat 144 (n / 2 ^ (144 + 144 * i)), crc := BitVec.ofNat 32 (n / 2 ^ 2016) }

/-- The active lanes of a link, ascending (R259, R282). -/
def activeLanes (lk : Link) : List Nat := (List.range 4).filter fun i => lk.lanes.getLsbD i

/-- Units of the `j`-th of `w` active lanes among the units of a flit: unit u goes to lane u mod w (R259). -/
def unitsFor (w j : Nat) (us : List (BitVec 256)) : List (BitVec 256) :=
  ((List.range us.length).filter fun u => u % w = j).map fun u => us.getD u 0

/-- Stripe a flit over a link's active lanes; a lane with twenty units sends a code word (R259). -/
def State.stripe (s : State) (l : Nat) (f : Flit) : State :=
  let lk := linkAt s l
  let lanes := activeLanes lk
  (List.range lanes.length).foldl (fun s j =>
    let i := lanes.getD j 0
    let units := mgetD (linkAt s l).txUnits i [] ++ unitsFor lanes.length j (unitsOf f)
    if units.length < 20 then s.updLink l fun k => { k with txUnits := mset k.txUnits i units }
    else
      (s.updLink l fun k => { k with txUnits := mset k.txUnits i (units.drop 20) }).updLinks fun x =>
        { x with codesOut := x.codesOut ++ [(l, { lane := i, symbols := rsEncode (blocksOut (units.take 20)) })] }) s

/-- A code word has come on a lane: its units wait for the flits they belong to. One the code cannot correct is
counted, and what its units hold is open (R259, R292; log 109). -/
def State.takeCode (s : State) (l : Nat) (c : LaneCode) : State :=
  let put (k : Link) (us : List (BitVec 256)) : Link :=
    { k with rxUnits := mset k.rxUnits c.lane (mgetD k.rxUnits c.lane [] ++ us) }
  match rsDecode c.symbols with
  | some (w, n) =>
    s.updLink l fun k =>
      { put k (blocksIn w fun b => free s (6000 + 32 * c.lane + b)) with fecCorrected := satAdd 64 k.fecCorrected n }
  | none =>
    s.updLink l fun k =>
      { put k ((List.range 20).map fun b => BitVec.ofNat 256 (free s (6000 + 32 * c.lane + b))) with
        fecUncorrectable := satAdd 64 k.fecUncorrectable 1 }

/-- The next flit of a link whose eight units have come, and the units that wait behind it (R259). -/
def nextFlit (lk : Link) : Option (Flit × SMap (List (BitVec 256))) :=
  let lanes := activeLanes lk
  let w := lanes.length
  if w = 0 || lanes.any fun i => (mgetD lk.rxUnits i []).length < 8 / w then none
  else
    some (flitOfUnits ((List.range 8).map fun u => (mgetD lk.rxUnits (lanes.getD (u % w) 0) []).getD (u / w) 0),
      lanes.foldl (fun m i => mset m i ((mgetD m i []).drop (8 / w))) lk.rxUnits)

/-- Code words a link takes: whole ones, on lanes it uses. -/
def codesFit (lk : Link) (cs : List LaneCode) : Bool :=
  cs.all fun c => c.symbols.length = 544 && (activeLanes lk).contains c.lane

end Sys2Proof.Machine
end

