-- ==== Sys2Proof/Machine/Links.lean ====
section
/-!
DEFINITION. Links: code words and packets (R260, R265), flits with retry, credits and encryption (R261, R262,
R264), links that go down and settle (R263, R286, R287), training (R281–R285, R399), and routing
(R271–R275).
-/

namespace Sys2Proof.Machine

/-! ### Code words and packets (R260, R265) -/

/-- A code word: data bits below their check symbols (R260). -/
def codeWord (d : BitVec 128) : BitVec 144 := Config.checkSymbols d ++ d
/-- Data bits of a code word. -/
def wordData (w : BitVec 144) : BitVec 128 := w.extractLsb' 0 128
/-- The check symbols match the data. -/
def wordClean (w : BitVec 144) : Bool := w.extractLsb' 128 16 = Config.checkSymbols (wordData w)
/-- Decode a code word, at most one 4-bit symbol corrected (R149, R261). -/
def decodeWord (w : BitVec 144) : Option (BitVec 128) :=
  if wordClean w then some (wordData w)
  else
    (List.range 36).findSome? fun i => (List.range 15).findSome? fun e =>
      let v := w ^^^ BitVec.ofNat 144 ((e + 1) * 2 ^ (4 * i))
      if wordClean v then some (wordData v) else none

/-- The 256 header bits of a packet (R265). -/
def packetHeader (p : Packet) : Nat :=
  fieldAt 208 p.addr.toNat + fieldAt 144 p.aux.toNat + fieldAt 131 p.length + fieldAt 119 p.dst + fieldAt 107 p.src +
    fieldAt 97 p.tenant + fieldAt 93 p.ptype + fieldAt 89 p.status + fieldAt 88 (bits p.rsv 28 28) + fieldAt 84 p.hops +
    fieldAt 52 p.key.toNat + fieldAt 28 p.tag + bits p.rsv 27 0

/-- A code word that does not decode: of 542 check values at most 541 belong to a word that does (R149, R260; log 42). -/
def badCode (d : BitVec 128) (start : Nat) : BitVec 144 :=
  let w (i : Nat) : BitVec 144 := BitVec.ofNat 16 (start + i) ++ d
  w (((List.range 542).find? fun i => decodeWord (w i) = none).getD 0)

/-- Code words of a packet: those of one that came over a link go on as they came (R260, R264). A word that is
uncorrectable at its source is sent uncorrectable. -/
def packetWords (s : State) (p : Packet) : List (BitVec 144) :=
  let h := packetHeader p
  codeWord (BitVec.ofNat 128 h) :: codeWord (BitVec.ofNat 128 (h / 2 ^ 128)) ::
    if p.raw.isEmpty then
      (List.range (p.data.length / 16)).map fun i =>
        let d := BitVec.ofNat 128 (leNat ((p.data.drop (16 * i)).take 16))
        if p.badWords.contains i then badCode d (free s (3000 + i)) else codeWord d
    else p.raw

/-- The packet of code words; none where its header does not decode. -/
def packetOf (ws : List (BitVec 144)) : Option Packet :=
  match ws with
  | a :: b :: data =>
    match decodeWord a, decodeWord b with
    | some lo, some hi =>
      let h := lo.toNat + 2 ^ 128 * hi.toNat
      let ds := data.map decodeWord
      some { addr := BitVec.ofNat 48 (bits h 255 208), aux := BitVec.ofNat 64 (bits h 207 144), length := bits h 143 131,
             dst := bits h 130 119, src := bits h 118 107, tenant := bits h 106 97, ptype := bits h 96 93,
             status := bits h 92 89, hops := bits h 87 84, key := BitVec.ofNat 32 (bits h 83 52), tag := bits h 51 28,
             rsv := fieldAt 28 (bits h 88 88) + bits h 27 0,
             data := ds.flatMap fun w => leBytes 16 (w.getD 0).toNat,
             badWords := (List.range ds.length).filter fun i => ds.getD i none = none, raw := data }
    | _, _ => none
  | _ => none

/-- Virtual channel of a packet type: 0 request, 1 response, 2 exchange, 3 control (R266). -/
def channelOfType (t : Nat) : Nat :=
  match t with
  | 0 | 1 | 2 => 0
  | 5 | 6 => 2
  | 8 | 9 => 3
  | _ => 1

/-- A packet whose reserved bits or encodings break R265–R267. -/
def packetMalformed (p : Packet) : Bool :=
  p.ptype > 10 || p.rsv ≠ 0 || p.length ≠ p.data.length || p.length % 16 ≠ 0 || p.length > 4096 ||
  (p.ptype ≠ 5 && p.ptype ≠ 6 && p.key ≠ 0) ||
  (match p.ptype with
   | 0 => p.length ≠ 0 || p.status ≠ 0 || p.aux.toNat ≥ 1024 || p.addr.toNat % 1024 + p.aux.toNat % 1024 + 1 > 1024
   | 1 => p.length = 0 || p.length > 1024 || p.status ≠ 0 || p.aux.toNat ≥ 2 ^ 16 || p.addr.toNat % 16 ≠ 0 ||
          p.addr.toNat % 1024 + p.length > 1024 || (p.length > 16 && p.aux.toNat ≠ 0xFFFF)
   | 2 => p.length ≠ 16 || p.status ≠ 0 || p.aux.toNat ≥ 2 ^ 6
   | 3 => p.status > 4
   | 4 => p.length ≠ 0 || p.status > 4
   | 5 => p.length = 0 || p.status ≠ 0 || p.addr.toNat % 16 ≠ 0 || p.aux.toNat % 2 ^ 52 ≠ 0 ||
          (if bit p.aux.toNat 52 then bits p.aux.toNat 63 53 ≠ 0 else p.addr.toNat + p.length > 0x100000)
   | 6 => p.length ≠ 0 || p.status ≠ 0 || p.addr.toNat % 4 ≠ 0 || p.addr.toNat + 4 > 0x100000 || bits p.aux.toNat 52 32 ≠ 0
   | 7 => p.length ≠ 0 || p.status > 8
   | 8 => p.length ≠ 32 || p.status ≠ 0
   | 9 => p.length = 0 || p.status ≠ 0
   | _ => p.length ≠ 0 || p.status > 8 || p.aux.toNat ≥ 16)

/-! ### Undeliverable packets (R275) -/

/-- A packet of these types is answered with a notice. -/
def wantsNotice (p : Packet) : Bool := p.ptype = 0 || p.ptype = 1 || p.ptype = 2 || p.ptype = 5 || p.ptype = 6

/-- Drop and count a packet that cannot be delivered; a request or exchange packet is noticed to its source
(R265, R275). -/
def State.undeliverable (s : State) (p : Packet) : State :=
  let s1 := s.updLinks fun l => { l with undeliverable := satAdd 64 l.undeliverable 1 }
  if wantsNotice p then
    let n : Packet := { basePacket s.links.nodeId p.src p.tenant 10 p.tag with
      status := 4, aux := BitVec.ofNat 64 (p.ptype % 16) }
    if p.src = s.links.nodeId then s1.updLinks fun l => { l with inbox := l.inbox ++ [n] } else s1.sendControl n
  else s1

/-- Hand a packet to the module: one that breaks its table is dropped (R265, R273). -/
def State.handIn (s : State) (p : Packet) : State :=
  if packetMalformed p then s.undeliverable p else s.updLinks fun l => { l with inbox := l.inbox ++ [p] }

/-! ### Credits (R262) -/

/-- An optical link (R257). -/
def isOptical (l : Nat) : Bool := !(l < 20 || (48 ≤ l && l < 68))
/-- Flits of a replay buffer. -/
def replaySize (l : Nat) : Nat := if isOptical l then 2560 else 512
/-- Share of a virtual channel and lane in a receive buffer. -/
def creditShare (l vc lane : Nat) : Nat :=
  if lane ≠ 0 then (if isOptical l then 96 else 16)
  else if isOptical l then (match vc with | 2 => 2560 | 3 => 128 | _ => 512)
  else (match vc with | 2 => 512 | 3 => 64 | _ => 192)
/-- Credits the sender holds. -/
def creditsHeld (s : State) (l vc lane : Nat) : Nat := creditShare l vc lane - mgetD (linkAt s l).credits (2 * vc + lane) 0

/-! ### Sending flits (R260, R261, R264) -/

/-- The 128 header bits of a flit (R260). -/
def flitHeader (seq ack : BitVec 16) (vc lane : Nat) (sop eop idle nak enc : Bool) (cvc clane ccount words iv : Nat) : BitVec 128 :=
  BitVec.ofNat 128 (fieldAt 112 seq.toNat + fieldAt 96 ack.toNat + fieldAt 94 vc + fieldAt 92 lane + fieldAt 91 (b2n sop) +
    fieldAt 90 (b2n eop) + fieldAt 89 (b2n idle) + fieldAt 88 (b2n nak) + fieldAt 87 (b2n enc) + fieldAt 82 cvc +
    fieldAt 80 clane + fieldAt 68 ccount + fieldAt 64 words + iv)

/-- Bits [2015:0] of a flit, as bytes (R260). -/
def flitBody (hdr : BitVec 128) (check : BitVec 16) (payload : List (BitVec 144)) : List Byte :=
  leBytes 16 hdr.toNat ++ leBytes 2 check.toNat ++ (List.range 13).flatMap fun i => leBytes 18 (payload.getD i 0).toNat

/-- A flit with its check symbols and CRC. -/
def makeFlit (hdr : BitVec 128) (payload : List (BitVec 144)) : Flit :=
  let ws := (List.range 13).map fun i => payload.getD i 0
  { hdr := hdr, hdrCheck := Config.checkSymbols hdr, payload := ws, crc := crc32 (flitBody hdr (Config.checkSymbols hdr) ws) }

/-- Additional authenticated data of a flit: header bits [95:87] and [67:0] (R264). -/
def flitAad (hdr : BitVec 128) : List Byte := leBytes 10 (fieldAt 68 (bits hdr.toNat 95 87) + bits hdr.toNat 67 0)
/-- IV of a flit: key epoch, then counter (R264). -/
def flitIv (epoch count : Nat) : BitVec 96 := BitVec.ofNat 96 (fieldAt 64 (epoch % 2 ^ 32) + count)
/-- AES-256 key of key material. -/
def keyOf (k : List Byte) : BitVec 256 := BitVec.ofNat 256 (beNat (k.take 32))

/-- Seal code words 0–11 as one run, with the tag in code word 12 (R264). -/
def sealWords (k : LinkKeys) (hdr : BitVec 128) (iv : Nat) (ws : List (BitVec 144)) : List (BitVec 144) :=
  let run := (List.range 12).flatMap fun i => leBytes 18 (ws.getD i 0).toNat
  let ct := Config.gcmSeal (keyOf k.tx) (flitIv k.epoch iv) (flitAad hdr) run
  (List.range 12).map (fun i => BitVec.ofNat 144 (leNat ((ct.drop (18 * i)).take 18))) ++
    [BitVec.ofNat 144 (fieldAt 16 (leNat ((ct.drop 216).take 16)))]

/-- Open an encrypted flit's run; none where its tag fails. -/
def openWords (k : LinkKeys) (hdr : BitVec 128) (ws : List (BitVec 144)) : Option (List (BitVec 144)) :=
  let ct := (List.range 12).flatMap (fun i => leBytes 18 (ws.getD i 0).toNat) ++ leBytes 16 (bits (ws.getD 12 0).toNat 143 16)
  if (ws.getD 12 0).toNat % 2 ^ 16 ≠ 0 then none
  else
    (Config.gcmOpen (keyOf k.rx) (flitIv k.epoch (bits hdr.toNat 63 0)) (flitAad hdr) ct).map fun pt =>
      (List.range 12).map fun i => BitVec.ofNat 144 (leNat ((pt.drop (18 * i)).take 18))

/-- Flit a link sends: a packet's flit, or an idle one (R260, R264). -/
def flitOf (lk : Link) (t : Option TxFlit) (nak : Bool) (cvc clane ccount : Nat) : Flit :=
  match t with
  | none => makeFlit (flitHeader 0 lk.rxSeq 0 0 false false true nak false cvc clane ccount 0 0) []
  | some x =>
    let enc := lk.keys.isSome
    let hdr := flitHeader x.seq lk.rxSeq x.vc x.lane x.sop x.eop false nak enc cvc clane ccount x.words.length
      (if enc then x.iv else 0)
    match lk.keys with
    | some k => makeFlit hdr (sealWords k hdr x.iv x.words)
    | none => makeFlit hdr x.words

/-- Send one flit on a link, striped over its lanes: the latest `ack`, and at most one credit return (R259, R261). -/
def State.emit (s : State) (l : Nat) (t : Option TxFlit) (nak : Bool) : State :=
  let lk := linkAt s l
  let (key, n) := (lk.owed.head?).getD (0, 0)
  let n := min n 4095
  let f := flitOf lk t nak (key / 2) (key % 2) n
  ((s.updLink l fun k => { k with owed := if n = 0 then k.owed else mput 0 k.owed key (mgetD k.owed key 0 - n) }).updLinks fun x =>
    { x with flitsOut := x.flitsOut ++ [(l, f)] }).stripe l f

/-- Flits of a class that wait on a link. -/
def queuedFlits (lk : Link) (vc lane : Nat) : Nat := (lk.queue.filter fun t => t.vc = vc && t.lane = lane).length

/-- The first waiting flit may go: room in the replay buffer, and credit (R261, R262). -/
def maySend (lk : Link) (l : Nat) : Option TxFlit :=
  match lk.queue with
  | t :: _ =>
    if lk.sent.length < replaySize l &&
        mgetD lk.credits (2 * t.vc + t.lane) 0 - queuedFlits lk t.vc t.lane < creditShare l t.vc t.lane then some t else none
  | [] => none

/-- Send what a ready link may send. -/
def pumpLink (fuel : Nat) (s : State) (l : Nat) : State :=
  match fuel with
  | 0 => s
  | k + 1 =>
    let lk := linkAt s l
    match maySend lk l with
    | none => s
    | some t =>
      let count := (lk.keys.map LinkKeys.txCount).getD 0
      let t1 := { t with seq := lk.txSeq, iv := count }
      let s1 := s.updLink l fun y =>
        { y with queue := y.queue.tail, sent := y.sent ++ [t1], txSeq := y.txSeq + 1,
                 keys := y.keys.map fun z => { z with txCount := z.txCount + 1 } }
      pumpLink k (s1.emit l (some t1) false) l

/-- Send what a link may send. -/
def State.pumpLinkAll (s : State) (l : Nat) : State := pumpLink (linkAt s l).queue.length s l

/-- Cut code words into flits of one packet (R265). -/
def packetFlits (p : Packet) (vc lane per : Nat) (ws : List (BitVec 144)) : List TxFlit :=
  let parts := chunks ws.length per ws
  (List.range parts.length).zip parts |>.map fun e =>
    { packet := if e.1 + 1 = parts.length then some p else none, vc := vc, lane := lane, sop := e.1 = 0,
      eop := e.1 + 1 = parts.length, words := e.2 }

/-- Put a packet on a link; it has crossed one link more (R265, R273). -/
def State.sendOn (s : State) (l lane : Nat) (p : Packet) : State :=
  let vc := channelOfType p.ptype
  let per := if (linkAt s l).keys.isSome then 12 else 13
  let fs := packetFlits p vc lane per (packetWords s { p with hops := p.hops + 1 })
  (s.updLink l fun k =>
    { k with queue := k.queue ++ fs,
             credits := mset k.credits (2 * vc + lane) (mgetD k.credits (2 * vc + lane) 0 + fs.length) }).pumpLinkAll l

/-! ### Receiving flits (R261) -/

/-- Drop the flits a sender's replay buffer holds up to and including `ack`. -/
def ackedThrough (sent : List TxFlit) (ack : BitVec 16) : List TxFlit :=
  match sent.findIdx? fun t => t.seq = ack with
  | some i => sent.drop (i + 1)
  | none => sent

/-- Apply a flit's `ack` and its credit return. -/
def State.takeAck (s : State) (l : Nat) (h : Nat) : State :=
  s.updLink l fun k =>
    let sent := ackedThrough k.sent (BitVec.ofNat 16 (bits h 111 96))
    let key := 2 * bits h 83 82 + bits h 81 80 % 2
    { k with sent := sent, resends := if sent.length < k.sent.length then 0 else k.resends,
             credits := if bits h 79 68 = 0 then k.credits else mput 0 k.credits key (mgetD k.credits key 0 - bits h 79 68) }

/-- Resend every unacknowledged flit in order (R261). -/
def State.resend (s : State) (l : Nat) : State :=
  let lk := linkAt s l
  if lk.sent.isEmpty then s
  else
    let s1 := s.updLink l fun k => { k with replays := satAdd 64 k.replays 1, resends := k.resends + 1 }
    lk.sent.foldl (fun s t => s.emit l (some t) false) s1

/-- Discard a flit and ask for the resend. -/
def State.discardFlit (s : State) (l : Nat) (counted : Bool) : State :=
  (s.updLink l fun k =>
    { k with discarding := true, crcFailures := if counted then satAdd 64 k.crcFailures 1 else k.crcFailures }).emit l none true

/-- Payload of an accepted flit: the code words it brings; none where its tag fails (R264). -/
def flitPayload (lk : Link) (hdr : BitVec 128) (f : Flit) : Option (List (BitVec 144)) :=
  let n := bits hdr.toNat 67 64
  match lk.keys with
  | some k => if bit hdr.toNat 87 then (openWords k hdr f.payload).map (·.take n) else none
  | none => if bit hdr.toNat 87 then none else some (f.payload.take n)

/-- Flits of a class leave a link's receive buffer: their credits are to be returned (R262). -/
def State.oweCredits (s : State) (l key n : Nat) : State :=
  if n = 0 then s else s.updLink l fun k => { k with owed := mset k.owed key (mgetD k.owed key 0 + n) }

/-- A packet is whole: it has arrived, on the escape lane where its flits came on it, and stands in the receive
buffer. One whose header does not decode leaves it at once. -/
def State.packetIn (s : State) (l key : Nat) (escape : Bool) : State :=
  let n := (linkAt s l).partFlits
  match packetOf (linkAt s l).part with
  | some p => s.updLinks fun x =>
      { x with arrived := x.arrived ++ [p], escape := if escape then x.escape ++ [p] else x.escape,
               received := x.received ++ [(p, l, key, n)] }
  | none => (s.updLinks fun x => { x with undeliverable := satAdd 64 x.undeliverable 1 }).oweCredits l key n

/-- Accept the next flit in order (R261). -/
def State.acceptFlit (s : State) (l : Nat) (hdr : BitVec 128) (ws : List (BitVec 144)) : State :=
  let h := hdr.toNat
  let seq := BitVec.ofNat 16 (bits h 127 112)
  let key := 2 * bits h 95 94 + bits h 93 92 % 2
  let s1 := (if bit h 91 then s.oweCredits l key (linkAt s l).partFlits else s).updLink l fun k =>
    { k with rxSeq := seq, discarding := false, part := (if bit h 91 then [] else k.part) ++ ws,
             partFlits := (if bit h 91 then 0 else k.partFlits) + 1,
             keys := k.keys.map fun z => { z with rxCount := z.rxCount + 1 } }
  if bit h 90 then
    (s1.packetIn l key (bits h 93 92 = 1)).updLink l fun k => { k with rxWhole := seq, part := [], partFlits := 0 }
  else s1

/-- A flit has come over a ready link (R260–R264): an accepted one is acknowledged at once by an idle one (log 43). -/
def State.flitIn (s : State) (link : Nat) (flit : Flit) : State :=
  let lk := linkAt s link
  if crc32 (flitBody flit.hdr flit.hdrCheck flit.payload) ≠ flit.crc then s.discardFlit link true
  else
    match decodeWord (flit.hdrCheck ++ flit.hdr) with
    | none => s.discardFlit link false
    | some hdr =>
      let h := hdr.toNat
      let after (s : State) : State :=
        let s1 := s.takeAck link h
        (if bit h 88 then s1.resend link else s1).pumpLinkAll link
      if bit h 89 then after s
      else if BitVec.ofNat 16 (bits h 127 112) ≠ lk.rxSeq + 1 then
        (if lk.discarding then s else s.discardFlit link false)
      else
        match flitPayload lk hdr flit with
        | none => s.discardFlit link true
        | some ws => (after (s.acceptFlit link hdr ws)).emit link none false

/-- FLIT_RECEIVE (R259–R264): code words come on the lanes of a ready link, and the next flit whose units are all
there is taken. Further flits of the same code words are taken by later commands. -/
def execFlitReceive (link : Nat) (codes : List LaneCode) (s0 : State) : Host.Outcome State Fault Refusal :=
  .next <|
    if (linkAt s0 link).state ≠ 3 || !codesFit (linkAt s0 link) codes then s0
    else
      let s := codes.foldl (fun s c => s.takeCode link c) s0.redraw
      match nextFlit (linkAt s link) with
      | none => s
      | some (flit, rest) => (s.updLink link fun k => { k with rxUnits := rest }).flitIn link flit

/-! ### Links that go down (R263, R286, R287) -/

/-- Packets a link has not had acknowledged, each with its last flit's `seq` where it was sent. -/
def unacknowledged (lk : Link) : List (Packet × Option (BitVec 16)) :=
  lk.sent.filterMap (fun t => t.packet.map fun p => (p, some t.seq)) ++
    lk.queue.filterMap fun t => t.packet.map fun p => (p, none)

/-- A ready link leaves ready: its partial packet is discarded, and its unacknowledged packets wait to be
settled with the other end (R263, R287). -/
def State.leaveReady (s : State) (l newState : Nat) : State :=
  let lk := linkAt s l
  if lk.state ≠ 3 then s.updLink l fun k => { k with state := newState, width := 0, attempts := 0 }
  else
    (s.updLink l fun k =>
      { k with state := newState, width := 0, attempts := 0, sent := [], queue := [], part := [], discarding := false,
               resends := 0, credits := [], owed := [], partFlits := 0, txUnits := [], rxUnits := [] }).updLinks fun x =>
      { x with received := x.received.filter fun e => e.2.1 ≠ l, settleOut := x.settleOut ++ [(l, lk.rxWhole)],
               unsettled := mset x.unsettled l (mgetD x.unsettled l [] ++ unacknowledged lk) }

/-- LINK_DOWN (R263, R287). -/
def execLinkDown (link : Nat) (cause : DownCause) (s : State) : Host.Outcome State Fault Refusal :=
  .next <|
    let lk := linkAt s link
    if lk.state ≠ 3 || (cause = .resends && lk.resends < 16) then s
    else ((s.leaveReady link 7).regrade).settleAcks

/-- LINK_SETTLEMENT_MESSAGE (R287): packets after the last the other end accepted whole go through the router
again; an unreachable partner makes every one undeliverable. -/
def execLinkSettlementMessage (link : Nat) (lastSeq : Option (BitVec 16)) (s : State) :
    Host.Outcome State Fault Refusal :=
  .next <|
    match mget s.links.unsettled link with
    | none => s
    | some ps =>
      let s1 := (s.updLinks fun x => { x with unsettled := merase x.unsettled link }).updLink link fun k => { k with part := [] }
      match lastSeq with
      | none => ps.foldl (fun s e => s.undeliverable e.1) s1
      | some q =>
        let later := match ps.findIdx? fun e => e.2 = some q with
          | some i => ps.drop (i + 1)
          | none => ps
        s1.updLinks fun x => { x with arrived := x.arrived ++ later.map Prod.fst }

/-- OPTICAL_LIGHT_LOSS (R263, R286). -/
def execOpticalLightLoss (link : Nat) (s : State) : Host.Outcome State Fault Refusal :=
  .next <|
    let lk := linkAt s link
    if !isOptical link || lk.dimension > 11 || lk.state = 0 then s
    else ((s.leaveReady link 8).regrade).settleAcks

/-! ### Training (R281–R285, R399) -/

/-- Order a new training of a link: a ready link leaves ready at once, and a disabled link is enabled
(R288, R291). -/
def State.orderTraining (s : State) (l : Nat) : State :=
  let s1 := if (linkAt s l).disabled then s.updLink l fun k => { k with disabled := false } else s
  if (linkAt s l).dimension > 11 then s1 else s1.leaveReady l 1

/-- LINK_TRAINING_START (R263, R281): stages 1 and 2 of an attempt, after which the link gates (log 44).
`NodeId` and the job key take effect (R269, R289). -/
def execLinkTrainingStart (link : Nat) (s : State) : Host.Outcome State Fault Refusal :=
  .next <|
    let lk := linkAt s link
    if lk.dimension > 11 || !(lk.state = 1 || (lk.state = 7 && !isOptical link)) then s
    else
      (s.updLinks fun x => { x with nodeId := x.nodeIdTraining }).updLink link fun k =>
        { k with state := 2, attempts := k.attempts + 1, width := 0, trainKey := s.links.jobKey, ephemeral := none }

/-- An attempt fails: the link trains again until it has made its attempts (R283). -/
def State.attemptFails (s : State) (l : Nat) : State :=
  s.updLink l fun k =>
    { k with state := if k.attempts ≥ s.links.trainAttempts then 4 else 1, width := 0 }

/-- floor(threshold × dwell) (R282). -/
def gateLimit (s : State) : Nat :=
  match (decodeNum fp32 s.links.gateThreshold.toNat).mul (decodeNum fp32 0x3F800000) with
  | .fin _ m e => if e ≥ 0 then m * 2 ^ e.toNat * s.links.gateDwell else m * s.links.gateDwell / 2 ^ (-e).toNat
  | _ => 0

/-- Lanes that pass in both directions. -/
def lanesPassing (limit : Nat) (out in_ : List Nat) : List Nat :=
  (List.range 4).filter fun i => out.getD i 0 ≤ limit && in_.getD i 0 ≤ limit
/-- Width of a number of passing lanes (R282). -/
def widthOf (n : Nat) : Nat := if n = 4 then 4 else if n ≥ 2 then 2 else n
/-- The lanes used of the passing ones (R282): all four, the two lowest-numbered, or the one. -/
def lanesUsed (ls : List Nat) : List Nat := ls.take (widthOf ls.length)
/-- A lane mask. -/
def laneMask (ls : List Nat) : BitVec 4 := BitVec.ofNat 4 (ls.foldl (fun m i => m + 2 ^ i) 0)
/-- `DimensionFloor` of a dimension. -/
def floorOf (s : State) (d : Nat) : Nat := mgetD s.links.floor d 2

/-- Number of the session key of a power-on among Heartwood's signing keys. -/
def sessionKey (s : State) : Nat := 1 + s.heartwood.powerOns
/-- `ModuleCertificateChain`, leaf first; empty while no session certificate is issued (R398). -/
def moduleChain (s : State) : List Byte :=
  if s.heartwood.chainSig.isEmpty then [] else Config.moduleCert s.heartwood.powerOns ++ Config.vendorCerts
/-- `ModuleChainLms`: the signature of the session certificate, then the vendor's two (R398). -/
def moduleChainLms (s : State) : List Byte :=
  sized 5236 s.heartwood.chainSig ++ Config.vendorChainLms
/-- Vendor key slots that are not revoked. -/
def keySlots (s : State) : List Nat := (List.range 4).filter fun k => !s.heartwood.revoked.getLsbD k
/-- Every device service but verification: not in states 0 and 3–5 (R408). -/
def heartwoodServes (s : State) : Bool := s.heartwood.state = 1
/-- A module's chain verifies against the key slots in use (R398, R399). -/
def peerChainOk (s : State) (chain lms : List Byte) : Bool :=
  Config.chainOk chain && Config.chainLength chain = 3 && Config.chainLmsOk chain lms &&
    (keySlots s).any fun k => Config.vendorKeyHashOk k &&
      Config.chainAnchor chain = Config.sha384 (Config.vendorKeys k)

/-- What both ends sign in a link key agreement (R399). -/
def agreementBytes (s : State) (link : Nat) (t : TrainFrame) (own : List Byte) : List Byte :=
  let low := s.links.nodeId < t.node
  let pair (a b : List Byte) : List Byte := if low then a ++ b else b ++ a
  pair own t.ephemeral ++ pair (leBytes 2 s.links.nodeId) (leBytes 2 t.node) ++ pair (leBytes 1 link) (leBytes 1 t.link) ++
    leBytes 1 t.dimension

/-- ASCII bytes of a text. -/
def ascii (x : String) : List Byte := x.toList.map fun c => BitVec.ofNat 8 c.toNat

/-- Key agreement of an encrypted link (R399): none where the chain or signature does not verify. -/
def linkKeysOf (s : State) (link : Nat) (t : TrainFrame) : Option LinkKeys :=
  let n := (linkAt s link).ephemeral.getD s.heartwood.ephemerals
  let known := s.links.verifiedNodes.contains t.node || peerChainOk s t.chain t.chainLms
  if known && Config.ecdsaVerify (Config.chainLeafKey t.chain) (agreementBytes s link t (Config.ephemeralKey n)) t.signature then
    let secret := Config.ecdh n t.ephemeral
    let up := Config.hkdf secret [] (ascii "link low to high")
    let down := Config.hkdf secret [] (ascii "link high to low")
    let low := s.links.nodeId < t.node
    some { tx := if low then up else down, rx := if low then down else up, epoch := (linkAt s link).keyEpoch + 1,
           txCount := 0, rxCount := 0 }
  else none

/-- The link is ready on the lanes used of those that passed, with fresh flit numbers (R282; log 45). -/
def State.linkReady (s : State) (l : Nat) (ls : List Nat) (keys : Option LinkKeys) : State :=
  s.updLink l fun k =>
    { k with state := 3, width := widthOf ls.length, attempts := 0, txSeq := 0, rxSeq := 0xFFFF, rxWhole := 0xFFFF, sent := [], queue := [], part := [],
             discarding := false, resends := 0, credits := [], owed := [], keys := keys, lanes := laneMask (lanesUsed ls),
             partFlits := 0, txUnits := [], rxUnits := [],
             keyEpoch := (keys.map LinkKeys.epoch).getD k.keyEpoch }

/-- Key check a link expects (R281). -/
def keyCheckOf (s : State) (lk : Link) (node : Nat) : W32 :=
  Config.jobKeyCheck lk.trainKey (min s.links.nodeId node) (max s.links.nodeId node) lk.dimension

/-- This module encrypts a link's dimension (R264). -/
def encrypts (s : State) (link : Nat) : Bool := isOptical link && s.links.encryption.getLsbD (linkAt s link).dimension

/-- The training frame this end sends (R281 stage 4); on a link of an encrypted dimension with the key it offers, and
its signature once the partner's key is known (R399). -/
def ownFrame (s : State) (l : Nat) (signature : List Byte) : TrainFrame :=
  let lk := linkAt s l
  let enc := encrypts s l
  { node := s.links.nodeId, link := l, dimension := lk.dimension, passSet := lk.lanesPassed,
    keyCheck := if isOptical l then keyCheckOf s lk (partnerOf s s.links.nodeId lk.dimension) else 0, encrypts := enc,
    chain := if enc then moduleChain s else [], chainLms := if enc then moduleChainLms s else [],
    ephemeral := match lk.ephemeral with
      | some n => Config.ephemeralKey n
      | none => [],
    signature := signature }

/-- Send a training frame. -/
def State.trainSend (s : State) (l : Nat) (signature : List Byte) : State :=
  s.updLinks fun x => { x with trainOut := x.trainOut ++ [(l, ownFrame s l signature)] }

/-- Draw the key this end offers in a key agreement; none while Heartwood gives no random bits (R399, R408). -/
def State.offerKey (s : State) (l : Nat) : State :=
  if encrypts s l && heartwoodServes s && (linkAt s l).ephemeral.isNone then
    (s.updLink l fun k => { k with ephemeral := some s.heartwood.ephemerals }).updHeartwood fun h =>
      { h with ephemerals := h.ephemerals + 1 }
  else s

/-- Stage 4 begins: this end sends its frame (R281). -/
def State.offerFrame (s : State) (l : Nat) : State := (s.offerKey l).trainSend l []

/-- This end's signature of a key agreement (R399). -/
def agreementSignature (s : State) (l : Nat) (t : TrainFrame) : List Byte :=
  Config.ecdsaSign (sessionKey s) (agreementBytes s l t (ownFrame s l []).ephemeral)

/-- ERROR_GATE_COMPLETE (R282, R283, R292). -/
def execErrorGateComplete (link : Nat) (outErrors inErrors : List Nat) (s : State) :
    Host.Outcome State Fault Refusal :=
  .next <|
    let lk := linkAt s link
    if lk.state ≠ 2 then s
    else
      let ls := lanesPassing (gateLimit s) outErrors inErrors
      let w := widthOf ls.length
      let s1 := s.updLink link fun k =>
        { k with lanesPassed := laneMask ls, gateErrors := min ((outErrors ++ inErrors).foldl max 0) (2 ^ 64 - 1),
                 gateBits := s.links.gateDwell, state := 1, width := w }
      ((if w = 0 || w < floorOf s lk.dimension then s1.attemptFails link else s1.offerFrame link).regrade).settleAcks

/-- Judge a training frame (R281–R283, R399): 3 ready, 5 mismatch, 6 key mismatch, 4 a failed attempt. -/
def judgeFrame (s : State) (link : Nat) (t : TrainFrame) : Nat × List Nat × Option LinkKeys :=
  let lk := linkAt s link
  let ls := (List.range 4).filter fun i => lk.lanesPassed.getLsbD i && t.passSet.getLsbD i
  let w := widthOf ls.length
  if t.node ≠ partnerOf s s.links.nodeId lk.dimension || t.dimension ≠ lk.dimension then (5, [], none)
  else if isOptical link && (t.keyCheck ≠ keyCheckOf s lk t.node || t.encrypts ≠ encrypts s link) then (6, [], none)
  else if w = 0 || w < floorOf s lk.dimension then (4, [], none)
  else if encrypts s link then
    (match linkKeysOf s link t with
     | some k => (3, ls, some k)
     | none => (6, [], none))
  else (3, ls, none)

/-- TRAINING_FRAME (R281, R283, R399): an agreement waits while Heartwood gives no random bits (R408). -/
def execTrainingFrame (link : Nat) (t : TrainFrame) (s : State) : Host.Outcome State Fault Refusal :=
  .next <|
    let lk := linkAt s link
    if lk.state ≠ 1 || lk.width = 0 || (encrypts s link && !heartwoodServes s) then s
    else
      let r := judgeFrame s link t
      let v := s.offerKey link
      let s1 := (if encrypts s link && !t.ephemeral.isEmpty then v.trainSend link (agreementSignature v link t) else s).updLink link fun k => { k with partner := BitVec.ofNat 32 (fieldAt 12 (t.link % 128) + t.node % 4096) }
      let s2 := if encrypts s link && r.1 = 3 then
          s1.updLinks fun x =>
            { x with verifiedNodes := ninsert x.verifiedNodes t.node }
        else s1
      let s3 := match r.1 with
        | 3 => s2.linkReady link r.2.1 r.2.2
        | 4 => s2.attemptFails link
        | n => s2.updLink link fun k => { k with state := n, width := 0 }
      (s3.regrade).settleAcks

/-! ### Routing (R271–R274) -/

/-- `RouteTable` entry of a node. -/
def routeEntry (s : State) (n : Nat) : Nat := (mgetD s.links.routes n 0).toNat
/-- Ready links of a dimension. -/
def readyLinks (s : State) (d : Nat) : List Nat :=
  (s.links.links.filter fun (e : Nat × Link) => e.2.dimension = d && e.2.state = 3).map Prod.fst
/-- Board-window types use dimensions 0–2 only (R273). -/
def boardType (p : Packet) : Bool := p.ptype ≤ 4
/-- Dimensions a packet may take on the adaptive lane. -/
def allowedDims (e : Nat) (p : Packet) : List Nat :=
  (List.range (if boardType p then 3 else 12)).filter fun d => bit e d

/-- First element with the largest measure. -/
def bestOf (f : Nat → Nat) (l : List Nat) : Option Nat :=
  l.foldl (fun (acc : Option Nat) x =>
    match acc with
    | none => some x
    | some a => if f a < f x then some x else some a) none

/-- Where a packet goes. -/
inductive Hop where
  | deliver
  | lost
  | wait
  | link (l lane : Nat)
  deriving DecidableEq, Repr

/-- The adaptive choice (R273, step 2). -/
def adaptiveHop (s : State) (dims : List Nat) (vc : Nat) : Hop :=
  let total (d : Nat) : Nat := ((readyLinks s d).map fun l => creditsHeld s l vc 0).foldl (· + ·) 0
  match bestOf total (dims.filter fun d => total d > 0) with
  | none => .wait
  | some d =>
    match bestOf (fun l => creditsHeld s l vc 0) ((readyLinks s d).filter fun l => creditsHeld s l vc 0 > 0) with
    | some l => .link l 0
    | none => .wait

/-- The escape choice: any ready link of the fallback with credit, the choice open (R273, step 3). -/
def escapeHop (s : State) (d vc : Nat) : Hop :=
  let ls := (readyLinks s d).filter fun l => creditsHeld s l vc 1 > 0
  match ls[free s 4000 % max 1 ls.length]? with
  | some l => .link l 1
  | none => .wait

/-- Where the router sends a packet (R273). -/
def routeOf (s : State) (p : Packet) : Hop :=
  if p.dst = s.links.nodeId then .deliver
  else
    let e := routeEntry s p.dst
    let dims := allowedDims e p
    let fallback := bits e 15 12
    if !bit e 31 || p.hops ≥ 15 || dims.isEmpty || (boardType p && fallback > 2) then .lost
    else if dims.all fun d => (readyLinks s d).isEmpty then .lost
    else if s.links.escape.contains p && !(readyLinks s fallback).isEmpty then escapeHop s fallback (channelOfType p.ptype)
    else adaptiveHop s dims (channelOfType p.ptype)

/-- Packets a hold keeps back: the module's own requests, exchanges, votes, poison and invalidations (R274). -/
def heldBack (p : Packet) : Bool := p.ptype ≤ 2 || p.ptype = 5 || p.ptype = 6 || p.ptype = 8 || p.ptype = 9

/-- A packet leaves the receive buffer it stands in: its credits go back in an idle flit (R261, R262; log 43). -/
def State.leaveBuffer (s : State) (p : Packet) : State :=
  match s.links.received.find? fun e => e.1 = p with
  | some e =>
    ((s.updLinks fun x => { x with received := x.received.erase e }).oweCredits e.2.1 e.2.2.1 e.2.2.2).emit e.2.1 none false
  | none => s

/-- A packet leaves the router. -/
def State.leaveRouter (s : State) (origin : PacketFrom) (p : Packet) : State :=
  match origin with
  | .own => s.updLinks fun l => { l with outbox := l.outbox.erase p, escape := l.escape.erase p }
  | .transit => (s.updLinks fun l => { l with arrived := l.arrived.erase p, escape := l.escape.erase p }).leaveBuffer p

/-- PACKET_ROUTE (R272–R275): a packet of this module's own waits in the outbox; one in transit has arrived. -/
def execPacketRoute (origin : PacketFrom) (p : Packet) (s0 : State) : Host.Outcome State Fault Refusal :=
  .next <|
    let s := s0.redraw
    if origin = .own && (!s.links.outbox.contains p || (s.links.trafficHold ≠ 0 && heldBack p)) then s0
    else
      match routeOf s p with
      | .deliver => (s.leaveRouter origin p).handIn p
      | .lost => (s.leaveRouter origin p).undeliverable p
      | .wait => s0
      | .link l lane => (s.leaveRouter origin p).sendOn l lane p

/-- ESCAPE_LANE_TIMEOUT (R273, step 3): a packet that waits in the router moves to the escape lane; one that some
allowed dimension offers a credit does not wait. -/
def execEscapeLaneTimeout (p : Packet) (s : State) : Host.Outcome State Fault Refusal :=
  .next <|
    if (s.links.outbox.contains p || s.links.arrived.contains p) && !s.links.escape.contains p && routeOf s p = .wait then
      s.updLinks fun l => { l with escape := l.escape ++ [p] }
    else s

/-- The replay buffers hold no packet of this module's own, and its router holds none (R274). -/
def ownDrained (s : State) : Bool :=
  let own (p : Packet) : Bool := p.src = s.links.nodeId
  !(s.links.links.any fun (e : Nat × Link) => (unacknowledged e.2).any fun x => own x.1) &&
    !(s.links.unsettled.any fun (e : Nat × List (Packet × Option (BitVec 16))) => e.2.any fun x => own x.1) &&
    !s.links.arrived.any own && !(s.links.outbox.any fun p => !heldBack p)

/-- TRAFFIC_HELD (R274). -/
def execTrafficHeld (s : State) : Host.Outcome State Fault Refusal :=
  .next <|
    if s.links.trafficHold = 1 && ownDrained s then s.updLinks fun l => { l with trafficHold := 2 } else s

end Sys2Proof.Machine
end

