-- ==== Sys2Proof/Machine/LinkOps.lean ====
section
/-!
DEFINITION. Packets for this module: board-window requests at their target (R160, R266), responses and
notices at their requester (R267, R276), exchanges at both ends (R277–R280), Pool invalidations (R211, R212,
R268), and reissues after a target reset (R381).
-/

namespace Sys2Proof.Machine

/-! ### Serving a packet -/

/-- A packet of a type for this module: one that breaks its table is dropped (R265), another is served and
leaves the inbox. Any other packet changes nothing (log 8). -/
def serve (s0 : State) (p : Packet) (ty : Nat) (k : State → State) : State :=
  if p.ptype ≠ ty || p.dst ≠ s0.links.nodeId then s0
  else
    let s := s0.redraw.takePacket p
    if packetMalformed p then s.undeliverable p else k s

/-- Answer a packet (R266, R267). -/
def State.answer (s : State) (p : Packet) (ty status : Nat) (aux : BitVec 64) (data : List Byte) : State :=
  s.sendControl { basePacket s.links.nodeId p.src p.tenant ty p.tag with
    status := status, aux := aux, data := data, length := data.length }

/-- How a target judges a request before it performs: 0 it may, or the status it answers (R160, R381). -/
def targetStatus (s : State) (tenant b : Nat) : Nat :=
  if boardSlotOf b ≠ s.service.boardSlot || !targetAllowed s tenant (boardDpa b) then 2
  else if dpaResetting s (boardDpa b) then 1
  else 0

/-- The home of a row declines to let it be held: an open attempt has changed it (R209). -/
def homeDeclines (s : State) (tenant b : Nat) : Bool :=
  (tenantAt s tenant).runs.any fun (e : Nat × SetRun) =>
    !e.2.undo.isEmpty && e.2.captured.any fun c =>
      c.rows.any fun r => e.2.changedRows.contains (rTable c.block, r) &&
        capAddress c.pages (rowAddress (tableDesc s tenant (rTable c.block)) r) = some (boardDpa b)

/-- READ_REQUEST (R160, R266): the data come as whole 16-byte words. A row with an open undo entry is answered with the
decline flag of R209, for which a fill asks (log 26). -/
def execReadRequest (p : Packet) (ecc : Ecc) (s0 : State) : Host.Outcome State Fault Refusal :=
  .next <| serve s0 p 0 fun s =>
    let b := p.addr.toNat
    let d := boardDpa b
    let n := p.aux.toNat % 1024 + 1
    let flag : BitVec 64 := if homeDeclines s p.tenant b then 1 else 0
    match targetStatus s p.tenant b with
    | 0 =>
      if dpaRetraining s d then s0
      else
        let s1 := (s.fastEcc ecc).touchBias d n
        if dpaBad s1 d n then (s1.fastUncorrectable d).answer p 3 3 0 []
        else s1.answer p 3 0 flag (padTo 16 (dpaBytes s1 d n))
    | st => s.answer p 3 st 0 []

/-- Write a board-window request: whole lines, or the enabled bytes of one line (R266). -/
def performWrite (s : State) (p : Packet) (d : Nat) : State × Bool :=
  if p.length > 16 || p.aux.toNat = 0xFFFF then s.writeDpa d p.data
  else
    ((List.range 16).filter fun i => bit p.aux.toNat i).foldl (fun (acc : State × Bool) i =>
      let r := acc.1.writeDpa (d + i) [p.data.getD i 0]
      (r.1, acc.2 || r.2)) (s, false)

/-- Data words that arrived uncorrectable stay so where they are written (R260). -/
def State.carryBad (s : State) (p : Packet) (d : Nat) : State :=
  s.updMem fun m =>
    { m with fastBad := p.badWords.foldl (fun b i =>
        match backedKey s (d + 16 * i) with
        | some k => ninsert b (k / 16)
        | none => b) m.fastBad }

/-- WRITE_REQUEST (R160, R266). -/
def execWriteRequest (p : Packet) (ecc : Ecc) (s0 : State) : Host.Outcome State Fault Refusal :=
  .next <| serve s0 p 1 fun s =>
    let d := boardDpa p.addr.toNat
    match targetStatus s p.tenant p.addr.toNat with
    | 0 =>
      if dpaRetraining s d then s0
      else
        let r := performWrite ((s.fastEcc ecc).touchBias d p.length) p d
        let s1 := (r.1.carryBad p d).noticeWrite p.tenant d p.length
        if r.2 then (s1.fastUncorrectable d).answer p 4 3 0 [] else s1.answer p 4 0 0 []
    | st => s.answer p 4 st 0 []

/-- Operation of an atomic packet (R266; log 20). -/
def atomOfCode (k : Nat) : AtomOp :=
  match k % 8 with
  | 0 => .add | 1 => .min | 2 => .max | 3 => .and | 4 => .or | 5 => .xor | 6 => .xchg | _ => .cas

/-- ATOMIC_REQUEST (R160, R175, R266). -/
def execAtomicRequest (p : Packet) (ecc : Ecc) (s0 : State) : Host.Outcome State Fault Refusal :=
  .next <| serve s0 p 2 fun s =>
    let d := boardDpa p.addr.toNat
    let a := p.aux.toNat
    let op := atomOfCode a
    let n := if bit a 5 then 8 else 4
    if !(atomTypes op (bit a 5)).contains (bits a 4 3) || d % n ≠ 0 then s.undeliverable p
    else
      match targetStatus s p.tenant p.addr.toNat with
      | 0 =>
        if dpaRetraining s d then s0
        else
          let s1 := (s.fastEcc ecc).touchBias d n
          if p.badWords ≠ [] || dpaBad s1 d n then (s1.fastUncorrectable d).answer p 4 3 0 []
          else
            let old := leNat (dpaBytes s1 d n)
            let new := atomResult op (bits a 4 3) (8 * n) old (leNat (p.data.take n)) (leNat ((p.data.drop 8).take n))
            (((s1.writeDpa d (leBytes n new)).1).noticeWrite p.tenant d n).answer p 4 0 (BitVec.ofNat 64 old) []
      | st => s.answer p 4 st 0 []

/-! ### Responses (R267, R276) -/

/-- Cause that a status freezes a board-window master with; none where it freezes none. -/
def boardCause (status : Nat) : Option Nat :=
  match status with
  | 2 | 4 => some 0x23
  | 3 => some 0x22
  | _ => none

/-- Cause that a status freezes an exchange stream with. -/
def exchangeCause (status : Nat) : Option Nat :=
  match status with
  | 3 => some 0x22
  | 4 | 5 => some 0x40
  | 6 => some 0x41
  | 7 => some 0x20
  | 8 => some 0x21
  | _ => none

/-- Cause that an answer freezes a board-window master with: its status, or a data word that arrived uncorrectable
(R185, R260, R267). -/
def answerCause (status : Nat) (p : Packet) : Option Nat :=
  match boardCause status with
  | some c => some c
  | none => if p.badWords.isEmpty then none else some 0x22

/-- A request is answered: it leaves the table. -/
def State.closeRequest (s : State) (tag : Nat) : State := s.updLinks fun l => { l with requests := merase l.requests tag }

/-- The data of an access's answer: a load's bytes, or an atomic's old value. -/
def answerValue (a : Access) (p : Packet) : W64 :=
  match a.kind with
  | .load => BitVec.ofNat 64 (leNat (p.data.take a.size))
  | _ => BitVec.ofNat 64 (p.aux.toNat % 2 ^ (8 * a.size))

/-- A tile's access is answered. -/
def answerAccess (s : State) (l serial status : Nat) (p : Packet) : State :=
  match ownerOf s l, (tileAt s l).accesses.find? fun a => a.serial = serial with
  | some tenant, some a =>
    match answerCause status p with
    | some c => (faultAccess s l tenant a c).pump l tenant
    | none => (if a.kind = .store then retireStore s l a else returnAccess s l tenant a (answerValue a p)).pump l tenant
  | _, _ => s

/-- A copy's read is answered (R166, R169, R185). -/
def answerCopyRead (s : State) (l tag off status n : Nat) (p : Packet) : State :=
  match ownerOf s l, streamAt s l tag with
  | some tenant, some st =>
    let st1 := { st with inflight := [] }
    match answerCause status p with
    | some c =>
      (s.setStream l tag st1).freezeStream l tenant tag st1 c ((copyUnit st.desc st.next).src + off + 16 * p.badWords.headD 0)
    | none => (s.setStream l tag { st1 with got := mset st.got off (p.data.take n) }).aimCopy l tenant tag (some st)
  | _, _ => s

/-- A copy's write is answered (R166, R169). -/
def answerCopyWrite (s : State) (l tag n status : Nat) : State :=
  match ownerOf s l, streamAt s l tag with
  | some tenant, some st =>
    let u := copyUnit st.desc st.next
    let st1 := { st with inflight := [] }
    match boardCause status with
    | some c => (s.setStream l tag st1).freezeStream l tenant tag st1 c (u.dst + st.wrote)
    | none => (s.setStream l tag (wroteBytes st1 u n)).aimCopy l tenant tag (some st)
  | _, _ => s

/-- A fill's row has come from its home (R207, R209): the way keeps it, unless the way has passed to another
fill. -/
def fillData (s : State) (k tag : Nat) (bs : List Byte) (declined : Bool) : State :=
  let w := wayAt s k
  if w.state = 1 && w.fillTag = tag then
    w.waiters.foldl (fun s x => s.gotRow bs x) (s.setWay k { w with data := some bs, declined := declined, waiters := [] })
  else s

/-- A fill's home gave no row: the way is free again. -/
def fillFails (s : State) (k tag : Nat) : State :=
  if (wayAt s k).state = 1 && (wayAt s k).fillTag = tag then s.dropWay k else s

/-- A gather's row is answered; words that arrived uncorrectable are no row (R185, R197, R207, R215). -/
def answerGatherRow (s : State) (l tag i : Nat) (fill : Option Nat) (status n : Nat) (p : Packet) : State :=
  let bs := p.data.take n
  match answerCause status p with
  | some c =>
    let s1 := match fill with
      | some k => fillFails s k p.tag
      | none => s
    match ownerOf s1 l, streamAt s1 l tag with
    | some tenant, some st =>
      settleGather (s1.rowFault l tag i c (rowAddress (tableDesc s1 tenant (dbits st.desc 11 4)) (gIndex st i))) l tenant tag
    | _, _ => s1
  | none =>
    let s1 := s.deliverRow l tag i bs
    match fill with
    | some k => fillData s1 k p.tag bs (bit p.aux.toNat 0)
    | none => s1

/-- The master a request serves is in a scope that is being reset: a tile, or the region that holds its engine (R380). -/
def masterResetting (s : State) (w : Requester) : Bool :=
  match w with
  | .access l _ | .copyRead l _ _ | .copyWrite l _ _ | .exchangePart l _ _ | .exchangeFlag l _ => tileResetting s l
  | .gatherRow l _ _ _ => stackResetting s (regionOf l)
  | .poolFill _ r | .gatherGone r => stackResetting s r
  | .none => false

/-- A response that reaches a master in a scope under reset is discarded; a fill of the Pool fails with it (R380). -/
def State.discardResponse (s : State) (tag : Nat) (w : Requester) : State :=
  match w with
  | .poolFill k _ | .gatherRow _ _ _ (some k) => fillFails (s.closeRequest tag) k tag
  | _ => s.closeRequest tag

/-- Give a request its answer: status 1 leaves it waiting for its reissue (R267, R381). -/
def State.answered (s : State) (p : Packet) (status : Nat) : State :=
  match mget s.links.requests p.tag with
  | none => s
  | some r =>
    if r.packet.dst ≠ p.src then s
    else if masterResetting s r.who then s.discardResponse p.tag r.who
    else if status = 1 then
      s.updLinks fun l => { l with requests := mset l.requests p.tag { r with resetSeen := true } }
    else
      let s1 := s.closeRequest p.tag
      let n := r.packet.aux.toNat % 1024 + 1
      match r.who with
      | .access l serial => answerAccess s1 l serial status p
      | .copyRead l tag off => answerCopyRead s1 l tag off status n p
      | .copyWrite l tag k => answerCopyWrite s1 l tag k status
      | .gatherRow l tag i fill => answerGatherRow s1 l tag i fill status n p
      | .poolFill k _ => if status = 0 && p.badWords.isEmpty then fillData s1 k p.tag (p.data.take n) (bit p.aux.toNat 0) else fillFails s1 k p.tag
      | _ => s1

/-- READ_RESPONSE (R267, R276). -/
def execReadResponse (p : Packet) (s0 : State) : Host.Outcome State Fault Refusal :=
  .next (serve s0 p 3 fun s => s.answered p p.status).settleAcks

/-- WRITE_OR_ATOMIC_RESPONSE (R267, R276). -/
def execWriteOrAtomicResponse (p : Packet) (s0 : State) : Host.Outcome State Fault Refusal :=
  .next (serve s0 p 4 fun s => s.answered p p.status).settleAcks

/-! ### Exchanges at the peer (R279) -/

/-- Status with which a peer turns an exchange packet to a tile away; 0: it may write. -/
def exchangeTileStatus (s : State) (p : Packet) : Nat :=
  let l := bits p.aux.toNat 63 53
  if p.key ≠ (tenantAt s p.tenant).exchangeKey then 6
  else if ownerOf s l ≠ some p.tenant then 5
  else if tileResetting s l then 1
  else 0

/-- Write an exchange's data into a tile (R279). -/
def exchangeToTile (s : State) (p : Packet) : State × Nat :=
  match exchangeTileStatus s p with
  | 0 =>
    let l := bits p.aux.toNat 63 53
    match writeLocal s l p.tenant p.addr.toNat p.data with
    | (s1, .fault _ _) => (s1, 3)
    | (s1, _) =>
      let t := tileAt s1 l
      (s1.setTile l { t with lmBad := markBad t.lmBad (p.badWords.map fun i => p.addr.toNat + 16 * i) }, 0)
  | st => (s, st)

/-- The unit that translates for a shore die (R279). -/
def shoreUnit : Nat := 20

/-- Translate every page of an exchange's destination at the peer; status 7 or 8 where it may not, and none where the walk
waits (R279, R381). -/
def exchangePages (s : State) (tenant : Nat) (cuts : List (Nat × Nat)) : State × Except (Option Nat) (List (Nat × Nat)) :=
  match cuts with
  | [] => (s, .ok [])
  | c :: rest =>
    if c.1 ≥ 2 ^ 48 then (s, .error (some 7))
    else
      match s.translate shoreUnit tenant c.1 .w with
      | (s1, .wait) => (s1, .error none)
      | (s1, .fail cause) => (s1, .error (some (if cause = 0x21 then 8 else if cause = 0x22 then 3 else 7)))
      | (s1, .ok b) =>
        if !isLocal s1 b then (s1, .error (some 8))
        else
          match exchangePages s1 tenant rest with
          | (s2, .ok l) => (s2, .ok ((boardDpa b, c.2) :: l))
          | r => r

/-- Write an exchange's data at a tenant address (R279): the status, or none while a channel retrains. -/
def exchangeToTenant (s : State) (p : Packet) : State × Option Nat :=
  if p.key ≠ (tenantAt s p.tenant).exchangeKey then (s, some 6)
  else
    match exchangePages s p.tenant (cutsOf p.addr.toNat p.length) with
    | (s1, .error st) => (s1, st)
    | (s1, .ok ds) =>
      if ds.any fun d => dpaResetting s1 d.1 then (s1, some 1)
      else if ds.any fun d => dpaRetraining s1 d.1 then (s, none)
      else
        let r := ds.foldl (fun (acc : State × Bool × Nat) d =>
          let w := (acc.1.touchBias d.1 d.2).writeDpa d.1 ((p.data.drop acc.2.2).take d.2)
          let bad := (p.badWords.filter fun i => acc.2.2 ≤ 16 * i && 16 * i < acc.2.2 + d.2).map (· - acc.2.2 / 16)
          let s2 := (w.1.carryBad { p with badWords := bad } d.1).noticeWrite p.tenant d.1 d.2
          (if w.2 then s2.fastUncorrectable d.1 else s2, acc.2.1 || w.2, acc.2.2 + d.2)) (s1, false, 0)
        (r.1, some (if r.2.1 then 3 else 0))

/-- EXCHANGE_DATA (R279). -/
def execExchangeData (p : Packet) (ecc : Ecc) (s0 : State) : Host.Outcome State Fault Refusal :=
  .next <| serve s0 p 5 fun s =>
    if bit p.aux.toNat 52 then
      match exchangeToTenant (s.fastEcc ecc) p with
      | (s1, some st) => s1.answer p 7 st 0 []
      | (_, none) => s0
    else
      let l := bits p.aux.toNat 63 53
      let s1 := if (mget s.tiles l).isSome then s.localEcc l p.tenant ecc else s
      let r := exchangeToTile s1 p
      r.1.answer p 7 r.2 0 []

/-- EXCHANGE_FLAG (R279). -/
def execExchangeFlag (p : Packet) (ecc : Ecc) (s0 : State) : Host.Outcome State Fault Refusal :=
  .next <| serve s0 p 6 fun s =>
    let l := bits p.aux.toNat 63 53
    match exchangeTileStatus s p with
    | 0 =>
      let s1 := s.localEcc l p.tenant ecc
      match writeLocal s1 l p.tenant p.addr.toNat (leBytes 4 (bits p.aux.toNat 31 0)) with
      | (s2, .fault _ _) => s2.answer p 7 3 0 []
      | (s2, _) => s2.answer p 7 0 0 []
    | st => s.answer p 7 st 0 []

/-! ### Exchanges at the sender (R279, R280) -/

/-- Freeze an exchange at packet `k`; its later packets are sent again on resume (R280). -/
def freezeExchange (s : State) (l tenant tag : Nat) (st : Stream) (k cause : Nat) : State :=
  let a := if k < xParts st.desc then dbits st.desc 159 112 + 4096 * k else dbits st.desc 179 160
  ((s.orphan l tag).setStream l tag
    { st with next := min k (xParts st.desc), inflight := [], flagSent := false, written := st.written.filter (· < k) }).freezeStream
    l tenant tag st cause a

/-- The exchange goes on after a packet's acknowledgement: its flag, or its end (R279). -/
def advanceExchange (s : State) (l tenant tag : Nat) (st : Stream) : State :=
  let all : Bool := st.written.length = xParts st.desc
  if all && !xFlagEn st.desc then s.retireTag l tag
  else pumpExchange (exchangeFuel s l tag) s l tenant tag

/-- A packet of an exchange is acknowledged. -/
def answerExchange (s : State) (l tag : Nat) (part : Option Nat) (status : Nat) : State :=
  match ownerOf s l, streamAt s l tag with
  | some tenant, some st =>
    match exchangeCause status with
    | some c => freezeExchange s l tenant tag st (part.getD (xParts st.desc)) c
    | none =>
      match part with
      | none => s.retireTag l tag
      | some k =>
        let st1 := { st with inflight := st.inflight.erase k, written := ninsert st.written k }
        advanceExchange (s.setStream l tag st1) l tenant tag st1
  | _, _ => s

/-- An exchange packet's answer reaches its stream. -/
def State.exchangeAnswered (s : State) (p : Packet) (status : Nat) : State :=
  match mget s.links.requests p.tag with
  | none => s
  | some r =>
    if r.packet.dst ≠ p.src then s
    else if masterResetting s r.who then s.discardResponse p.tag r.who
    else
      match r.who with
      | .exchangePart l tag k =>
        if status = 1 then s.updLinks fun x => { x with requests := mset x.requests p.tag { r with resetSeen := true } }
        else answerExchange (s.closeRequest p.tag) l tag (some k) status
      | .exchangeFlag l tag =>
        if status = 1 then s.updLinks fun x => { x with requests := mset x.requests p.tag { r with resetSeen := true } }
        else answerExchange (s.closeRequest p.tag) l tag none status
      | _ => s

/-- EXCHANGE_ACKNOWLEDGE (R267, R279, R280). -/
def execExchangeAcknowledge (p : Packet) (s0 : State) : Host.Outcome State Fault Refusal :=
  .next <| serve s0 p 7 fun s => s.exchangeAnswered p p.status

/-- UNDELIVERABLE_NOTICE (R267, R275). -/
def execUndeliverableNotice (p : Packet) (s0 : State) : Host.Outcome State Fault Refusal :=
  .next (serve s0 p 10 fun s =>
    if p.aux.toNat % 16 = 5 || p.aux.toNat % 16 = 6 then s.exchangeAnswered p 4 else s.answered p 4).settleAcks

/-! ### Pool invalidations (R210–R212, R268) -/

/-- Apply one record or end marker of a packet for generation `h` from a sender. -/
def applyRecord (s : State) (p : Packet) (h v : Nat) : State :=
  let t := bits v 63 54
  if bit v 13 then
    let set := bits v 53 46
    (s.updRun t set fun r => { r with markers := (h, p.src, p.addr.toNat) :: r.markers }).settle t set
  else
    let table := bits v 53 46
    let set := dbits (tableDesc s t table) 225 224
    ((s.invalidate t table (bits v 45 14)).countRecord t set h p.src).settle t set

/-- 64-bit records of a packet; a zero word after an end marker pads its last line (R210, R266; log 111). -/
def recordsOfPacket (p : Packet) : List Nat :=
  let ws := (List.range (p.data.length / 8)).map fun i => leNat ((p.data.drop (8 * i)).take 8)
  if ws.getLastD 0 = 0 && bit (ws.dropLast.getLastD 0) 13 then ws.dropLast else ws

/-- POOL_INVALIDATIONS (R211, R212, R268). -/
def execPoolInvalidations (p : Packet) (s0 : State) : Host.Outcome State Fault Refusal :=
  .next <| serve s0 p 9 fun s => (recordsOfPacket p).foldl (fun s v => applyRecord s p p.aux.toNat v) s

/-! ### Reissues (R381) -/

/-- The request a reissue names. -/
def reissueMatches (r : Reissue) (q : Request) : Bool :=
  q.resetSeen &&
    (match r, q.who with
     | .access l n, .access l' n' => l = l' && n = n'
     | .copyPart l t, .copyRead l' t' _ => l = l' && t = t'
     | .copyPart l t, .copyWrite l' t' _ => l = l' && t = t'
     | .gatherRow l t i, .gatherRow l' t' i' _ => l = l' && t = t' && i = i'
     | .poolFill k, .poolFill k' _ => k = k'
     | .exchangePart l t k, .exchangePart l' t' k' => l = l' && t = t' && k = k'
     | .exchangePart l t _, .exchangeFlag l' t' => l = l' && t = t'
     | _, _ => false)

/-- TARGET_RESET_REISSUE (R161, R381): the request goes out again, or an access held at its own module's
stack may perform again. -/
def execTargetResetReissue (r : Reissue) (s : State) : Host.Outcome State Fault Refusal :=
  .next <|
    match s.links.requests.find? fun (e : Nat × Request) => reissueMatches r e.2 with
    | some e =>
      s.updLinks fun l => { l with requests := mset l.requests e.1 { e.2 with resetSeen := false },
                                   outbox := l.outbox ++ [e.2.packet] }
    | none =>
      match r with
      | .access l n =>
        let t := tileAt s l
        if t.accesses.any fun a => a.serial = n && a.retried then
          s.setTile l { t with accesses := t.accesses.map fun a => if a.serial = n then { a with retried := false } else a }
        else s
      | _ => s

end Sys2Proof.Machine
end

