-- ==== Sys2Proof/Machine/Matrix.lean ====
section
/-!
DEFINITION. Classes 0xB and 0xC: fragments, products, drains, fills and waits, and their completion
(R53, R61, R68, R73–R78, R83, R89).
-/

namespace Sys2Proof.Machine

/-! ### Fragments -/

/-- The group is converged with a true guard: every live thread executes (R53). -/
def Ctx.converged (c : Ctx) (f : Fields) : Bool :=
  c.path.mask = c.group.live && c.lanes f = c.group.live

/-- Run a class 0xB instruction: illegal in the large configuration or with a fragment base that is no
multiple of 8, `MMA.REG`'s sources among them (R59, R61; log 124). -/
def Ctx.classB (c : Ctx) (bases : List Byte) (u : Use) (f : Fields) (k : State) : State :=
  if c.block.launch.params.large || bases.any fun b => b.toNat % 8 ≠ 0 then c.freeze 0x04 0
  else c.checked u f k

/-- Bytes of a 32 × 32 FP16 block with a row stride. -/
def fragExtent (stride : Nat) : Nat := 31 * stride + 64

/-- A fragment access: mask, window, stride and words are checked before anything moves (R53, R63), after the fields and in
this order (log 124). -/
def Ctx.fragment (c : Ctx) (f : Fields) (k : Nat → Nat → State) : State :=
  let off := (readU c.group f.srcA).toNat
  let stride := (readU c.group f.srcB).toNat
  c.classB [f.dst] { dst := 5, a := 2, b := 2, mod := 1 } f <|
    if !c.converged f then c.freeze 0x01 0
    else if stride % 64 ≠ 0 || !inWindow c.block.launch.params off (fragExtent stride) then c.freeze 0x07 off
    else k off stride

/-- Offset of element (row, col) of a fragment in memory. -/
def fragOffset (off stride row col : Nat) : Nat := off + row * stride + 2 * col

/-- FRAG.LD: thread i receives row i, or column i when transposed, two values per register, low half
first; exited threads' registers are written too (R53, R61). -/
def execFragLd (i : Issue) (f : Fields) (ecc : Ecc) (s : State) : Host.Outcome State Fault Refusal :=
  .next <| issue s i fun c0 =>
    let c := c0.ecc ecc
    c.fragment f fun off stride =>
      match (List.range 32).find? fun r => readBad c.tile.lmBad (off + r * stride) 64 with
      | some r => c.freezeLm (off + r * stride)
      | none =>
        let el (n k : Nat) : Nat :=
          leNat (readBytes c.tile.lm
            (if f.mod.getLsbD 0 then fragOffset off stride k n else fragOffset off stride n k) 2)
        c.done ((cellsOf 32).foldl (fun g nr =>
          if nr.2 < 16 then
            writeReg g (f.dst + BitVec.ofNat 8 nr.2) nr.1
              (BitVec.ofNat 32 (el nr.1 (2 * nr.2) + 2 ^ 16 * el nr.1 (2 * nr.2 + 1)))
          else g) c.group)

/-- Value k of a thread's fragment: 16 registers of two halves (R61). -/
def fragElement (g : Group) (base : Byte) (n k : Nat) : Nat :=
  let v := (readReg g (base + BitVec.ofNat 8 (k / 2)) n).toNat
  if k % 2 = 0 then v % 2 ^ 16 else v / 2 ^ 16

/-- FRAG.ST (R53, R61). -/
def execFragSt (i : Issue) (f : Fields) (ecc : Ecc) (s : State) : Host.Outcome State Fault Refusal :=
  .next <| issue s i fun c0 =>
    let c := c0.ecc ecc
    c.fragment f fun off stride =>
      match (List.range 32).find? fun r =>
          (wordsOf (off + r * stride) 64).any fun w =>
            c.tile.lmBad.contains w && partialWord (off + r * stride) 64 w with
      | some r => c.freezeLm (off + r * stride)
      | none =>
        let row (r : Nat) : List Byte :=
          (List.range 32).flatMap fun k =>
            leBytes 2 (if f.mod.getLsbD 0 then fragElement c.group f.dst k r else fragElement c.group f.dst r k)
        let m := (List.range 32).foldl (fun (m : SMap Byte × List Nat) r =>
          let x := writeWords m.1 m.2 (off + r * stride) (row r)
          (x.1, x.2.1)) (c.tile.lm, c.tile.lmBad)
        c.finish (c.tile.setLm m.1 m.2) c.block c.group

/-! ### Products -/

/-- Add an operation to the scoreboard (R76). -/
def Tile.addOp (t : Tile) (slot : Nat) (large : Bool) (kind : ArrayKind) : Tile :=
  { t with ops := t.ops ++ [{ serial := t.serial, slot := slot, large := large, kind := kind }],
           serial := t.serial + 1 }

/-- A unit lies outside the block's `acc_mask` (R56). -/
def foreignUnit (p : BlockParams) (u : Nat) : Bool := !p.accMask.getLsbD u

/-- A quadrant's queue of two is full: two products have not yet passed the cycle of their last injection (R89). -/
def quadrantFull (t : Tile) (q : Nat) : Bool :=
  (t.ops.filter fun o =>
    match o.kind with
    | .mmaReg q' _ _ _ _ => q' = q && o.run < 33
    | _ => false).length ≥ 2

/-- The fragment of all 32 threads: 32 values a thread (R61, R89). -/
def fragmentOf (g : Group) (base : Byte) : List (BitVec 16) :=
  (cellsOf 32).map fun nk => BitVec.ofNat 16 (fragElement g base nk.1 nk.2)

/-- MMA.REG (R61, R89, R56): a full quadrant queue holds the instruction back. -/
def execMmaReg (i : Issue) (f : Fields) (s : State) : Host.Outcome State Fault Refusal :=
  .next <| issueArray s i fun c =>
    let q := bits f.mod.toNat 1 0
    let sl := bits f.mod.toNat 2 2
    if !guardAlways f then c.freeze 0x04 0
    else
      c.classB [f.srcA, f.srcB] { a := 5, b := 5, mod := 0xF } f <|
        if foreignUnit c.block.launch.params (2 * q + sl) then c.freeze 0x03 0
        else if quadrantFull c.tile q then s
        else
          let kind := ArrayKind.mmaReg q sl (f.mod.getLsbD 3) (fragmentOf c.group f.srcA)
            (fragmentOf c.group f.srcB)
          c.finish ({ c.tile with pairSlot := none }.addOp c.slot false kind) c.block c.group

/-- Units an `MMA.DESC` of a slot needs (R97). -/
def descUnits (d : List Byte) (sl : Nat) : List Nat := if bothSlots d then [sl, 1 - sl] else [sl]

/-- Personality of a tile: 0 map, 1 channel (R91). -/
def personalityOf (s : State) (l : Nat) : Nat := (mgetD s.globals.personality l 0).toNat

/-- MMA.DESC (R83): the d register, the descriptor, the extents and the slots are checked in this
order. -/
def execMmaDesc (i : Issue) (f : Fields) (s : State) : Host.Outcome State Fault Refusal :=
  .next <| issueArray s i fun c =>
    let p := c.block.launch.params
    let sl := bits f.mod.toNat 0 0
    if !p.large then c.freeze 0x04 0
    else
      c.checkedOnce { a := 4, mod := 3 } f <|
        match mget c.block.dregs f.srcA.toNat with
        | none => c.freeze 0x06 0
        | some d =>
          if arrayDescBad d (personalityOf c.s c.l) then c.freeze 0x06 0
          else if arrayExtentBad p d then c.freeze 0x07 (dbits d 83 64)
          else if (descUnits d sl).any (foreignUnit p) then c.freeze 0x03 0
          else
            let kind := ArrayKind.mmaDesc sl (f.mod.getLsbD 1) d []
            -- the pair mark of R98
            let mark := if chMode d = some 3 then some sl else none
            c.finish ({ c.tile with pairSlot := mark }.addOp c.slot true kind) c.block c.group

/-! ### Drains, fills and waits -/

/-- Unit that `mod` names (R61). -/
def modUnit (large : Bool) (f : Fields) : Nat :=
  if large then bits f.mod.toNat 2 2 else 2 * bits f.mod.toNat 1 0 + bits f.mod.toNat 2 2

/-- A quadrant other than 0 in the large configuration (R56). -/
def quadrantBad (large : Bool) (f : Fields) : Bool := large && bits f.mod.toNat 1 0 ≠ 0

/-- ACC.DRAIN (R56, R73, R74, R98). A standing pair mark makes no drain of the small configuration a pair's (log 125). -/
def execAccDrain (i : Issue) (f : Fields) (s : State) : Host.Outcome State Fault Refusal :=
  .next <| issueArray s i fun c =>
    let p := c.block.launch.params
    let fmt := bits f.mod.toNat 7 4
    let u := modUnit p.large f
    let dst := (readU c.group f.srcA).toNat
    let half : Bool := fmt = 1
    let pair : Bool := p.large && c.tile.pairSlot = some u
    let size := unitSide p.large * rowBytes p.large half * (if pair && !half then 2 else 1)
    if quadrantBad p.large f || fmt > 1 then c.freeze 0x04 0
    else
      c.checkedOnce { a := 2, mod := 0xFF } f <|
        if dst % 16 ≠ 0 || !inWindow p dst size then c.freeze 0x07 dst
        else if foreignUnit p u then c.freeze 0x03 0
        else c.finish (c.tile.addOp c.slot p.large (.drain u dst (f.mod.getLsbD 3) half pair)) c.block c.group

/-- ACC.FILL (R56, R75, R98). -/
def execAccFill (i : Issue) (f : Fields) (s : State) : Host.Outcome State Fault Refusal :=
  .next <| issueArray s i fun c =>
    let p := c.block.launch.params
    let u := modUnit p.large f
    let src := (readU c.group f.srcA).toNat
    if quadrantBad p.large f then c.freeze 0x04 0
    else
      c.checkedOnce { a := 2, mod := 7 } f <|
        if src % 16 ≠ 0 || !inWindow p src (unitSide p.large * rowBytes p.large false) then c.freeze 0x07 src
        else if foreignUnit p u then c.freeze 0x03 0
        else
          c.finish ({ c.tile with pairSlot := none }.addOp c.slot p.large (.fill u src))
            c.block c.group

/-- Operations not yet complete that name a unit of a mask (R78). -/
def opsOnMask (t : Tile) (mask : Byte) : List Nat :=
  (t.ops.filter fun o => !o.done && (opUnits o).any fun u => mask.getLsbD u).map ArrayOp.serial

/-- ACC.WAIT (R56, R78): the group is held while an operation it names is in the scoreboard. Mask bits of quadrants other
than 0 are an illegal encoding in the large configuration (log 124). -/
def execAccWait (i : Issue) (f : Fields) (s : State) : Host.Outcome State Fault Refusal :=
  .next <| issueArray s i fun c =>
    let mask := f.mod.setWidth 8
    c.checkedOnce { mod := 0xFF } f <|
      if c.block.launch.params.large && mask &&& 0xFC ≠ 0 then c.freeze 0x04 0
      else if mask &&& ~~~c.block.launch.params.accMask ≠ 0 then c.freeze 0x03 0
      else
        match opsOnMask c.tile mask with
        | [] => c.done c.group
        | ids => c.done { c.group with wait := .arrayOps ids }

/-! ### Completion -/

/-- Cycles a product takes for one depth index: FP32 runs at a quarter of the rate, the channel modes by their passes
(R95, R96, R98, R99). -/
def passCycles (d : List Byte) : Nat :=
  if dbits d 7 4 = 0 then 4
  else
    match chMode d with
    | none => 1
    | some 0 => 4
    | some 3 => 2
    | some _ => 3

/-- A product's last accumulation is due: for `MMA.REG` 93 advancing cycles after its first, for `MMA.DESC` no earlier
than its first at cycle 12 allows (R68, R89). -/
def accumulationDue (o : ArrayOp) : Bool :=
  match o.kind with
  | .mmaReg .. => o.run ≥ 94
  | .mmaDesc _ _ d _ => o.age ≥ 137 + passCycles d * dbits d 60 48
  | _ => false

/-- An operation leaves the scoreboard complete, and waits for it end (R78). -/
def Tile.leaveOp (t : Tile) (serial : Nat) : Tile := releaseAcc { t with ops := dropOp t.ops serial }

/-- ACCUMULATION_COMPLETE (R67, R68, R77, R78): the product's last accumulation. One that is not due, or that an earlier
operation of its units still holds back, has not happened. -/
def execAccumulationComplete (tile serial elapsed feederFreezes drainFreezes : Nat) (ecc : Ecc) (s0 : State) :
    Host.Outcome State Fault Refusal :=
  .next <|
    let s1 := (arrayTicks s0 tile feederFreezes drainFreezes elapsed).redraw
    match ownerOf s1 tile, (tileAt s1 tile).ops.find? fun o => o.serial = serial with
    | some tenant, some o =>
      let t := tileAt s1 tile
      if !mayAccumulate t.ops o || !accumulationDue o then s0
      else
        match o.kind with
        | .mmaReg q sl z a b => s1.setTile tile ((runReg t q sl z a b).leaveOp serial)
        | .mmaDesc sl z d seen =>
          let t := { t with lmBad := markBad t.lmBad ecc.bad }
          let seen := seen.map fun m => (m.1, markBad m.2 ecc.bad)
          let s2 := ecc.corrected.foldl
            (fun s a => s.report (lmSource tile) 0 0 (some tenant) (BitVec.ofNat 32 (a / 2 ^ 13))) s1
          (s2.arrayBad tile tenant (feederBadWords s1 (operandViews t seen) d)).setTile tile
            ((runDesc s1 t sl z d seen).leaveOp serial)
        | _ => s0
    | _, _ => s0

/-- Shift cycle with which a drain's last row leaves (R73, R90, R98). -/
def drainCycles (o : ArrayOp) : Nat :=
  match o.kind with
  | .drain u _ _ _ _ => if !o.large && unitRow0 o.large u = 32 then 32 else chainCycles o
  | _ => 0

/-- DRAIN_COMPLETE (R73, R78, R90, R98): the last row is in local memory, and waits for the drain end; the chains stay
held to the end of their shifting. -/
def execDrainComplete (tile serial elapsed drainFreezes : Nat) (s0 : State) : Host.Outcome State Fault Refusal :=
  .next <|
    let s1 := (arrayTicks s0 tile 0 drainFreezes elapsed).redraw
    let t := tileAt s1 tile
    match t.ops.find? fun o => o.serial = serial with
    | some o =>
      match o.kind with
      | .drain .. =>
        if o.copied && o.run ≥ drainCycles o then
          s1.setTile tile (releaseAcc (t.updOp serial fun o => { o with done := true }).sweepOps)
        else s0
      | _ => s0
    | none => s0

/-- A fill's copy into its unit: words found uncorrectable as they were read enter as NaNs (R75, R80, R149). -/
def runFill (t : Tile) (o : ArrayOp) (u src : Nat) (bad : List Nat) : Tile :=
  let value (r c : Nat) : W32 :=
    let off := src + r * rowBytes o.large false + 4 * c
    if readBad bad off 4 then BitVec.ofNat 32 (arithNan fp32 8 off 0 0) else mgetD o.held (64 * r + c) 0
  let cells := (cellsOf (unitSide o.large)).map fun rc => (rc, value rc.1 rc.2)
  let v : SMap W32 := cells.foldl (fun (m : SMap W32) (e : (Nat × Nat) × W32) => mput 0 m (64 * e.1.1 + e.1.2) e.2) []
  let t1 := setShadow t o.large u v
  { t1 with acc := cells.foldl (fun a (e : (Nat × Nat) × W32) => mput 0 a (unitKey o.large u e.1.1 e.1.2) e.2) t1.acc }.flag false
    (cells.any fun e => isNonfiniteBits fp32 e.2.toNat)

/-- FILL_COMPLETE (R75, R77, R149): the rows are in and the unit is free for them: the shadows are copied into it. -/
def execFillComplete (tile serial elapsed drainFreezes : Nat) (ecc : Ecc) (s0 : State) :
    Host.Outcome State Fault Refusal :=
  .next <|
    let s1 := (arrayTicks s0 tile 0 drainFreezes elapsed).redraw
    match ownerOf s1 tile, (tileAt s1 tile).ops.find? fun o => o.serial = serial with
    | some tenant, some o =>
      let t := tileAt s1 tile
      match o.kind with
      | .fill u src =>
        if o.run ≥ 64 && mayAccumulate t.ops o then
          let t := { t with lmBad := markBad t.lmBad ecc.bad }
          let bad := markBad [] ecc.bad
          let s2 := ecc.corrected.foldl
            (fun s a => s.report (lmSource tile) 0 0 (some tenant) (BitVec.ofNat 32 (a / 2 ^ 13))) s1
          let extent := wordsOf src (unitSide o.large * rowBytes o.large false)
          (s2.arrayBad tile tenant (bad.filter extent.contains)).setTile tile
            ((runFill t o u src bad).leaveOp serial)
        else s0
      | _ => s0
    | _, _ => s0

end Sys2Proof.Machine
end

