-- ==== Sys2Proof/Machine/Objects.lean ====
section
/-!
DEFINITION. The objects of the dictionary: which exist, with type, size, access code and roles (R324–R331), and
the value each reads as, from the chapter that defines it.
-/

namespace Sys2Proof.Machine

/-! ### The table of objects (R324–R331) -/

/-- Which roles read an object (R329): all; all but Tenant; Operator and Service; the tenant that owns the
instance, Operator and Service. -/
inductive Readers where
  | all | std | op | tenant
  deriving DecidableEq, Repr

/-- Which roles write an object; Service holds every permission of Operator and Crypto Officer (R329), but for the
one object that only the Operator writes (R91; log 117). -/
inductive Writers where
  | none | op | opOnly | crypto | both | tenant | attest
  deriving DecidableEq, Repr

/-- An object's type code (R325), size in bytes (0: it varies), access code (R326) and roles. -/
structure Obj where
  ty : Nat
  size : Nat
  access : Nat
  readers : Readers
  writers : Writers
  deriving DecidableEq, Repr

/-- A value anyone of the readers may read and no one writes. -/
def roObj (ty size : Nat) (r : Readers) : Obj := { ty := ty, size := size, access := 1, readers := r, writers := .none }
/-- An object the Operator writes. -/
def opObj (ty size access : Nat) : Obj := { ty := ty, size := size, access := access, readers := .std, writers := .op }
/-- A tenant-scoped object its tenant writes. -/
def ownObj (ty size access : Nat) : Obj := { ty := ty, size := size, access := access, readers := .tenant, writers := .tenant }

/-- Objects of areas 0x1000–0x24FF. -/
def lowObject (index sub : Nat) : Option Obj :=
  match index, sub with
  | 0x1000, 1 | 0x1000, 2 | 0x1000, 3 => some (roObj 0x0B 0 .all)
  | 0x1000, 4 => some (roObj 3 2 .all)
  | 0x1001, 1 => some (roObj 0x0D 0 .all)
  | 0x1010, 1 => some (roObj 0x0C 6 .std)
  | 0x1010, 2 => some (opObj 3 2 2)
  | 0x1010, 3 => some (opObj 2 1 2)
  | 0x1010, 4 => some (roObj 2 1 .std)
  | 0x1010, 5 => some (opObj 1 1 2)
  | 0x1010, 6 => some (opObj 2 1 2)
  | 0x1010, 7 | 0x1010, 8 => some (roObj 5 8 .std)
  | 0x1020, 1 | 0x1020, 2 => some (roObj 2 1 .std)
  | 0x1020, 3 => some (opObj 4 4 2)
  | 0x1020, 4 => some { opObj 2 1 2 with writers := .both }
  | 0x1020, 5 => some (roObj 4 4 .std)
  | 0x1020, 6 => some (roObj 0x0C 16 .std)
  | 0x1020, 7 => some (opObj 3 2 3)
  | 0x1021, 1 => some (roObj 0x0D 512 .std)
  | 0x1022, 1 => some { opObj 0x0D 512 2 with writers := .crypto }
  | 0x2000, 1 | 0x2000, 2 => some (roObj 3 2 .std)
  | 0x2000, 3 | 0x2000, 4 => some (roObj 7 2 .std)
  | 0x2000, 5 => some (roObj 4 4 .std)
  | 0x2001, 1 => some (roObj 0x0D 384 .std)
  | 0x2002, 1 => some (roObj 0x0D 5924 .std)
  | 0x2100, 1 => some { opObj 4 4 2 with readers := .all }
  | 0x2100, 2 | 0x2100, 3 => some (roObj 4 4 .std)
  | 0x2101, 1 => some (roObj 0x0D 5120 .op)
  | 0x2200, 1 => some { opObj 0x0D 1280 4 with readers := .op, writers := .opOnly }
  | 0x2201, 1 => some (roObj 0x0D 20480 .op)
  | 0x2300, 1 | 0x2300, 3 | 0x2300, 4 => some (roObj 5 8 .std)
  | 0x2300, 2 => some (roObj 4 4 .std)
  | 0x2300, 5 => some (roObj 3 2 .std)
  | 0x2400, 1 => some { opObj 2 1 2 with readers := .all }
  | 0x2400, 2 => some (roObj 2 1 .all)
  | 0x2400, 3 | 0x2400, 4 => some (roObj 4 4 .all)
  | 0x2400, 5 => some (roObj 5 8 .all)
  | _, _ => none

/-- Objects of areas 0x3000–0x42FF. -/
def mapObject (index sub : Nat) : Option Obj :=
  match index, sub with
  | 0x3000, 1 => some (roObj 3 2 .all)
  | 0x3000, 2 => some (roObj 2 1 .all)
  | 0x3000, 3 => some (roObj 4 4 .all)
  | 0x3001, 1 => some (roObj 0x0D 5120 .all)
  | 0x3002, 1 => some (roObj 0x0D 160 .all)
  | 0x3003, 1 => some (roObj 0x0D 80 .all)
  | 0x3004, 1 => some (roObj 2 1 .all)
  | 0x3100, 5 => some (roObj 3 2 .std)
  | 0x3100, 6 => some (roObj 4 4 .std)
  | 0x3101, 1 => some (roObj 0x0D 2688 .std)
  | 0x4000, 1 => some (opObj 2 1 4)
  | 0x4000, 2 => some (opObj 5 8 4)
  | 0x4000, 3 => some (opObj 4 4 4)
  | 0x4000, 4 | 0x4000, 5 => some (opObj 3 2 2)
  | 0x4000, 6 => some (opObj 2 1 2)
  | 0x4000, 7 | 0x4000, 8 => some (opObj 3 2 3)
  | 0x4000, 9 => some (roObj 4 4 .std)
  | 0x4003, 1 => some (roObj 0x0D 0 .std)
  | 0x4100, 1 | 0x4100, 3 | 0x4100, 4 | 0x4100, 5 => some (roObj 4 4 .std)
  | 0x4100, 2 => some (roObj 3 2 .std)
  | 0x4100, 6 => some (roObj 5 8 .std)
  | 0x4101, 1 => some (opObj 0x0D 32768 4)
  | 0x4200, 1 => some (opObj 2 1 2)
  | 0x4200, 2 => some (roObj 3 2 .std)
  | 0x4200, 3 => some (roObj 5 8 .std)
  | 0x4201, 1 => some (opObj 0x0D 32768 4)
  | _, _ =>
    if index = 0x3100 && 1 ≤ sub && sub ≤ 4 then some (roObj 2 1 .std)
    else if index = 0x4001 && 1 ≤ sub && sub ≤ 20 then some (roObj 4 4 .std)
    else if index = 0x4002 && 1 ≤ sub && sub ≤ 4 then some (roObj 4 4 .std)
    else if index = 0x4202 && 1 ≤ sub && sub ≤ 4 then some (roObj 2 1 .std)
    else none

/-- Objects of areas 0x5000–0x515F. -/
def linkObject (index sub : Nat) : Option Obj :=
  match index, sub with
  | 0x5000, 1 => some (opObj 3 2 4)
  | 0x5000, 2 => some (opObj 2 1 2)
  | 0x5000, 3 => some (opObj 5 8 3)
  | 0x5000, 4 => some (opObj 0x0A 4 2)
  | 0x5000, 5 => some (opObj 5 8 2)
  | 0x5000, 6 => some (opObj 3 2 4)
  | 0x5000, 7 => some (opObj 3 2 3)
  | 0x5000, 8 => some (opObj 2 1 2)
  | 0x5000, 9 => some (roObj 5 8 .std)
  | 0x5080, 1 => some (opObj 0x0D 16384 4)
  | 0x5081, 1 => some (opObj 0x0D 4096 2)
  | _, _ =>
    if index = 0x5001 && 1 ≤ sub && sub ≤ 12 then some (opObj 4 4 4)
    else if index = 0x5002 && 1 ≤ sub && sub ≤ 12 then some (opObj 2 1 2)
    else if index = 0x5003 && 1 ≤ sub && sub ≤ 12 then some (roObj 4 4 .std)
    else if 0x5100 ≤ index && index < 0x5160 then
      (match sub with
       | 1 => some (opObj 2 1 4)
       | 2 | 3 | 7 => some (roObj 2 1 .std)
       | 4 => some (roObj 4 4 .std)
       | 5 => some (roObj 0x0C 48 .std)
       | 6 => some (opObj 2 1 3)
       | _ => none)
    else none

/-- Objects of areas 0x6000–0xA0FF. -/
def serviceObject (index sub : Nat) : Option Obj :=
  match index, sub with
  | 0x6400, 1 => some (opObj 0x0D 2293760 4)
  | 0x6400, 2 => some (opObj 5 8 3)
  | 0x6400, 3 | 0x6400, 4 => some (roObj 4 4 .std)
  | 0x7000, 1 | 0x7000, 2 => some (roObj 2 1 .std)
  | 0x7000, 3 => some (opObj 5 8 4)
  | 0x7000, 4 => some (roObj 5 8 .std)
  | 0x7000, 5 => some (opObj 5 8 3)
  | 0x7000, 6 => some (roObj 4 4 .std)
  | 0x7000, 7 => some (roObj 3 2 .std)
  | 0x7001, 1 => some (opObj 0x0D 65536 4)
  | 0x7002, 1 => some (opObj 0x0D 71680 2)
  | 0x8000, 1 => some (roObj 2 1 .std)
  | 0x8000, 2 | 0x8000, 3 | 0x8000, 5 | 0x8000, 6 => some (roObj 4 4 .std)
  | 0x8000, 4 | 0x8000, 9 | 0x8000, 10 | 0x8000, 12 => some { opObj 2 1 3 with writers := .crypto }
  | 0x8000, 7 => some (roObj 3 2 .std)
  | 0x8000, 8 => some { opObj 4 4 2 with writers := .crypto }
  | 0x8000, 11 => some (roObj 0x0C 6 .std)
  | 0x8000, 13 => some (roObj 2 1 .std)
  | 0x8001, 1 => some { opObj 0x0C 32 3 with writers := .attest }
  | 0x8001, 2 => some (roObj 0x0D 0 .std)
  | 0x8002, 1 => some (roObj 0x0D 15708 .std)
  | 0x8002, 2 => some (roObj 0x0D 640 .std)
  | 0x9000, 1 | 0x9000, 3 | 0x9000, 6 => some (roObj 4 4 .std)
  | 0x9000, 2 => some (opObj 4 4 2)
  | 0x9000, 4 => some (roObj 2 1 .std)
  | 0x9000, 5 => some (opObj 2 1 3)
  | 0x9001, 1 => some (roObj 0x0D 131072 .std)
  | 0x9002, 1 => some (roObj 0x0D 0 .std)
  | 0xA000, 1 | 0xA000, 2 | 0xA000, 4 => some (roObj 2 1 .std)
  | 0xA000, 3 => some (roObj 0x0C 64 .std)
  | 0xA002, 1 => some (opObj 0x0D 16777216 2)
  | 0xA003, 1 => some { opObj 5 8 3 with writers := .both }
  | 0xA003, 2 | 0xA003, 3 => some (roObj 4 4 .std)
  | 0xA004, 1 => some (opObj 4 4 3)
  | _, _ =>
    if 0x6000 ≤ index && index < 0x6400 then
      (match sub with
       | 1 => some (opObj 1 1 2)
       | 2 => some (roObj 1 1 .std)
       | 3 => some (opObj 0x0C 160 4)
       | 4 => some (opObj 5 8 4)
       | 5 => some (opObj 2 1 4)
       | 6 | 7 => some (opObj 4 4 4)
       | 8 | 10 | 11 => some (roObj 4 4 .std)
       | 9 => some (roObj 3 2 .std)
       | _ => none)
    else if index = 0xA001 && 1 ≤ sub && sub ≤ 6 then some (roObj 5 8 .std)
    else if index = 0xA005 && 1 ≤ sub && sub ≤ 7 then some (roObj 2 1 .std)
    else none

/-- Objects of the tenant scope, 0xC000–0xC4FF. -/
def tenantObject (index sub : Nat) : Option Obj :=
  match index, sub with
  | 0xC200, 1 | 0xC200, 2 => some (roObj 4 4 .tenant)
  | 0xC201, 1 => some (roObj 0x0D 0 .tenant)
  | 0xC202, 1 => some (ownObj 0x0D 0 4)
  | 0xC206, 1 => some (roObj 0x0C 16 .tenant)
  | 0xC206, 2 | 0xC206, 3 | 0xC206, 5 | 0xC206, 6 => some (roObj 4 4 .tenant)
  | 0xC206, 4 => some (ownObj 5 8 2)
  | 0xC300, 1 => some (roObj 4 4 .tenant)
  | 0xC300, 2 => some (ownObj 4 4 3)
  | 0xC300, 3 => some (ownObj 4 4 2)
  | 0xC300, 4 => some (roObj 0x0C 16 .tenant)
  | 0xC301, 1 | 0xC302, 1 | 0xC303, 1 => some (roObj 0x0D 0 .tenant)
  | 0xC303, 2 | 0xC303, 4 => some (roObj 4 4 .tenant)
  | 0xC303, 3 => some (ownObj 4 4 2)
  | 0xC304, 1 => some (roObj 0x0D 336 .tenant)
  | 0xC400, 1 => some (roObj 0x0D 64 .tenant)
  | 0xC401, 1 => some (ownObj 0x0D 8192 4)
  | 0xC402, 1 => some (roObj 0x0D 16384 .tenant)
  | _, _ =>
    if 0xC000 ≤ index && index < 0xC008 then
      (match sub with
       | 1 => some (ownObj 3 2 4)
       | 2 => some (ownObj 2 1 4)
       | 3 => some (ownObj 5 8 4)
       | 4 => some (roObj 2 1 .tenant)
       | 5 | 6 | 7 | 8 => some (roObj 5 8 .tenant)
       | 9 => some (roObj 4 4 .tenant)
       | _ => none)
    else if 1 ≤ sub && sub ≤ 4 then
      (match index with
       | 0xC100 => some (ownObj 2 1 4)
       | 0xC101 | 0xC102 | 0xC103 => some (roObj 5 8 .tenant)
       | 0xC104 => some (roObj 2 1 .tenant)
       | 0xC105 | 0xC106 | 0xC107 | 0xC10C | 0xC110 => some (ownObj 5 8 4)
       | 0xC108 => some (ownObj 0x0D 16384 4)
       | 0xC109 => some (ownObj 3 2 4)
       | 0xC10A => some (ownObj 4 4 4)
       | 0xC10B => some (ownObj 2 1 3)
       | 0xC10D => some (roObj 0x0C 32 .tenant)
       | 0xC10E => some (ownObj 4 4 2)
       | 0xC10F => some (roObj 4 4 .tenant)
       | 0xC203 => some (ownObj 5 8 2)
       | 0xC204 => some (roObj 5 8 .tenant)
       | 0xC205 => some (roObj 2 1 .tenant)
       | 0xC403 => some (roObj 5 8 .tenant)
       | _ => none)
    else none

/-- An object by index and a subindex from 1. -/
def objectAbove (index sub : Nat) : Option Obj :=
  if index < 0x3000 then lowObject index sub
  else if index < 0x5000 then mapObject index sub
  else if index < 0x6000 then linkObject index sub
  else if index < 0xC000 then serviceObject index sub
  else tenantObject index sub

/-- Subindexes in use at an index, up to 20. -/
def subsOf (index : Nat) : List Nat := ((List.range 21).filter fun k => k ≠ 0 && (objectAbove index k).isSome)

/-- An object of the dictionary; subindex 0 is readable by whoever reads an object at the index (R324). -/
def objectAt (index sub : Nat) : Option Obj :=
  if sub ≠ 0 then objectAbove index sub
  else
    match subsOf index with
    | [] => none
    | k :: ks => (objectAbove index k).map fun o =>
        let rs := (k :: ks).filterMap fun j => (objectAbove index j).map Obj.readers
        roObj 2 1 (if rs.contains .all then .all else o.readers)

/-- The index belongs to the tenant scope (R330). -/
def tenantIndex (index : Nat) : Bool := 0xC000 ≤ index && index < 0xD000

/-! ### Values of the lower areas -/

/-- Text padded with spaces (R343). -/
def spacePad (n : Nat) (bs : List Byte) : List Byte := (bs ++ List.replicate n 0x20).take n

/-- A flag byte. -/
def boolByte (b : Bool) : List Byte := leBytes 1 (b2n b)

/-- One `SessionTable` entry (R350). -/
def sessionEntry (s : State) (i : Nat) : List Byte :=
  match s.dict.sessions[i]? with
  | some x =>
    leBytes 32 (fieldAt 128 x.peerKeyHash.toNat + fieldAt 96 (satAdd 32 x.framesIn 0) + fieldAt 64 (satAdd 32 x.framesOut 0) +
      fieldAt 32 x.id + fieldAt 16 x.line + fieldAt 8 x.role + x.state)
  | none => leBytes 32 0

/-- Maximum frequency of an island, MHz (R412). -/
def islandMax (i : Nat) : Nat :=
  if i < 1344 then 700 else if i < 1448 then 1400 else if i < 1468 then 1250 else if i < 1472 then 1067
  else if i < 1476 then 700 else if i < 1478 then 1250 else if i < 1480 then 1000 else 500

/-- The bring-up state from which an island is powered (R374); a standby Lodge's is, for a handover only (R388). -/
def islandPowered (s : State) (i : Nat) : Bool :=
  if i = 1480 then s.service.bringUp ≥ 1 || s.power.packageOff
  else if i = 1478 || i = 1479 then s.service.bringUp ≥ 2 && (s.service.activeLodge + 1478 = i || s.service.handing)
  else if i = 1476 || i = 1477 then s.service.bringUp ≥ 3
  else if i < 1448 then s.service.bringUp ≥ 4
  else s.service.bringUp ≥ 5

/-- An island: one not listed runs at its maximum since it was powered (R413). -/
def islandAt (s : State) (i : Nat) : Island :=
  (mget s.power.islands i).getD
    { temp := 0, freq := if islandPowered s i then islandMax i else 0, state := b2n (islandPowered s i), throttles := 0, since := 0 }

/-- One `IslandStatus` entry (R420). -/
def islandEntry (s : State) (i : Nat) : List Byte :=
  let x := islandAt s i
  leBytes 4 (fieldAt 24 (unsigned 8 x.temp) + fieldAt 13 (x.freq % 2048) + fieldAt 8 x.state + x.throttles % 256)

/-- One `TileOccupancy` entry (R65). -/
def occupancyEntry (s : State) (l : Nat) : List Byte :=
  let t := tileAt s l
  let large : Bool := t.blocks.any fun (e : Nat × Block) => e.2.launch.params.large
  let lm := t.blocks.foldl (fun n (e : Nat × Block) => n + e.2.launch.params.lmSize) 0
  leBytes 4 (fieldAt 31 (b2n large) + fieldAt 20 (residentRegs t / 256) + fieldAt 16 t.blocks.length +
    fieldAt 10 (residentGroups t) + lm / 4096)

/-- Most that a block draws, in 0.1 W (R416, R420). -/
def blockLimit (b : Nat) : Nat :=
  if b < 4 then 5600 else if b < 24 then 480 else if b < 26 then 1600 else if b < 33 then 400 else if b < 40 then 80
  else if b < 44 then 700 else 200

/-- A new measurement of a block: its draw within R416, the highest so far, its temperature (R420). -/
def measureBlockOf (s : State) (b : Nat) : W64 :=
  let old := (mgetD s.power.blocks b 0).toNat
  let draw := free s (5610 + b) % (blockLimit b + 1)
  BitVec.ofNat 64 (fieldAt 40 (free s (5660 + b) % 256) + fieldAt 16 (max draw (bits old 31 16)) + draw)

/-- The sensors are read when an object that shows them is: voltage, draw within R416, coolant, and every block. What they
measure is open (R420; log 79). -/
def State.measure (s : State) : State :=
  s.updPower fun p =>
    { p with inputMv := free s 5601 % 65536, inputW := free s 5602 % 4601, inlet := signed 16 (free s 5603 % 65536),
             outlet := signed 16 (free s 5604 % 65536), blocks := (List.range 48).map fun b => (b, measureBlockOf s b) }

/-- One `ArrayStatus` entry (R81). -/
def arrayEntry (s : State) (l : Nat) : List Byte :=
  let t := tileAt s l
  leBytes 16 (fieldAt 96 (t.feederFreezes % 2 ^ 32) + fieldAt 64 (t.drainFreezes % 2 ^ 32) + fieldAt 5 (b2n t.reloading) +
    fieldAt 4 (personalityOf s l % 2) + fieldAt 1 (b2n t.nonfinite) + b2n t.sat)

/-- Sum of all quotas (R144). -/
def quotaTotal (s : State) : Nat := s.tenants.foldl (fun n (e : Nat × Tenant) => n + e.2.watch.quota) 0

/-- Value of an object below 0x3000 that is no DOMAIN. -/
def lowValue (s : State) (index sub : Nat) : List Byte :=
  match index, sub with
  | 0x1000, 1 => ascii "Nalulilo Systems"
  | 0x1000, 2 => ascii "QN-T96-LC"
  | 0x1000, 3 => Config.serialNumber
  | 0x1000, 4 => leBytes 2 Config.hardwareRevision.toNat
  | 0x1010, 1 => beBytes 6 Config.macAddress.toNat
  | 0x1010, 2 => leBytes 2 s.dict.etherType
  | 0x1010, 3 => leBytes 1 s.dict.portRoles.toNat
  | 0x1010, 4 => leBytes 1 s.dict.portUp.toNat
  | 0x1010, 5 => boolByte s.dict.forwardEnable
  | 0x1010, 6 => leBytes 1 s.dict.hopDefault
  | 0x1010, 7 => leBytes 8 s.dict.forwarded
  | 0x1010, 8 => leBytes 8 s.dict.dropped
  | 0x1020, 1 => leBytes 1 16
  | 0x1020, 2 => leBytes 1 s.dict.sessions.length
  | 0x1020, 3 => leBytes 4 s.dict.sessionIdleMs
  | 0x1020, 4 => leBytes 1 s.dict.pf0Role
  | 0x1020, 5 => leBytes 4 s.dict.handshakeFailures
  | 0x1020, 6 => sized 16 s.heartwood.serviceNonce
  | 0x2000, 1 => leBytes 2 s.power.inputMv
  | 0x2000, 2 => leBytes 2 s.power.inputW
  | 0x2000, 3 => leBytes 2 (unsigned 16 s.power.inlet)
  | 0x2000, 4 => leBytes 2 (unsigned 16 s.power.outlet)
  | 0x2000, 5 => leBytes 4 s.power.shutoffs
  | 0x2100, 1 => leBytes 4 s.globals.barrierDefault
  | 0x2100, 2 => leBytes 4 65536
  | 0x2100, 3 => leBytes 4 4294967295
  | 0x2300, 1 => leBytes 8 s.globals.reseeds
  | 0x2300, 2 => leBytes 4 s.globals.reseedWaits
  | 0x2300, 3 => leBytes 8 s.globals.convSats
  | 0x2300, 4 => leBytes 8 s.globals.convNonfinite
  | 0x2300, 5 => leBytes 2 s.globals.reseedPending.length
  | 0x2400, 1 => leBytes 1 s.globals.histDefault
  | 0x2400, 2 => leBytes 1 64
  | 0x2400, 3 => leBytes 4 65536
  | 0x2400, 4 => leBytes 4 (quotaTotal s)
  | 0x2400, 5 => leBytes 8 s.globals.poisonedAttempts
  | _, _ => []

/-! ### Values of the maps and the memory objects -/

/-- One `LogicalTileMap` entry (R15). -/
def tileMapEntry (s : State) (l : Nat) : List Byte :=
  match mget s.service.backing l with
  | some p => leBytes 4 (fieldAt 15 1 + fieldAt 9 (p / 336) + fieldAt 4 (p % 336 / 16) + p % 16)
  | none => leBytes 4 0

/-- One `ClusterPresence` entry (R14). -/
def clusterEntry (s : State) (c : Nat) : List Byte :=
  leBytes 2 ((List.range 16).foldl (fun n k => n + fieldAt k (b2n (tilePresent s (16 * c + k)))) 0)

/-- One `RegionMap` entry (R16). -/
def regionEntry (s : State) (r : Nat) : List Byte :=
  if !s.service.mapBuilt then leBytes 4 0
  else
    leBytes 4 (fieldAt 7 (b2n (!s.service.gatherOut.contains r)) + fieldAt 6 (b2n (!s.service.translationOut.contains r)) +
      fieldAt 5 (b2n (!s.service.stacksOut.contains r)) +
      (List.range 4).foldl (fun n i => n + fieldAt i (b2n (clusterTiles s (4 * r + i) ≠ 0))) 0)

/-- The logical tile a physical one backs. -/
def backedBy (s : State) (p : Nat) : Option Nat :=
  (s.service.backing.find? fun (e : Nat × Nat) => e.2 = p).map Prod.fst

/-- State of a physical tile (R383): 0 nominal in use, 1 spare free, 2 spare in use, 3–5 failed. -/
def physState (s : State) (p : Nat) : Nat :=
  match backedBy s p with
  | some l => if nominalOf l = p then 0 else 2
  | none => mgetD s.service.yield_ p (if p % 336 / 16 = 20 then 1 else 0)

/-- One `YieldMap` entry (R383). -/
def yieldEntry (s : State) (p : Nat) : List Byte :=
  if !s.service.mapBuilt then leBytes 2 0 else leBytes 2 (fieldAt 13 (physState s p) + (backedBy s p).getD 0)

/-- Free good spares of a die (R383). -/
def sparesFree (s : State) (d : Nat) : Nat :=
  if !s.service.mapBuilt then 0 else ((List.range 16).filter fun x => physState s (336 * d + 320 + x) = 1).length

/-- `StackStatus` or `SlowTierStatus` of a memory unit (R189). -/
def unitStatus (s : State) (unit : Nat) : Nat :=
  let retired := if unit < 20 then mget s.mem.retired unit else none
  let rt := mget s.mem.retraining unit
  fieldAt 16 (min 255 (mgetD s.mem.rowsRepaired unit 0)) + fieldAt 14 (b2n retired.isSome) + fieldAt 9 (retired.getD 0) +
    fieldAt 8 (b2n rt.isSome) + rt.getD 0

/-- Pages of the present views that are not backed (R157, R184). -/
def unbackedPages (s : State) : List Nat :=
  if s.mem.retired.isEmpty && s.service.stacksOut.isEmpty then []
  else (List.range 1146880).filter fun p => pageOf s.mem (pageDpa p) = some p && !pageBacked s p

/-- Value of an object of 0x3000–0x42FF that is no DOMAIN. -/
def mapValue (s : State) (index sub : Nat) : List Byte :=
  match index, sub with
  | 0x3000, 1 => leBytes 2 (if s.service.mapBuilt then logicalTiles s else 1280)
  | 0x3000, 2 => leBytes 1 (if s.service.mapBuilt then shortClusters s else 0)
  | 0x3000, 3 => leBytes 4 s.service.mapGeneration
  | 0x3004, 1 => leBytes 1 s.service.boardSlot
  | 0x3100, 5 => leBytes 2 (if s.service.mapBuilt then 1280 - logicalTiles s else 0)
  | 0x3100, 6 => leBytes 4 (degradedReasons s)
  | 0x4000, 1 => leBytes 1 s.mem.span
  | 0x4000, 2 => leBytes 8 s.mem.ptBase
  | 0x4000, 3 => leBytes 4 s.mem.ptSize
  | 0x4000, 4 => leBytes 2 s.mem.scrubHours
  | 0x4000, 5 => leBytes 2 s.mem.slowScrubHours
  | 0x4000, 6 => leBytes 1 s.mem.retrainMode
  | 0x4000, 9 => leBytes 4 s.mem.malformed
  | 0x4100, 1 => leBytes 4 16777216
  | 0x4100, 2 => leBytes 2 (s.mem.setGroups.filter fun (e : Nat × W64) => bit e.2.toNat 63).length
  | 0x4100, 3 => leBytes 4 s.mem.dirCorrected
  | 0x4100, 4 => leBytes 4 s.mem.dirUncorrectable
  | 0x4100, 5 => leBytes 4 s.mem.poolUncorrectable
  | 0x4100, 6 => leBytes 8 s.mem.invalidations
  | 0x4200, 1 => leBytes 1 s.globals.orthoDefault
  | 0x4200, 2 => leBytes 2 1024
  | 0x4200, 3 => leBytes 8 s.globals.published
  | 0x3100, k => leBytes 1 (sparesFree s (k - 1))
  | 0x4001, k => leBytes 4 (unitStatus s (k - 1))
  | 0x4002, k => leBytes 4 (unitStatus s (19 + k))
  | 0x4202, k => leBytes 1 (chipState s (k - 1))
  | _, _ => []

/-! ### Values of the links -/

/-- Default `PartnerMask` of a dimension (R270). -/
def partnerMaskOf (s : State) (d : Nat) : Nat := (mgetD s.links.partnerMask d (BitVec.ofNat 32 (fieldAt 16 (2 ^ d) + 2 ^ d))).toNat

/-- `DimensionStatus` (R290): the partner reads 0 at reset, before bring-up gives the module its node ID (log 110). -/
def dimensionStatus (s : State) (d : Nat) : Nat :=
  let ls := readyLinks s d
  fieldAt 16 (ls.foldl (fun n l => n + (linkAt s l).width) 0) + fieldAt 12 ls.length +
    (if s.service.bringUp = 0 then 0 else partnerOf s s.links.nodeId d)

/-- `LinkCounters` (R292). -/
def linkCounters (k : Link) : List Byte :=
  leBytes 8 k.fecCorrected ++ leBytes 8 k.fecUncorrectable ++ leBytes 8 k.crcFailures ++ leBytes 8 k.replays ++
    leBytes 8 k.gateErrors ++ leBytes 8 k.gateBits

/-- `TrafficHold` as it reads (R274): 2 once no packet of the module's own remains. -/
def trafficHoldRead (s : State) : Nat := s.links.trafficHold

/-- Value of an object of 0x5000–0x515F that is no DOMAIN. -/
def linkValue (s : State) (index sub : Nat) : List Byte :=
  match index, sub with
  | 0x5000, 1 => leBytes 2 s.links.nodeIdTraining
  | 0x5000, 2 => leBytes 1 (trafficHoldRead s)
  | 0x5000, 4 => leBytes 4 s.links.gateThreshold.toNat
  | 0x5000, 5 => leBytes 8 s.links.gateDwell
  | 0x5000, 6 => leBytes 2 s.links.encryption.toNat
  | 0x5000, 8 => leBytes 1 s.links.trainAttempts
  | 0x5000, 9 => leBytes 8 s.links.undeliverable
  | 0x5001, k => leBytes 4 (partnerMaskOf s (k - 1))
  | 0x5002, k => leBytes 1 (floorOf s (k - 1))
  | 0x5003, k => leBytes 4 (dimensionStatus s (k - 1))
  | i, 1 => leBytes 1 (linkAt s (i - 0x5100)).dimension
  | i, 2 => leBytes 1 (if (linkAt s (i - 0x5100)).state = 3 then (linkAt s (i - 0x5100)).width else 0)
  | i, 3 => leBytes 1 (linkAt s (i - 0x5100)).state
  | i, 4 => leBytes 4 (linkAt s (i - 0x5100)).partner.toNat
  | i, 5 => linkCounters (linkAt s (i - 0x5100))
  | i, 7 => leBytes 1 (linkAt s (i - 0x5100)).lanesPassed.toNat
  | _, _ => []

/-! ### Values of clearings, host, Heartwood, log and service -/

/-- Pages a tenant holds, ordinary or Pool (R353). -/
def pagesHeld (s : State) (t : Nat) (pool : Bool) : Nat :=
  (s.mem.pageOwner.filter fun (e : Nat × BitVec 16) =>
    let v := (pageEntry s e.1).toNat
    bit v 15 && bit v 14 = pool && bits v 9 0 = t).length

/-- Tiles a tenant holds. -/
def tilesOf (s : State) (t : Nat) : List Nat := (s.tileOwner.filter fun (e : Nat × Nat) => e.2 = t).map Prod.fst

/-- `TileMask` of a tenant, byte by byte. -/
def tileMaskBytes (s : State) (t : Nat) : List Byte :=
  leBytes 160 ((tilesOf s t).foldl (fun n l => n + 2 ^ l) 0)

/-- The scope TENANT(t) is quiesced (R355). -/
def tenantQuiesced (s : State) (t : Nat) : Bool :=
  ((tilesOf s t).all fun l => (tileAt s l).blocks.isEmpty && (tileAt s l).waiting.isEmpty) &&
  !(s.links.inbox.any fun p => p.tenant = t && wantsNotice p) &&
  ((tenantAt s t).queues.all fun (e : Nat × Queue) => !queueInUse s t e.1 || e.2.tail = e.2.completed) &&
  [0, 1, 2, 3].all fun p => setIdle s t p

/-- Watch entries of a tenant in use (R146). -/
def watchUsed (s : State) (t : Nat) : Nat := (tenantAt s t).watch.entries.length

/-- A clearing record's value (R353). -/
def clearingValue (s : State) (t sub : Nat) : List Byte :=
  let x := tenantAt s t
  match sub with
  | 1 => boolByte x.clearingHold
  | 2 => boolByte (tenantQuiesced s t)
  | 3 => tileMaskBytes s t
  | 4 => leBytes 8 x.ptRoot
  | 5 => leBytes 1 x.queueMask.toNat
  | 6 => leBytes 4 x.watch.quota
  | 7 => leBytes 4 x.exclusive.toNat
  | 8 => leBytes 4 x.shortfall.toNat
  | 9 => leBytes 2 (tilesOf s t).length
  | 10 => leBytes 4 (pagesHeld s t false)
  | _ => leBytes 4 (pagesHeld s t true)

/-- `FirmwareSlots` of an image (R384). -/
def firmwareValue (s : State) (i : Nat) : List Byte :=
  match mget s.service.firmware i with
  | some x =>
    leBytes 8 (fieldAt 48 x.lastResult + fieldAt 32 x.b.version + fieldAt 16 x.a.version + fieldAt 5 (b2n x.deferred) +
      fieldAt 4 (b2n x.pending) + fieldAt 3 (b2n x.b.valid) + fieldAt 2 (b2n x.a.valid) + b2n x.activeB)
  | none => leBytes 8 0

/-- Leaves of the general pool and of the certificate reserve (R404, R405). -/
def lmsPool : Nat := 33521664
/-- Leaves of the device tree. -/
def lmsLeaves : Nat := 33554432

/-- The higher valid reservation (R405). -/
def reservedTo (h : HeartwoodState) : Nat :=
  max (if h.recordA.valid then h.recordA.reservedTo else 0) (if h.recordB.valid then h.recordB.reservedTo else 0)

/-- Frozen masters of every tenant. -/
def frozenTotal (s : State) : Nat := s.tenants.foldl (fun n (e : Nat × Tenant) => n + e.2.freezes.length) 0

/-- Anti-rollback counter of an image (R396). -/
def rollbackOf (s : State) (i : Nat) : Nat := mgetD s.heartwood.rollback i 0

/-- Pinned records. -/
def pinnedCount (s : State) : Nat := (s.log.ring.filter fun (e : Nat × LogRecord) => e.2.pinned).length

/-- Value of an object of 0x6000–0xA0FF that is no DOMAIN. -/
def serviceValue (s : State) (index sub : Nat) : List Byte :=
  match index, sub with
  | 0x6400, 3 => leBytes 4 (frozenTotal s)
  | 0x6400, 4 => leBytes 4 s.globals.reseedPending.length
  | 0x7000, 1 => leBytes 1 s.host.linkWidth
  | 0x7000, 2 => leBytes 1 s.host.linkRate
  | 0x7000, 3 => leBytes 8 s.host.queueArea
  | 0x7000, 4 => leBytes 8 s.host.hdmRefused
  | 0x7000, 6 => leBytes 4 s.host.bias.length
  | 0x7000, 7 => leBytes 2 s.host.numVfs
  | 0x8000, 1 => leBytes 1 s.heartwood.state
  | 0x8000, 2 => leBytes 4 s.heartwood.selfTests.toNat
  | 0x8000, 3 => leBytes 4 s.heartwood.entropyFailures
  | 0x8000, 5 => leBytes 4 s.heartwood.next
  | 0x8000, 6 => leBytes 4 (lmsPool - reservedTo s.heartwood)
  | 0x8000, 7 => leBytes 2 (min 65535 (lmsLeaves - max lmsPool (reservedTo s.heartwood)))
  | 0x8000, 8 => leBytes 4 s.heartwood.minIntervalMs
  | 0x8000, 11 => (List.range 6).flatMap fun i => leBytes 1 (rollbackOf s (i + 1))
  | 0x8000, 13 => leBytes 1 s.heartwood.revoked.toNat
  | 0x9000, 1 => leBytes 4 s.log.writeNumber
  | 0x9000, 2 => leBytes 4 s.log.readNumber
  | 0x9000, 3 => leBytes 4 s.log.lost
  | 0x9000, 4 => leBytes 1 (pinnedCount s)
  | 0x9000, 6 => leBytes 4 s.log.droppedReports
  | 0xA000, 1 => leBytes 1 s.service.bringUp
  | 0xA000, 2 => leBytes 1 s.service.fault
  | 0xA000, 3 => (List.range 8).flatMap fun i => leBytes 8 (mgetD s.service.times (i + 1) 0)
  | 0xA000, 4 => leBytes 1 s.service.activeLodge
  | 0xA003, 2 => leBytes 4 (fieldAt 24 s.service.job.kind + fieldAt 16 s.service.job.phase + fieldAt 8 s.service.job.reason)
  | 0xA003, 3 => leBytes 4 s.service.job.progress
  | 0xA001, k => firmwareValue s k
  | 0xA005, k => leBytes 1 (cartridgeAt s (k - 1))
  | i, k => if 0x6000 ≤ i && i < 0x6400 then clearingValue s (i - 0x6000) k else []

/-! ### Values of the tenant scope -/

/-- A queue's value (R323). -/
def queueValue (s : State) (t q sub : Nat) : List Byte :=
  let x := queueAt s t q
  match sub with
  | 1 => leBytes 2 x.entries
  | 2 => leBytes 1 x.mirrorWindow
  | 3 => leBytes 8 x.mirrorOffset
  | 4 => leBytes 1 (queueState s t q)
  | 5 => leBytes 8 x.tail
  | 6 => leBytes 8 x.head
  | 7 => leBytes 8 x.completed
  | 8 => leBytes 8 x.readPtr
  | _ => leBytes 4 x.dropped

/-- `PoisonState` of a set (R146). -/
def poisonState (s : State) (t p : Nat) : Nat :=
  let x := setAt s t p
  if x.contributed then 2 else if x.poisoned then 1 else 0

/-- A parameter set's value (R253, R146, R218). -/
def setValue (s : State) (t index p : Nat) : List Byte :=
  let x := setAt s t p
  let w := (tenantAt s t).watch
  match index with
  | 0xC100 => leBytes 1 x.mode
  | 0xC101 => leBytes 8 x.generation
  | 0xC102 => leBytes 8 x.attempts
  | 0xC103 => leBytes 8 x.skips
  | 0xC104 => leBytes 1 (setStateRead s t p)
  | 0xC105 => leBytes 8 x.genBlock
  | 0xC106 => leBytes 8 x.attBlock
  | 0xC107 => leBytes 8 x.ruleTable
  | 0xC109 => leBytes 2 x.voteDims.toNat
  | 0xC10A => leBytes 4 x.voteExpected
  | 0xC10C => leBytes 8 x.imageAddr
  | 0xC10D => leBytes 32 x.arrivals.toNat
  | 0xC10E => leBytes 4 x.watchdog
  | 0xC10F => leBytes 4 x.undoShortfalls
  | 0xC110 => leBytes 8 x.importGen
  | 0xC203 => leBytes 8 (mgetD w.scalePage p 0)
  | 0xC204 => leBytes 8 (mgetD w.lossPair p 0).toNat
  | 0xC205 => leBytes 1 (poisonState s t p)
  | 0xC403 => leBytes 8 (runAt s t p).settled
  | _ => []

/-- Value of a tenant-scoped object that is no DOMAIN. -/
def tenantValue (s : State) (t index sub : Nat) : List Byte :=
  let x := tenantAt s t
  match index, sub with
  | 0xC200, 1 => leBytes 4 x.watch.quota
  | 0xC200, 2 => leBytes 4 (watchUsed s t)
  | 0xC206, 1 => leBytes 4 x.watch.unattributed.elements ++ leBytes 4 x.watch.unattributed.zeros ++
      leBytes 4 x.watch.unattributed.sats ++ leBytes 4 x.watch.unattributed.nonfinite
  | 0xC206, 2 => leBytes 4 x.watch.lateLoss
  | 0xC206, 3 => leBytes 4 x.watch.refusedStores
  | 0xC206, 4 => leBytes 8 x.watch.mirror
  | 0xC206, 5 => leBytes 4 x.watch.scaleFailures
  | 0xC206, 6 => leBytes 4 x.watch.unattributedCompares
  | 0xC300, 1 => leBytes 4 x.freezes.length
  | 0xC300, 3 => leBytes 4 x.inspect.toNat
  | 0xC300, 4 => leBytes 4 x.nFreezes ++ leBytes 4 x.nUncorrectable ++ leBytes 4 x.nDiscarded ++ leBytes 4 x.nResumed
  | 0xC303, 2 => leBytes 4 x.logNumber
  | 0xC303, 3 => leBytes 4 x.logRead
  | 0xC303, 4 => leBytes 4 x.logLost
  | _, _ => if index < 0xC008 then queueValue s t (index - 0xC000) sub else setValue s t index (sub - 1)

/-- Value of an object that is no DOMAIN, little-endian (R5, R325). -/
def objectValue (s : State) (t index sub : Nat) : List Byte :=
  if sub = 0 then leBytes 1 ((subsOf index).getLastD 0)
  else if index < 0x3000 then lowValue s index sub
  else if index < 0x5000 then mapValue s index sub
  else if index < 0x6000 then linkValue s index sub
  else if index < 0xC000 then serviceValue s index sub
  else tenantValue s t index sub

/-! ### DOMAIN objects -/

/-- One freeze record (R365). -/
def freezeBytes (r : FreezeRec) : List Byte :=
  leBytes 32 (fieldAt 192 (r.address % 2 ^ 64) + fieldAt 160 (r.pc % 2 ^ 32) + fieldAt 128 r.blockId.toNat +
    fieldAt 96 r.live.toNat + fieldAt 64 r.parked.toNat + fieldAt 32 r.master.toNat + fieldAt 16 (r.seq % 2 ^ 16) +
    fieldAt 8 r.cause + b2n (causeResumable r.cause r.master))

/-- A log record as it reads, under a record number (R369, R371). -/
def logBytes (r : LogRecord) (no : Nat) : List Byte :=
  leBytes 32 (fieldAt 192 r.report.stamp.toNat + fieldAt 160 (r.report.seq % 2 ^ 32) + fieldAt 128 r.repeats +
    fieldAt 96 r.report.detail.toNat + fieldAt 64 r.report.source.toNat + fieldAt 54 (r.report.tenant.getD 0) +
    fieldAt 53 (b2n r.report.tenant.isSome) + fieldAt 40 r.report.cause + fieldAt 36 r.report.cls +
    fieldAt 33 (b2n r.pinned) + fieldAt 32 (b2n r.open_) + no % 2 ^ 32)

/-- A tenant's records in the ring, in order of writing (R371). -/
def tenantRecords (s : State) (t : Nat) : List LogRecord :=
  let rs := s.log.ring.filterMap fun (e : Nat × LogRecord) =>
    if e.2.report.tenant = some t && e.2.recordNo ≥ (tenantAt s t).logFrom then some e.2 else none
  rs.mergeSort fun a b => a.recordNo ≤ b.recordNo

/-- Every error source of the module, ascending (R367, R368). -/
def sourceList : List Nat :=
  let path (level number unit index : Nat) : Nat := (sourcePath level number unit index).toNat
  ((List.range 1280).flatMap fun l => (List.range 4).map fun u => path 0 l u 0) ++
  ((List.range 80).map fun c => path 1 c 0 0) ++
  ((List.range 20).flatMap fun r => ((List.range 32).map fun ch => path 2 r 1 ch) ++ [path 2 r 2 0, path 2 r 3 0, path 2 r 4 0]) ++
  ((List.range 4).flatMap fun d =>
    [path 3 d 1 0, path 3 d 2 0] ++ ((List.range 8).map fun k => path 3 d 3 k) ++ [path 3 d 4 0]) ++
  ((List.range 96).map fun l => path 4 0 1 l) ++ [path 4 0 2 0, path 4 0 3 0, path 4 0 4 0, path 4 0 5 0, path 4 0 6 0] ++
  ((List.range 7).map fun k => path 4 0 7 k) ++ ((List.range 7).map fun k => path 4 0 8 k) ++ [path 4 0 9 0]

/-- One `SourceCounters` entry (R368). -/
def sourceEntry (s : State) (path : Nat) : List Byte :=
  let c := (mget s.log.counters path).getD { corrected := 0, uncorrectable := 0, events := 0 }
  leBytes 4 path ++ leBytes 4 c.corrected ++ leBytes 4 c.uncorrectable ++ leBytes 4 c.events

/-- Predicates of a group's thread, p0 to p6 (R366). -/
def predByte (g : Group) (lane : Nat) : Nat :=
  (List.range 7).foldl (fun n k => n + fieldAt k (b2n ((mgetD g.preds k 0).getLsbD lane))) 0

/-- `FrozenState` of a group (R366). -/
def groupState (g : Group) (regs : Nat) : List Byte :=
  ((List.range 64).flatMap fun i => leBytes 4 (mgetD g.uregs i 0).toNat) ++
  ((List.range 32).flatMap fun i => leBytes 1 (predByte g i)) ++ List.replicate 32 0 ++
  (List.range (32 * regs)).flatMap fun k => leBytes 4 (mgetD g.regs k 0).toNat

/-- Progress of a stream (R366): bytes written, index reached, packets acknowledged. -/
def streamProgress (st : Stream) : Nat :=
  match st.kind with
  | .copy => st.moved + st.wrote
  | .gather => st.next
  | .exchange => st.written.length

/-- `FrozenState` (R366): nothing while `InspectMaster` names no frozen master of the tenant. -/
def frozenState (s : State) (t : Nat) : List Byte :=
  let m := (tenantAt s t).inspect
  match (tenantAt s t).freezes.find? fun r => r.master = m with
  | none => []
  | some r =>
    let tile := tileAt s (masterTile m)
    match masterKind m with
    | 1 =>
      (match (mget tile.blocks (masterSlot m)).bind fun b => (b.groups[masterIndex m]?).map fun g => (b, g) with
       | some (b, g) => groupState g b.launch.params.regs
       | none => [])
    | 2 =>
      (match mget tile.blocks (masterSlot m) with
       | some b => (List.range 16).flatMap fun i =>
           match b.groups[i]? with
           | some g => leBytes 4 g.live.toNat ++ leBytes 4 g.parkedMask.toNat
           | none => leBytes 8 0
       | none => [])
    | 6 => sized 64 r.desc
    | 7 =>
      (match r.layer with
       | some k => leBytes 4 k ++ sized 128 r.desc
       | none => leBytes 4 0xFFFFFFFF ++ List.replicate 128 0)
    | _ =>
      (match mget tile.streams (masterIndex m) with
       | some st => sized 64 r.desc ++ leBytes 8 (streamProgress st)
       | none => sized 64 r.desc ++ leBytes 8 0)

/-- `ClearingView` (R373). -/
def clearingView (s : State) (t : Nat) : List Byte :=
  let x := tenantAt s t
  tileMaskBytes s t ++ leBytes 160 ((tilesOf s t).foldl (fun n l => n + personalityOf s l % 2 * 2 ^ l) 0) ++
    leBytes 4 x.queueMask.toNat ++ leBytes 4 x.watch.quota ++ leBytes 4 x.shortfall.toNat ++ leBytes 4 x.exclusive.toNat

/-- One `PoolClasses` entry (R218). -/
def poolClassEntry (s : State) (t i : Nat) : List Byte :=
  let gs := classGroups s t (i % 4) (i / 4)
  let code := match gs with
    | g :: _ => bits (setGroup s g) 39 36
    | [] => 0
  leBytes 4 (fieldAt 4 gs.length + code)

/-- One `GatherStatistics` record (R219). -/
def statsEntry (s : State) (t table : Nat) : List Byte :=
  (List.range 8).flatMap fun i => leBytes 8 ((statsAt s t table).getD i 0)

/-- A watch entry as it reads: a free one is all zero (R126). -/
def watchEntryBytes (s : State) (t i : Nat) : List Byte :=
  match mget (tenantAt s t).watch.entries i with
  | some e => e.bytes
  | none => leBytes 64 0

/-- Byte `i` of the host access map (R300). -/
def accessByte (s : State) (i : Nat) : List Byte :=
  leBytes 1 ((List.range 8).foldl (fun n k => n + fieldAt k (b2n (s.host.access.contains (8 * i + k)))) 0)

/-- One of the vendor's public keys (R411). -/
def vendorKeyEntry (k : Nat) : List Byte := (Config.vendorKeys k ++ List.replicate 160 0).take 157 ++ leBytes 3 0

/-- Entries of a list of equal entries, as a DOMAIN. -/
def listDomain (es : List (List Byte)) : Nat × Nat × (Nat → List Byte) :=
  let n := ((es.head?).map List.length).getD 1
  (n * es.length, n, fun i => es.getD i [])

/-- Bytes as a DOMAIN of byte entries. -/
def bytesDomain (bs : List Byte) : Nat × Nat × (Nat → List Byte) := (bs.length, 1, fun i => (bs.drop i).take 1)

/-- A DOMAIN of the module scope: its size, the size of an entry, and its entries. -/
def moduleDomain (s : State) (index sub : Nat) : Nat × Nat × (Nat → List Byte) :=
  match index, sub with
  | 0x1001, _ => bytesDomain (moduleChain s)
  | 0x1021, _ => (512, 32, sessionEntry s)
  | 0x1022, _ => (512, 64, fun i => readBytes s.dict.anchors (64 * i) 64)
  | 0x2001, _ => (384, 8, fun i => leBytes 8 (mgetD s.power.blocks i 0).toNat)
  | 0x2002, _ => (5924, 4, islandEntry s)
  | 0x2101, _ => (5120, 4, occupancyEntry s)
  | 0x2200, _ => (1280, 1, fun i => leBytes 1 (personalityOf s i))
  | 0x2201, _ => (20480, 16, arrayEntry s)
  | 0x3001, _ => (5120, 4, tileMapEntry s)
  | 0x3002, _ => (160, 2, clusterEntry s)
  | 0x3003, _ => (80, 4, regionEntry s)
  | 0x3101, _ => (2688, 2, yieldEntry s)
  | 0x4003, _ => listDomain ((unbackedPages s).map fun p => leBytes 4 (pageDpa p / 2 ^ 21))
  | 0x4101, _ => (32768, 8, fun i => leBytes 8 (mgetD s.mem.setGroups i 0).toNat)
  | 0x4201, _ => (32768, 8, fun i => leBytes 8 (mgetD s.globals.layerSlots i 0).toNat)
  | 0x5080, _ => (16384, 4, fun i => leBytes 4 (routeEntry s i))
  | 0x5081, _ => (4096, 4, fun i => leBytes 4 (tenantAt s i).exchangeKey.toNat)
  | 0x6400, _ => (2293760, 2, fun i => leBytes 2 (pageEntry s i).toNat)
  | 0x7001, _ => (65536, 16, fun i => leBytes 16 (mgetD s.host.windows i 0).toNat)
  | 0x7002, _ => (71680, 1, accessByte s)
  | 0x8001, _ => bytesDomain s.heartwood.report
  | 0x8002, 1 => (15708, 1, fun i => ((moduleChainLms s ++ List.replicate 15708 0).drop i).take 1)
  | 0x8002, _ => (640, 160, vendorKeyEntry)
  | 0x9001, _ => (131072, 32, fun i =>
      match mget s.log.ring i with
      | some r => logBytes r r.recordNo
      | none => leBytes 32 0)
  | 0x9002, _ => (16 * sourceList.length, 16, fun i => sourceEntry s (sourceList.getD i 0))
  | 0xA002, _ => (16777216, 1, fun i => [mgetD s.service.staging i 0])
  | _, _ => bytesDomain []

/-- A DOMAIN of the tenant scope. -/
def tenantDomain (s : State) (t index sub : Nat) : Nat × Nat × (Nat → List Byte) :=
  match index with
  | 0xC108 => (16384, 4, fun i => leBytes 4 (mgetD (setAt s t (sub - 1)).layerMap i 0).toNat)
  | 0xC201 => (64 * (tenantAt s t).watch.quota, 64, watchEntryBytes s t)
  | 0xC202 => (8 * (tenantAt s t).watch.quota, 8, fun i => leBytes 8 (mgetD (tenantAt s t).watch.setup i 0).toNat)
  | 0xC301 => listDomain ((tenantAt s t).freezes.map freezeBytes)
  | 0xC302 => bytesDomain (frozenState s t)
  | 0xC303 => listDomain ((tenantRecords s t).map fun r => logBytes r r.ordinal)
  | 0xC304 => bytesDomain (clearingView s t)
  | 0xC400 => (64, 4, poolClassEntry s t)
  | 0xC401 => (8192, 32, fun i => (tableDesc s t i).take 32)
  | 0xC402 => (16384, 64, statsEntry s t)
  | _ => bytesDomain []

/-- A DOMAIN object as it stands. -/
def domainOf (s : State) (t index sub : Nat) : Nat × Nat × (Nat → List Byte) :=
  if tenantIndex index then tenantDomain s t index sub else moduleDomain s index sub

/-- Entries a range touches. -/
def entriesTouched (es off n : Nat) : List Nat :=
  if n = 0 then [] else (List.range ((off + n - 1) / es + 1 - off / es)).map fun i => off / es + i

/-- Bytes of a DOMAIN from `off`, ending early at its end, as of one moment (R336). -/
def domainBytes (d : Nat × Nat × (Nat → List Byte)) (off n : Nat) : List Byte :=
  let k := min n (d.1 - off)
  (((entriesTouched d.2.1 off k).flatMap d.2.2).drop (off % d.2.1)).take k

/-- An entry as a write of a range would leave it (R336). -/
def entryAfter (d : Nat × Nat × (Nat → List Byte)) (off : Nat) (bs : List Byte) (i : Nat) : List Byte :=
  let es := d.2.1
  let old := d.2.2 i
  (List.range es).map fun j =>
    let a := i * es + j
    if off ≤ a && a < off + bs.length then bs.getD (a - off) 0 else old.getD j 0

/-- The entries a write touches, as it would leave them: (entry, value). -/
def newEntries (d : Nat × Nat × (Nat → List Byte)) (off : Nat) (bs : List Byte) : List (Nat × Nat) :=
  (entriesTouched d.2.1 off bs.length).map fun i => (i, leNat (entryAfter d off bs i))

end Sys2Proof.Machine
end

