-- ==== Sys2Proof/Machine/Release.lean ====
section
/-!
DEFINITION. Releasing frozen masters: discard and resume of each kind (R64, R169, R198, R280, R321, R363, R364), and
the work a tile loses when it is reset or withdrawn (R358, R364, R381).
-/

namespace Sys2Proof.Machine

/-! ### Discard and resume (R363) -/

/-- Remove a master's freeze record. -/
def State.unfreeze (s : State) (t : Nat) (m : W32) : State :=
  s.updTenant t fun x => { x with freezes := x.freezes.filter fun r => r.master ≠ m }

/-- A group as its discard leaves it: no live thread, its registers free (R64). -/
def discardGroupOf (g : Group) : Group := { g with live := 0 }.settle

/-- Discard a group of a block: stores it still had to perform again go with it (R64). -/
def State.discardGroup (s : State) (l slot gi cause : Nat) : State :=
  let t := tileAt s l
  match mget t.blocks slot with
  | some b =>
    let b1 := b.setGroup gi (discardGroupOf (b.groups.getD gi {}))
    let b2 := { b1 with discard := if b.discard.isSome then b.discard else some cause }.tryRelease
    s.setTile l { t with blocks := mset t.blocks slot b2,
                         accesses := t.accesses.filter fun a => !(a.slot = slot && a.group = gi && a.frozen) }
  | none => s

/-- Discard a block: every group that has not ended, with the records of each (R64, R364). -/
def State.discardBlock (s : State) (t l slot cause : Nat) : State :=
  match mget (tileAt s l).blocks slot with
  | some b =>
    (List.range b.groups.length).foldl (fun s gi =>
      if (b.groups.getD gi {}).ended then s else (s.discardGroup l slot gi cause).unfreeze t (groupMaster l slot gi)) s
  | none => s

/-- Discard a stream: its tag retires, and its block's LAUNCH shows the discard (R169, R198, R280, R315). -/
def State.discardStream (s : State) (l tag cause : Nat) : State :=
  match streamAt s l tag with
  | some st =>
    let s1 := ((s.dropReads l tag).orphan l tag).retireTag l tag
    let t := tileAt s1 l
    match mget t.blocks st.slot with
    | some b =>
      s1.setTile l { t with blocks := mset t.blocks st.slot { b with discard := if b.discard.isSome then b.discard else some cause } }
    | none => s1
  | none => s

/-- The transfers under way but that of a descriptor of the present use. -/
def Queue.dropRunning (x : Queue) (seq : Nat) : List (Nat × Nat × List Byte) :=
  x.running.filter fun e => !(e.1 = x.epoch && e.2.1 = seq)

/-- Discard a queue: the descriptor at which it froze completes with the record it has, every accepted one
that has not started with status 4 (R321; log 28). -/
def State.discardQueue (s : State) (t q seq : Nat) : State :=
  let x := queueAt s t q
  let s1 := if seq = 0 then s else s.updQueue t q fun y => { y.finish seq with running := y.dropRunning seq }
  let s2 := (List.range (x.tail - x.head)).foldl (fun s i =>
    if x.head + 1 + i = seq then s else s.completeDesc t q (x.head + 1 + i) x.epoch 4 0 0 0) s1
  let s3 := (x.reread.filter (· ≠ seq)).foldl (fun s n => s.completeDesc t q n x.epoch 4 0 0 0) s2
  s3.updQueue t q fun y => { y with head := max y.head y.tail, reread := [] }

/-- Resume a queue: it rereads the descriptor at which it froze (R321). -/
def State.resumeQueue (s : State) (t q seq : Nat) : State :=
  s.updQueue t q fun y =>
    if seq ≠ 0 && seq ≤ y.head then { y with reread := ninsert y.reread seq, running := y.dropRunning seq } else y

/-- The module contributes, not clean, to the attempt of a released job that is still open (R246, R363; log 46). -/
def State.endFrozenAttempt (s : State) (t p : Nat) : State :=
  if (setAt s t p).state = 1 && !contributionWaits s t p then s.contribute t p else s

/-- A set asks for no attempt any more. -/
def State.leaveOpens (s : State) (t p : Nat) : State :=
  s.updGlobals fun g => { g with openQueue := g.openQueue.filter fun e => e ≠ (t, p) }

/-- Release a set's job: paused, or unrecoverable after a discard for uncorrectable data, as a set stays until an import
completes (R363, R253). An attempt whose rounds still run ends under R241 and R245 behind that state. -/
def State.releaseJob (s : State) (t p cause : Nat) (discard : Bool) : State :=
  let lost : Bool := discard && cause = 0x22
  let s1 := (((s.endFrozenAttempt t p).unfreeze t (jobMaster p)).leaveOpens t p)
  let st := (setAt s1 t p).state
  let v := if lost || st = 8 then 8 else 5
  let s2 := if lost then s1.updSet t p fun x => { x with mode := 0 } else s1
  if 1 ≤ st && st ≤ 3 then s2.updRun t p fun r => { r with releasedTo := some v }
  else s2.updSet t p fun x => { x with state := v, jobFroze := false }

/-- A resumed group performs the stores that faulted again, each translated afresh (R363). -/
def State.retryStores (s : State) (t l slot gi : Nat) : State :=
  let as := (tileAt s l).accesses.filter fun a => a.slot = slot && a.group = gi && a.frozen
  (as.foldl (fun s a =>
    match s.translate (regionOf l) t a.va .w with
    | (s1, .ok b) =>
      s1.setTile l { tileAt s1 l with accesses := (tileAt s1 l).accesses.map fun x =>
        if x.serial = a.serial then { x with target := b, frozen := false, sent := false } else x }
    | (s1, .wait) => s1
    | (s1, .fail c) => faultAccess s1 l t a c) s).pump l t

/-- Resume a stream from its faulting request, index or packet (R169, R198, R280). -/
def State.resumeStream (s : State) (l tag : Nat) : State :=
  match streamAt s l tag with
  | some st =>
    if st.kind = .gather then s.setStream l tag { st with next := restartAt st st.next } else s
  | none => s

/-- Resume a block: its watchdog starts again at zero (R363). -/
def State.resumeBlock (s : State) (l slot : Nat) : State :=
  let t := tileAt s l
  match mget t.blocks slot with
  | some b => s.setTile l { t with blocks := mset t.blocks slot { b with watchCount := 0 } }
  | none => s

/-- Release one frozen master (R363); none where it is not frozen or may not be resumed. -/
def State.releaseOne (s : State) (t : Nat) (m : W32) (discard : Bool) : Option State :=
  match (tenantAt s t).freezes.find? fun r => r.master = m with
  | none => none
  | some r =>
    if !discard && !causeResumable r.cause m then none
    else
      let l := masterTile m
      let slot := masterSlot m
      let i := masterIndex m
      let s0 := s.updTenant t fun x =>
        if discard then { x with nDiscarded := satAdd 32 x.nDiscarded 1 } else { x with nResumed := satAdd 32 x.nResumed 1 }
      let s1 := s0.unfreeze t m
      some <|
        match masterKind m with
        | 1 => if discard then s1.discardGroup l slot i r.cause else s1.retryStores t l slot i
        | 2 => if discard then s1.discardBlock t l slot r.cause else s1.resumeBlock l slot
        | 6 => if discard then s1.discardQueue t i r.address else s1.resumeQueue t i r.address
        | 7 => s0.releaseJob t i r.cause discard
        | _ => if discard then s1.discardStream l i r.cause else s1.resumeStream l i

/-- Release every frozen master of a tenant; a resume that R362 forbids is skipped (R363, R372). -/
def State.releaseAll (s : State) (t : Nat) (discard : Bool) : State :=
  (tenantAt s t).freezes.foldl (fun s r => (s.releaseOne t r.master discard).getD s) s

/-! ### A tile that loses its work (R358, R364, R381) -/

/-- Requests of a tile over the links no longer have a holder. -/
def State.orphanTile (s : State) (l : Nat) : State :=
  let release (w : Requester) : Requester :=
    match w with
    | .access a _ => if a = l then .none else w
    | .gatherRow a _ _ (some k) => if a = l then .poolFill k (regionOf l) else w
    | .gatherRow a _ _ none => if a = l then .gatherGone (regionOf l) else w
    | .copyRead a _ _ | .copyWrite a _ _ | .exchangePart a _ _ | .exchangeFlag a _ => if a = l then .none else w
    | _ => w
  s.updLinks fun x => { x with requests := x.requests.map fun (e : Nat × Request) => (e.1, { e.2 with who := release e.2.who }) }

/-- Freeze records of masters on a tile are removed without release (R364). -/
def State.forgetMasters (s : State) (t l : Nat) : State :=
  s.updTenant t fun x =>
    { x with freezes := x.freezes.filter fun r => !(1 ≤ masterKind r.master && masterKind r.master ≤ 5 && masterTile r.master = l) }

/-- Copies of a cluster lose the part they multicast into a tile that is reset (R167, R381). -/
def State.loseMulticast (s : State) (l : Nat) : State :=
  { s with tiles := s.tiles.map fun (e : Nat × Tile) =>
      if clusterOf e.1 = clusterOf l then
        (e.1, { e.2 with streams := e.2.streams.map fun (x : Nat × Stream) =>
          if x.2.kind = .copy then (x.1, { x.2 with multicastLost := ninsert x.2.multicastLost l }) else x })
      else e }

/-- Every block of a tile ends with status 2, its streams and frozen masters with it (R315, R364, R381); its census is
kept unattributed (R131). -/
def State.endTileWork (s : State) (l : Nat) : State :=
  let tile := tileAt s l
  let s1 := tile.streams.foldl (fun s (e : Nat × Stream) => s.dropReads l e.1) s
  let s2 := match ownerOf s l with
    | some t => s1.forgetMasters t l
    | none => s1
  let s3 := (s2.orphanTile l).setTile l { tileAt s2 l with blocks := [], streams := [], accesses := [], ops := [] }
  tile.blocks.foldl (fun s (e : Nat × Block) =>
    let la := e.2.launch
    (if e.2.census.isEmpty then s else s.unattribute la.tenant e.2.census).completeDesc la.tenant la.queue la.seq la.epoch 2 0 l 0) s3

/-! ### Scrubbing and owners (R117, R357) -/

/-- Heartwood gives random bits (R117, R408). -/
def entropyOk (s : State) : Bool := s.heartwood.state = 1

/-- Reseed a tile's generators (R117). -/
def State.reseedTile (s : State) (l : Nat) : State :=
  let n := s.globals.reseeds + 1
  (s.setTile l { tileAt s l with gens := seedsOf l n }).updGlobals fun g => { g with reseeds := satAdd 64 g.reseeds 1 }

/-- Scrub a tile, steps 1 to 6 (R357): the reseed waits while Heartwood gives no random bits. What waits to
launch, the island's count, a reload under way and the number of the next operation stay. -/
def State.scrubTile (s : State) (l : Nat) : State :=
  let t := tileAt s l
  let s1 := s.setTile l { cycle := t.cycle, gens := t.gens, waiting := t.waiting, reloading := t.reloading, serial := t.serial }
  if entropyOk s then s1.reseedTile l
  else s1.updGlobals fun g => { g with reseedPending := ninsert g.reseedPending l }

/-- A change of owner that the reseed holds is counted (R119). -/
def State.countWait (s : State) : State :=
  if entropyOk s then s else s.updGlobals fun g => { g with reseedWaits := satAdd 32 g.reseedWaits 1 }

/-- Give a tile to a tenant or to none (R357): while the reseed waits the tile belongs to no one (R117). -/
def State.giveTile (s : State) (l : Nat) (new : Option Nat) : State :=
  let s1 := { (s.scrubTile l).countWait with tileOwner := merase s.tileOwner l }
  match new with
  | none => s1.updGlobals fun g => { g with heldOwner := merase g.heldOwner l }
  | some t =>
    if entropyOk s then { s1 with tileOwner := mset s1.tileOwner l t }
    else s1.updGlobals fun g => { g with heldOwner := mset g.heldOwner l t }

/-- Every tile that waited for random bits is reseeded and passes to its tenant (R117). -/
def State.reseedWaiting (s : State) : State :=
  let ls := s.globals.reseedPending
  let s1 := ls.foldl (fun s l =>
    let s1 := s.reseedTile l
    match mget s1.globals.heldOwner l with
    | some t => { s1 with tileOwner := mset s1.tileOwner l t }
    | none => s1) s
  (s1.updGlobals fun g => { g with reseedPending := [], heldOwner := [] }).settleAcks

end Sys2Proof.Machine
end

