-- ==== Sys2Proof/Machine/Clearings.lean ====
section
/-!
DEFINITION. Clearings: what a write of the clearing's objects does (R8, R145, R192, R203, R204, R222, R303,
R352–R359), and what the module withdraws from a clearing (R358, R364).
-/

namespace Sys2Proof.Machine

/-! ### What a write does -/

/-- What a write that passed the checks before its value does (R327, R334): in force; refused for one of the
reasons R334 names, alone or with what the attempt left (`failed`, R406); in force with its acknowledgement deferred; or acknowledged first, and then in force. -/
inductive Written where
  | ok (s : State)
  | refused
  | notQuiesced
  | unavailable
  | busy
  | notPermitted
  | failed (s : State)
  | wait (s : State) (k : AckKind)
  | early (f : State → State)

/-! ### A new clearing (R8) -/

/-- A set group's entry is the tenant's (R202). -/
def groupIsOf (e t : Nat) : Bool := bit e 63 && bits e 55 46 = t
/-- A layer slot's entry is the tenant's (R222). -/
def slotIsOf (e t : Nat) : Bool := bit e 63 && bits e 62 53 = t

/-- Tiles a tenant holds, with those that wait for their reseed (R117). -/
def tilesGiven (s : State) (t : Nat) : List Nat :=
  tilesOf s t ++ (s.globals.heldOwner.filter fun (e : Nat × Nat) => e.2 = t).map Prod.fst

/-- The tenant holds a resource of R352. -/
def holdsResource (s : State) (t : Nat) : Bool :=
  !(tilesGiven s t).isEmpty || pagesHeld s t false ≠ 0 || pagesHeld s t true ≠ 0 || (tenantAt s t).watch.quota ≠ 0 ||
    (tenantAt s t).queueMask ≠ 0 || (s.mem.setGroups.any fun (e : Nat × W64) => groupIsOf e.2.toNat t) ||
    (s.globals.layerSlots.any fun (e : Nat × W64) => slotIsOf e.2.toNat t) ||
    [0, 1, 2, 3].any fun w => windowSize (hostWindow s t w) ≠ 0

/-- Drop the directory entries of a tenant whose table satisfies a test. -/
def State.dropTables (s : State) (t : Nat) (p : Nat → Bool) : State :=
  (s.mem.dir.filter fun (e : Nat × Way) => e.2.tenant = t && p e.2.table).foldl (fun s (e : Nat × Way) => s.dropWay e.1) s

/-- Every tenant-scoped object of the tenant takes its default (R8); work of its queues' earlier use leaves no
record (R320). -/
def State.enterClearing (s : State) (t : Nat) : State :=
  let s1 := s.updTenant t fun x =>
    { clearingHold := x.clearingHold, ptRoot := x.ptRoot, queueMask := x.queueMask, exclusive := x.exclusive,
      shortfall := x.shortfall, exchangeKey := x.exchangeKey, logFrom := s.log.writeNumber,
      watch := { quota := x.watch.quota },
      queues := x.queues.map fun (e : Nat × Queue) => (e.1, { epoch := e.2.epoch + 1 }) }
  (s1.dropTables t fun _ => true).updGlobals fun g => { g with openQueue := g.openQueue.filter fun e => e.1 ≠ t }

/-- After a write, each tenant that went from no resource to at least one starts a new clearing (R8). -/
def State.newClearings (s old : State) (ts : List Nat) : State :=
  ts.foldl (fun s t => if !holdsResource old t && holdsResource s t then s.enterClearing t else s) s

/-- Clear bits of `Shortfall` (R358). -/
def State.clearShortfall (s : State) (t : Nat) (mask : W32) : State :=
  s.updTenant t fun x => { x with shortfall := x.shortfall &&& ~~~mask }
/-- Set a bit of `Shortfall`. -/
def State.setShortfall (s : State) (t bitNo : Nat) : State :=
  s.updTenant t fun x => { x with shortfall := x.shortfall ||| BitVec.ofNat 32 (2 ^ bitNo) }

/-! ### The clearing record (R353) -/

/-- Every present tile of a region is in a list (R359). -/
def coversRegion (s : State) (ls : List Nat) (r : Nat) : Bool :=
  (List.range 64).all fun i => !tilePresent s (64 * r + i) || ls.contains (64 * r + i)

/-- A tile is in the middle of a reset. -/
def anyResetting (s : State) (ls : List Nat) : Bool := ls.any (tileResetting s)

/-- Write `TileMask` (R353, R357, R359). -/
def writeTileMask (s : State) (t v : Nat) : Written :=
  let had := tilesGiven s t
  let want := (List.range 1280).filter fun l => bit v l
  let changed := (List.range 1280).filter fun l => bit v l ≠ had.contains l
  let foreign (l : Nat) : Bool :=
    match ownerOf s l, mget s.globals.heldOwner l with
    | some o, _ => o ≠ t
    | none, some o => o ≠ t
    | none, none => false
  if want.any (fun l => foreign l || !tilePresent s l || s.service.translationOut.contains (regionOf l)) ||
      (List.range 20).any (fun r => (tenantAt s t).exclusive.getLsbD r && !coversRegion s want r) then .refused
  else if anyResetting s changed then .unavailable
  else
    let s1 := changed.foldl (fun s l => s.giveTile l (if bit v l then some t else none)) s
    let s2 := (s1.clearShortfall t 0x11).newClearings s [t]
    if changed.any fun l => s2.globals.reseedPending.contains l then .wait s2 (.reseed changed) else .ok s2

/-- Write `PageTableRoot` (R353). -/
def writeRoot (s : State) (t v : Nat) : Written :=
  if v ≠ 0 && (v % 4096 ≠ 0 || !inPtArea s.mem v) then .refused
  else .ok (s.updTenant t fun x => { x with ptRoot := v })

/-- Take a queue out of use; no freeze record of it stays (R323, R353, R320; log 51). -/
def State.stopQueue (s : State) (t q : Nat) : State :=
  (s.updQueue t q fun x => { x with entries := 0, reread := [] }).unfreeze t (queueMaster q)

/-- Write `QueueMask`: a bit cleared takes its queue out of use (R353). -/
def writeQueueMask (s : State) (t : Nat) (v : Byte) : Written :=
  let gone := (List.range 8).filter fun q => (tenantAt s t).queueMask.getLsbD q && !v.getLsbD q
  let s1 := gone.foldl (fun s q => s.stopQueue t q) s
  .ok ((s1.updTenant t fun x => { x with queueMask := v }).newClearings s [t])

/-- A record needs a history that lies beyond a quota. -/
def historyBeyond (quota : Nat) (r : TensorRecord) : Bool := r.histLen ≠ 0 && r.histFirst + extensions r.histLen > quota

/-- What a quota keeps of an entry: a record whose history it cannot hold has lost it (R139), and a history's positions then
read +0. -/
def quotaEntry (w : WatchState) (quota : Nat) (e : WatchEntry) : WatchEntry :=
  match e with
  | .tensor r => if historyBeyond quota r then .tensor { r with histState := 2, histCount := 0 } else e
  | .history o _ =>
    match mget w.entries o with
    | some (.tensor r) => if historyBeyond quota r then .history o [] else e
    | _ => e

/-- A quota holds an entry: it lies below, and so does the owner of a history. -/
def quotaHolds (quota : Nat) (e : Nat × WatchEntry) : Bool :=
  e.1 < quota &&
    match e.2 with
    | .tensor _ => true
    | .history o _ => o < quota

/-- A smaller quota ends at its number: entries from there on are no longer the tenant's, and every other object of the
tenant stays as it is (R8, R139; log 47). -/
def shrinkWatch (w : WatchState) (quota : Nat) : WatchState :=
  let freed (i : Nat) : Bool :=
    match mget w.entries i with
    | some e => !quotaHolds quota (i, e)
    | none => false
  { w with quota := quota,
           entries := (w.entries.filter (quotaHolds quota)).map fun (e : Nat × WatchEntry) => (e.1, quotaEntry w quota e.2),
           setup := w.setup.filter fun (e : Nat × W64) => e.1 < quota && !freed e.1 }

/-- Write `WatchQuota` (R353). -/
def writeQuota (s : State) (t v : Nat) : Written :=
  if quotaTotal s - (tenantAt s t).watch.quota + v > 65536 || v < watchUsed s t then .refused
  else .ok ((s.updWatch t fun w => shrinkWatch w v).newClearings s [t])

/-- Write `ExclusiveRegions` (R353, R359). -/
def writeExclusive (s : State) (t v : Nat) : Written :=
  let set := (List.range 20).filter fun r => bit v r
  let other (r : Nat) : Bool := s.tenants.any fun (e : Nat × Tenant) => e.1 ≠ t && e.2.exclusive.getLsbD r
  if bits v 31 20 ≠ 0 || set.any (fun r => !coversRegion s (tilesOf s t) r || other r) then .refused
  else .ok ((s.updTenant t fun x => { x with exclusive := BitVec.ofNat 20 v }).clearShortfall t 0x20)

/-! ### Pages, set groups and layer slots (R203, R204, R222, R354, R358) -/

/-- Tenant that owns a page entry. -/
def pageTenant (e : Nat) : Option Nat := if bit e 15 then some (bits e 9 0) else none
/-- Tenant that owns a set group's entry. -/
def groupTenant (e : Nat) : Option Nat := if bit e 63 then some (bits e 55 46) else none
/-- Tenant that owns a layer slot's entry. -/
def slotTenant (e : Nat) : Option Nat := if bit e 63 then some (bits e 62 53) else none

/-- Owners before and after of entries. -/
def ownersOf (own : Nat → Option Nat) (old : Nat → Nat) (es : List (Nat × Nat)) : List Nat :=
  distinct (es.flatMap fun e => (own (old e.1)).toList ++ (own e.2).toList)

/-- A page lies in the page-table area or the queue area (R354). -/
def reservedPage (s : State) (p : Nat) : Bool := inPtArea s.mem (pageDpa p) || inQueueArea s (pageDpa p)

/-- Zero whole pages (R358). -/
def State.zeroPages (s : State) (ps : List Nat) : State :=
  s.zeroFast fun k =>
    match pageOf s.mem (keyDpa s.mem k) with
    | some p => ps.contains p
    | none => false

/-- Write `PageOwnerMap` (R354, R358). -/
def writePages (s : State) (es : List (Nat × Nat)) : Written :=
  let old (p : Nat) : Nat := (pageEntry s p).toNat
  let ch := es.filter fun e => old e.1 ≠ e.2
  let owners := ownersOf pageTenant old es
  if (ownersOf pageTenant old ch).any (fun t => !tenantQuiesced s t) then .notQuiesced
  else if es.any (fun e => bits e.2 13 10 ≠ 0) || ch.any (fun e => bit e.2 15 && (!pageBacked s e.1 || reservedPage s e.1)) then .refused
  else
    let s1 := s.updMem fun m => { m with pageOwner := ch.foldl (fun o e => mput 0 o e.1 (BitVec.ofNat 16 e.2)) m.pageOwner }
    let s2 := s1.zeroPages (ch.map Prod.fst)
    .ok ((owners.foldl (fun s t => s.clearShortfall t 2) s2).newClearings s owners)

/-- The area of a set group: aligned, apart from every other, and in the tenant's Pool pages of the
interleaved view (R203). -/
def areaBad (s : State) (m : SMap W64) (g e : Nat) : Bool :=
  let size := 4096 * groupSlot e
  let a := groupArea e
  a % size ≠ 0 || !inInterleaved s.mem a || !inInterleaved s.mem (a + size - 1) ||
    (m.any fun (x : Nat × W64) =>
      x.1 ≠ g && bit x.2.toNat 63 && overlaps a size (groupArea x.2.toNat) (4096 * groupSlot x.2.toNat)) ||
    !((List.range ((a + size - 1) / 2 ^ 21 - a / 2 ^ 21 + 1)).all fun i =>
        let p := (pageEntry s (a / 2 ^ 21 + i)).toNat
        bit p 15 && bit p 14 && bits p 9 0 = bits e 55 46)

/-- The formed `SetGroupMap` breaks R7 or R203. -/
def groupsBad (s : State) (m : SMap W64) : Bool :=
  m.any fun (x : Nat × W64) =>
    let e := x.2.toNat
    bits e 62 56 ≠ 0 || bits e 43 40 ≠ 0 || bits e 35 33 ≠ 0 || bits e 39 36 > 4 ||
      (bit e 63 && (areaBad s m x.1 e ||
        m.any fun (y : Nat × W64) =>
          let f := y.2.toNat
          bit f 63 && x.1 / 1024 = y.1 / 1024 && bits e 55 44 = bits f 55 44 && bits e 39 36 ≠ bits f 39 36))

/-- Every entry of a set group is invalid (R204). -/
def State.dropGroup (s : State) (g : Nat) : State :=
  (s.mem.dir.filter fun (e : Nat × Way) => e.1 / 4096 = g).foldl (fun s (e : Nat × Way) => s.dropWay e.1) s

/-- Zero a range of the interleaved view. -/
def State.zeroRange (s : State) (a n : Nat) : State :=
  s.zeroFast fun k => a ≤ keyDpa s.mem k && keyDpa s.mem k < a + n

/-- Write `SetGroupMap` (R203, R204; log 49). -/
def writeGroups (s : State) (es : List (Nat × Nat)) : Written :=
  let old (g : Nat) : Nat := (mgetD s.mem.setGroups g 0).toNat
  let ch := es.filter fun e => old e.1 ≠ e.2
  let owners := ownersOf groupTenant old es
  let m := ch.foldl (fun o e => mput (0 : W64) o e.1 (BitVec.ofNat 64 e.2)) s.mem.setGroups
  if (ownersOf groupTenant old ch).any (fun t => !tenantQuiesced s t) then .notQuiesced
  else if groupsBad s m then .refused
  else if ch.any (fun e => bit e.2 63 && s.mem.groupsOut.contains e.1) then .unavailable
  else
    let s1 := ch.foldl (fun s e => s.dropGroup e.1) s
    let s2 := s1.updMem fun x => { x with setGroups := m }
    let s3 := ch.foldl (fun s e => if bit e.2 63 then s.zeroRange (groupArea e.2) (4096 * groupSlot e.2) else s) s2
    .ok ((owners.foldl (fun s t => s.clearShortfall t 4) s3).newClearings s owners)

/-- The formed `LayerSlotMap` breaks R7 or R222. -/
def slotsBad (m : SMap W64) : Bool :=
  m.any fun (x : Nat × W64) =>
    let e := x.2.toNat
    bits e 52 34 ≠ 0 || bits e 16 0 + bits e 33 17 > 114688 || (bit e 63 && (
      m.any fun (y : Nat × W64) =>
        let f := y.2.toNat
        y.1 ≠ x.1 && y.1 / 1024 = x.1 / 1024 && bit f 63 && overlaps (bits e 16 0) (bits e 33 17) (bits f 16 0) (bits f 33 17)))

/-- Zero the area of a layer slot's entry in a chip's slow tier (R222). -/
def State.zeroSlot (s : State) (chip e : Nat) : State :=
  let a := 2 ^ 38 * chip + 2 ^ 21 * bits e 16 0
  let n := 2 ^ 21 * bits e 33 17
  let inside (k : Nat) : Bool := a ≤ k && k < a + n
  s.updMem fun m =>
    { m with slow := m.slow.filter fun (x : Nat × Byte) => !inside x.1, slowBad := m.slowBad.filter fun w => !inside (16 * w) }

/-- Write `LayerSlotMap` (R222). -/
def writeSlots (s : State) (es : List (Nat × Nat)) : Written :=
  let old (j : Nat) : Nat := (mgetD s.globals.layerSlots j 0).toNat
  let ch := es.filter fun e => old e.1 ≠ e.2
  let owners := ownersOf slotTenant old es
  let m := ch.foldl (fun o e => mput (0 : W64) o e.1 (BitVec.ofNat 64 e.2)) s.globals.layerSlots
  if (ownersOf slotTenant old ch).any (fun t => [0, 1, 2, 3].any fun p => !setIdle s t p) then .notQuiesced
  else if slotsBad m then .refused
  else
    let s1 := s.updGlobals fun g => { g with layerSlots := m }
    let s2 := ch.foldl (fun s e =>
      if slotTenant (old e.1) ≠ slotTenant e.2 then
        let s := if bit (old e.1) 63 then s.zeroSlot (e.1 / 1024) (old e.1) else s
        if bit e.2 63 then s.zeroSlot (e.1 / 1024) e.2 else s
      else s) s1
    .ok ((owners.foldl (fun s t => s.clearShortfall t 8) s2).newClearings s owners)

/-! ### Host windows (R303, R317) -/

/-- The mirror of a queue lies in its window, and the window allows writes (R317; an entry of size 0 is no
window, R303; log 50). -/
def mirrorFits (windows : SMap (BitVec 128)) (t w off entries : Nat) : Bool :=
  w = 0xFF ||
    (let e := (mgetD windows (4 * t + w) 0).toNat
     bit e 1 && windowSize e ≠ 0 && off + 32 * entries ≤ windowSize e)

/-- Every queue of the tenant has completed what it accepted (R303). -/
def queuesDone (s : State) (t : Nat) : Bool := (tenantAt s t).queues.all fun (e : Nat × Queue) => e.2.tail = e.2.completed

/-- Write `HostWindows` (R303; log 50). -/
def writeWindows (s : State) (es : List (Nat × Nat)) : Written :=
  let m := es.foldl (fun o e => mput (0 : BitVec 128) o e.1 (BitVec.ofNat 128 e.2)) s.host.windows
  let ts := distinct (es.map fun e => e.1 / 4)
  if ts.any (fun t => !queuesDone s t) then .notQuiesced
  else if es.any (fun e => bits e.2 11 2 ≠ 0 || windowSize e.2 % 4096 ≠ 0) ||
      ts.any (fun t => (tenantAt s t).queues.any fun (e : Nat × Queue) =>
        !mirrorFits m t e.2.mirrorWindow e.2.mirrorOffset e.2.entries) then .refused
  else .ok ((s.updHost fun h => { h with windows := m }).newClearings s ts)

/-! ### Tables (R191, R192) -/

/-- A descriptor with rows breaks R7 or R192. -/
def tableBad (s : State) (t : Nat) (td : List Byte) : Bool :=
  let f (hi lo : Nat) : Nat := dbits td hi lo
  let fmt := f 99 96
  let mode := f 103 100
  let bytes := tRowBytes td
  let stride := f 175 160
  let per := f 183 176
  f 255 226 ≠ 0 || f 191 184 ≠ 0 || f 127 113 ≠ 0 || f 111 110 ≠ 0 || mode > 2 || fmt < 1 || fmt > 4 ||
    f 107 104 > 7 || (mode ≠ 2 && f 159 128 ≠ 0) ||
    f 95 80 < 1 || f 95 80 > 1024 || stride < 2 || stride > 1024 || f 47 0 % 1024 ≠ 0 ||
    bytes > 1024 || stride < bytes || (fmt = 4 && stride % 2 ≠ 0) ||
    (per = 0 && !((List.range 11).any fun k => stride = 2 ^ k)) || (per ≠ 0 && per * stride > 1024) ||
    (mode = 0 && f 107 104 ≠ 0) || (mode = 2 && f 159 128 * (f 107 104 + 1) < f 79 48) ||
    (f 112 112 = 1 && (List.range 4).any fun n =>
      match classGroups s t (f 109 108) n with
      | g :: _ => bytes > groupSlot (setGroup s g)
      | [] => false)

/-- Reserved bits and encodings of a descriptor that defines no table (R7, R105); format 0 is that of the all-zero
descriptor (R191). -/
def tableReserved (td : List Byte) : Bool :=
  dbits td 255 226 ≠ 0 || dbits td 191 184 ≠ 0 || dbits td 127 113 ≠ 0 || dbits td 111 110 ≠ 0 || dbits td 103 100 > 2 ||
    dbits td 99 96 > 4 || (dbits td 103 100 ≠ 2 && dbits td 159 128 ≠ 0)

/-- Write `TableDescriptors`: the formed object is checked whole, and what the directory and the statistics
hold of a changed table goes (R192, R219). -/
def writeTables (s : State) (t : Nat) (es : List (Nat × Nat)) : Written :=
  let ch := es.filter fun e => leBytes 32 e.2 ≠ (tableDesc s t e.1).take 32
  let m := ch.foldl (fun o e => mput (List.replicate 32 (0 : Byte)) o e.1 (leBytes 32 e.2)) (tenantAt s t).tables
  if m.any fun (e : Nat × List Byte) => tableReserved e.2 || (tRows e.2 ≠ 0 && tableBad s t e.2) then .refused
  else
    let ids := ch.map Prod.fst
    .ok ((s.dropTables t fun T => ids.contains T).updTenant t fun x =>
      { x with tables := m, stats := x.stats.filter fun (e : Nat × List Nat) => !ids.contains e.1 })

/-! ### Watch setup (R145) -/

/-- A setup entry breaks a rule of R145's table. -/
def setupBad (v : Nat) : Bool :=
  bits v 63 48 ≠ 0 || bits v 31 24 ≠ 0 || bits v 7 4 ≠ 0 || bits v 3 0 > 1 ||
    (bit v 39 && (!bit v 11 || bits v 38 32 > 64 || bits v 23 20 < 1 || bits v 23 20 > 3))

/-- H of a controlled setup entry (R145). -/
def setupHistory (s : State) (v : Nat) : Nat := if bits v 38 32 = 0 then s.globals.histDefault else bits v 38 32

/-- The record a setup entry builds, its counters and agreement fields clear (R127, R145). -/
def setupRecord (s : State) (v first : Nat) : TensorRecord :=
  let c := bit v 39
  { histFirst := if c then first else 0, scale := signed 8 (bits v 47 40), histState := if c then 3 else 0,
    histLen := if c then setupHistory s v else 0, targetFormat := bits v 23 20, agreeLog2 := bits v 19 16,
    paramSet := bits v 15 14, flags := BitVec.ofNat 3 (bits v 13 11), margin := bits v 10 8 }

/-- The highest run of `n` consecutive free entries below the quota (log 48). -/
def freeRun (w : WatchState) (n : Nat) : Option Nat :=
  ((List.range (w.quota + 1 - n)).reverse).find? fun f => n ≤ w.quota &&
    (List.range n).all fun k => mget w.entries (f + k) = none && bits (mgetD w.setup (f + k) 0).toNat 3 0 = 0

/-- Build the record of one entry, with its history; none where no run of free entries is left. -/
def buildRecord (s : State) (w : WatchState) (i v : Nat) : Option WatchState :=
  if !bit v 39 then some { w with entries := mset w.entries i (.tensor (setupRecord s v 0)) }
  else
    let n := extensions (setupHistory s v)
    match freeRun w n with
    | none => none
    | some f =>
      some ((List.range n).foldl (fun w k =>
        { w with entries := mset w.entries (f + k) (.history i []), setup := mset w.setup (f + k) 2 })
        { w with entries := mset w.entries i (.tensor (setupRecord s v f)) })

/-- Owner of an entry that holds history. -/
def historyOwner (w : WatchState) (i : Nat) : Option Nat :=
  match mget w.entries i with
  | some (.history o _) => some o
  | _ => none

/-- Write `WatchSetup` (R145). -/
def writeSetup (s : State) (t : Nat) (es : List (Nat × Nat)) : Written :=
  let w := (tenantAt s t).watch
  let ch := es.filter fun e => (mgetD w.setup e.1 0).toNat ≠ e.2
  let ids := ch.map Prod.fst
  let keeps (i : Nat) : Bool :=
    match historyOwner w i with
    | some o => !ids.contains o
    | none => false
  if ch.any fun e => setupBad e.2 || keeps e.1 then .refused
  else
    let freed := (w.entries.filter fun (e : Nat × WatchEntry) =>
      match e.2 with
      | .history o _ => ids.contains o
      | .tensor _ => ids.contains e.1).map Prod.fst
    let w1 := { w with entries := w.entries.filter fun (e : Nat × WatchEntry) => !freed.contains e.1,
                       setup := w.setup.filter fun (e : Nat × W64) => !freed.contains e.1 }
    let w2 := { w1 with setup := ch.foldl (fun m e => mput (0 : W64) m e.1 (BitVec.ofNat 64 e.2)) w1.setup }
    let built := ch.foldl (fun (acc : Option WatchState) e =>
      if bits e.2 3 0 = 1 then acc.bind fun x => buildRecord s x e.1 e.2 else acc) (some w2)
    match built with
    | some x => .ok (s.updWatch t fun _ => x)
    | none => .refused

/-! ### Personality (R91, R92) -/

/-- Write `TilePersonality` (R91, R92); refused while a microcode image is being activated (R388). -/
def writePersonality (s : State) (es : List (Nat × Nat)) : Written :=
  let ch := es.filter fun e => (mgetD s.globals.personality e.1 0).toNat ≠ e.2
  if ch.any fun e => !(tileAt s e.1).blocks.isEmpty then .notQuiesced
  else if es.any (fun e => e.2 > 1) || microcodeJob s then .refused
  else .ok (ch.foldl (fun s e =>
    (s.setTile e.1 { tileAt s e.1 with reloading := true }).updGlobals fun g =>
      { g with personality := mput 0 g.personality e.1 (BitVec.ofNat 8 e.2) }) s)

/-! ### Withdrawals (R358, R364) -/

/-- Withdraw a tile from its clearing: blocks end with status 2, waiting launches complete with status 5, and
the tile belongs to no one (R315, R358, R364). -/
def State.withdrawTile (s : State) (l bitNo : Nat) : State :=
  let s1 := s.endTileWork l
  let ws := (tileAt s1 l).waiting
  let s2 := s1.setTile l { tileAt s1 l with waiting := [] }
  let s3 := ws.foldl (fun s la => s.completeDesc la.tenant la.queue la.seq la.epoch 5 0 l 0) s2
  let gone (s : State) : State := (s.giveTile l none).loseMulticast l
  match ownerOf s l, mget s.globals.heldOwner l with
  | some t, _ => (gone s3).setShortfall t bitNo
  | none, some t => (gone s3).setShortfall t bitNo
  | none, none => s3

/-- A region leaves service: no clearing holds it exclusively (R359). -/
def State.loseExclusive (s : State) (r : Nat) : State :=
  s.tenants.foldl (fun s (e : Nat × Tenant) =>
    if e.2.exclusive.getLsbD r then
      (s.updTenant e.1 fun x => { x with exclusive := x.exclusive &&& ~~~(BitVec.ofNat 20 (2 ^ r)) }).setShortfall e.1 5
    else s) s

/-- Pages that are no longer backed leave their clearings (R354, R358). -/
def State.withdrawPages (s : State) : State :=
  let gone := s.mem.pageOwner.filter fun (e : Nat × BitVec 16) => !pageBacked s e.1
  let s1 := s.updMem fun m => { m with pageOwner := gone.foldl (fun o (e : Nat × BitVec 16) => merase o e.1) m.pageOwner }
  (distinct (gone.filterMap fun (e : Nat × BitVec 16) => pageTenant e.2.toNat)).foldl (fun s t => s.setShortfall t 1) s1

/-- Set groups leave service, and their clearings (R358). -/
def State.withdrawGroup (s : State) (g : Nat) : State :=
  let e := (mgetD s.mem.setGroups g 0).toNat
  let s1 := (s.dropGroup g).updMem fun m => { m with setGroups := merase m.setGroups g, groupsOut := ninsert m.groupsOut g }
  match groupTenant e with
  | some t => s1.setShortfall t 2
  | none => s1

end Sys2Proof.Machine
end

