-- ==== Sys2Proof/Machine/Log.lean ====
section
/-!
DEFINITION. The error log (R369–R371): how the Lodge records a report, and the row of `LOG_REPORT_INTAKE`.
-/

namespace Sys2Proof.Machine

/-- A record takes further reports of this source, class, cause and tenant (R370). -/
def recordTakes (r : Report) (x : LogRecord) : Bool :=
  x.open_ && x.report.source = r.source && x.report.cls = r.cls && x.report.cause = r.cause && x.report.tenant = r.tenant

/-- The slot a new record takes: an empty one while there is one, else the oldest that is not pinned (R370). -/
def logSlot (ring : SMap LogRecord) : Nat :=
  if ring.length < 4096 then ((List.range 4096).find? fun i => (mget ring i).isNone).getD 0
  else
    ((ring.filter fun (e : Nat × LogRecord) => !e.2.pinned).foldl (fun (acc : Option (Nat × Nat)) (e : Nat × LogRecord) =>
      match acc with
      | none => some (e.1, e.2.recordNo)
      | some a => if e.2.recordNo < a.2 then some (e.1, e.2.recordNo) else some a) none).map Prod.fst |>.getD 0

/-- A record is overwritten: it counts as lost where it was not read, for the module and for its tenant (R370,
R371). -/
def State.loseRecord (s : State) (x : LogRecord) : State :=
  let s1 := if x.recordNo ≥ s.log.readNumber then s.updLog fun l => { l with lost := satAdd 32 l.lost 1 } else s
  match x.report.tenant with
  | some t =>
    let y := tenantAt s t
    if x.recordNo ≥ y.logFrom && x.ordinal ≥ y.logRead then s1.updTenant t fun z => { z with logLost := satAdd 32 z.logLost 1 }
    else s1
  | none => s1

/-- A report takes a new record (R370). -/
def State.newRecord (s : State) (r : Report) : State :=
  let slot := logSlot s.log.ring
  let s1 := match mget s.log.ring slot with
    | some x => s.loseRecord x
    | none => s
  let ordinal := match r.tenant with
    | some t => (tenantAt s t).logNumber
    | none => 0
  let x : LogRecord :=
    { report := r, repeats := 1, pinned := r.cls = 3 && pinnedCount s < 64, open_ := true, recordNo := s.log.writeNumber,
      ordinal := ordinal }
  let s2 := s1.updLog fun l => { l with ring := mset l.ring slot x, writeNumber := l.writeNumber + 1 }
  match r.tenant with
  | some t => s2.updTenant t fun z => { z with logNumber := z.logNumber + 1 }
  | none => s2

/-- The Lodge records a report (R370). -/
def State.recordReport (s : State) (r : Report) : State :=
  match s.log.ring.find? fun (e : Nat × LogRecord) => recordTakes r e.2 with
  | some (i, x) => s.updLog fun l => { l with ring := mset l.ring i { x with repeats := satAdd 32 x.repeats 1 } }
  | none => s.newRecord r

/-- The Lodge runs (R374, R388). -/
def lodgeRuns (s : State) : Bool := s.service.bringUp ≥ 2 && !s.service.lodgeAway && !s.power.packageOff

/-- The dictionary is served: not before bring-up state 3 has come to it, nor while the Lodge is away or hands over
(R351, R375). -/
def dictServed (s : State) : Bool := s.service.served && lodgeRuns s && !s.service.handing

/-- LOG_REPORT_INTAKE (R370): the report that has waited longest. -/
def execLogReportIntake (s : State) : Host.Outcome State Fault Refusal :=
  .next <|
    match s.log.pending with
    | r :: rs => if lodgeRuns s then (s.updLog fun l => { l with pending := rs }).recordReport r else s
    | [] => s

/-- Write `LogReadNumber`: records it passes are closed (R370, R372). -/
def writeLogRead (s : State) (v : Nat) : Written :=
  if v > s.log.writeNumber then .refused
  else
    .ok (s.updLog fun l => { l with readNumber := v, ring := l.ring.map fun (e : Nat × LogRecord) =>
      (e.1, { e.2 with open_ := e.2.open_ && e.2.recordNo ≥ v }) })

/-- Write `LogUnpin` (R370). -/
def writeUnpin (s : State) (v : Nat) : Written :=
  if v ≠ 1 then .refused
  else
    .ok (s.updLog fun l => { l with ring := l.ring.map fun (e : Nat × LogRecord) =>
      (e.1, { e.2 with pinned := e.2.pinned && e.2.recordNo ≥ l.readNumber }) })

/-- A degradation record (R369, R391): the new width or count. -/
def State.degrade (s : State) (source : W32) (now : Nat) : State := s.report source 4 0 none (BitVec.ofNat 32 now)

end Sys2Proof.Machine
end

