-- ==== Sys2Proof/Machine/Heartwood.lean ====
section
/-!
DEFINITION. Heartwood: the leaves of the device key (R404–R406), firmware verification (R394–R397), attestation
(R401, R402), self-tests and entropy (R407, R408), zeroisation (R410, R426), and the rows of Heartwood's own
events.
-/

namespace Sys2Proof.Machine

/-! ### Leaves of the device key (R405, R406) -/

/-- Copy A of the reservation records is current. -/
def copyACurrent (h : HeartwoodState) : Bool :=
  h.recordA.valid && (!h.recordB.valid || h.recordA.recordSeq ≥ h.recordB.recordSeq)

/-- Write the next reservation over the older copy (R406). -/
def HeartwoodState.reserve (h : HeartwoodState) : HeartwoodState :=
  let step := if h.next ≥ lmsPool then 1 else 1024
  let cur := if copyACurrent h then h.recordA else h.recordB
  let r : LmsRecord := { reservedTo := h.next + step, recordSeq := cur.recordSeq + 1, valid := true }
  if copyACurrent h then { h with recordB := r } else { h with recordA := r }

/-- Take the next leaf; `upTo` bounds the pool that may serve (R405, R406). -/
def HeartwoodState.takeLeaf (h : HeartwoodState) (upTo : Nat) : Option (HeartwoodState × Nat) :=
  if h.next ≥ upTo then none
  else
    let h1 := if h.next = reservedTo h then h.reserve else h
    some ({ h1 with next := h.next + 1 }, h.next)

/-- Sign with the next leaf below a bound: the leaf is used, and the signature is released only where it verifies; one that
does not is an error of Heartwood (R406, R407, R408). -/
def State.hssRelease (s : State) (upTo : Nat) (msg : Nat → List Byte) (use : List Byte → HeartwoodState → HeartwoodState) : State :=
  match s.heartwood.takeLeaf upTo with
  | none => s
  | some (h, q) =>
    let sig := Config.hssSign q (msg q)
    if Config.hssVerify Config.deviceHssKey (msg q) sig then s.updHeartwood fun _ => use sig h
    else s.updHeartwood fun _ => { h with selfTests := h.selfTests ||| 0x4000, state := if h.state ≤ 2 then 3 else h.state }

/-! ### Firmware images (R394–R397) -/

/-- Slots of an image. -/
def fwOf (s : State) (i : Nat) : FwSlots :=
  (mget s.service.firmware i).getD
    { a := emptyImage, b := emptyImage, activeB := false, pending := false, deferred := false, lastResult := 0 }
/-- Change the slots of an image. -/
def State.updFw (s : State) (i : Nat) (f : FwSlots → FwSlots) : State :=
  s.updService fun v => { v with firmware := mset v.firmware i (f (fwOf s i)) }
/-- Active slot of an image. -/
def FwSlots.active (x : FwSlots) : FwImage := if x.activeB then x.b else x.a
/-- Inactive slot of an image. -/
def FwSlots.inactive (x : FwSlots) : FwImage := if x.activeB then x.a else x.b
/-- Replace the inactive slot. -/
def FwSlots.setInactive (x : FwSlots) (i : FwImage) : FwSlots := if x.activeB then { x with a := i } else { x with b := i }

/-- An installed slot verifies: it verified when installed, its key is not revoked, and it stands at or above the
counter (R395, R397). -/
def slotVerifies (s : State) (i : Nat) (x : FwImage) : Bool :=
  x.valid && !s.heartwood.revoked.getLsbD x.keySlot && x.svn ≥ rollbackOf s i

/-- At power-on a deferred slot that verifies becomes active; an active slot that does not verify falls back to the
other (R384, R395). Answers whether one runs. -/
def State.bootImage (s : State) (i : Nat) : State × Bool :=
  let x := fwOf s i
  let flip := x.deferred && slotVerifies s i x.inactive
  let y := { x with activeB := if flip then !x.activeB else x.activeB, deferred := false, pending := false }
  let z := if slotVerifies s i y.active then y else { y with activeB := if slotVerifies s i y.inactive then !y.activeB else y.activeB }
  (s.updFw i fun _ => z, slotVerifies s i z.active)

/-- A header field, little-endian. -/
def hdrField (bs : List Byte) (at_ n : Nat) : Nat := leNat ((bs.drop at_).take n)

/-- Bytes of a range are all zero. -/
def zeroBytes (bs : List Byte) (at_ n : Nat) : Bool := ((bs.drop at_).take n).all fun b => b = 0

/-- Steps 1 to 4 of R395 on a header or a token: 0, or the code of the step that fails. -/
def headerCode (s : State) (hdr : List Byte) (kind : Nat) : Nat :=
  let slot := hdrField hdr 5 1
  let keys := Config.vendorKeys slot
  if hdrField hdr 0 4 ≠ 0x4D495748 || hdrField hdr 4 1 ≠ kind || !zeroBytes hdr 64 64 || !zeroBytes hdr 5460 2732 then 4
  else if slot > 3 || s.heartwood.revoked.getLsbD slot || !Config.vendorKeyHashOk slot then 2
  else if !Config.ecdsaVerify (keys.take 97) (hdr.take 128) ((hdr.drop 128).take 96) then 2
  else if !Config.hssVerify ((keys.drop 97).take 60) (hdr.take 128) ((hdr.drop 224).take 5236) then 2
  else 0

/-- The chain of microcode chunks: each 4 KiB chunk hashes to the hash before it and carries the next; the last
carries zeros (R379, R395; log 52). -/
def chunkChain (fuel : Nat) (expect : BitVec 384) (bs : List Byte) : Bool :=
  match fuel with
  | 0 => false
  | k + 1 =>
    let chunk := bs.take 4096
    let next := (bs.drop 4096).take 48
    Config.sha384 chunk = expect && next.length = 48 &&
      (if beNat next = 0 then (bs.drop 4144).isEmpty else chunkChain k (BitVec.ofNat 384 (beNat next)) (bs.drop 4144))

/-- Step 5 of R395. -/
def payloadOk (kind : Nat) (hash : BitVec 384) (payload : List Byte) : Bool :=
  if kind = 2 then chunkChain (payload.length / 4144 + 1) hash payload else Config.sha384 payload = hash

/-- The image a header describes. -/
def imageOf (hdr : List Byte) : FwImage :=
  { version := hdrField hdr 6 2, svn := hdrField hdr 8 2, compat := hdrField hdr 10 2, keySlot := hdrField hdr 5 1,
    hash := BitVec.ofNat 384 (beNat ((hdr.drop 16).take 48)), valid := true }

/-- Verify the staged image as one of a kind (R395): its code, and what it is. -/
def verifyStaged (s : State) (kind : Nat) : Nat × FwImage :=
  let hdr := readBytes s.service.staging 0 8192
  let img := imageOf hdr
  let n := hdrField hdr 12 4
  let c := headerCode s hdr kind
  (if c ≠ 0 then c
   else if n < 1 || n > 16769024 || !payloadOk kind img.hash (readBytes s.service.staging 8192 n) then 2
   else if img.svn < rollbackOf s kind || img.svn > 64 then 3
   else 0, { img with payload := readBytes s.service.staging 8192 n })

/-- A Service token verifies (R400). -/
def tokenOk (s : State) (token : List Byte) : Bool :=
  token.length = 5460 && headerCode s token 16 = 0 && hdrField token 12 4 = 0 && hdrField token 8 2 = 0 &&
    (token.drop 16).take 12 = sized 12 Config.serialNumber && (token.drop 28).take 16 = sized 16 s.heartwood.serviceNonce &&
    zeroBytes token 44 20

/-- Write `RollbackCommit` (R396). -/
def writeRollback (s : State) (v : Nat) : Written :=
  if v < 1 || v > 6 || (fwOf s v).pending then .refused
  else
    let x := fwOf s v
    let c := max (rollbackOf s v) x.active.svn
    let s1 := s.updHeartwood fun h => { h with rollback := mset h.rollback v c }
    .ok (if x.inactive.svn < c then s1.updFw v fun y => y.setInactive { y.inactive with valid := false } else s1)

/-- Write `KeySlotRevoke` (R397). -/
def writeRevoke (s : State) (v : Nat) : Written :=
  let left := (List.range 4).filter fun k => !s.heartwood.revoked.getLsbD k && k ≠ v
  if v > 3 || left.isEmpty || [1, 2, 3, 4, 5, 6].any (fun i => (fwOf s i).active.valid && (fwOf s i).active.keySlot = v) then .refused
  else .ok (s.updHeartwood fun h => { h with revoked := h.revoked ||| BitVec.ofNat 4 (2 ^ v) })

/-! ### Attestation (R401, R402) -/

/-- One entry of `images` (R401). -/
def imageEntry (s : State) (i : Nat) : List Byte :=
  let x := fwOf s i
  leBytes 1 i ++ leBytes 1 (b2n x.activeB) ++ leBytes 2 x.active.version ++ leBytes 2 x.active.svn ++
    leBytes 1 (rollbackOf s i) ++ List.replicate 9 0 ++ beBytes 48 x.active.hash.toNat

/-- `config_digest`: the values in ascending index and subindex (R401; log 53). -/
def configDigest (s : State) : BitVec 384 :=
  Config.sha384 (objectValue s 0 0x1020 4 ++ domainBytes (domainOf s 0 0x1022 1) 0 512 ++ objectValue s 0 0x5000 6 ++
    (List.range 1024).flatMap (fun t => clearingValue s t 3 ++ clearingValue s t 7) ++
    objectValue s 0 0x8000 8 ++ objectValue s 0 0x8000 11 ++ objectValue s 0 0x8000 13)

/-- Bytes 0–511 of a report (R401). -/
def reportBody (s : State) (leaf : Nat) (nonce : List Byte) : List Byte :=
  leBytes 4 0x54525748 ++ leBytes 2 1 ++ leBytes 1 s.service.bringUp ++ leBytes 1 s.heartwood.state ++
    sized 12 Config.serialNumber ++ List.replicate 4 0 ++ leBytes 8 leaf ++ sized 32 nonce ++
    beBytes 48 (configDigest s).toNat ++ List.replicate 16 0 ++ [1, 2, 3, 4, 5, 6].flatMap (imageEntry s)

/-- Number of the device identity key among Heartwood's signing keys. -/
def identityKey : Nat := 0

/-- Milliseconds of Heartwood's own timer pass (R402). -/
def State.heartwoodTime (s : State) (ms : Nat) : State :=
  s.updHeartwood fun h => { h with sinceReportMs := h.sinceReportMs + ms }

/-- A report may be signed now (R402). -/
def mayAttest (s : State) : Bool :=
  s.heartwood.state ≤ 2 && !(s.heartwood.reported && s.heartwood.sinceReportMs < s.heartwood.minIntervalMs) &&
    s.heartwood.next < lmsPool

/-- Sign a report with the next leaf of the general pool (R401, R402, R406). -/
def State.signReport (s : State) (nonce : List Byte) : State :=
  s.hssRelease lmsPool (fun q => reportBody s q nonce) fun sig h =>
    let body := reportBody s s.heartwood.next nonce
    let bs := body ++ sized 96 (Config.ecdsaSign identityKey body) ++ sized 5236 sig
    { h with report := bs, reported := true, sinceReportMs := 0 }

/-- Write `AttestationRequest` (R402): one whose signature does not verify is refused, its leaf used (R406). -/
def writeAttest (s : State) (nonce : List Byte) : Written :=
  if s.heartwood.state = 0 then .unavailable
  else if !mayAttest s then .refused
  else
    let s1 := s.signReport nonce
    if s1.heartwood.state = 3 then .failed s1 else .ok s1

/-! ### Power-on of Heartwood (R393, R398, R406) -/

/-- A service nonce drawn from random bits (R345). -/
def drawNonce (s : State) : List Byte := (List.range 16).map fun i => BitVec.ofNat 8 (free s (5000 + i))

/-- Boot: leaves start above every reservation, the device keys are derived and the session certificate issued,
unless the kill fuse is blown (R393, R398, R406, R410). -/
def State.bootHeartwood (s : State) : State :=
  let h := { s.heartwood with next := reservedTo s.heartwood }
  if h.killed then s.updHeartwood fun _ => { h with state := 5 }
  else
    (s.updHeartwood fun _ => { h with keysHeld := true, serviceNonce := drawNonce s }).hssRelease lmsLeaves
      (fun _ => Config.moduleCert h.powerOns) fun sig h2 => { h2 with chainSig := sig }

/-! ### Sessions that close (R346) -/

/-- Session of the Finuleri message a mailbox has taken and not answered, or 0 (R340). -/
def takenSession (b : Mailbox) : Nat :=
  match b.taken with
  | some (c, message) => if bits c.toNat 31 30 = 1 then bits (beNat (message.take 16)) 111 96 else 0
  | none => 0

/-- Sessions of a test close: their keys are forgotten, their transfers cancelled, and their requests stay without
answer (R337, R346, R351). No session has id 0: a wait that goes on for one is answered to no one. -/
def State.closeSessions (s : State) (p : Session → Bool) : State :=
  let gone := s.dict.sessions.filter p
  let here (x : Path) : Bool :=
    match x with
    | .session id => gone.any fun y => y.id = id
    | _ => false
  let s1 := s.updDict fun d =>
    { d with sessions := d.sessions.filter fun y => !p y, transfers := d.transfers.filter fun x => !here x.path,
             acks := d.acks.map fun a => if here a.path then { a with path := .session 0 } else a }
  if gone.any fun y => y.line = 2 && y.id = takenSession (mailboxAt s 0) then s1.updMailbox 0 fun b => { b with taken := none }
  else s1

/-! ### Zeroisation (R410) -/

/-- Encrypted links go down and their keys are gone. -/
def State.dropLinkKeys (s : State) : State :=
  let ls := (s.links.links.filter fun (e : Nat × Link) => e.2.keys.isSome).map Prod.fst
  let s1 := ls.foldl (fun s l => ((if (linkAt s l).state = 3 then s.leaveReady l 7 else s).updLink l fun k => { k with keys := none })) s
  s1.updLinks fun x => { x with verifiedNodes := [] }

/-- Zeroise at level 1, or 2 (R410). -/
def State.zeroise (s : State) (permanent : Bool) : State :=
  let s1 := (s.closeSessions fun _ => true).dropLinkKeys
  let s2 := s1.updHeartwood fun h =>
    { h with keysHeld := false, killed := h.killed || permanent, spdm := { responses := h.spdm.responses },
             state := if h.killed || permanent then 5 else 4 }
  s2.regrade.settleAcks

/-- Write `Zeroise` (R410, R411): acknowledged before its own session closes. -/
def writeZeroise (s : State) (v : Nat) : Written :=
  if v = 1 || v = 2 then (if s.heartwood.state = 0 then .unavailable else .early fun s => s.zeroise (v = 2)) else .refused

/-- ENVELOPE_VIOLATION (R410, R426): the rail outside 0.72–0.88 V for longer than 10 µs, or the die outside
−25 °C to 125 °C. -/
def execEnvelopeViolation (railMicrovolts dieTemp : Int) (heldNanoseconds : Nat) (s : State) :
    Host.Outcome State Fault Refusal :=
  .next <|
    let rail : Bool := (railMicrovolts < 720000 || railMicrovolts > 880000) && heldNanoseconds > 10000
    if s.service.bringUp ≠ 0 && (rail || dieTemp < -25 || dieTemp > 125) then s.zeroise false else s

/-! ### Self-tests and entropy (R407, R408, R411) -/

/-- Bits of the known-answer tests in `SelfTestResults`. -/
def katMask : W32 := 0x7FE

/-- Write `SelfTestRun` (R407, R411): the known-answer tests run, and a failure is an error. -/
def writeSelfTest (s : State) (v : Nat) (failures : W32) : Written :=
  if v ≠ 1 then .refused
  else if s.heartwood.state = 0 || s.heartwood.state > 2 then .unavailable
  else
    .ok (s.updHeartwood fun h =>
      { h with selfTests := (h.selfTests &&& ~~~katMask) ||| (failures &&& katMask),
               state := if failures &&& katMask = 0 then h.state else 3 })

/-- NOISE_HEALTH_FAILURE (R407, R408). -/
def execNoiseHealthFailure (s : State) : Host.Outcome State Fault Refusal :=
  .next <|
    if s.service.bringUp = 0 then s
    else
      s.updHeartwood fun h =>
        { h with entropyFailures := satAdd 32 h.entropyFailures 1, selfTests := h.selfTests ||| 0x1000,
                 state := if h.state = 1 then 2 else h.state }

/-- ENTROPY_STARTUP_RETEST (R408): a pass makes Heartwood operational, and the reseeds that waited take place. -/
def execEntropyStartupRetest (passed : Bool) (s : State) : Host.Outcome State Fault Refusal :=
  .next <|
    if s.heartwood.state ≠ 2 then s
    else if passed then
      (s.updHeartwood fun h => { h with state := 1, selfTests := h.selfTests &&& ~~~(0x800 : W32) }).reseedWaiting.settleAcks
    else
      s.updHeartwood fun h => { h with entropyFailures := satAdd 32 h.entropyFailures 1, selfTests := h.selfTests ||| 0x800 }

end Sys2Proof.Machine
end

