-- ==== Sys2Proof/Machine/Service.lean ====
section
/-!
DEFINITION. Bring-up and the maps (R374–R379, R383), partial resets (R18–R20, R380–R382), and what the module
withdraws when hardware fails (R184, R358, R391).
-/

namespace Sys2Proof.Machine

/-! ### Bring-up states (R374–R376) -/

/-- Enter a bring-up state at the present Lodge count (R374, R383). -/
def State.enterState (s : State) (n : Nat) : State :=
  s.updService fun v => { v with bringUp := n, times := mset v.times n v.lodgeCycles }

/-- Bring-up stops (R376). -/
def State.stopBringUp (s : State) (fault : Nat) : State := s.updService fun v => { v with fault := fault, stopped := true }

/-- Bring-up is under way. -/
def bringingUp (s : State) : Bool := 1 ≤ s.service.bringUp && s.service.bringUp ≤ 6 && !s.service.stopped && !s.power.packageOff

/-- Lodge cycles pass. -/
def State.lodgeTime (s : State) (n : Nat) : State := s.updService fun v => { v with lodgeCycles := v.lodgeCycles + n }

/-- The present state has overrun its limit (R376). -/
def overLimit (s : State) : Bool :=
  let n := s.service.lodgeCycles - mgetD s.service.times s.service.bringUp 0
  match s.service.bringUp with
  | 1 => n > 200000000
  | 2 => n > 100000000
  | 3 => n > 300000000
  | 4 => n > 1000000000
  | 5 => n > 2000000000
  | _ => n * 425 > s.links.trainAttempts * (2 * s.links.gateDwell + 425 * 10 ^ 9)

/-- Default dimension of a link (R256). -/
def defaultDimension (l : Nat) : Nat := l % 48 / 4

/-- POWER_GOOD (R374, R256, R269, R424): straps are read, and Heartwood's self-tests start. -/
def execPowerGood (slotStraps : Nat) (s0 : State) : Host.Outcome State Fault Refusal :=
  .next <|
    if s0.service.bringUp ≠ 0 || s0.power.packageOff then s0
    else
      let s := s0.redraw
      let slot := slotStraps % 8
      let s1 := s.updService fun v => { v with boardSlot := slot, lodgeCycles := 0 }
      let s2 := s1.updPower fun p => { p with powered := true, straps := slot }
      let s3 := s2.updHeartwood fun h => { h with state := 0, powerOns := h.powerOns + 1 }
      let s4 := s3.updLinks fun x =>
        { x with nodeId := slot, nodeIdTraining := slot,
                 links := (List.range 96).map fun l => (l, { dimension := defaultDimension l }) }
      s4.enterState 1

/-- Entries of the route table of a plain cube (R272). -/
def cubeEntry (own used n : Nat) : Option W32 :=
  let diff := n ^^^ own
  if (List.range 12).any fun d => bit diff d && !bit used d then none
  else
    let low := ((List.range 12).find? fun d => bit diff d).getD 0
    some (BitVec.ofNat 32 (fieldAt 31 1 + fieldAt 12 low + diff % 4096))

/-- Dimensions that at least one link serves (R256). -/
def usedDims (s : State) : List Nat :=
  (List.range 12).filter fun d => s.links.links.any fun (e : Nat × Link) => e.2.dimension = d

/-- Load the route table (R272): a plain cube's, or only the module's own entry. -/
def State.loadRoutes (s : State) : State :=
  let dims := usedDims s
  let used := dims.foldl (fun m d => m + 2 ^ d) 0
  let plain := dims.all fun d => bits (partnerMaskOf s d) 27 16 = 2 ^ d && bits (partnerMaskOf s d) 11 0 = 2 ^ d
  let own := s.links.nodeId
  let all := (List.range 4096).filterMap fun n => (cubeEntry own used n).map fun e => (n, e)
  s.updLinks fun x => { x with routes := if plain then all else [(own, 0x80000000)] }

/-- Links that serve a dimension train (R285). -/
def State.trainAll (s : State) : State :=
  (List.range 96).foldl (fun s l => if (linkAt s l).dimension ≤ 11 then s.orderTraining l else s) s

/-- Every serving link has settled (R285). -/
def linksSettled (s : State) : Bool :=
  s.links.links.all fun (e : Nat × Link) => e.2.dimension > 11 || [3, 4, 5, 6, 8].contains e.2.state

/-- The links state ends: the route table is loaded, and bring-up ends (R272, R285, R374). -/
def State.finishLinks (s : State) : State :=
  let s1 := s.loadRoutes
  s1.enterState (if degradedReasons s1 = 0 then 7 else 8)

/-- The record that a package shut-off saved takes its place in the log ring, pinned (R415). -/
def State.placeSaved (s : State) : State :=
  match s.power.savedFatal with
  | some r => (s.newRecord r).updPower fun p => { p with savedFatal := none }
  | none => s

/-- Heartwood's state ends: self-tests, then the Lodge image (R376, R395, R407). -/
def State.endHeartwood (s : State) (r : StageResult) : State :=
  let f := r.selfTestFailures
  let s1 := s.updHeartwood fun h => { h with selfTests := h.selfTests ||| f }
  if f &&& 0x7FF ≠ 0 then s1.stopBringUp 1
  else
    let s2 := [1, 2, 3, 4, 5, 6].foldl (fun s i => (s.bootImage i).1) s1
    if !r.lodgeSlotOk || !slotVerifies s2 1 (fwOf s2 1).active then s2.stopBringUp 2
    else
      let s3 := s2.bootHeartwood
      let h := s3.heartwood
      let st := if h.killed then 5 else if h.selfTests &&& 0x6000 ≠ 0 || h.state = 3 then 3 else if h.selfTests &&& 0x1800 ≠ 0 then 2 else 1
      ((s3.updHeartwood fun h => { h with state := st }).enterState 2).placeSaved

/-- The CXL port and the line ports have trained, and the Lodge starts serving (R294, R375). -/
def State.trainShore (s : State) (width rate : Nat) (ports : BitVec 2) : State :=
  let ok := (width = 16 || width = 8 || width = 4) && (rate = 32 || rate = 16 || rate = 8)
  let s1 := s.updHost fun h =>
    { h with linkWidth := if ok then width else 0, linkRate := if ok then rate else 0, cxlNarrow := !(width = 16 && rate = 32) }
  (s1.updDict fun d => { d with portUp := ports }).updService fun v => { v with served := true }

/-- Every cluster holds verified microcode or is out (R379). -/
def microcodeLoaded (s : State) : Bool :=
  s.service.mapBuilt && s.service.loaders.all fun (e : Nat × Loader) => e.2.done

/-- Retire a channel, which retrains no more; a second one takes its stack out of service, within the window of R17
(R184). -/
def State.retireChannel (s : State) (stack ch : Nat) : State :=
  let gone (c : Nat) : Bool := c / 32 = stack && ((mget s.mem.retired stack).isSome || c % 32 = ch)
  let s0 := s.updMem fun m =>
    { m with retrainQueue := m.retrainQueue.filter fun c => !gone c,
             retraining := m.retraining.filter fun (e : Nat × Nat) => !gone (32 * e.1 + e.2) }
  let s1 := match mget s0.mem.retired stack with
    | some _ => s0.updService fun v => { v with stacksOut := ninsert v.stacksOut stack, mapGeneration := v.mapGeneration + 2 }
    | none => s0.updMem fun m => { m with retired := mset m.retired stack ch }
  s1.withdrawPages

/-- Rows a memory unit has repaired since it last told (R184, R189; log 120). -/
def State.noteRepairs (s : State) (unit n : Nat) : State :=
  if n = 0 then s
  else s.updMem fun m => { m with rowsRepaired := mset m.rowsRepaired unit (mgetD m.rowsRepaired unit 0 + n) }

/-- The memory state begins: the chips boot (R252, R374). -/
def State.enterMemory (s : State) : State :=
  (s.updService fun v => { v with springState := (List.range 4).map fun n => (n, 1) }).enterState 5

/-- The memory state ends (R184, R376, R395). -/
def State.endMemory (s : State) (channels repairs : List (Nat × Nat)) (chips : List Nat) : State :=
  let s0 := repairs.foldl (fun s r => s.noteRepairs (r.1 % 24) r.2) s
  let s1 := channels.foldl (fun s c => s.retireChannel (c.1 % 20) (c.2 % 32)) s0
  if !s1.service.stacksOut.isEmpty then s1.stopBringUp 6
  else
    let image := slotVerifies s 3 (fwOf s 3).active
    let s2 := s1.updService fun v =>
      { v with springState := (List.range 4).map fun n => (n, if image && !chips.contains n then 2 else 4) }
    (s2.enterState 6).trainAll

/-! ### The logical map (R378, R379) -/

/-- The free spare nearest to a column, the lower on a tie (R378). -/
def nearestSpare (free_ : List Nat) (x : Nat) : Option Nat :=
  let dist (a : Nat) : Nat := (a - x) + (x - a)
  free_.foldl (fun (acc : Option Nat) a =>
    match acc with
    | none => some a
    | some b => if dist a < dist b then some a else some b) none

/-- Back one logical tile (R378): the map so far and the free spares of its die. -/
def backTile (bad : List Nat) (acc : SMap Nat × List Nat) (l : Nat) : SMap Nat × List Nat :=
  let p := nominalOf l
  if !bad.contains p then (mset acc.1 l p, acc.2)
  else
    match nearestSpare acc.2 (p % 16) with
    | some x => (mset acc.1 l (336 * dieOf l + 320 + x), acc.2.filter (· ≠ x))
    | none => acc

/-- Back the tiles of one die (R378). -/
def backDie (bad : List Nat) (m : SMap Nat) (d : Nat) : SMap Nat :=
  let spares := (List.range 16).filter fun x => !bad.contains (336 * d + 320 + x)
  ((List.range 320).foldl (fun acc l => backTile bad acc (320 * d + l)) (m, spares)).1

/-- The chunks of a microcode payload, each with the hash that follows it (R379). -/
def chunksOf (fuel : Nat) (bs : List Byte) : List (List Byte) :=
  match fuel with
  | 0 => []
  | k + 1 => if bs.isEmpty then [] else bs.take 4096 :: chunksOf k (bs.drop 4144)

/-- BIST_COMPLETE (R376, R378, R379): the map is built and the manifest verified, and the clusters await the microcode;
where no slot of it verifies, bring-up stops. -/
def execBistComplete (result : BistResult) (s : State) : Host.Outcome State Fault Refusal :=
  .next <|
    if !bringingUp s || s.service.bringUp ≠ 4 || s.service.mapBuilt then s
    else
      let bad := s.service.fusedBad ++ result.failed
      let state (p : Nat) : Nat := if s.service.fusedBad.contains p then 3 else 4
      let s1 := s.updService fun v =>
        { v with backing := (List.range 4).foldl (backDie bad) [], mapBuilt := true, mapGeneration := 0,
                 yield_ := bad.foldl (fun m p => mset m p (state p)) [] }
      let x := (fwOf s 2).active
      if !result.manifestOk || !slotVerifies s1 2 x then s1.stopBringUp 5
      else
        s1.updService fun v =>
          { v with loaders := ((List.range 80).filter fun c => clusterTiles s1 c ≠ 0).map fun c =>
              (c, { expect := x.hash, mismatches := 0, done := false }) }

/-- The maps change, within the window of R17. -/
def State.remap (s : State) (f : SMap Nat → SMap Nat) : State :=
  s.updService fun v => { v with backing := f v.backing, mapGeneration := v.mapGeneration + 2 }

/-- MICROCODE_CHUNK (R379): a chunk of 4 KiB that hashes to the hash held is kept, and the hash carried with it is held
next; three mismatches on one chunk take the cluster out. -/
def execMicrocodeChunk (cluster : Nat) (chunk : List Byte) (nextHash : BitVec 384) (s : State) :
    Host.Outcome State Fault Refusal :=
  .next <|
    match mget s.service.loaders cluster with
    | none => s
    | some x =>
      if !bringingUp s || x.done then s
      else if chunk.length = 4096 && Config.sha384 chunk = x.expect then
        let y : Loader := { expect := nextHash, mismatches := 0, done := nextHash = 0, image := x.image ++ [chunk] }
        s.updService fun v => { v with loaders := mset v.loaders cluster y }
      else if x.mismatches < 2 then
        s.updService fun v => { v with loaders := mset v.loaders cluster { x with mismatches := x.mismatches + 1 } }
      else
        (s.updService fun v =>
          { v with loaders := merase v.loaders cluster, clustersOut := ninsert v.clustersOut cluster }).remap
          fun m => m.filter fun (e : Nat × Nat) => clusterOf e.1 ≠ cluster

/-- Microcode a tile runs or is reloaded with: what its cluster's loader keeps (R92, R379). -/
def microcodeOf (s : State) (l : Nat) : List (List Byte) :=
  match mget s.service.loaders (clusterOf l) with
  | some x => if x.done then x.image else []
  | none => []

/-! ### Tiles that fail in service (R378, R391) -/

/-- A tile's physical tile is lost: the nearest free spare backs it, or it leaves its clearing (R378, R391). -/
def State.replaceTile (s : State) (l : Nat) : State :=
  match mget s.service.backing l with
  | none => s
  | some p =>
    let d := dieOf l
    let spares := (List.range 16).filter fun x => physState s (336 * d + 320 + x) = 1
    let s1 := s.updService fun v => { v with yield_ := mset v.yield_ p 5 }
    match nearestSpare spares (nominalOf l % 16) with
    | some x => s1.remap fun m => mset m l (336 * d + 320 + x)
    | none =>
      let s2 := (s1.remap fun m => merase m l).withdrawTile l 0
      (s2.degrade (sourcePath 0 l 0 0) (logicalTiles s2)).regrade

/-! ### Partial resets (R18, R20, R380–R382) -/

/-- Tiles of a scope. -/
def scopeTiles (sc : Scope) : List Nat :=
  match sc with
  | .tile n => [n]
  | .cluster n => (List.range 16).map (16 * n + ·)
  | .region n => (List.range 64).map (64 * n + ·)
  | .die n => (List.range 320).map (320 * n + ·)
  | .spring _ => []

/-- A scope of the module, holding something to reset. -/
def scopeValid (s : State) (sc : Scope) : Bool :=
  match sc with
  | .tile n => n < 1280 && tilePresent s n
  | .cluster n => n < 80
  | .region n => n < 20
  | .die n => n < 4
  | .spring n => n < 4

/-- Attempts open in the scope have not contributed: they end without publication (R381). -/
def State.markReset (s : State) (sc : Scope) : State :=
  let ts := distinct ((scopeTiles sc).filterMap (ownerOf s))
  ts.foldl (fun s t => [0, 1, 2, 3].foldl (fun s p =>
    if (setAt s t p).state = 1 && !(setAt s t p).contributed then s.updSet t p fun x => { x with resetSeen := true } else s) s) s

/-- A reset begins: its fence stands; a scope already being reset, alone or in a wider one, begins nothing (R380,
R383). -/
def State.startReset (s : State) (sc : Scope) (faulty : Option Nat) : State :=
  if scopeResetting s sc then s
  else
    let s1 := (s.markReset sc).updService fun v => { v with resets := v.resets ++ [{ scope := sc, clearing := false, faulty := faulty }] }
    match sc with
    | .spring n => if chipState s n = 4 then s1 else s1.updService fun v => { v with springState := mset v.springState n 3 }
    | _ => s1

/-- Source path that reports a fatal fault of a scope (R367). -/
def scopeSource (sc : Scope) (faulty : Option Nat) : W32 :=
  match faulty, sc with
  | some l, _ => sourcePath 0 l 0 0
  | none, .tile n => sourcePath 0 n 0 0
  | none, .cluster n => sourcePath 1 n 0 0
  | none, .region n => sourcePath 2 n 4 0
  | none, .die n => sourcePath 3 n 4 0
  | none, .spring n => sourcePath 3 n 2 0

/-- The module resets a scope itself on a fatal fault of it: never a tile alone, which its cluster recovers (R31). -/
def faultScope (s : State) (sc : Scope) (faulty : Option Nat) : Bool :=
  scopeValid s sc && (faulty.all fun l => (scopeTiles sc).contains l) &&
    (match sc with
     | .tile _ => false
     | _ => true)

/-- HARDWARE_FATAL_FAULT (R20, R31, R370, R380): the module resets the scope itself and reports the fault. -/
def execHardwareFatalFault (scope : Scope) (faultyTile : Option Nat) (s0 : State) : Host.Outcome State Fault Refusal :=
  .next <|
    if !faultScope s0 scope faultyTile || s0.service.bringUp < 7 then s0
    else (s0.redraw.report (scopeSource scope faultyTile) 3 0 none 0).startReset scope faultyTile

/-- Drop what a region's translation unit holds (R18). -/
def State.dropTlb (s : State) (p : TlbEntry → Bool) : State := s.updMem fun m => { m with tlb := m.tlb.filter fun e => !p e }

/-- Clear a tile of a resetting scope: its work ends, and it is scrubbed and keeps its owner (R18, R380). -/
def State.clearTile (s : State) (l : Nat) : State := if tilePresent s l then ((s.endTileWork l).scrubTile l).loseMulticast l else s

/-- Sets of a tenant with a layer on a chip. -/
def setsOnChip (s : State) (n : Nat) : List (Nat × Nat) :=
  s.tenants.flatMap fun (e : Nat × Tenant) =>
    ([0, 1, 2, 3].filter fun p => (owningChips s e.1 p).contains n).map fun p => (e.1, p)

/-- A frozen spring-chip job on a chip that is reset ends: its record goes, and its set stays as a release leaves it, an
unrecoverable one as a discard (R364; log 121). -/
def State.clearJobs (s : State) (n : Nat) : State :=
  (setsOnChip s n).foldl (fun s e =>
    match (tenantAt s e.1).freezes.find? fun r => r.master = jobMaster e.2 with
    | some r => s.releaseJob e.1 e.2 r.cause (r.cause = 0x22)
    | none => s) s

/-- Clear a scope (R18). -/
def State.clearScope (s : State) (sc : Scope) : State :=
  let s1 := (scopeTiles sc).foldl (fun s l => s.clearTile l) s
  match sc with
  | .region n => s1.dropTlb fun e => e.region = n
  | .die n =>
    let s2 := s1.dropTlb fun e => e.region / 5 = n
    (s2.mem.dir.filter fun (e : Nat × Way) => e.1 / 4194304 = n).foldl (fun s (e : Nat × Way) => s.dropWay e.1) s2
  | .spring n => s1.clearJobs n
  | _ => s1

/-- RESET_DRAIN_END (R380). -/
def execResetDrainEnd (scope : Scope) (s0 : State) : Host.Outcome State Fault Refusal :=
  .next <|
    if !(s0.service.resets.any fun r => r.scope = scope && !r.clearing) then s0
    else
      (s0.redraw.clearScope scope).updService fun v =>
        { v with resets := v.resets.map fun r => if r.scope = scope then { r with clearing := true } else r }

/-- The faulty tile of a reset is replaced where its BIST fails or it was shut off (R380, R414). -/
def State.replaceFaulty (s : State) (faulty : Option Nat) (bistFailed : Bool) : State :=
  match faulty with
  | none => s
  | some l =>
    match mget s.service.backing l with
    | some p => if bistFailed || mget s.service.yield_ p = some 5 then (s.replaceTile l) else s
    | none => s

/-- RESET_SCOPE_BACK (R380, R383): the scope serves again once every tile of it is reseeded (R117). -/
def execResetScopeBack (scope : Scope) (bistFailed : Bool) (s0 : State) : Host.Outcome State Fault Refusal :=
  .next <|
    match s0.service.resets.find? fun r => r.scope = scope && r.clearing with
    | none => s0
    | some r =>
      if (scopeTiles scope).any fun l => s0.globals.reseedPending.contains l then s0
      else
        let s1 := s0.redraw.replaceFaulty r.faulty bistFailed
        let s2 := s1.updService fun v => { v with resets := v.resets.filter fun x => x.scope ≠ scope }
        let s3 := match scope with
          | .spring n => if chipState s2 n = 3 then s2.restartChip n else s2
          | _ => s2
        s3.resumeSets.regrade.settleAcks

/-- Scope of a `ResetRequest` value (R383). -/
def scopeOf (v : Nat) : Option Scope :=
  let n := bits v 10 0
  match bits v 31 28 with
  | 0 => some (.tile n)
  | 1 => some (.cluster n)
  | 2 => some (.region n)
  | 3 => some (.die n)
  | 4 => some (.spring n)
  | _ => none

/-- Write `ResetRequest` (R383). -/
def writeReset (s : State) (v : Nat) : Written :=
  match scopeOf v with
  | some sc => if bits v 27 11 ≠ 0 || !scopeValid s sc then .refused else .wait (s.startReset sc none) (.reset sc)
  | none => .refused

/-! ### Withdrawals (R358, R391) -/

/-- Links of an optical engine (R258). -/
def engineLinks (k : Nat) : List Nat :=
  (List.range 4).map (20 + 4 * k + ·) ++ (List.range 4).map (68 + 4 * ((k + 1) % 7) + ·)

/-- Links of an engine leave ready, into a state. -/
def State.engineDown (s : State) (k st : Nat) : State :=
  (engineLinks k).foldl (fun s l => if (linkAt s l).dimension ≤ 11 && (linkAt s l).state ≠ 0 then s.leaveReady l st else s) s

/-- A chip is lost: its sets cannot vote clean (R238, R358, R391). -/
def State.loseChip (s : State) (n : Nat) : State :=
  let s1 := s.updService fun v => { v with springState := mset v.springState n 4 }
  let ts := distinct ((s.globals.layerSlots.filter fun (e : Nat × W64) => e.1 / 1024 = n).filterMap
    fun (e : Nat × W64) => slotTenant e.2.toNat)
  ts.foldl (fun s t => s.setShortfall t 3) s1

/-- Part and record of a withdrawal (R358, R391). A lost package takes its chip with it, and freezes every set whose
layers the chip alone holds (R29). -/
def State.withdraw (s : State) (w : Withdrawal) : State :=
  match w with
  | .tile l => if tilePresent s l then ((s.endTileWork l).replaceTile l) else s
  | .channel st ch =>
    if st ≥ 20 || ch ≥ 32 || s.service.stacksOut.contains st || mget s.mem.retired st = some ch then s
    else
      let s1 := s.retireChannel st ch
      s1.degrade (sourcePath 2 st 1 ch) (if s1.service.stacksOut.contains st then 0 else 31)
  | .setGroup k =>
    if k ≥ 4096 || s.mem.groupsOut.contains k then s
    else
      let s1 := s.withdrawGroup k
      s1.degrade (sourcePath 3 (k / 1024) 1 0) (4096 - s1.mem.groupsOut.length)
  | .spring n =>
    if n ≥ 4 || chipState s n = 4 then s else (s.loseChip n).degrade (sourcePath 3 n 2 0) 0
  | .package n k =>
    if n ≥ 4 || k ≥ 8 || s.service.packagesOut.contains (8 * n + k) then s
    else
      let s1 := (s.loseChip n).updService fun v => { v with packagesOut := ninsert v.packagesOut (8 * n + k) }
      ((setsOnChip s1 n).foldl (fun s e => s.freezeJob e.1 e.2 0x22 0 none) s1).degrade (sourcePath 3 n 2 k)
        (8 - (s1.service.packagesOut.filter fun x => x / 8 = n).length)
  | .region r =>
    if r ≥ 20 || s.service.translationOut.contains r then s
    else
      let s1 := s.updService fun v => { v with translationOut := ninsert v.translationOut r, gatherOut := ninsert v.gatherOut r,
                                               mapGeneration := v.mapGeneration + 2 }
      let ls := (List.range 64).map (64 * r + ·)
      let s2 := (ls.foldl (fun s l => s.withdrawTile l 4) s1).loseExclusive r
      (s2.dropTlb fun e => e.region = r).degrade (sourcePath 2 r 3 0) 0
  | .engine k =>
    if k ≥ 7 || s.service.enginesFailed.contains k then s
    else
      ((s.updService fun v => { v with enginesFailed := ninsert v.enginesFailed k }).engineDown k 8).degrade (sourcePath 4 0 7 k) 0

/-- MODULE_WITHDRAWAL (R358, R391). -/
def execModuleWithdrawal (w : Withdrawal) (s0 : State) : Host.Outcome State Fault Refusal :=
  .next (if s0.service.bringUp < 7 then s0 else (s0.redraw.withdraw w).regrade.settleAcks)

end Sys2Proof.Machine
end

