-- ==== Sys2Proof/Machine/Firmware.lean ====
section
/-!
DEFINITION. Service jobs (R385, R386, R388, R389), laser cartridges (R390), and Lodges that restart or fail
(R351, R388).
-/

namespace Sys2Proof.Machine

/-! ### Jobs (R385, R386) -/

/-- Change the service job. -/
def State.updJob (s : State) (f : Job → Job) : State := s.updService fun v => { v with job := f v.job }

/-- The job ends as done. -/
def State.jobDone (s : State) : State := s.updJob fun j => { j with phase := 2 }

/-- The job ends as failed, for a reason (R386). -/
def State.jobFails (s : State) (reason : Nat) : State :=
  let j := s.service.job
  let s1 := s.updJob fun x => { x with phase := 3, reason := reason }
  if j.kind = 2 then s1.updFw j.image fun x => { x with pending := false } else s1

/-- A unit of the job is finished. -/
def State.jobUnit (s : State) : State := s.updJob fun j => { j with progress := j.progress + 1 }

/-- Result code of the last install or activation of an image (R384). -/
def State.setResult (s : State) (i code : Nat) : State := s.updFw i fun x => { x with lastResult := code }

/-- Slot entries of a move job, source and destination. -/
def moveSlots (s : State) : Nat × Nat :=
  let j := s.service.job
  (slotEntry s j.srcChip j.srcSlot, slotEntry s j.dstChip j.dstSlot)

/-- A move job breaks reason 3 of R386. -/
def moveBad (s : State) : Bool :=
  let (a, b) := moveSlots s
  match slotTenant a, slotTenant b with
  | some t, some u => t ≠ u || bits b 33 17 < bits a 33 17 || [0, 1, 2, 3].any fun p => !setIdle s t p
  | _, _ => true

/-- Why an inactive slot does not verify when it is activated (R395): a code, or 0. -/
def activateCode (s : State) (i : Nat) : Nat :=
  let x := (fwOf s i).inactive
  if !x.valid || s.heartwood.revoked.getLsbD x.keySlot then 2 else if x.svn < rollbackOf s i then 3 else 0

/-- Every cluster's loader keeps the microcode of the slot that becomes active (R92, R388). -/
def State.keepMicrocode (s : State) : State :=
  let bs := (fwOf s 2).inactive.payload
  let kept := chunksOf (bs.length / 4144 + 1) bs
  s.updService fun v => { v with loaders := v.loaders.map fun (e : Nat × Loader) => (e.1, { e.2 with image := kept }) }

/-- The active slot of an image changes (R388). -/
def State.flipImage (s0 : State) (i : Nat) : State :=
  let s := if i = 2 then s0.keepMicrocode else s0
  (s.updFw i fun x => { x with activeB := !x.activeB, pending := false, deferred := false, lastResult := 1 }).jobDone

/-- Begin a link's turn of an activation: it leaves ready and trains (R388). -/
def State.trainLinks (s : State) (ls : List Nat) : State :=
  ls.foldl (fun s l => if (linkAt s l).dimension ≤ 11 && (linkAt s l).state ≠ 0 then s.orderTraining l else s) s

/-- Begin the first or next unit of the running job. -/
def State.beginUnit (s : State) : State :=
  let j := s.service.job
  match j.kind, j.image with
  | 2, 4 => s.trainLinks [j.progress]
  | 2, 5 => s.trainLinks (engineLinks j.progress)
  | 4, _ => s.engineDown j.cartridge 8
  | 5, _ => s
  | _, _ => s

/-- Begin an activation (R386, R388). -/
def State.beginActivate (s : State) : State :=
  let j := s.service.job
  let x := fwOf s j.image
  let code := activateCode s j.image
  if code ≠ 0 then (s.setResult j.image code).jobFails 1
  else if j.defer_ then (s.updFw j.image fun y => { y with deferred := true, lastResult := 1 }).jobDone
  else if x.inactive.compat ≠ x.active.compat then (s.setResult j.image 5).jobFails 2
  else (s.updFw j.image fun y => { y with pending := true }).beginUnit

/-- Begin a job (R385, R386). -/
def State.beginJob (s : State) (j : Job) : State :=
  let s1 := s.updService fun v => { v with job := { j with phase := 1 } }
  match j.kind with
  | 2 => s1.beginActivate
  | 3 => if moveBad s1 then s1.jobFails 3 else s1
  | 4 => if cartridgeAt s1 j.cartridge = 0 then s1.beginUnit else s1.jobFails 5
  | 5 => if cartridgeAt s1 j.cartridge = 3 then s1 else s1.jobFails 5
  | _ => s1

/-- The job a value of `ServiceJob` asks for (R385). -/
def jobOf (v : Nat) : Job :=
  { kind := bits v 63 56, image := bits v 55 48, defer_ := bit v 47, srcChip := bits v 35 34, srcSlot := bits v 33 24,
    dstChip := bits v 23 22, dstSlot := bits v 21 12, cartridge := bits v 2 0 }

/-- A role may write a kind of job (R385). -/
def jobRole (role kind : Nat) : Bool :=
  if kind = 1 || kind = 2 then role = 4 || role = 5 else (3 ≤ kind && kind ≤ 5) && (role = 3 || role = 5)

/-- A job value breaks R385 or R388. -/
def jobBad (v : Nat) : Bool :=
  let j := jobOf v
  bits v 46 36 ≠ 0 || bits v 11 3 ≠ 0 ||
    (if j.kind ≤ 2 then j.image < 1 || j.image > 6 || (j.kind = 2 && j.image = 6 && !j.defer_) else j.image ≠ 0) ||
    ((j.kind = 4 || j.kind = 5) && j.cartridge > 6)

/-- Write `ServiceJob` (R385): acknowledged when the job starts. -/
def writeJob (s : State) (role v : Nat) : Written :=
  if !jobRole role (jobOf v).kind then .notPermitted
  else if s.service.job.phase = 1 then .busy
  else if jobBad v then .refused
  else .ok ((s.beginJob (jobOf v)).regrade)

/-! ### Units of a job (R386, R388–R390) -/

/-- An install ends: the staged image is verified, and written to the inactive slot (R384, R395). -/
def State.endInstall (s : State) : State :=
  let i := s.service.job.image
  let (code, img) := verifyStaged s i
  if code ≠ 0 then (s.setResult i code).jobFails 1
  else ((s.updFw i fun x => { x.setInactive img with lastResult := 1 }).jobUnit).jobDone

/-- A unit of an activation is over, and the next begins (R388). -/
def State.nextUnit (s : State) (count : Nat) : State :=
  let s1 := s.jobUnit
  if s1.service.job.progress ≥ count then s1.flipImage s1.service.job.image else s1.beginUnit

/-- No block is resident on a cluster's tiles. -/
def clusterEmpty (s : State) (c : Nat) : Bool := (List.range 16).all fun i => (tileAt s (16 * c + i)).blocks.isEmpty

/-- Every set with a layer on a chip is off or paused (R388). -/
def chipFree (s : State) (n : Nat) : Bool :=
  s.tenants.all fun (e : Nat × Tenant) => [0, 1, 2, 3].all fun p => setIdle s e.1 p || !(owningChips s e.1 p).contains n

/-- Links are neither training nor gating. -/
def linksIdle (s : State) (ls : List Nat) : Bool := ls.all fun l => (linkAt s l).state ≠ 1 && (linkAt s l).state ≠ 2

/-- A Lodge begins to hand over: its sessions stay with their keys, its open transfers are cancelled (R337, R346, R388). -/
def State.handOver (s : State) : State :=
  (s.updService fun v => { v with handing := true }).updDict fun d => { d with transfers := [] }

/-- One unit of an activation is done, where what it waits for has come; the Lodge's begins the handover, which
LODGE_RETURNS ends (R388). -/
def State.activateUnit (s : State) : Option State :=
  let j := s.service.job
  let n := j.progress
  match j.image with
  | 1 => if s.service.handing then none else some s.handOver
  | 2 => if clusterEmpty s n then some (s.nextUnit 80) else none
  | 3 => if chipFree s n then some ((if chipState s n = 4 then s else s.restartChip n).nextUnit 4) else none
  | 4 => if linksIdle s [n] then some (s.nextUnit 96) else none
  | _ => if linksIdle s (engineLinks n) then some (s.nextUnit 7) else none

/-- One 2 MiB unit of a move job: copied, and at the end the source is zeroed (R389). A word that cannot be
corrected fails the job; the reason code is not stated (R386). -/
def State.moveUnit (s : State) (bad : Bool) : State :=
  let j := s.service.job
  let a := slotBase s j.srcChip j.srcSlot + 2 ^ 21 * j.progress
  let b := slotBase s j.dstChip j.dstSlot + 2 ^ 21 * j.progress
  let n := bits (moveSlots s).1 33 17
  if j.progress ≥ n then (s.zeroSlot j.srcChip (moveSlots s).1).jobDone
  else if bad || s.service.packagesOut.any (fun k => k / 8 = j.srcChip) || readBad s.mem.slowBad a (2 ^ 21) then s.jobFails (free s 5500 % 256)
  else
    let s1 := (s.slowWrite b (readBytes s.mem.slow a (2 ^ 21))).jobUnit
    if j.progress + 1 ≥ n then (s1.zeroSlot j.srcChip (moveSlots s).1).jobDone else s1

/-- The Lodge's requests of a move wait for a package that retrains or a chip that is reset (R187, R381, R382). -/
def moveHeld (s : State) : Bool :=
  let j := s.service.job
  let off := 2 ^ 21 * j.progress
  slowWaits s (slotBase s j.srcChip j.srcSlot + off) (2 ^ 21) || slowWaits s (slotBase s j.dstChip j.dstSlot + off) (2 ^ 21) ||
    scopeResetting s (.spring j.srcChip) || scopeResetting s (.spring j.dstChip)

/-- A unit of the running job ends; none where what it waits for has not come. -/
def State.endUnit (s : State) (r : UnitResult) : Option State :=
  let j := s.service.job
  match j.kind, r with
  | 1, .notVerified code => some ((s.setResult j.image code).jobFails 1)
  | 2, .notVerified code => some ((s.setResult j.image code).jobFails 1)
  | 1, _ => some s.endInstall
  | 2, _ => s.activateUnit
  | 3, _ => if moveHeld s then none else some (s.moveUnit (r = .uncorrectable))
  | 4, _ =>
    some (if mgetD s.service.cartridges j.cartridge 0 = 0 then
        (s.updService fun v => { v with cartridges := mset v.cartridges j.cartridge 1 }).jobUnit.jobDone
      else s.jobFails 5)
  | _, _ =>
    if mgetD s.service.cartridges j.cartridge 0 = 5 then
      some (((s.updService fun v => { v with cartridges := merase v.cartridges j.cartridge }).trainLinks
        (engineLinks j.cartridge)).jobUnit.jobDone)
    else if mgetD s.service.cartridges j.cartridge 0 = 3 then none
    else some (s.jobFails 5)

/-- SERVICE_JOB_UNIT_COMPLETE (R385, R386). -/
def execServiceJobUnitComplete (r : UnitResult) (s0 : State) : Host.Outcome State Fault Refusal :=
  .next <|
    if s0.service.job.phase ≠ 1 || s0.service.lodgeAway then s0
    else
      match s0.redraw.endUnit r with
      | some s => s.regrade.settleAcks
      | none => s0

/-! ### Cartridges (R288, R390) -/

/-- CARTRIDGE_PULLED (R288, R390). -/
def execCartridgePulled (k : Nat) (s : State) : Host.Outcome State Fault Refusal :=
  .next <|
    if k ≥ 7 || cartridgeAt s k = 2 then s
    else ((s.updService fun v => { v with cartridges := mset v.cartridges k 2 }).engineDown k 8).regrade.settleAcks

/-- CARTRIDGE_INSERTED (R390): its identity is read, and the laser warms. -/
def execCartridgeInserted (k : Nat) (identityOk : Bool) (s : State) : Host.Outcome State Fault Refusal :=
  .next <|
    if k ≥ 7 || cartridgeAt s k ≠ 2 then s
    else (s.updService fun v => { v with cartridges := mset v.cartridges k (if identityOk then 3 else 4) }).regrade

/-- CARTRIDGE_WARM_UP_END (R390). -/
def execCartridgeWarmUpEnd (k : Nat) (ok : Bool) (s : State) : Host.Outcome State Fault Refusal :=
  .next <|
    if k ≥ 7 || mgetD s.service.cartridges k 0 ≠ 3 then s
    else (s.updService fun v => { v with cartridges := mset v.cartridges k (if ok then 5 else 4) }).regrade

/-! ### Lodges that go away (R346, R351, R388) -/

/-- The Lodge goes away: its sessions, handshakes and transfers are lost, requests not answered stay so until it
returns, and a running job fails (R346, R351, R386). -/
def State.loseLodge (s : State) : State :=
  let s1 := (s.closeSessions fun _ => true).updDict fun d => { d with transfers := [], reassembly := [], lodgeFrames := [] }
  let s2 := s1.updService fun v => { v with lodgeAway := true, handing := false }
  if s2.service.job.phase = 1 then s2.jobFails 4 else s2

/-- LODGE_RESTART (R351). -/
def execLodgeRestart (s : State) : Host.Outcome State Fault Refusal :=
  .next (if lodgeRuns s then s.loseLodge else s)

/-- LODGE_WATCHDOG_EXPIRY (R351, R388): the standby Lodge boots from the active slot. -/
def execLodgeWatchdogExpiry (s : State) : Host.Outcome State Fault Refusal :=
  .next <|
    if s.service.bringUp ≥ 2 && !s.power.packageOff then
      s.loseLodge.updService fun v => { v with activeLodge := 1 - v.activeLodge }
    else s

end Sys2Proof.Machine
end

