-- ==== Sys2Proof/Machine/Power.lean ====
section
/-!
DEFINITION. Islands, power and pins (R412–R415, R419, R424), and the rows of throttling, shut-off and power loss.
-/

namespace Sys2Proof.Machine

/-! ### Throttling (R412, R413) -/

/-- Step and floor of a throttling island, MHz; none for a fixed one (R412). -/
def throttleStep (i : Nat) : Option (Nat × Nat) :=
  if i < 1344 || (1472 ≤ i && i < 1476) then some (25, 100) else if i < 1448 then some (50, 200) else none

/-- Replace an island. -/
def State.setIsland (s : State) (i : Nat) (x : Island) : State := s.updPower fun p => { p with islands := mset p.islands i x }

/-- The island runs. -/
def islandOn (s : State) (i : Nat) : Bool := islandPowered s i && ((islandAt s i).state = 1 || (islandAt s i).state = 2)

/-- ISLAND_THROTTLE_DOWN (R413): one step for each 4,096 cycles at or above 105 °C. -/
def execIslandThrottleDown (island cycles : Nat) (temperature : Int) (s : State) : Host.Outcome State Fault Refusal :=
  .next <|
    match throttleStep island with
    | none => s
    | some (step, low) =>
      let x := islandAt s island
      if temperature < 105 || !islandOn s island then s
      else
        let n := (if x.temp ≥ 105 then x.since else 0) + cycles
        if n < 4096 then s.setIsland island { x with temp := temperature, since := n }
        else if x.freq ≤ low then s.setIsland island { x with temp := temperature, since := 0 }
        else
          s.setIsland island
            { temp := temperature, freq := max low (x.freq - step), state := 2, since := 0,
              throttles := if x.state = 1 then satAdd 8 x.throttles 1 else x.throttles }

/-- ISLAND_THROTTLE_UP (R413): one step for each 65,536 cycles at or below 100 °C. -/
def execIslandThrottleUp (island cycles : Nat) (temperature : Int) (s : State) : Host.Outcome State Fault Refusal :=
  .next <|
    match throttleStep island with
    | none => s
    | some (step, _) =>
      let x := islandAt s island
      if temperature > 100 || !islandOn s island || x.state ≠ 2 then s
      else
        let n := (if x.temp ≤ 100 then x.since else 0) + cycles
        if n < 65536 then s.setIsland island { x with temp := temperature, since := n }
        else
          let f := min (islandMax island) (x.freq + step)
          s.setIsland island { x with temp := temperature, freq := f, since := 0, state := if f = islandMax island then 1 else 2 }

/-! ### Power loss and shut-off (R384, R414, R415, R419) -/

/-- An install in progress leaves its slot invalid (R384, R415). -/
def State.tornInstall (s : State) : State :=
  let j := s.service.job
  if j.kind = 1 && j.phase = 1 then s.updFw j.image fun x => x.setInactive { x.inactive with valid := false } else s

/-- Everything stops: flash, fuses and the reservation records stay, and all else is as after reset. -/
def State.powerOff (s : State) : State :=
  let s1 := s.tornInstall
  let h := s.heartwood
  { State.reset with
    pending := s.pending, draws := s.draws,
    service := { firmware := s1.service.firmware, fusedBad := s.service.fusedBad },
    heartwood := { recordA := h.recordA, recordB := h.recordB, rollback := h.rollback, revoked := h.revoked,
                   powerOns := h.powerOns, killed := h.killed, next := reservedTo h },
    power := { shutoffs := s.power.shutoffs, savedFatal := s.power.savedFatal } }

/-- Package shut-off (R415): a fatal record is saved, every island but Heartwood's stops, and the module stays off. -/
def State.packageShutoff (s : State) : State :=
  let src := sourcePath 4 0 9 0
  let r : Report := { source := src, cls := 3, cause := 0, tenant := none, detail := 0, seq := 0, stamp := stampOf s src }
  let s1 := s.powerOff
  { s1 with heartwood := s.heartwood }.updPower fun p => { p with packageOff := true, savedFatal := some r }

/-- PWR_CYCLE_N (R415, R424). -/
def execPwrCycleN (heldMs : Nat) (s : State) : Host.Outcome State Fault Refusal :=
  .next (if heldMs ≥ 100 then s.powerOff else s)

/-- INPUT_OUT_OF_RANGE (R415, R419): below 38 V or above 60 V every island stops, and no record is kept; an input
that goes ends a package shut-off. -/
def execInputOutOfRange (millivolts : Nat) (s : State) : Host.Outcome State Fault Refusal :=
  .next <|
    if millivolts < 38000 then s.powerOff
    else if millivolts > 60000 then s.powerOff.updPower fun p => { p with packageOff := s.power.packageOff }
    else s

/-! ### Pins (R424) -/

/-- MOD_READY is asserted. -/
def pinReady (s : State) : Bool := s.service.bringUp ≥ 7
/-- MOD_FAULT_N is asserted. -/
def pinFault (s : State) : Bool := s.service.stopped || s.power.packageOff
/-- FAULT_CODE. -/
def pinFaultCode (s : State) : Nat := if s.power.packageOff then 7 else if s.service.stopped then s.service.fault else 0
/-- THERM_N is asserted. -/
def pinTherm (s : State) : Bool := s.power.islands.any fun (e : Nat × Island) => e.2.state = 2

/-- A tile's island is shut off: the tile fails in service (R414). -/
def State.shutTile (s : State) (p : Nat) : State :=
  match backedBy s p with
  | none => s.updService fun v => { v with yield_ := mset v.yield_ p 5 }
  | some l =>
    if scopeResetting s (.cluster (clusterOf l)) then ((s.endTileWork l).replaceTile l)
    else
      ((s.report (sourcePath 0 l 0 0) 3 0 none 0).updService fun v => { v with yield_ := mset v.yield_ p 5 }).startReset
        (.cluster (clusterOf l)) (some l)

/-- ISLAND_SHUTOFF (R414). -/
def execIslandShutoff (island : Nat) (temperature : Int) (s0 : State) : Host.Outcome State Fault Refusal :=
  .next <|
    if temperature < 115 || island > 1480 || !islandOn s0 island then s0
    else
      let s := s0.redraw.updPower fun p => { p with shutoffs := satAdd 32 p.shutoffs 1 }
      let off := s.setIsland island { islandAt s island with temp := temperature, freq := 0, state := 3 }
      if island < 1344 then off.shutTile island
      else if 1472 ≤ island && island < 1476 then
        (if chipState off (island - 1472) = 4 then off
         else off.updService fun v => { v with springState := mset v.springState (island - 1472) 3 })
      else s.packageShutoff

end Sys2Proof.Machine
end

