-- ==== Sys2Proof/Machine/SetControl.lean ====
section
/-!
DEFINITION. What writes of a parameter set's objects do (R223, R225, R234, R236, R246, R250, R253, R254, R429).
-/

namespace Sys2Proof.Machine

/-- Write `ParameterSetMode`: entering a mode asks for an attempt (R234, R236, R253, R429). -/
def writeMode (s : State) (t p v : Nat) : Written :=
  let x := setAt s t p
  if v > 2 || (v ≠ 0 && (setStateRead s t p = 8 || x.attBlock = 0)) then .refused
  else if v = 0 then
    .ok (((s.leaveOpens t p).updSet t p fun y => { y with mode := 0, pausePending := false }).rest t p
      (if setStateRead s t p = 8 then 8 else 0))
  else if v = x.mode then .ok s
  else .ok ((s.updSet t p fun y => { y with mode := v }).wantOpen t p)

/-- A block of 64 or 128 bytes translates with `r` and `w` to bytes of this module's own slot (R429). -/
def blockReachable (s : State) (t va : Nat) : Bool :=
  match ownPlace s t va .rw with
  | .ok _ => true
  | _ => false

/-- Write `GenerationBlockAddress` (R429). -/
def writeGenBlock (s : State) (t p v : Nat) : Written :=
  if v ≠ 0 && (v % 64 ≠ 0 || !blockReachable s t v) then .refused
  else .ok (s.updSet t p fun y => { y with genBlock := v })

/-- Write `AttemptBlockAddress` (R429). -/
def writeAttBlock (s : State) (t p v : Nat) : Written :=
  if (v = 0 && (setAt s t p).mode ≠ 0) || (v ≠ 0 && (v % 128 ≠ 0 || !blockReachable s t v)) then .refused
  else .ok (s.updSet t p fun y => { y with attBlock := v })

/-- The set's digest, computed on each accepted write (R223). -/
def setDigest (x : SetState) : W32 :=
  crc32 ((List.range 4096).flatMap (fun k => leBytes 4 (mgetD x.layerMap k 0).toNat) ++ leBytes 2 x.voteDims.toNat ++
    leBytes 4 x.voteExpected)

/-- Change an object of the digest. -/
def State.updDigest (s : State) (t p : Nat) (f : SetState → SetState) : State :=
  s.updSet t p fun y => { f y with digest := setDigest (f y) }

/-- Write `LayerMap` (R223). -/
def writeLayerMap (s : State) (t p : Nat) (es : List (Nat × Nat)) : Written :=
  if es.any fun e => bits e.2 30 28 ≠ 0 || bits e.2 15 12 ≠ 0 then .refused
  else .ok (s.updDigest t p fun y =>
    { y with layerMap := es.foldl (fun m e => mput (0 : W32) m e.1 (BitVec.ofNat 32 e.2)) y.layerMap })

/-- Write `VoteDimensions` (R253). -/
def writeVoteDims (s : State) (t p v : Nat) : Written :=
  if bits v 15 12 ≠ 0 then .refused else .ok (s.updDigest t p fun y => { y with voteDims := BitVec.ofNat 16 v })

/-- Write `AttemptControl` (R246, R250, R253, R254). -/
def writeControl (s : State) (t p v : Nat) : Written :=
  let st := setStateRead s t p
  let x := setAt s t p
  match v with
  | 1 => if st = 1 && !x.contributed then .ok ((s.askAbort t p x.attempts).contributeForced t p) else .refused
  | 2 => if 1 ≤ st && st ≤ 4 then .ok (s.updSet t p fun y => { y with pausePending := true }) else .refused
  | 3 => if st = 5 then .ok (s.wantOpen t p) else .refused
  | 4 =>
    if st = 0 || st = 5 || st = 8 then
      .ok ((s.rest t p 6).updRun t p fun r => { r with importFrom := st, importing := true })
    else .refused
  | 5 =>
    if st = 0 || st = 5 then
      .ok ((s.rest t p 6).updRun t p fun r => { r with importFrom := st, importing := false })
    else .refused
  | _ => .refused

/-- Write an object of a parameter set that is no DOMAIN (R253). -/
def writeSet (s : State) (t index p v : Nat) : Written :=
  match index with
  | 0xC100 => writeMode s t p v
  | 0xC105 => writeGenBlock s t p v
  | 0xC106 => writeAttBlock s t p v
  | 0xC107 => .ok (s.updSet t p fun y => { y with ruleTable := v })
  | 0xC109 => writeVoteDims s t p v
  | 0xC10A => .ok (s.updDigest t p fun y => { y with voteExpected := v })
  | 0xC10B => writeControl s t p v
  | 0xC10C => .ok (s.updSet t p fun y => { y with imageAddr := v })
  | 0xC10E => .ok (s.updSet t p fun y => { y with watchdog := v })
  | 0xC110 => .ok (s.updSet t p fun y => { y with importGen := v })
  | _ => .refused

end Sys2Proof.Machine
end

