-- ==== Sys2Proof/Machine/Writes.lean ====
section
/-!
DEFINITION. What a write of each object does once the checks before its value have passed (R326, R327, and the
rules of the objects' chapters).
-/

namespace Sys2Proof.Machine

/-! ### Quiescence of RWQ objects that are no DOMAIN (R326) -/

/-- No clearing holds fast-tier pages (R188). -/
def pagesFree (s : State) : Bool := s.mem.pageOwner.all fun (e : Nat × BitVec 16) => !bit (pageEntry s e.1).toNat 15
/-- No queue of any tenant is in use (R322). -/
def queuesFree (s : State) : Bool :=
  s.tenants.all fun (e : Nat × Tenant) => (List.range 8).all fun q => !queueInUse s e.1 q
/-- A queue is quiesced for its objects (R323). -/
def queueQuiesced (s : State) (t q : Nat) : Bool := !queueInUse s t q || (queueAt s t q).tail = (queueAt s t q).completed
/-- A link of the module is ready. -/
def anyReady (s : State) : Bool := s.links.links.any fun (e : Nat × Link) => e.2.state = 3

/-- The scope that owns an object is quiesced; DOMAINs are judged by the entries a write touches (R326). -/
def quiesced (s : State) (t index sub v : Nat) : Bool :=
  if index = 0x4000 then pagesFree s
  else if index = 0x5000 && sub = 6 then
    let diff := v ^^^ s.links.encryption.toNat
    !(s.links.links.any fun (e : Nat × Link) => e.2.state = 3 && e.2.dimension < 12 && bit diff e.2.dimension)
  else if 0x6000 ≤ index && index < 0x6400 then tenantQuiesced s (index - 0x6000)
  else if index = 0x7000 then queuesFree s
  else if 0xC000 ≤ index && index < 0xC008 then queueQuiesced s t (index - 0xC000)
  else if 0xC100 ≤ index && index < 0xC200 then setIdle s t (sub - 1)
  else if index = 0xC201 || index = 0xC202 || index = 0xC401 then tenantQuiesced s t
  else true

/-! ### The line and its sessions (R348, R349) -/

/-- Write an object of area 0x1010 (R348): a change of `PortRoles` takes the ports it changes down, after the answer. -/
def writeLine (s : State) (sub v : Nat) : Written :=
  match sub with
  | 2 =>
    if v < 0x600 || [0x0800, 0x0806, 0x86DD, 0x8100, 0x88A8].contains v then .refused
    else .ok (s.updDict fun d => { d with etherType := v })
  | 3 =>
    if v > 3 then .refused
    else .early fun s => s.updDict fun d =>
      { d with portRoles := BitVec.ofNat 2 v, portUp := d.portUp &&& ~~~(d.portRoles ^^^ BitVec.ofNat 2 v) }
  | 5 => if v > 1 then .refused else .ok (s.updDict fun d => { d with forwardEnable := v = 1 })
  | _ => if v < 1 then .refused else .ok (s.updDict fun d => { d with hopDefault := v })

/-- Write an object of area 0x1020 (R349); `SessionClose` is answered before its session closes. -/
def writeSessions (s : State) (sub v : Nat) : Written :=
  match sub with
  | 3 => if v < 1000 || v > 86400000 then .refused else .ok (s.updDict fun d => { d with sessionIdleMs := v })
  | 4 => if v = 0 || v = 1 || v = 3 then .ok (s.updDict fun d => { d with pf0Role := v }) else .refused
  | _ =>
    if s.dict.sessions.any fun x => x.id = v && x.state = 2 then .early fun s => s.closeSessions fun x => x.id = v
    else .refused

/-! ### Memory (R156, R187, R188, R305) -/

/-- The address map as objects would leave it breaks R188. -/
def mapBad (s : State) (span base size area : Nat) : Bool :=
  let view := gib * (20 * span)
  let pt := 2 ^ 20 * size
  base + pt > view || area + 2 ^ 31 > view || overlaps base pt area (2 ^ 31) ||
    s.tenants.any fun (e : Nat × Tenant) => e.2.ptRoot ≠ 0 && !(base ≤ e.2.ptRoot && e.2.ptRoot < base + pt)

/-- Drop a tenant's translations and the instruction caches of its tiles (R156). -/
def State.shootDown (s : State) (t : Nat) : State :=
  let s1 := s.dropTlb fun e => e.tenant = t
  { s1 with tiles := s1.tiles.map fun (e : Nat × Tile) => (e.1, if ownerOf s e.1 = some t then { e.2 with icache := [] } else e.2) }

/-- Write an object of area 0x4000 (R188). -/
def writeMemory (s : State) (sub v : Nat) : Written :=
  let m := s.mem
  match sub with
  | 1 =>
    if v < 1 || v > 56 || mapBad s v m.ptBase m.ptSize s.host.queueArea then .refused
    else .ok (s.updMem fun x => { x with span := v })
  | 2 =>
    if v % 2 ^ 21 ≠ 0 || mapBad s m.span v m.ptSize s.host.queueArea then .refused
    else .ok (s.updMem fun x => { x with ptBase := v })
  | 3 =>
    if v % 2 ≠ 0 || v < 2 || v > 65536 || mapBad s m.span m.ptBase v s.host.queueArea then .refused
    else .ok (s.updMem fun x => { x with ptSize := v })
  | 4 => if v < 1 || v > 168 then .refused else .ok (s.updMem fun x => { x with scrubHours := v })
  | 5 => if v < 1 || v > 168 then .refused else .ok (s.updMem fun x => { x with slowScrubHours := v })
  | 6 => if v > 1 then .refused else .ok (s.updMem fun x => { x with retrainMode := v })
  | 7 =>
    if bits v 15 13 ≠ 0 || bits v 7 5 ≠ 0 || bits v 12 8 ≥ 20 then .refused
    else if s.service.stacksOut.contains (bits v 12 8) || stackResetting s (bits v 12 8) ||
        mget s.mem.retired (bits v 12 8) = some (bits v 4 0) then .unavailable
    else
      let ch := 32 * bits v 12 8 + bits v 4 0
      .wait (s.wantRetrain (bits v 12 8) (bits v 4 0)) (.retrain ch)
  | _ => if v ≥ 1024 then .refused else .wait (s.shootDown v) (.shootdown v (translationUsers s v))

/-! ### Links (R257, R269, R270, R274, R286, R289, R291) -/

/-- FP32 magnitude order of two positive values. -/
def fpWithin (lo hi v : Nat) : Bool := lo ≤ v && v ≤ hi

/-- Write an object of area 0x5000 (R289). 0x26901D7D and 0x358637BD are the FP32 values of 10^−15 and 10^−6. -/
def writeLinks (s : State) (sub v : Nat) : Written :=
  match sub with
  | 1 =>
    if v ≥ 4096 || v % 8 ≠ s.service.boardSlot || anyReady s then .refused
    else .ok (s.updLinks fun x => { x with nodeIdTraining := v })
  | 2 =>
    if v > 1 then .refused
    else .ok (s.updLinks fun x => { x with trafficHold := if v = 0 then 0 else if x.trafficHold = 0 then 1 else x.trafficHold })
  | 3 => .ok (s.updLinks fun x => { x with jobKey := BitVec.ofNat 64 v })
  | 4 => if fpWithin 0x26901D7D 0x358637BD v then .ok (s.updLinks fun x => { x with gateThreshold := BitVec.ofNat 32 v }) else .refused
  | 5 => if v < 1000000000 then .refused else .ok (s.updLinks fun x => { x with gateDwell := v })
  | 6 => if bits v 4 0 ≠ 0 || bits v 15 12 ≠ 0 then .refused else .ok (s.updLinks fun x => { x with encryption := BitVec.ofNat 16 v })
  | 7 =>
    if bits v 15 12 ≠ 0 then .refused
    else
      let ls := (s.links.links.filter fun (e : Nat × Link) => e.2.dimension < 12 && bit v e.2.dimension && e.2.state ≠ 0).map Prod.fst
      .wait ((ls.foldl (fun s l => s.orderTraining l) s).regrade) (.dimensions (BitVec.ofNat 16 v))
  | _ => if v < 1 || v > 15 then .refused else .ok (s.updLinks fun x => { x with trainAttempts := v })

/-- Write `PartnerMask` of a dimension (R270). -/
def writePartner (s : State) (d v : Nat) : Written :=
  let sel := bits v 31 28
  let m1 := bits v 27 16
  let m0 := bits v 11 0
  if bits v 15 12 ≠ 0 || sel > 11 || m0 = 0 || m1 = 0 || (m0 ≠ m1 && (bit m0 sel || bit m1 sel)) ||
      (d < 3 && (m0 > 7 || m1 > 7)) || anyReady s then .refused
  else .ok (s.updLinks fun x => { x with partnerMask := mset x.partnerMask d (BitVec.ofNat 32 v) })

/-- Write an object of one link (R257, R291): a new dimension trains afresh unless the link is disabled, none
powers the link down (log 105). -/
def writeLink (s : State) (l sub v : Nat) : Written :=
  let k := linkAt s l
  match sub with
  | 1 =>
    if (v ≠ 15 && (if isOptical l then v < 5 || v > 11 else v > 4)) || k.state = 3 then .refused
    else if v = k.dimension then .ok s
    else if v = 15 then .ok (s.updLink l fun y => { y with dimension := 15, state := 0, width := 0 })
    else .ok (s.updLink l fun y => { y with dimension := v, state := if s.service.bringUp ≥ 6 && !y.disabled then 1 else 0, attempts := 0, width := 0 })
  | _ =>
    match v with
    | 1 => if k.dimension > 11 || k.state = 0 then .ok s else .ok ((s.orderTraining l).regrade.settleAcks)
    | 2 => .ok (((if k.state = 0 then s else s.leaveReady l 0).updLink l fun y => { y with disabled := true }).regrade.settleAcks)
    | 3 => .ok (if k.state = 0 then (s.orderTraining l) else s)
    | _ => .refused

/-- The formed `RouteTable` breaks R271. -/
def routesBad (s : State) (m : SMap W32) : Bool :=
  let own := s.links.nodeId
  let used := usedDims s
  let named (v : Nat) : Bool := (List.range 12).any fun d => bit v d && !used.contains d
  (m.any fun (e : Nat × W32) =>
    let v := e.2.toNat
    bits v 30 16 ≠ 0 || (bit v 31 && (named v ||
      (e.1 ≠ own && (bits v 11 0 = 0 || bits v 15 12 > 11 || !bit v (bits v 15 12)))))) ||
    mget m own ≠ some 0x80000000

/-- Write `RouteTable` (R271). -/
def writeRoutes (s : State) (es : List (Nat × Nat)) : Written :=
  let m := es.foldl (fun o e => mput (0 : W32) o e.1 (BitVec.ofNat 32 e.2)) s.links.routes
  if s.links.trafficHold ≠ 2 || routesBad s m then .refused else .ok (s.updLinks fun x => { x with routes := m })

/-! ### Clearing records, freezes and queues (R317, R322, R323, R353, R356, R363, R372, R373) -/

/-- Write a field of a clearing record (R353). -/
def writeRecord (s : State) (t sub v : Nat) : Written :=
  match sub with
  | 1 => if v > 1 then .refused else .ok (s.updTenant t fun x => { x with clearingHold := v = 1 })
  | 3 => writeTileMask s t v
  | 4 => writeRoot s t v
  | 5 => writeQueueMask s t (BitVec.ofNat 8 v)
  | 6 => writeQuota s t v
  | _ => writeExclusive s t v

/-- Write `ReleaseRequest` (R363, R372). -/
def writeRelease (s : State) (v : Nat) : Written :=
  let m := BitVec.ofNat 32 (bits v 63 32)
  let t := bits v 25 16
  let a := bits v 2 0
  if bits v 31 26 ≠ 0 || bits v 15 3 ≠ 0 || a = 0 || a > 4 || (a ≥ 3 && m ≠ 0) then .refused
  else
    match a with
    | 1 => (s.releaseOne t m true).elim .refused .ok
    | 2 => (s.releaseOne t m false).elim .refused .ok
    | 3 => .ok (s.releaseAll t true)
    | _ => .ok (s.releaseAll t false)

/-- Write `DiscardMaster` (R363, R373). -/
def writeDiscard (s : State) (t : Nat) (m : W32) : Written :=
  if m = 0xFFFFFFFF then .ok (s.releaseAll t true) else (s.releaseOne t m true).elim .refused .ok

/-- A number of entries a queue may have (R306). -/
def entriesOk (n : Nat) : Bool := n = 0 || [16, 32, 64, 128, 256, 512, 1024, 2048].contains n

/-- Write an object of a queue (R306, R317, R323). -/
def writeQueue (s : State) (t q sub v : Nat) : Written :=
  let x := queueAt s t q
  match sub with
  | 1 =>
    if !entriesOk v || (v ≠ 0 && (!queueAssigned s t q || !mirrorFits s.host.windows t x.mirrorWindow x.mirrorOffset v)) then .refused
    else if v = 0 then .ok (s.stopQueue t q)
    else .ok ((s.stopQueue t q).startQueue t q v)
  | 2 =>
    if (v > 3 && v ≠ 0xFF) || !mirrorFits s.host.windows t v x.mirrorOffset x.entries then .refused
    else .ok (s.updQueue t q fun y => { y with mirrorWindow := v })
  | _ =>
    if v % 32 ≠ 0 || !mirrorFits s.host.windows t x.mirrorWindow v x.entries then .refused
    else .ok (s.updQueue t q fun y => { y with mirrorOffset := v })

/-- Write an object of area 0x7000 (R301, R305, R322). -/
def writeHostObject (s : State) (sub v : Nat) : Written :=
  match sub with
  | 3 =>
    if v % 2 ^ 21 ≠ 0 || mapBad s s.mem.span s.mem.ptBase s.mem.ptSize v then .refused
    else .ok (s.updHost fun h => { h with queueArea := v })
  | _ =>
    let page := bits v 19 0
    if bits v 62 20 ≠ 0 || 2 ^ 21 * page ≥ gib * (20 * s.mem.span) then .refused
    else .wait s (.bias page (bit v 63))

/-- Write `HostAccessPages`, byte by byte (R300). -/
def writeAccess (s : State) (es : List (Nat × Nat)) : Written :=
  .ok (s.updHost fun h =>
    { h with access := es.foldl (fun (acc : List Nat) e => (List.range 8).foldl (fun acc k =>
        if bit e.2 k then ninsert acc (8 * e.1 + k) else acc.filter (· ≠ 8 * e.1 + k)) acc) h.access })

/-! ### The other areas -/

/-- Outcome of the known-answer tests where no command brings it: a physical fact, open (R407). -/
def openTests (s : State) : W32 := BitVec.ofNat 32 (free s 5200)

/-- Write a Heartwood object (R396, R397, R402, R407, R410, R411). -/
def writeHeartwood (s : State) (sub v : Nat) (tests : Option W32) : Written :=
  match sub with
  | 4 => writeSelfTest s v (tests.getD (openTests s))
  | 8 => if v < 1000 || v > 3600000 then .refused else .ok (s.updHeartwood fun h => { h with minIntervalMs := v })
  | 9 => writeZeroise s v
  | 10 => writeRollback s v
  | _ => writeRevoke s v

/-- Write a tenant's watch object that is no DOMAIN (R146). -/
def writeWatch (s : State) (t index sub v : Nat) : Written :=
  match index with
  | 0xC203 =>
    let n := 2 * (tenantAt s t).watch.quota
    if v % 2 ≠ 0 || (n ≠ 0 && v / 2 ^ 21 ≠ (v + n - 1) / 2 ^ 21) then .refused
    else .ok (s.updWatch t fun w => { w with scalePage := mset w.scalePage (sub - 1) v })
  | _ => .ok (s.updWatch t fun w => { w with mirror := v })

/-- A master ID sets a reserved bit or names a reserved kind (R7, R360). -/
def masterReserved (v : Nat) : Bool := bits v 16 14 ≠ 0 || bits v 10 6 ≠ 0 || bits v 31 28 = 0 || bits v 31 28 > 7

/-- Write a tenant-scoped object that is no DOMAIN. -/
def writeOwn (s : State) (t index sub v : Nat) : Written :=
  if index < 0xC008 then writeQueue s t (index - 0xC000) sub v
  else if index < 0xC200 then writeSet s t index (sub - 1) v
  else if index < 0xC300 then writeWatch s t index sub v
  else
    match index, sub with
    | 0xC300, 2 => writeDiscard s t (BitVec.ofNat 32 v)
    | 0xC300, _ => if masterReserved v then .refused else .ok (s.updTenant t fun x => { x with inspect := BitVec.ofNat 32 v })
    | _, _ =>
      if v > (tenantAt s t).logNumber then .refused else .ok (s.updTenant t fun x => { x with logRead := v })

/-- Write a module-scope object below 0x5000 that is no DOMAIN. -/
def writeLow (s : State) (index sub v : Nat) : Written :=
  match index with
  | 0x1010 => writeLine s sub v
  | 0x1020 => writeSessions s sub v
  | 0x2100 => if v < 65536 || v > 4294967295 then .refused else .ok (s.updGlobals fun g => { g with barrierDefault := v })
  | 0x2400 => if v < 1 || v > 64 then .refused else .ok (s.updGlobals fun g => { g with histDefault := v })
  | 0x4000 => writeMemory s sub v
  | _ => if v < 1 || v > 15 then .refused else .ok (s.updGlobals fun g => { g with orthoDefault := v })

/-- Write a module-scope object that is no DOMAIN, by a role. -/
def writeModule (s : State) (role index sub : Nat) (bs : List Byte) (tests : Option W32) : Written :=
  let v := leNat bs
  if index < 0x5000 then writeLow s index sub v
  else if index < 0x6000 then
    match index with
    | 0x5000 => writeLinks s sub v
    | 0x5001 => writePartner s (sub - 1) v
    | 0x5002 =>
      if v = 1 || v = 2 || v = 4 then .ok (s.updLinks fun x => { x with floor := mset x.floor (sub - 1) v }) else .refused
    | _ => writeLink s (index - 0x5100) sub v
  else if index < 0x6400 then writeRecord s (index - 0x6000) sub v
  else
    match index, sub with
    | 0x6400, _ => writeRelease s v
    | 0x7000, _ => writeHostObject s sub v
    | 0x8001, _ => writeAttest s bs
    | 0x9000, 2 => writeLogRead s v
    | 0x9000, _ => writeUnpin s v
    | 0xA003, _ => writeJob s role v
    | 0xA004, _ => writeReset s v
    | _, _ => writeHeartwood s sub v tests

/-- Write a DOMAIN: the entries a range touches, as it would leave them (R336). -/
def writeEntries (s : State) (t index sub : Nat) (es : List (Nat × Nat)) : Written :=
  match index with
  | 0x1022 =>
    if es.any fun e => bits e.2 511 392 ≠ 0 || bits e.2 391 384 &&& 0xC5 ≠ 0 then .refused
    else .ok (s.updDict fun d =>
      { d with anchors := es.foldl (fun m e => writeBytes m (64 * e.1) (leBytes 64 e.2)) d.anchors })
  | 0x2200 => writePersonality s es
  | 0x4101 => writeGroups s es
  | 0x4201 => writeSlots s es
  | 0x5080 => writeRoutes s es
  | 0x5081 => .ok (es.foldl (fun s e => s.updTenant e.1 fun x => { x with exchangeKey := BitVec.ofNat 32 e.2 }) s)
  | 0x6400 => writePages s es
  | 0x7001 => writeWindows s es
  | 0x7002 => writeAccess s es
  | 0xA002 => .ok (s.updService fun v =>
      { v with staging := es.foldl (fun m e => mput (0 : Byte) m e.1 (BitVec.ofNat 8 e.2)) v.staging })
  | 0xC108 => writeLayerMap s t (sub - 1) es
  | 0xC202 => writeSetup s t es
  | _ => writeTables s t es

end Sys2Proof.Machine
end

