-- ==== Sys2Proof/Machine/Dictionary.lean ====
section
/-!
DEFINITION. The dictionary's server (R328–R337): the checks of a request in their order, reads, writes and
segmented transfers, and the rows of the eight commands.
-/

namespace Sys2Proof.Machine

/-! ### Who asks (R328, R329, R338, R340) -/

/-- Role of a path, and the tenant of a VF mailbox; none while the path is not served (R328, R340, R351, R375). -/
def pathRole (s : State) (path : Path) : Option (Nat × Option Nat) :=
  if !dictServed s then none
  else
    match path with
    | .vf k => if s.host.linkWidth ≠ 0 && s.host.vfEnable && 1 ≤ k && k ≤ s.host.numVfs then some (2, some (k - 1)) else none
    | .pf0 => if s.host.linkWidth ≠ 0 then some (s.dict.pf0Role, none) else none
    | .session id =>
      match sessionOf s id with
      | some x => if x.state = 2 then some (x.role, none) else none
      | none => none

/-- A request of the path waits for its acknowledgement; the next one waits for it (R335). -/
def pathBusy (s : State) (path : Path) : Bool := s.dict.acks.any fun a => a.path = path

/-- A role reads an object (R329). -/
def mayRead (r : Readers) (role : Nat) : Bool :=
  match r with
  | .all => 1 ≤ role
  | .std => role = 1 || (3 ≤ role && role ≤ 5)
  | .op => role = 3 || role = 5
  | .tenant => role = 2 || role = 3 || role = 5

/-- A role writes an object (R329). -/
def mayWrite (w : Writers) (role : Nat) : Bool :=
  match w with
  | .none => false
  | .op => role = 3 || role = 5
  | .opOnly => role = 3
  | .crypto => role = 4 || role = 5
  | .both => 3 ≤ role && role ≤ 5
  | .tenant => role = 2
  | .attest => role = 1 || (3 ≤ role && role ≤ 5)

/-- A role that the rules let write in an object's area: a write of an RO object there meets the access code, and not the
role (R324, R329, R334, R347; log 118). No role writes a subindex 0, nor the areas whose rules say so (R14, R119, R347,
R420). -/
def roWriter (index sub role : Nat) : Bool :=
  if sub = 0 || index / 256 = 0x30 || index / 256 = 0x23 || index / 256 = 0x20 || index = 0x1000 || index = 0x1001 then false
  else if tenantIndex index then role = 2
  else if index / 256 = 0x80 then role = 4 || role = 5
  else role = 3 || role = 5

/-- Commands of R333 that write. -/
def writesObject (c : Nat) : Bool := c = 2 || (4 ≤ c && c ≤ 7)

/-- The first check of a request that fails, up to the access code (R334): a status, or 0. -/
def checkRequest (role : Nat) (own : Option Nat) (m : DictMsg) : Nat :=
  let c := m.command.toNat
  let index := m.index.toNat
  if c = 0 || c > 8 || m.rsv ≠ 0 || m.status ≠ 0 || (!m.tenantScope && m.tenant ≠ 0) ||
      (m.offset ≠ 0 && !(3 ≤ c && c ≤ 5)) then 0x0D
  else
    match objectAt index m.sub.toNat with
    | none => 0x01
    | some o =>
      if tenantIndex index ≠ m.tenantScope || (match own with | some t => m.tenantScope && m.tenant.toNat ≠ t | none => false) then 0x02
      else if c ≠ 8 && ((o.ty = 0x0D) ≠ (3 ≤ c)) then 0x0E
      else if c = 8 then (if role = 0 then 0x03 else 0)
      else if writesObject c then
        (if !(mayWrite o.writers role || (o.access = 1 && roWriter index m.sub.toNat role)) then 0x03
         else if o.access = 1 then 0x05 else 0)
      else if !(mayRead o.readers role || (o.access = 3 && mayWrite o.writers role)) then 0x03
      else if o.access = 3 then 0x04
      else 0

/-- The request's `length` is that of the data it carries (R333). -/
def lengthOk (m : DictMsg) : Bool := m.length.toNat = m.data.length && m.data.length ≤ 1024

/-! ### Answers -/

/-- Answer with a status and no data. -/
def State.reply (s : State) (path : Path) (m : DictMsg) (status : Nat) : State := s.respond path (response m status [])

/-- Answer a write as what it did demands (R327, R334). -/
def State.finishWrite (s : State) (path : Path) (m : DictMsg) (w : Written) : State :=
  match w with
  | .ok s1 => s1.reply path m 0
  | .refused => s.reply path m 0x07
  | .notQuiesced => s.reply path m 0x06
  | .unavailable => s.reply path m 0x0B
  | .busy => s.reply path m 0x09
  | .notPermitted => s.reply path m 0x03
  | .failed s1 => s1.reply path m 0x07
  | .wait s1 k => s1.deferAck path m k
  | .early f => f (s.reply path m 0)

/-- DESCRIBE (R333): type, access as it stands for the role, and size. -/
def describeData (s : State) (role t index sub : Nat) (o : Obj) : List Byte :=
  let r := mayRead o.readers role && o.access ≠ 3
  let w := mayWrite o.writers role && o.access ≠ 1
  let code := if r && w then o.access else if r then 1 else if w then 3 else 0
  let size := if o.ty = 0x0D then (domainOf s t index sub).1 else if o.ty = 0x0B then 255 else o.size
  leBytes 16 (fieldAt 32 size + fieldAt 8 code + o.ty)

/-! ### Transfers (R336, R337) -/

/-- 0xA002:01, `FirmwareStaging`. -/
def isStaging (index : Nat) : Bool := index = 0xA002
/-- 8 MiB. -/
def stagingSpace : Nat := 2 ^ 23

/-- The open transfer of a path for an object. -/
def transferOf (s : State) (path : Path) (m : DictMsg) : Option Transfer :=
  s.dict.transfers.find? fun x =>
    x.path = path && x.index = m.index.toNat && x.sub = m.sub.toNat && x.tenant = m.tenant.toNat

/-- Close a path's transfer. -/
def State.closeTransfer (s : State) (path : Path) : State :=
  s.updDict fun d => { d with transfers := d.transfers.filter fun x => x.path ≠ path }

/-- WRITE BEGIN (R336, R337). -/
def serveBegin (s : State) (path : Path) (m : DictMsg) : State :=
  let index := m.index.toNat
  let total := leNat m.data
  let off := m.offset.toNat
  let size := (domainOf s m.tenant.toNat index m.sub.toNat).1
  let used := s.dict.transfers.foldl (fun n x => if isStaging x.index then n else n + x.total) 0
  if !lengthOk m || m.data.length ≠ 4 || total < 1 || off + total > size || (!isStaging index && total > stagingSpace) then
    s.reply path m 0x08
  else if s.dict.transfers.any (fun x => x.path = path || (x.index = index && x.sub = m.sub.toNat && x.tenant = m.tenant.toNat)) ||
      (!isStaging index && used + total > stagingSpace) then s.reply path m 0x09
  else
    (s.updDict fun d =>
      { d with transfers := d.transfers ++
          [{ path := path, index := index, sub := m.sub.toNat, tenant := m.tenant.toNat, offset := off, total := total, supplied := [] }] }).reply
      path m 0

/-- WRITE DATA (R336). -/
def serveData (s : State) (path : Path) (m : DictMsg) : State :=
  match transferOf s path m with
  | none => s.reply path m 0x0A
  | some x =>
    let off := m.offset.toNat
    if !lengthOk m || off < x.offset || off + m.data.length > x.offset + x.total then s.reply path m 0x08
    else
      let fill (y : Transfer) : Transfer :=
        { y with supplied := ((List.range m.data.length).zip m.data).foldl (fun a e => mset a (off + e.1) e.2) y.supplied }
      (s.updDict fun d => { d with transfers := d.transfers.map fun y => if y.path = path then fill y else y }).reply path m 0

/-- Apply a range to a DOMAIN, formed whole (R336). -/
def writeRange (s : State) (t index sub off : Nat) (bs : List Byte) : Written :=
  writeEntries s t index sub (newEntries (domainOf s t index sub) off bs)

/-- WRITE COMMIT (R336): OK and REFUSED close the transfer. -/
def serveCommit (s : State) (path : Path) (m : DictMsg) : State :=
  let t := m.tenant.toNat
  let index := m.index.toNat
  let sub := m.sub.toNat
  match transferOf s path m with
  | none => s.reply path m 0x0A
  | some x =>
    if !quiesced s t index sub 0 then s.reply path m 0x06
    else if !lengthOk m || !m.data.isEmpty || x.supplied.length < x.total || x.offset + x.total > (domainOf s t index sub).1 then
      s.reply path m 0x08
    else
      let s1 := s.closeTransfer path
      match writeRange s t index sub x.offset (x.supplied.map Prod.snd) with
      | .notQuiesced => s.reply path m 0x06
      | .unavailable => s.reply path m 0x0B
      | .refused => s1.reply path m 0x07
      | .ok s2 => (s2.closeTransfer path).reply path m 0
      | .wait s2 k => (s2.closeTransfer path).deferAck path m k
      | w => s1.finishWrite path m w

/-- WRITE CANCEL (R336). -/
def serveCancel (s : State) (path : Path) (m : DictMsg) : State :=
  match transferOf s path m with
  | none => s.reply path m 0x0A
  | some _ => if !lengthOk m || !m.data.isEmpty then s.reply path m 0x08 else (s.closeTransfer path).reply path m 0

/-! ### Serving a request (R334) -/

/-- WRITE of an object that is no DOMAIN. -/
def serveWrite (s : State) (path : Path) (role : Nat) (m : DictMsg) (o : Obj) (tests : Option W32) : State :=
  let t := m.tenant.toNat
  let index := m.index.toNat
  let sub := m.sub.toNat
  if o.access = 4 && !quiesced s t index sub (leNat m.data) then s.reply path m 0x06
  else if !lengthOk m || m.data.length ≠ o.size then s.reply path m 0x08
  else
    s.finishWrite path m
      (if tenantIndex index then writeOwn s t index sub (leNat m.data) else writeModule s role index sub m.data tests)

/-- The unit behind an object is out of service or in a reset: the status of a stack or of a chip's slow tier is unknown
(R189, R334; log 119). -/
def unitAway (s : State) (index sub : Nat) : Bool :=
  (index = 0x4001 && sub ≠ 0 && (s.service.stacksOut.contains (sub - 1) || stackResetting s (sub - 1))) ||
    (index = 0x4002 && sub ≠ 0 && scopeResetting s (.spring (sub - 1)))

/-- Serve a request whose first checks have passed; the sensors are read for the objects that show them (R420). -/
def serveChecked (s0 : State) (path : Path) (role : Nat) (m : DictMsg) (o : Obj) (tests : Option W32) : State :=
  let t := m.tenant.toNat
  let index := m.index.toNat
  let s := if index = 0x2000 || index = 0x2001 then s0.measure else s0
  let sub := m.sub.toNat
  match m.command.toNat with
  | 1 =>
    if !lengthOk m || !m.data.isEmpty then s.reply path m 0x08
    else if unitAway s index sub then s.reply path m 0x0B
    else s.respond path (response m 0 (objectValue s t index sub))
  | 2 => serveWrite s path role m o tests
  | 3 =>
    let d := domainOf s t index sub
    if m.length.toNat < 1 || m.length.toNat > 1024 || !m.data.isEmpty || m.offset.toNat > d.1 then s.reply path m 0x08
    else s.respond path (response m 0 (domainBytes d m.offset.toNat m.length.toNat))
  | 4 => serveBegin s path m
  | 5 => serveData s path m
  | 6 => serveCommit s path m
  | 7 => serveCancel s path m
  | _ =>
    if !lengthOk m || !m.data.isEmpty then s.reply path m 0x08
    else s.respond path (response m 0 (describeData s role t index sub o))

/-- Serve one request of a role (R334): the first check that fails is reported. -/
def serveMsg (s : State) (path : Path) (role : Nat) (own : Option Nat) (m : DictMsg) (tests : Option W32) : State :=
  match checkRequest role own m, objectAt m.index.toNat m.sub.toNat with
  | 0, some o => serveChecked s path role m o tests
  | c, _ => s.reply path m c

/-- Serve a request that comes on a path, where it is served now (R335, R351; log 8). -/
def serveOn (s0 : State) (path : Path) (m : DictMsg) (tests : Option W32) : State :=
  match pathRole s0 path with
  | none => s0
  | some (role, own) => if pathBusy s0 path then s0 else serveMsg s0.redraw path role own m tests

/-! ### The rows of R333 -/

/-- READ. -/
def execRead (by_ : Path) (m : DictMsg) (s : State) : Host.Outcome State Fault Refusal :=
  .next (serveOn s by_ { m with command := 1 } none)
/-- WRITE. -/
def execWrite (by_ : Path) (m : DictMsg) (s : State) : Host.Outcome State Fault Refusal :=
  .next (serveOn s by_ { m with command := 2 } none)
/-- DOMAIN_READ. -/
def execDomainRead (by_ : Path) (m : DictMsg) (s : State) : Host.Outcome State Fault Refusal :=
  .next (serveOn s by_ { m with command := 3 } none)
/-- WRITE_BEGIN. -/
def execWriteBegin (by_ : Path) (m : DictMsg) (s : State) : Host.Outcome State Fault Refusal :=
  .next (serveOn s by_ { m with command := 4 } none)
/-- WRITE_DATA. -/
def execWriteData (by_ : Path) (m : DictMsg) (s : State) : Host.Outcome State Fault Refusal :=
  .next (serveOn s by_ { m with command := 5 } none)
/-- WRITE_COMMIT. -/
def execWriteCommit (by_ : Path) (m : DictMsg) (s : State) : Host.Outcome State Fault Refusal :=
  .next (serveOn s by_ { m with command := 6 } none)
/-- WRITE_CANCEL. -/
def execWriteCancel (by_ : Path) (m : DictMsg) (s : State) : Host.Outcome State Fault Refusal :=
  .next (serveOn s by_ { m with command := 7 } none)
/-- DESCRIBE. -/
def execDescribe (by_ : Path) (m : DictMsg) (s : State) : Host.Outcome State Fault Refusal :=
  .next (serveOn s by_ { m with command := 8 } none)

end Sys2Proof.Machine
end

