-- ==== Sys2Proof/Machine/DictRows.lean ====
section
/-!
DEFINITION. The rows that write one object of the dictionary (R333, R336): each is the WRITE its row names, or, at
a DOMAIN, the change of a range as a commit applies it. A row's path, tag and value are its operands; a row for a
tenant, queue, set or link that no object has changes nothing (log 8).
-/

namespace Sys2Proof.Machine

/-- A WRITE of a whole value (R332, R333). -/
def writeMsg (tag : BitVec 16) (t : Option Nat) (index sub : Nat) (data : List Byte) : DictMsg :=
  { tag := tag, length := BitVec.ofNat 16 data.length, offset := 0, rsv := 0, tenant := BitVec.ofNat 10 (t.getD 0),
    tenantScope := t.isSome, index := BitVec.ofNat 16 index, sub := BitVec.ofNat 8 sub, status := 0, command := 2, data := data }

/-- A write of a module-scope object, or of an instance's. -/
def writeRow (s0 : State) (by_ : Path) (tag : BitVec 16) (index sub : Nat) (data : List Byte) (tests : Option W32 := none) : State :=
  serveOn s0 by_ (writeMsg tag none index sub data) tests

/-- A write of a tenant-scoped object of tenant `t`. -/
def writeTenantRow (s0 : State) (by_ : Path) (tag : BitVec 16) (t index sub : Nat) (data : List Byte) : State :=
  if t < 1024 then serveOn s0 by_ (writeMsg tag (some t) index sub data) none else s0

/-- A write of a set's object. -/
def writeSetRow (s0 : State) (by_ : Path) (tag : BitVec 16) (t p index : Nat) (data : List Byte) : State :=
  if p < 4 then writeTenantRow s0 by_ tag t index (p + 1) data else s0

/-- A write of a field of a tenant's clearing record. -/
def writeRecordRow (s0 : State) (by_ : Path) (tag : BitVec 16) (t sub : Nat) (data : List Byte) : State :=
  if t < 1024 then writeRow s0 by_ tag (0x6000 + t) sub data else s0

/-! ### Ranges of DOMAINs -/

/-- Serve the change of a range of a DOMAIN whose first checks have passed, as a commit applies it (R336); the
response is that of WRITE COMMIT. -/
def serveRange (s : State) (path : Path) (m : DictMsg) : State :=
  let t := m.tenant.toNat
  let index := m.index.toNat
  let sub := m.sub.toNat
  let off := m.offset.toNat
  if !quiesced s t index sub 0 then s.reply path m 0x06
  else if m.data.length < 1 || off + m.data.length > (domainOf s t index sub).1 then s.reply path m 0x08
  else s.finishWrite path m (writeRange s t index sub off m.data)

/-- A change of a range of a DOMAIN, applied as a commit applies it (R336). -/
def rangeRow (s0 : State) (by_ : Path) (tag : BitVec 16) (t : Option Nat) (index sub off : Nat) (data : List Byte) : State :=
  if t.getD 0 < 1024 && off < 2 ^ 32 then
    match pathRole s0 by_ with
    | none => s0
    | some (role, own) =>
      if pathBusy s0 by_ then s0
      else
        let s := s0.redraw
        let m : DictMsg := { writeMsg tag t index sub data with command := 6, offset := BitVec.ofNat 32 off, length := 0 }
        match checkRequest role own { m with offset := 0 } with
        | 0 => serveRange s by_ m
        | c => s.reply by_ m c
  else s0

/-! ### Memory (R156, R187, R301) -/

/-- RETRAIN_REQUEST. -/
def execRetrainRequest (by_ : Path) (tag value : BitVec 16) (s : State) : Host.Outcome State Fault Refusal :=
  .next (writeRow s by_ tag 0x4000 7 (leBytes 2 value.toNat))
/-- TRANSLATION_SHOOTDOWN. -/
def execTranslationShootdown (by_ : Path) (tag value : BitVec 16) (s : State) : Host.Outcome State Fault Refusal :=
  .next (writeRow s by_ tag 0x4000 8 (leBytes 2 value.toNat))
/-- BIAS_REQUEST. -/
def execBiasRequest (by_ : Path) (tag : BitVec 16) (value : W64) (s : State) : Host.Outcome State Fault Refusal :=
  .next (writeRow s by_ tag 0x7000 5 (leBytes 8 value.toNat))

/-! ### Parameter sets (R223, R234, R250, R253, R254) -/

/-- ATTEMPT_CONTROL_ABORT. -/
def execAttemptControlAbort (by_ : Path) (tag : BitVec 16) (tenant set : Nat) (s : State) : Host.Outcome State Fault Refusal :=
  .next (writeSetRow s by_ tag tenant set 0xC10B [1])
/-- ATTEMPT_CONTROL_PAUSE. -/
def execAttemptControlPause (by_ : Path) (tag : BitVec 16) (tenant set : Nat) (s : State) : Host.Outcome State Fault Refusal :=
  .next (writeSetRow s by_ tag tenant set 0xC10B [2])
/-- ATTEMPT_CONTROL_RESUME. -/
def execAttemptControlResume (by_ : Path) (tag : BitVec 16) (tenant set : Nat) (s : State) : Host.Outcome State Fault Refusal :=
  .next (writeSetRow s by_ tag tenant set 0xC10B [3])
/-- ATTEMPT_CONTROL_IMPORT. -/
def execAttemptControlImport (by_ : Path) (tag : BitVec 16) (tenant set : Nat) (s : State) : Host.Outcome State Fault Refusal :=
  .next (writeSetRow s by_ tag tenant set 0xC10B [4])
/-- ATTEMPT_CONTROL_EXPORT. -/
def execAttemptControlExport (by_ : Path) (tag : BitVec 16) (tenant set : Nat) (s : State) : Host.Outcome State Fault Refusal :=
  .next (writeSetRow s by_ tag tenant set 0xC10B [5])
/-- PARAMETER_SET_MODE_WRITE. -/
def execParameterSetModeWrite (by_ : Path) (tag : BitVec 16) (tenant set : Nat) (value : Byte) (s : State) :
    Host.Outcome State Fault Refusal :=
  .next (writeSetRow s by_ tag tenant set 0xC100 [value])
/-- LAYER_MAP_WRITE. -/
def execLayerMapWrite (by_ : Path) (tag : BitVec 16) (tenant set : Nat) (w : LayerWrite) (s : State) :
    Host.Outcome State Fault Refusal :=
  .next
    (match w with
     | .map off bytes => if set < 4 then rangeRow s by_ tag (some tenant) 0xC108 (set + 1) off bytes else s
     | .dims v => writeSetRow s by_ tag tenant set 0xC109 (leBytes 2 v.toNat)
     | .expected v => writeSetRow s by_ tag tenant set 0xC10A (leBytes 4 v.toNat))
/-- LAYER_SLOT_MAP_WRITE. -/
def execLayerSlotMapWrite (by_ : Path) (tag : BitVec 16) (offset : Nat) (bytes : List Byte) (s : State) :
    Host.Outcome State Fault Refusal :=
  .next (rangeRow s by_ tag none 0x4201 1 offset bytes)

/-! ### Links (R271, R274, R286, R291) -/

/-- TRAFFIC_HOLD_WRITE. -/
def execTrafficHoldWrite (by_ : Path) (tag : BitVec 16) (value : Byte) (s : State) : Host.Outcome State Fault Refusal :=
  .next (writeRow s by_ tag 0x5000 2 [value])
/-- ROUTE_TABLE_WRITE. -/
def execRouteTableWrite (by_ : Path) (tag : BitVec 16) (offset : Nat) (bytes : List Byte) (s : State) :
    Host.Outcome State Fault Refusal :=
  .next (rangeRow s by_ tag none 0x5080 1 offset bytes)
/-- RETRAIN_DIMENSIONS. -/
def execRetrainDimensions (by_ : Path) (tag value : BitVec 16) (s : State) : Host.Outcome State Fault Refusal :=
  .next (writeRow s by_ tag 0x5000 7 (leBytes 2 value.toNat))
/-- A write of `LinkControl` of a link. -/
def linkRow (s0 : State) (by_ : Path) (tag : BitVec 16) (link : Nat) (v : Byte) : State :=
  if link < 96 then writeRow s0 by_ tag (0x5100 + link) 6 [v] else s0
/-- LINK_CONTROL_RETRAIN. -/
def execLinkControlRetrain (by_ : Path) (tag : BitVec 16) (link : Nat) (s : State) : Host.Outcome State Fault Refusal :=
  .next (linkRow s by_ tag link 1)
/-- LINK_CONTROL_DISABLE. -/
def execLinkControlDisable (by_ : Path) (tag : BitVec 16) (link : Nat) (s : State) : Host.Outcome State Fault Refusal :=
  .next (linkRow s by_ tag link 2)
/-- LINK_CONTROL_ENABLE. -/
def execLinkControlEnable (by_ : Path) (tag : BitVec 16) (link : Nat) (s : State) : Host.Outcome State Fault Refusal :=
  .next (linkRow s by_ tag link 3)

/-! ### Queues, sessions and the line (R306, R348, R349) -/

/-- QUEUE_ENTRIES_WRITE. -/
def execQueueEntriesWrite (by_ : Path) (tag : BitVec 16) (tenant queue : Nat) (value : BitVec 16) (s : State) :
    Host.Outcome State Fault Refusal :=
  .next (if queue < 8 then writeTenantRow s by_ tag tenant (0xC000 + queue) 1 (leBytes 2 value.toNat) else s)
/-- SESSION_CLOSE_WRITE. -/
def execSessionCloseWrite (by_ : Path) (tag value : BitVec 16) (s : State) : Host.Outcome State Fault Refusal :=
  .next (writeRow s by_ tag 0x1020 7 (leBytes 2 value.toNat))
/-- PORT_ROLES_WRITE. -/
def execPortRolesWrite (by_ : Path) (tag : BitVec 16) (value : Byte) (s : State) : Host.Outcome State Fault Refusal :=
  .next (writeRow s by_ tag 0x1010 3 [value])

/-! ### Clearings (R92, R145, R192, R204, R353–R359) -/

/-- TILE_MASK_WRITE. -/
def execTileMaskWrite (by_ : Path) (tag : BitVec 16) (tenant : Nat) (bytes : List Byte) (s : State) :
    Host.Outcome State Fault Refusal :=
  .next (writeRecordRow s by_ tag tenant 3 bytes)
/-- QUEUE_MASK_WRITE. -/
def execQueueMaskWrite (by_ : Path) (tag : BitVec 16) (tenant : Nat) (value : Byte) (s : State) :
    Host.Outcome State Fault Refusal :=
  .next (writeRecordRow s by_ tag tenant 5 [value])
/-- CLEARING_HOLD_WRITE. -/
def execClearingHoldWrite (by_ : Path) (tag : BitVec 16) (tenant : Nat) (value : Byte) (s : State) :
    Host.Outcome State Fault Refusal :=
  .next (writeRecordRow s by_ tag tenant 1 [value])
/-- EXCLUSIVE_REGIONS_WRITE. -/
def execExclusiveRegionsWrite (by_ : Path) (tag : BitVec 16) (tenant : Nat) (value : W32) (s : State) :
    Host.Outcome State Fault Refusal :=
  .next (writeRecordRow s by_ tag tenant 7 (leBytes 4 value.toNat))
/-- PAGE_OWNER_MAP_WRITE. -/
def execPageOwnerMapWrite (by_ : Path) (tag : BitVec 16) (offset : Nat) (bytes : List Byte) (s : State) :
    Host.Outcome State Fault Refusal :=
  .next (rangeRow s by_ tag none 0x6400 1 offset bytes)
/-- SET_GROUP_MAP_WRITE. -/
def execSetGroupMapWrite (by_ : Path) (tag : BitVec 16) (offset : Nat) (bytes : List Byte) (s : State) :
    Host.Outcome State Fault Refusal :=
  .next (rangeRow s by_ tag none 0x4101 1 offset bytes)
/-- TABLE_DESCRIPTORS_WRITE. -/
def execTableDescriptorsWrite (by_ : Path) (tag : BitVec 16) (tenant offset : Nat) (bytes : List Byte) (s : State) :
    Host.Outcome State Fault Refusal :=
  .next (rangeRow s by_ tag (some tenant) 0xC401 1 offset bytes)
/-- WATCH_SETUP_WRITE. -/
def execWatchSetupWrite (by_ : Path) (tag : BitVec 16) (tenant offset : Nat) (bytes : List Byte) (s : State) :
    Host.Outcome State Fault Refusal :=
  .next (rangeRow s by_ tag (some tenant) 0xC202 1 offset bytes)
/-- TILE_PERSONALITY_WRITE. -/
def execTilePersonalityWrite (by_ : Path) (tag : BitVec 16) (offset : Nat) (bytes : List Byte) (s : State) :
    Host.Outcome State Fault Refusal :=
  .next (rangeRow s by_ tag none 0x2200 1 offset bytes)

/-! ### Frozen masters (R363, R366, R372, R373) -/

/-- A write of `ReleaseRequest`: the master, its tenant and the action (R372). -/
def releaseRow (s0 : State) (by_ : Path) (tag : BitVec 16) (tenant action : Nat) (master : W32) : State :=
  if tenant < 1024 then
    writeRow s0 by_ tag 0x6400 2 (leBytes 8 (fieldAt 32 master.toNat + fieldAt 16 tenant + action))
  else s0
/-- RELEASE_DISCARD. -/
def execReleaseDiscard (by_ : Path) (tag : BitVec 16) (tenant : Nat) (master : W32) (s : State) :
    Host.Outcome State Fault Refusal :=
  .next (releaseRow s by_ tag tenant 1 master)
/-- RELEASE_RESUME. -/
def execReleaseResume (by_ : Path) (tag : BitVec 16) (tenant : Nat) (master : W32) (s : State) :
    Host.Outcome State Fault Refusal :=
  .next (releaseRow s by_ tag tenant 2 master)
/-- RELEASE_DISCARD_ALL. -/
def execReleaseDiscardAll (by_ : Path) (tag : BitVec 16) (tenant : Nat) (s : State) : Host.Outcome State Fault Refusal :=
  .next (releaseRow s by_ tag tenant 3 0)
/-- RELEASE_RESUME_ALL. -/
def execReleaseResumeAll (by_ : Path) (tag : BitVec 16) (tenant : Nat) (s : State) : Host.Outcome State Fault Refusal :=
  .next (releaseRow s by_ tag tenant 4 0)
/-- DISCARD_MASTER. -/
def execDiscardMaster (by_ : Path) (tag : BitVec 16) (tenant : Nat) (master : W32) (s : State) :
    Host.Outcome State Fault Refusal :=
  .next (writeTenantRow s by_ tag tenant 0xC300 2 (leBytes 4 master.toNat))
/-- INSPECT_MASTER_WRITE. -/
def execInspectMasterWrite (by_ : Path) (tag : BitVec 16) (tenant : Nat) (master : W32) (s : State) :
    Host.Outcome State Fault Refusal :=
  .next (writeTenantRow s by_ tag tenant 0xC300 3 (leBytes 4 master.toNat))

/-! ### The log (R370, R371) -/

/-- LOG_UNPIN. -/
def execLogUnpin (by_ : Path) (tag : BitVec 16) (value : Byte) (s : State) : Host.Outcome State Fault Refusal :=
  .next (writeRow s by_ tag 0x9000 5 [value])
/-- LOG_READ_NUMBER_WRITE. -/
def execLogReadNumberWrite (by_ : Path) (tag : BitVec 16) (value : W32) (s : State) : Host.Outcome State Fault Refusal :=
  .next (writeRow s by_ tag 0x9000 2 (leBytes 4 value.toNat))
/-- TENANT_LOG_READ_WRITE. -/
def execTenantLogReadWrite (by_ : Path) (tag : BitVec 16) (tenant : Nat) (value : W32) (s : State) :
    Host.Outcome State Fault Refusal :=
  .next (writeTenantRow s by_ tag tenant 0xC303 3 (leBytes 4 value.toNat))

/-! ### Service (R383, R385) -/

/-- RESET_REQUEST. -/
def execResetRequest (by_ : Path) (tag : BitVec 16) (value : W32) (s : State) : Host.Outcome State Fault Refusal :=
  .next (writeRow s by_ tag 0xA004 1 (leBytes 4 value.toNat))
/-- A write of `ServiceJob` (R385): kind, and the fields below it. -/
def jobRow (s0 : State) (by_ : Path) (tag : BitVec 16) (kind rest : Nat) : State :=
  if rest < 2 ^ 56 then writeRow s0 by_ tag 0xA003 1 (leBytes 8 (fieldAt 56 kind + rest)) else s0
/-- INSTALL_STAGED_IMAGE. -/
def execInstallStagedImage (by_ : Path) (tag : BitVec 16) (image : Nat) (s : State) : Host.Outcome State Fault Refusal :=
  .next (jobRow s by_ tag 1 (fieldAt 48 image))
/-- ACTIVATE. -/
def execActivate (by_ : Path) (tag : BitVec 16) (image : Nat) (defer_ : Bool) (s : State) : Host.Outcome State Fault Refusal :=
  .next (jobRow s by_ tag 2 (fieldAt 48 image + fieldAt 47 (b2n defer_)))
/-- MOVE_LAYER_SLOT. -/
def execMoveLayerSlot (by_ : Path) (tag : BitVec 16) (srcChip srcSlot dstChip dstSlot : Nat) (s : State) :
    Host.Outcome State Fault Refusal :=
  .next
    (if srcChip < 4 && srcSlot < 1024 && dstChip < 4 && dstSlot < 1024 then
       jobRow s by_ tag 3 (fieldAt 34 srcChip + fieldAt 24 srcSlot + fieldAt 22 dstChip + fieldAt 12 dstSlot)
     else s)
/-- PREPARE_CARTRIDGE. -/
def execPrepareCartridge (by_ : Path) (tag : BitVec 16) (cartridge : Nat) (s : State) : Host.Outcome State Fault Refusal :=
  .next (if cartridge < 8 then jobRow s by_ tag 4 cartridge else s)
/-- RETURN_CARTRIDGE. -/
def execReturnCartridge (by_ : Path) (tag : BitVec 16) (cartridge : Nat) (s : State) : Host.Outcome State Fault Refusal :=
  .next (if cartridge < 8 then jobRow s by_ tag 5 cartridge else s)

/-! ### Heartwood (R396, R397, R402, R407, R410) -/

/-- ROLLBACK_COMMIT. -/
def execRollbackCommit (by_ : Path) (tag : BitVec 16) (value : Byte) (s : State) : Host.Outcome State Fault Refusal :=
  .next (writeRow s by_ tag 0x8000 10 [value])
/-- KEY_SLOT_REVOKE. -/
def execKeySlotRevoke (by_ : Path) (tag : BitVec 16) (value : Byte) (s : State) : Host.Outcome State Fault Refusal :=
  .next (writeRow s by_ tag 0x8000 12 [value])
/-- ATTESTATION_REQUEST: Heartwood's own timer has counted `heartwoodMs` since its last event (R402). -/
def execAttestationRequest (by_ : Path) (tag : BitVec 16) (nonce : List Byte) (heartwoodMs : Nat) (s : State) :
    Host.Outcome State Fault Refusal :=
  .next (writeRow (s.heartwoodTime heartwoodMs) by_ tag 0x8001 1 nonce)
/-- SELF_TEST_RUN; `failures` is what the tests found (R407). -/
def execSelfTestRun (by_ : Path) (tag : BitVec 16) (value : Byte) (failures : W32) (s : State) :
    Host.Outcome State Fault Refusal :=
  .next (writeRow s by_ tag 0x8000 4 [value] (some failures))
/-- ZEROISE_VOLATILE. -/
def execZeroiseVolatile (by_ : Path) (tag : BitVec 16) (s : State) : Host.Outcome State Fault Refusal :=
  .next (writeRow s by_ tag 0x8000 9 [1])
/-- ZEROISE_PERMANENT. -/
def execZeroisePermanent (by_ : Path) (tag : BitVec 16) (s : State) : Host.Outcome State Fault Refusal :=
  .next (writeRow s by_ tag 0x8000 9 [2])

end Sys2Proof.Machine
end

