-- ==== Sys2Proof/Machine/MemUnits.lean ====
section
/-!
DEFINITION. What the memory units do of themselves: scrub passes (R186) and the retraining of channels (R187).
-/

namespace Sys2Proof.Machine

/-! ### Scrub (R186) -/

/-- A scrub find reports its word and leaves it in place (R186, R430). -/
def State.scrubStack (s : State) (st : Nat) (ecc : Ecc) : State :=
  let dpa (o : Nat) : Nat := keyDpa s.mem (2 ^ 36 * st + o)
  let here (os : List Nat) : List Nat := (os.filter fun o => o < 56 * gib && keyBacked s (2 ^ 36 * st + o)).map dpa
  let s1 := s.fastEcc { bad := here ecc.bad, corrected := here ecc.corrected }
  (s1.mem.fastBad.filter fun w => 16 * w / 2 ^ 36 = st && keyBacked s1 (16 * w)).foldl
    (fun s w => s.fastUncorrectable (keyDpa s.mem (16 * w))) s1

/-- Where chip 0's reserve holds a bank of a generation record: the bank's key, and the copy a word belongs to,
none for the header (R233; log 56). -/
def reservePlace (a : Nat) : Nat × Option Nat :=
  let o := a - 224 * gib
  (o / 2 ^ 23, if o % 2 ^ 23 < 64 then none else some (o % 2 ^ 23 / 64 - 1))

/-- A word of the reserve fails: the copy it belongs to cannot be restored, nor any where it is the header. -/
def State.reserveBad (s : State) (a : Nat) : State :=
  let p := reservePlace a
  match mget s.mem.genRecords p.1 with
  | none => s
  | some g =>
    let ids := match p.2 with
      | none => g.entries.map Prod.fst
      | some j => ((g.entries[j]?).map Prod.fst).toList
    s.updMem fun m => { m with genRecords := mset m.genRecords p.1 { g with bad := ids.foldl ninsert g.bad } }

/-- Scrub a chip's slow tier: payload words, then the reserve. -/
def State.scrubSlow (s : State) (chip : Nat) (ecc : Ecc) : State :=
  let s1 := s.slowEcc chip { ecc with bad := ecc.bad.filter fun a => a < 224 * gib }
  let s2 := (s1.mem.slowBad.filter fun w => 16 * w / 2 ^ 38 = chip).foldl (fun s w => s.slowUncorrectable (16 * w)) s1
  if chip = 0 then
    (ecc.bad.filter fun a => 224 * gib ≤ a && a < 256 * gib).foldl (fun s a => (s.reserveBad a).slowUncorrectable a) s2
  else s2

/-- A memory unit serves: it is trained, in service and not in a reset. -/
def unitServes (s : State) (u : MemUnit) : Bool :=
  s.service.bringUp ≥ 6 && s.power.powered && !s.power.packageOff &&
    (match u with
     | .stack n => n < 20 && !s.service.stacksOut.contains n && !stackResetting s n
     | .slow n => n < 4 && chipState s n ≠ 4 && !scopeResetting s (.spring n))


/-- Number of a unit: stacks 0–19, slow tiers 20–23. -/
def unitNumber (u : MemUnit) : Nat :=
  match u with
  | .stack n => n
  | .slow n => 20 + n

/-- SCRUB_PASS (R186): what it finds names words by their offset in the unit, and counts the rows it has repaired since
its last pass (R184, R189; log 120). -/
def execScrubPass (unit : MemUnit) (found : ScrubResult) (s : State) : Host.Outcome State Fault Refusal :=
  .next
    (if !unitServes s unit then s
     else
       let s1 := match unit with
         | .stack n => s.redraw.scrubStack n found.ecc
         | .slow n => s.redraw.scrubSlow n found.ecc
       s1.noteRepairs (unitNumber unit) found.repaired)

/-! ### Retraining (R187) -/

/-- Channels of a stack, packages of a slow tier (R183). -/
def unitChannels (u : MemUnit) : Nat :=
  match u with
  | .stack _ => 32
  | .slow _ => 8

/-- A channel has cause to retrain: a request or an uncorrectable read, or in mode 0 a temperature 10 °C away from
that of its last training, the first one being as the command says (R187; log 11). -/
def retrainDue (s : State) (c : Nat) (temperature : Int) : Bool :=
  s.mem.retrainQueue.contains c ||
    (s.mem.retrainMode = 0 &&
      (match mget s.mem.trainTemp c with
       | some t => decide (temperature - t ≥ 10 ∨ t - temperature ≥ 10)
       | none => true))

/-- CHANNEL_RETRAIN_START (R187): one at a time per unit. -/
def execChannelRetrainStart (unit : MemUnit) (channel : Nat) (temperature : Int) (s : State) :
    Host.Outcome State Fault Refusal :=
  .next
    (let u := unitNumber unit
     let c := 32 * u + channel
     if !unitServes s unit || channel ≥ unitChannels unit || mget s.mem.retired u = some channel ||
          (mget s.mem.retraining u).isSome || !retrainDue s c temperature then s
     else
       s.updMem fun m =>
         { m with retraining := mset m.retraining u channel, trainTemp := mset m.trainTemp c temperature,
                  unitTemp := mset m.unitTemp u temperature, retrainQueue := m.retrainQueue.filter (· ≠ c) })

/-- CHANNEL_RETRAIN_END (R187): the channel serves again, what waited for it goes on, and a `RetrainRequest` for it is acknowledged. -/
def execChannelRetrainEnd (unit : MemUnit) (channel : Nat) (s : State) : Host.Outcome State Fault Refusal :=
  .next
    (let u := unitNumber unit
     if mget s.mem.retraining u = some channel then
       (s.updMem fun m => { m with retraining := merase m.retraining u }).resumeSets.settleAcks
     else s)

end Sys2Proof.Machine
end

