-- ==== Sys2Proof/Machine/Host.lean ====
section
/-!
DEFINITION. The host's side: doorbells and read pointers (R311, R312, R318), the four descriptors (R306–R310),
function resets and the CXL link (R294, R296, R320), host-managed memory (R299–R302) and DOE (R293).
-/

namespace Sys2Proof.Machine

/-! ### Windows of the VFs (R304, R311, R312, R318) -/

/-- The host reaches VF k (R294, R296). -/
def vfReachable (s : State) (k : Nat) : Bool :=
  s.host.linkWidth ≠ 0 && s.host.vfEnable && 1 ≤ k && k ≤ s.host.numVfs

/-- A write of one of a queue's two pointers: dropped when not 8 aligned bytes, dropped and counted for a queue
that is not in use or not assigned (R304, R312). -/
def pointerWrite (s : State) (vf base offset : Nat) (data : List Byte) (f : State → Nat → Nat → Nat → State) : State :=
  if !vfReachable s vf || offset < base || offset ≥ base + 64 || offset % 8 ≠ 0 || data.length ≠ 8 then s
  else
    let t := vf - 1
    let q := (offset - base) / 8
    if queueState s t q = 0 || queueState s t q = 3 then s.updQueue t q fun x => { x with dropped := satAdd 32 x.dropped 1 }
    else f s t q (leNat data)

/-- A queue overruns; one that is frozen already stays as it is (R311, R318). It freezes at the accepted descriptor it
would read next, whose status 3 record is written (R315, R321); with none it freezes at none (log 113). -/
def State.overrunQueue (s : State) (t q : Nat) : State :=
  if queueFrozen s t q then s
  else if nextDesc s t q ≤ (queueAt s t q).tail then s.redraw.freezeQueue t q (nextDesc s t q) 0x61 (nextDescBytes s t q)
  else s.redraw.freezeQueue t q 0 0x61 []

/-- A write into a tenant's descriptor rings lands in their memory, whatever the queue's state (R304, R305, R312); it
waits for a channel or scope (R187, R381). -/
def ringWrite (s : State) (vf offset : Nat) (data : List Byte) : State :=
  let a := sliceBase s (vf - 1) + (offset - 0x100000)
  if !vfReachable s vf || dpaWaits s a data.length then s else ((s.touchBias a data.length).writeDpa a data).1

/-- DOORBELL (R304, R311, R312): a posted write through a VF's window, to a doorbell, or before it to a descriptor ring. -/
def execDoorbell (vf offset : Nat) (data : List Byte) (s : State) : Host.Outcome State Fault Refusal :=
  .next <| if 0x100000 ≤ offset && offset + data.length ≤ 0x200000 then ringWrite s vf offset data else
    pointerWrite s vf 0 offset data fun s t q v =>
    let x := queueAt s t q
    if v < x.tail || v > x.readPtr + x.entries then s.overrunQueue t q else s.updQueue t q fun y => { y with tail := v }

/-- READ_POINTER (R318). -/
def execReadPointer (vf offset : Nat) (data : List Byte) (s : State) : Host.Outcome State Fault Refusal :=
  .next <| pointerWrite s vf 0x100 offset data fun s t q v =>
    let x := queueAt s t q
    if v < x.readPtr || v > x.completed then s.overrunQueue t q else s.updQueue t q fun y => { y with readPtr := v }

/-! ### Descriptors (R306–R310, R313) -/

/-- NOP_DESCRIPTOR (R307); bits above the header count as reserved (R7; log 123). -/
def execNopDescriptor (tenant queue : Nat) (s : State) : Host.Outcome State Fault Refusal :=
  .next <| serveQueue s tenant queue 0 fun s n d =>
    if descReserved d 511 16 then .inr 0x60 else .inl (s.completeDesc tenant queue n (queueAt s tenant queue).epoch 0 0 0 0)

/-- Parameters of a LAUNCH descriptor (R36, R308). -/
def launchParams (d : List Byte) : BlockParams :=
  { tile := dbits d 103 93, entry := dbits d 191 144, blockId := BitVec.ofNat 32 (dbits d 223 192), groups := dbits d 108 104,
    regs := dbits d 116 109, lmBase := 4096 * dbits d 125 117, lmSize := 4096 * dbits d 134 126, large := dbits d 135 135 = 1,
    accMask := BitVec.ofNat 8 (dbits d 143 136), watchdog := dbits d 255 224,
    uniformInit := (List.range 8).map fun i => BitVec.ofNat 32 (dbits d (287 + 32 * i) (256 + 32 * i)) }

/-- A LAUNCH breaks R37. -/
def launchBad (s : State) (t : Nat) (p : BlockParams) : Bool :=
  p.entry % 8 ≠ 0 || p.groups < 1 || p.groups > 16 || p.regs < 8 || p.lmBase > 255 * 4096 || p.lmBase + p.lmSize > 0x100000 ||
    (p.large && p.accMask.toNat > 3) || (p.watchdog ≠ 0 && p.watchdog < 65536) || p.groups * allocated p.regs > 2048 ||
    ownerOf s p.tile ≠ some t || !tilePresent s p.tile

/-- LAUNCH (R37, R308, R313): the block joins its tile's launch order. -/
def execLaunch (tenant queue : Nat) (s : State) : Host.Outcome State Fault Refusal :=
  .next <| serveQueue s tenant queue 1 fun s n d =>
    let p := launchParams d
    if descReserved d 92 16 || launchBad s tenant p then .inr 0x60
    else
      let tile := tileAt s p.tile
      let la : Launch := { params := p, tenant := tenant, queue := queue, seq := n, epoch := (queueAt s tenant queue).epoch }
      .inl (s.setTile p.tile { tile with waiting := tile.waiting ++ [la] })

/-- Bytes a FEED or EXPORT moves (R309). -/
def moveBytes (d : List Byte) : Nat := dbits d 143 112 + 1

/-- A FEED or EXPORT breaks R309 or its window (R310); `need` is the window's bit it needs. -/
def moveDescBad (s : State) (t : Nat) (d : List Byte) (need : Nat) : Bool :=
  let w := hostWindow s t (dbits d 105 104)
  descReserved d 103 16 || dbits d 111 106 ≠ 0 || dbits d 511 256 ≠ 0 || moveBytes d % 64 ≠ 0 ||
    dbits d 255 192 % 64 ≠ 0 || dbits d 191 144 % 64 ≠ 0 || windowSize w = 0 || !bit w need ||
    dbits d 255 192 + moveBytes d > windowSize w

/-- Start a FEED or EXPORT (R309, R313). -/
def startMove (s : State) (t q n : Nat) (d : List Byte) (need : Nat) : State ⊕ Nat :=
  if moveDescBad s t d need then .inr 0x60
  else .inl (s.updQueue t q fun x => { x with running := x.running ++ [(x.epoch, n, d)] })

/-- FEED. -/
def execFeed (tenant queue : Nat) (s : State) : Host.Outcome State Fault Refusal :=
  .next <| serveQueue s tenant queue 2 fun s n d => startMove s tenant queue n d 0

/-- EXPORT. -/
def execExportDesc (tenant queue : Nat) (s : State) : Host.Outcome State Fault Refusal :=
  .next <| serveQueue s tenant queue 3 fun s n d => startMove s tenant queue n d 1

/-- WORK_DESCRIPTOR_RESERVED_TYPE (R307, R310). -/
def execWorkDescriptorReservedType (tenant queue : Nat) (s : State) : Host.Outcome State Fault Refusal :=
  .next <|
    let ty := dbits (nextDescBytes s tenant queue) 4 0
    if ty ≤ 3 then s else serveQueue s tenant queue ty fun _ _ _ => .inr 0x60

/-! ### FEED and EXPORT copies (R309, R310, R320) -/

/-- Device address of a line of a copy, or the cause that stops it there (R310). -/
def moveTarget (s : State) (t : Nat) (d : List Byte) (line : Nat) (need : Need) : Except Nat Nat :=
  match translateNow (calm s) t (dbits d 191 144 + 64 * line) need with
  | .wait => .error 0x20
  | .fail cause => .error cause
  | .ok b => if isLocal s b then .ok (boardDpa b) else .error 0x21

/-- What the walk for a line that failed met is counted and reported (R154, R430). -/
def State.noteLine (s : State) (t : Nat) (d : List Byte) (line : Nat) : State :=
  s.noteWalk (walk s t (dbits d 191 144 + 64 * line))

/-- Move the next `fuel` lines into tenant memory; answers the state, lines moved and what stopped it. -/
def feedLines (fuel line t : Nat) (d data : List Byte) (s : State) : State × Nat × Option Nat :=
  match fuel with
  | 0 => (s, line, none)
  | k + 1 =>
    match moveTarget s t d line .w with
    | .error cause => (s.noteLine t d line, line, some cause)
    | .ok a =>
      match (s.touchBias a 64).writeDpa a ((data.drop (64 * line)).take 64) with
      | (s1, true) => (s1.fastUncorrectable a, line, some 0x22)
      | (s1, false) => feedLines k (line + 1) t d data (s1.noticeWrite t a 64)

/-- Move the next `fuel` lines out to the host. -/
def exportLines (fuel line t : Nat) (d : List Byte) (s : State) : State × Nat × Option Nat :=
  match fuel with
  | 0 => (s, line, none)
  | k + 1 =>
    match moveTarget s t d line .r with
    | .error cause => (s.noteLine t d line, line, some cause)
    | .ok a =>
      let s1 := s.touchBias a 64
      if dpaBad s1 a 64 then (s1.fastUncorrectable a, line, some 0x22)
      else
        let w := hostWindow s1 t (dbits d 105 104)
        exportLines k (line + 1) t d (s1.writeHost (windowBase w + dbits d 255 192 + 64 * line) (dpaBytes s1 a 64))

/-- Move `n` lines of a copy. -/
def moveLines (s : State) (t : Nat) (d data : List Byte) (n : Nat) : State × Nat × Option Nat :=
  if dbits d 4 0 = 2 then feedLines n 0 t d data s else exportLines n 0 t d s

/-- A line of the copy waits for a reset or a retraining (R187, R381). -/
def moveWaits (s : State) (t : Nat) (d : List Byte) : Bool :=
  (List.range (moveBytes d / 64)).any fun i =>
    match translateNow s t (dbits d 191 144 + 64 * i) (if dbits d 4 0 = 2 then .w else .r) with
    | .wait => true
    | .ok b => dpaWaits s (boardDpa b) 64
    | .fail _ => false

/-- A copy is no longer under way. -/
def State.endMove (s : State) (t q : Nat) (e : Nat × Nat × List Byte) : State :=
  s.updQueue t q fun x => { x with running := x.running.erase e }

/-- FEED_EXPORT_COMPLETE (R309, R310, R320): the copy ends, fails at a line, or, begun while the host link is down,
ends with status 6. A copy begun before a function reset leaves no record. A poisoned completion is reported by an AER
message, and its bytes move as they come (R297, R309; log 114). -/
def execFeedExportComplete (tenant queue seq : Nat) (hostData : List Byte) (ecc : Ecc) (how : TransferEnd) (s0 : State) :
    Host.Outcome State Fault Refusal :=
  .next <|
    match (queueAt s0 tenant queue).running.find? fun e => e.2.1 = seq with
    | none => s0
    | some e =>
      let d := e.2.2
      let feed : Bool := dbits d 4 0 = 2
      if how = .linkLost then
        (if s0.host.linkWidth ≠ 0 then s0 else (s0.endMove tenant queue e).completeDesc tenant queue seq e.1 6 0 0 0)
      else if s0.host.linkWidth = 0 || moveWaits s0 tenant d || (feed && hostData.length ≠ moveBytes d) || (how = .poisoned && !feed) then s0
      else
        let s := ((s0.redraw).fastEcc ecc).updHost fun h => { h with aer := if how = .poisoned then h.aer ++ [12] else h.aer }
        match moveLines s tenant d hostData (moveBytes d / 64) with
        | (s1, n, none) => (s1.endMove tenant queue e).completeDesc tenant queue seq e.1 0 0 0 (64 * n)
        | (s1, n, some cause) =>
          if e.1 ≠ (queueAt s0 tenant queue).epoch || !queueInUse s0 tenant queue then s1.endMove tenant queue e
          else if queueFrozen s0 tenant queue then s0
          else (s1.endMove tenant queue e).freezeQueue tenant queue seq cause d (64 * n)

/-! ### The CXL link (R294, R320) -/

/-- A copy that loses the host link: what it had moved by then is open, and its record goes to no mirror (R315,
R320). -/
def State.loseMove (s : State) (t q : Nat) (e : Nat × Nat × List Byte) : State :=
  let d := e.2.2
  let n := free s (5600 + q) % (moveBytes d / 64 + 1)
  let data := (List.range (64 * n)).map fun i => BitVec.ofNat 8 (free s (6000 + 8 * i + q))
  let r := moveLines s t d data n
  let w := r.1.host.linkWidth
  (((r.1.endMove t q e).updHost fun h => { h with linkWidth := 0 }).completeDesc t q e.2.1 e.1 6 0 0 (64 * r.2.1)).updHost fun h =>
    { h with linkWidth := w }

/-- CXL_LINK_DOWN (R320). -/
def execCxlLinkDown (s0 : State) : Host.Outcome State Fault Refusal :=
  .next <|
    if s0.host.linkWidth = 0 then s0
    else
      let s := s0.tenants.foldl (fun s (x : Nat × Tenant) => (List.range 8).foldl (fun s q =>
        (queueAt s x.1 q).running.foldl (fun s e => s.redraw.loseMove x.1 q e) s) s) s0
      s.updHost fun h => { h with linkWidth := 0, linkRate := 0 }

/-- CXL_LINK_UP (R294, R377). -/
def execCxlLinkUp (width rate : Nat) (s : State) : Host.Outcome State Fault Refusal :=
  .next <|
    if s.host.linkWidth ≠ 0 || s.service.bringUp < 3 then s
    else
      let ok := [4, 8, 16].contains width && [8, 16, 32].contains rate
      (s.updHost fun h => { h with linkWidth := if ok then width else 0, linkRate := if ok then rate else 0,
                                   cxlNarrow := !(width = 16 && rate = 32) }).regrade

/-! ### Function resets (R296, R320) -/

/-- A path's transfer is cancelled, and a wait that goes on for it is answered to no one (R337). -/
def State.forgetPath (s : State) (p : Path) : State :=
  s.updDict fun d => { d with transfers := d.transfers.filter fun x => x.path ≠ p,
                              acks := d.acks.map fun a => if a.path = p then { a with path := .session 0 } else a }

/-- A mailbox is reset. -/
def State.resetMailbox (s : State) (k : Nat) : State := s.updDict fun d => { d with mailboxes := merase d.mailboxes k }

/-- A queue leaves use with its objects at their defaults; copies under way run on (R320). -/
def State.flrQueue (s : State) (t q : Nat) : State :=
  let x := queueAt s t q
  (s.updQueue t q fun _ => { epoch := x.epoch + 1, running := x.running }).unfreeze t (queueMaster q)

/-- A Function Level Reset of VF k (R320, R337). -/
def State.vfReset (s : State) (k : Nat) : State :=
  ((List.range 8).foldl (fun s q => s.flrQueue (k - 1) q) ((s.forgetPath (.vf k)).resetMailbox k))

/-- VF_FUNCTION_LEVEL_RESET (R320). -/
def execVfFunctionLevelReset (vf : Nat) (s : State) : Host.Outcome State Fault Refusal :=
  .next (if vfReachable s vf then s.vfReset vf else s)

/-- PF0_FUNCTION_LEVEL_RESET (R320, R337). -/
def execPf0FunctionLevelReset (s : State) : Host.Outcome State Fault Refusal :=
  .next <|
    if s.host.linkWidth = 0 then s
    else
      let s1 := (s.closeSessions fun x => x.line = 2).updDict fun d => { d with reassembly := d.reassembly.filter fun r => r.line ≠ 2 }
      (s1.forgetPath .pf0).resetMailbox 0

/-- Every VF that is enabled is reset, and none is enabled (R296). -/
def State.disableVfs (s : State) : State :=
  ((List.range s.host.numVfs).foldl (fun s i => s.vfReset (i + 1)) s).updHost fun h => { h with vfEnable := false }

/-- VF_ENABLE_CLEAR (R296). -/
def execVfEnableClear (s : State) : Host.Outcome State Fault Refusal :=
  .next (if s.host.linkWidth ≠ 0 && s.host.vfEnable then s.disableVfs else s)

/-- NUMVFS_WRITE (R296); TotalVFs is 1,024 (R295). -/
def execNumvfsWrite (numVfs : Nat) (enable : Bool) (s : State) : Host.Outcome State Fault Refusal :=
  .next <|
    if s.host.linkWidth = 0 || numVfs > 1024 then s
    else
      (if s.host.vfEnable && !enable then s.disableVfs else s).updHost fun h => { h with numVfs := numVfs, vfEnable := enable }

/-! ### Host-managed memory (R299–R302) -/

/-- PF0_APERTURE_WRITE (R299): bytes beyond the page-table area are dropped; the others wait for a channel or a scope
(R187, R381). -/
def execPf0ApertureWrite (offset : Nat) (data : List Byte) (s : State) : Host.Outcome State Fault Refusal :=
  .next <|
    let a := s.mem.ptBase + offset
    let bs := data.take (2 ^ 20 * s.mem.ptSize - offset)
    if s.host.linkWidth = 0 || dpaWaits s a bs.length then s else ((s.touchBias a bs.length).writeDpa a bs).1

/-- HDM_DECODER_COMMIT (R300). -/
def execHdmDecoderCommit (base size ways : Nat) (s : State) : Host.Outcome State Fault Refusal :=
  .next <|
    if s.host.linkWidth = 0 then s
    else if ways = 1 && size = gib * (20 * s.mem.span) then s.updHost fun h => { h with hdmBase := base, hdmCommitted := true }
    else s.updHost fun h => { h with hdmCommitted := false }

/-- A byte range of the interleaved view is open to the host (R300). -/
def hostOpen (s : State) (d n : Nat) : Bool :=
  (List.range ((d + n - 1) / 2 ^ 21 + 1 - d / 2 ^ 21)).all fun i =>
    let p := d / 2 ^ 21 + i
    let e := (pageEntry s p).toNat
    s.host.access.contains p && !inPtArea s.mem (2 ^ 21 * p) && !inQueueArea s (2 ^ 21 * p) && !(bit e 15 && bit e 14)

/-- A host write has landed: a block of the page's tenant may have changed (R235). -/
def State.hostNotice (s : State) (d n : Nat) : State :=
  let e := (pageEntry s (d / 2 ^ 21)).toNat
  if bit e 15 then s.noticeWrite (bits e 9 0) d n else s

/-- Bytes a host access covers. -/
def accessBytes (a : HostAccess) : Nat :=
  match a with
  | .read n => n
  | .write bs => bs.length

/-- Return data to the host, with or without the poison indication. -/
def State.hostData (s : State) (hpa : Nat) (bs : List Byte) (poison : Bool) : State :=
  s.updHost fun h => { h with hostReads := h.hostReads ++ [(hpa, bs, poison)] }

/-- An open host access performs; uncorrectable data return with the poison indication, their bytes open. -/
def State.hostPerform (s : State) (hpa d : Nat) (a : HostAccess) : State :=
  match a with
  | .read n =>
    if dpaBad s d n then
      (s.fastUncorrectable d).hostData hpa ((List.range n).map fun i => BitVec.ofNat 8 (free s (6000 + i))) true
    else s.hostData hpa (dpaBytes s d n) false
  | .write bs => (s.writeDpa d bs).1.hostNotice d bs.length

/-- HDM_ACCESS (R300): a line of at most 64 bytes; one that waits for a channel or a reset performs later. -/
def execHdmAccess (hpa : Nat) (a : HostAccess) (ecc : Ecc) (s0 : State) : Host.Outcome State Fault Refusal :=
  .next <|
    let n := accessBytes a
    let d := hpa - s0.host.hdmBase
    if s0.host.linkWidth = 0 || !s0.host.hdmCommitted || hpa < s0.host.hdmBase || d + n > gib * (20 * s0.mem.span) ||
        n = 0 || hpa % 64 + n > 64 then s0
    else if !hostOpen s0 d n then
      let s := s0.updHost fun h => { h with hdmRefused := satAdd 64 h.hdmRefused 1 }
      match a with
      | .read n => s.hostData hpa (List.replicate n 0) true
      | .write _ => s
    else if dpaWaits s0 d n then s0
    else ((s0.redraw).fastEcc ecc).hostPerform hpa d a

/-- HOST_SNOOP (R302): answered as a miss. -/
def execHostSnoop (hpa : Nat) (s : State) : Host.Outcome State Fault Refusal :=
  .next (if s.host.linkWidth = 0 then s else s.updHost fun h => { h with snoops := h.snoops ++ [(hpa, false)] })

/-! ### What the host reads (R293–R305, R312, R319) -/

/-- What the configuration space of PF 0 and of a VF states (R293, R295, R300). -/
inductive ConfigItem where
  | vendorId | deviceId | classCode | interruptPin | bar0Bytes | bar2Bytes
  | totalVfs | initialVfs | numVfs | firstVfOffset | vfStride | cacheCapable | memCapable | hdmCount | range1Size
  deriving DecidableEq, Repr

/-- Value of a configuration item; `pf` is that PF 0 is read, and a VF has none of the items of SR-IOV and CXL (R295). -/
def configValue (s : State) (pf : Bool) (i : ConfigItem) : Nat :=
  match i with
  | .vendorId => 0x1F9B
  | .deviceId => if pf then 0x7960 else 0x7961
  | .classCode => 0x120000
  | .interruptPin => 0
  | .bar0Bytes => if pf then 2 ^ 18 else 2 ^ 22
  | .bar2Bytes => if pf then gib * 64 else 0
  | .totalVfs | .initialVfs => if pf then 1024 else 0
  | .numVfs => if pf then s.host.numVfs else 0
  | .firstVfOffset | .vfStride => if pf then 1 else 0
  | .cacheCapable | .memCapable | .hdmCount => if pf then 1 else 0
  | .range1Size => if pf then gib * (20 * s.mem.span) else 0

/-- A capability of R295's list. -/
inductive Capability where
  | pcie | aer | sriov | ari | doe | ide | cxlDvsec | registerLocator
  deriving DecidableEq, Repr

/-- Capabilities a function lists; MSI, MSI-X, ATS, PRI and PASID are absent (R293, R295). -/
def capabilities (pf : Bool) : List Capability :=
  if pf then [.pcie, .aer, .sriov, .ari, .doe, .ide, .cxlDvsec, .registerLocator] else [.pcie, .ari]

/-- Routing ID of VF k (R295). -/
def vfRoutingId (pfId k : Nat) : Nat := pfId + k

/-- A byte of a run of bytes that starts at an offset. -/
def areaByte (bs : List Byte) (base o : Nat) : Byte := bs.getD (o - base) 0

/-- A mailbox's request area (R338): control word, then the message at offset 16. -/
def requestArea (b : Mailbox) : List Byte := leBytes 8 b.request.toNat ++ List.replicate 8 0 ++ b.message
/-- A mailbox's response area. -/
def responseArea (b : Mailbox) : List Byte := leBytes 8 b.control.toNat ++ List.replicate 8 0 ++ b.response

/-- `QueueTail`, `QueueHead`, `QueueCompleted`, then state and last cause, as the window gives them (R304, R312). -/
def queueStatusBytes (s : State) (t q : Nat) : List Byte :=
  let x := queueAt s t q
  leBytes 8 x.tail ++ leBytes 8 x.head ++ leBytes 8 x.completed ++ leBytes 8 (fieldAt 8 x.lastCause + queueState s t q)

/-- A queue answers reads of its pointers and status (R312). -/
def queueShows (s : State) (t q : Nat) : Bool := queueState s t q ≠ 0 && queueState s t q ≠ 3

/-- A byte of tenant t's window (R304, R305, R311, R312). A read changes nothing (R319). -/
def windowByte (s : State) (t o : Nat) : Byte :=
  if o < 0x40 then (if queueShows s t (o / 8) then areaByte (leBytes 8 (queueAt s t (o / 8)).tail) 0 (o % 8) else 0)
  else if 0x100 ≤ o && o < 0x140 then
    (if queueShows s t (o % 0x100 / 8) then areaByte (leBytes 8 (queueAt s t (o % 0x100 / 8)).readPtr) 0 (o % 8) else 0)
  else if 0x1000 ≤ o && o < 0x1100 then
    (if queueShows s t (o % 0x1000 / 32) then areaByte (queueStatusBytes s t (o % 0x1000 / 32)) 0 (o % 32) else 0)
  else if 0x3000 ≤ o && o < 0x4000 then areaByte (responseArea (mailboxAt s (t + 1))) 0x3000 o
  else if 0x100000 ≤ o && o < 0x280000 then (dpaBytes s (sliceBase s t + (o - 0x100000)) 1).headD 0
  else 0

/-- What a read of `n` bytes through VF k's window gives (R304). -/
def windowRead (s : State) (vf offset n : Nat) : List Byte :=
  if vfReachable s vf then (List.range n).map fun i => windowByte s (vf - 1) (offset + i) else []

/-- What a read through BAR2 of PF 0 gives: zero beyond the page-table area (R299). -/
def apertureRead (s : State) (offset n : Nat) : List Byte :=
  (List.range n).map fun i =>
    if offset + i < 2 ^ 20 * s.mem.ptSize then (dpaBytes s (s.mem.ptBase + offset + i) 1).headD 0 else 0

/-- What a read through BAR0 of PF 0 gives (R298, R338): component registers, the mailbox, and zero where reserved. -/
def bar0Read (s : State) (offset n : Nat) : List Byte :=
  (List.range n).map fun i =>
    let o := offset + i
    if o < 0x10000 then Config.componentRegister o s.host.hdmBase (gib * (20 * s.mem.span)) s.host.hdmCommitted
    else if o < 0x11000 then areaByte (requestArea (mailboxAt s 0)) 0x10000 o
    else if o < 0x12000 then areaByte (responseArea (mailboxAt s 0)) 0x11000 o
    else 0

/-! ### DOE (R293) -/

/-- DOE_DISCOVERY: the protocols are DOE Discovery, 0, and CMA/SPDM, 1, of vendor 0x0001; the layout and the answer
beyond the last are those of PCI Express (log 57). -/
def execDoeDiscovery (index : Nat) (s : State) : Host.Outcome State Fault Refusal :=
  .next <|
    if s.host.linkWidth = 0 then s
    else
      let v := match index with
        | 0 => fieldAt 24 1 + fieldAt 16 0 + 1
        | 1 => fieldAt 16 1 + 1
        | _ => fieldAt 16 0xFF + 0xFFFF
      s.updHost fun h => { h with doe := h.doe ++ [leBytes 4 v] }

end Sys2Proof.Machine
end

