-- ==== Sys2Proof/Machine/Sessions.lean ====
section
/-!
DEFINITION. The Finuleri Line and its sessions (R341–R346), the mailboxes (R338–R340), and the Lodge's return
(R351). A frame that the forwarder has delivered stands in `lodgeFrames` until a row of the Lodge takes it; a
mailbox message of form 1 is a frame on line 2, its addresses zero.
-/

namespace Sys2Proof.Machine

/-! ### Frames (R341) -/

/-- `frame_type`. -/
def fType (f : Frame) : Nat := bits f.hdr.toNat 123 120
/-- `hop_limit`. -/
def fHops (f : Frame) : Nat := bits f.hdr.toNat 119 112
/-- `session_id`. -/
def fSession (f : Frame) : Nat := bits f.hdr.toNat 111 96
/-- `sequence`. -/
def fSequence (f : Frame) : Nat := bits f.hdr.toNat 95 32
/-- `length`. -/
def fLength (f : Frame) : Nat := bits f.hdr.toNat 31 16
/-- The payload; bytes after it are ignored. -/
def fPayload (f : Frame) : List Byte := f.payload.take (fLength f)

/-- A frame for the module breaks the table of R341. -/
def frameBad (f : Frame) : Bool :=
  bits f.hdr.toNat 127 124 ≠ 1 || fType f ≥ 5 || bits f.hdr.toNat 15 0 ≠ 0 || fLength f > 1480 || fLength f > f.payload.length ||
    (fType f ≤ 1 && fSession f ≠ 0) || (fType f = 2 && fLength f ≥ 1 && (fPayload f).getD 0 0 = 1 && fSession f ≠ 0) || (fType f ≤ 2 && fSequence f ≠ 0) || (fType f ≥ 3 && fSequence f = 0)

/-- Count a dropped frame (R348). -/
def State.dropFrame (s : State) : State := s.updDict fun d => { d with dropped := satAdd 64 d.dropped 1 }

/-! ### The forwarder (R342) -/

/-- A port's link is up. -/
def portUpAt (s : State) (p : Nat) : Bool := s.dict.portUp.getLsbD p

/-- The forwarder hands a frame to the Lodge, which drops one that breaks R341; it takes none while it does not serve
(R341, R342, R351, R375). -/
def State.deliverFrame (s : State) (f : Frame) : State :=
  if !dictServed s then s
  else if frameBad f then s.dropFrame
  else if fType f = 1 then s
  else s.updDict fun d => { d with lodgeFrames := d.lodgeFrames ++ [f] }

/-- Forward a frame out of the other port (R342); one whose other port is down is lost (log 58). -/
def State.forwardFrame (s : State) (f : Frame) : State :=
  if !s.dict.forwardEnable then s
  else if fHops f ≤ 1 then s.dropFrame
  else if !portUpAt s (1 - f.port) then s
  else
    s.updDict fun d =>
      { d with forwarded := satAdd 64 d.forwarded 1,
               frames := d.frames ++ [{ f with port := 1 - f.port, hdr := f.hdr - BitVec.ofNat 128 (2 ^ 112) }] }

/-- FRAME_FORWARD (R342): from bring-up state 3 on. -/
def execFrameForward (f : Frame) (s : State) : Host.Outcome State Fault Refusal :=
  .next <|
    if s.service.bringUp < 3 || s.power.packageOff || f.port > 1 || !portUpAt s f.port then s
    else if !f.fcsOk || f.etherType.toNat ≠ s.dict.etherType then s.dropFrame
    else if f.dstMac = Config.macAddress then s.deliverFrame f
    else if f.dstMac.getLsbD 40 then (s.deliverFrame f).forwardFrame f
    else s.forwardFrame f

/-- FINULERI_PORT_LINK_CHANGE (R348). -/
def execFinuleriPortLinkChange (port : Nat) (up : Bool) (s : State) : Host.Outcome State Fault Refusal :=
  .next <|
    if s.service.bringUp < 3 || port > 1 then s
    else
      let m := BitVec.ofNat 2 (2 ^ port)
      s.updDict fun d => { d with portUp := if up then d.portUp ||| m else d.portUp &&& ~~~m }

/-- The Lodge's own timer counts (R343, R346). -/
def State.lodgeMs (s : State) (ms : Nat) : State :=
  s.updDict fun d => { d with sessions := d.sessions.map fun x => { x with idleMs := x.idleMs + ms },
                              discovered := d.discovered.map fun e => (e.1, e.2 + ms) }

/-- A mailbox message that gets no response is done with, and the host may send its next (log 59). -/
def State.endSilent (s : State) (f : Frame) : State := if f.port = 2 then s.updMailbox 0 fun b => { b with taken := none } else s

/-- A Lodge row takes a delivered frame of its type. -/
def takeFrame (s0 : State) (f : Frame) (ok : Bool) (run : State → State) : State :=
  if s0.dict.lodgeFrames.contains f && ok && dictServed s0 then
    run (s0.redraw.updDict fun d => { d with lodgeFrames := d.lodgeFrames.erase f })
  else s0

/-! ### Discovery (R343) -/

/-- Answer a discovery request, at most one per source in 100 ms. -/
def State.discovery (s : State) (f : Frame) : State :=
  if fLength f ≠ 0 || s.dict.discovered.any fun e => e.1 = f.srcMac && e.2 < 100 then s.endSilent f
  else
    let body := beBytes 6 Config.macAddress.toNat ++ spacePad 16 Config.serialNumber ++ spacePad 16 (ascii "QN-T96-LC") ++
      leBytes 1 s.service.bringUp ++ leBytes 1 s.service.boardSlot
    (s.updDict fun d => { d with discovered := (f.srcMac, 0) :: d.discovered.filter fun e => e.1 ≠ f.srcMac }).sendFrame
      f.port f.srcMac 1 0 0 body

/-- DISCOVERY_REQUEST (R343). -/
def execDiscoveryRequest (f : Frame) (lodgeMs : Nat) (s : State) : Host.Outcome State Fault Refusal :=
  .next <| takeFrame s f (fType f = 0) fun s => (s.lodgeMs lodgeMs).discovery f

/-! ### Handshakes (R344, R345) -/

/-- Send handshake message `n` whole, in one fragment. -/
def State.sendHandshake (s : State) (f : Frame) (sid n : Nat) (body : List Byte) : State :=
  s.sendFrame f.port f.srcMac 2 sid 0
    (beBytes 1 n ++ [0] ++ beBytes 2 body.length ++ beBytes 2 0 ++ beBytes 2 body.length ++ body)

/-- The same peer: by source address, or the mailbox. -/
def samePeer (line : Nat) (mac : BitVec 48) (f : Frame) : Bool := mac = f.srcMac && (line = 2) = (f.port = 2)

/-- A peer's handshake and fragments are gone. -/
def State.dropHandshake (s : State) (f : Frame) : State :=
  s.updDict fun d => { d with sessions := d.sessions.filter fun x => !(x.state = 1 && samePeer x.line x.mac f),
                              reassembly := d.reassembly.filter fun r => !samePeer r.line r.mac f }

/-- A handshake fails with a reason (R345). -/
def State.failHandshake (s : State) (f : Frame) (sid reason : Nat) : State :=
  ((s.dropHandshake f).updDict fun d => { d with handshakeFailures := satAdd 32 d.handshakeFailures 1 }).sendHandshake
    f sid 5 [BitVec.ofNat 8 reason]

/-- What a fragment makes of a message: malformed, more to come, or whole. -/
inductive Pieced where
  | malformed
  | partly (s : State)
  | whole (s : State) (bs : List Byte)

/-- Take a fragment of handshake message `n` (R344). -/
def takeFragment (s : State) (f : Frame) (n : Nat) : Pieced :=
  let p := fPayload f
  let total := beNat ((p.drop 2).take 2)
  let off := beNat ((p.drop 4).take 2)
  let len := beNat ((p.drop 6).take 2)
  let old := s.dict.reassembly.find? fun r => samePeer r.line r.mac f && r.message = n
  let others := s.dict.reassembly.filter fun r => !(samePeer r.line r.mac f && r.message = n)
  if p.length < 8 || p.getD 0 0 ≠ BitVec.ofNat 8 n || p.getD 1 0 ≠ 0 || total < 1 || total > 8192 || len > 1024 || off + len > total ||
      p.length ≠ 8 + len || (old.any fun r => r.total ≠ total) then .malformed
  else
    let have_ : SMap Byte := match old with
      | some r => r.bytes
      | none => []
    let bytes := ((List.range len).zip (p.drop 8)).foldl (fun m e => mset m (off + e.1) e.2) have_
    if bytes.length = total then .whole (s.updDict fun d => { d with reassembly := others }) (bytes.map Prod.snd)
    else
      .partly (s.updDict fun d =>
        { d with reassembly := others ++ [{ line := f.port, mac := f.srcMac, message := n, total := total, bytes := bytes }] })

/-- What H1 asks for (R344). -/
structure HelloMsg where
  role : Nat
  nonce : List Byte
  key : List Byte
  token : List Byte
  chain : List Byte
  size : Nat
  deriving DecidableEq, Repr

/-- H1 at the head of a transcript; its lengths are in network byte order as the fragment header's are. -/
def helloOf (bs : List Byte) : Option HelloMsg :=
  let tl := beNat ((bs.drop 133).take 2)
  let cl := beNat ((bs.drop (135 + tl)).take 2)
  if bs.length < 137 + tl + cl || !zeroBytes bs 1 3 then none
  else
    some { role := leNat (bs.take 1), nonce := (bs.drop 4).take 32, key := (bs.drop 36).take 97, token := (bs.drop 135).take tl,
           chain := (bs.drop (137 + tl)).take cl, size := 137 + tl + cl }

/-- The next session id: ascending, skipping 0 and ids in use (R346). -/
def pickSession (fuel n : Nat) (xs : List Session) : Nat :=
  match fuel with
  | 0 => n
  | k + 1 =>
    let m := n % 65536
    if m = 0 || xs.any (fun x => x.id = m) then pickSession k (m + 1) xs else m

/-- Bytes an HKDF output is cut to. -/
def keyBytes (secret salt : List Byte) (label : String) (th : List Byte) (n : Nat) : List Byte :=
  ((Config.hkdf secret salt (ascii label ++ th)) ++ List.replicate n 0).take n

/-- Answer H1 with H2 (R344, R346). -/
def State.answerHello (s : State) (f : Frame) (h1 : List Byte) : State :=
  match helloOf h1 with
  | none => s.failHandshake f 0 6
  | some h =>
    let s1 := s.dropHandshake f
    if h.size ≠ h1.length then s.failHandshake f 0 6
    else if s1.dict.sessions.length ≥ 16 then s.failHandshake f 0 5
    else
      let id := pickSession 40 s1.dict.nextSession s1.dict.sessions
      let n := s1.heartwood.ephemerals
      let nonce := (List.range 32).map fun i => BitVec.ofNat 8 (free s1 (5100 + i))
      let h2 := nonce ++ sized 97 (Config.ephemeralKey n)
      let th := beBytes 48 (Config.sha384 (h1 ++ h2)).toNat
      let sig := sized 96 (Config.ecdsaSign (sessionKey s1) th)
      let key (label : String) (k : Nat) : List Byte := keyBytes (Config.ecdh n h.key) (h.nonce ++ nonce) label th k
      let x : Session :=
        { id := id, state := 1, role := 0, line := f.port, mac := f.srcMac, peerKeyHash := 0, framesIn := 0, framesOut := 0,
          seqIn := 0, seqOut := 0, c2mKey := key "finuleri c2m key" 32, m2cKey := key "finuleri m2c key" 32,
          c2mIv := key "finuleri c2m iv" 4, m2cIv := key "finuleri m2c iv" 4, transcript := h1 ++ h2 ++ sig, peerKey := [], idleMs := 0 }
      let s2 := s1.updHeartwood fun w => { w with ephemerals := w.ephemerals + 1 }
      (s2.updDict fun d => { d with sessions := d.sessions ++ [x], nextSession := (id + 1) % 65536 }).sendHandshake f id 2 (h2 ++ sig)

/-- Heartwood serves handshakes; in the states below they wait without an answer (R408). -/
def handshakesServed (s : State) : Bool := s.heartwood.state = 1

/-- Take a fragment of H1, or of a message the module never receives. -/
def State.hello (s : State) (f : Frame) : State :=
  if fSession f ≠ 0 then s.failHandshake f (fSession f) 6
  else
    match takeFragment s f 1 with
    | .malformed => s.failHandshake f 0 6
    | .partly s1 => s1.endSilent f
    | .whole s1 bs => s1.answerHello f bs

/-- The frame carries a fragment of H3. -/
def isFinish (f : Frame) : Bool := fLength f ≥ 1 && (fPayload f).getD 0 0 = 3

/-- HANDSHAKE_H1 (R344, R346). -/
def execHandshakeH1 (f : Frame) (s : State) : Host.Outcome State Fault Refusal :=
  .next <| takeFrame s f (fType f = 2 && !isFinish f && handshakesServed s) fun s => s.hello f

/-- Role mask of the anchor with a key hash; 0 where there is none (R345, R349). -/
def anchorMask (s : State) (hash : BitVec 384) : Nat :=
  (List.range 8).foldl (fun m i =>
    let e := readBytes s.dict.anchors (64 * i) 64
    if e.take 48 = beBytes 48 hash.toNat then m ||| (e.getD 48 0).toNat else m) 0

/-- The reason for which H3 fails, or 0 (R345). -/
def finishReason (s : State) (x : Session) (h : HelloMsg) (sig : List Byte) : Nat :=
  if !Config.chainOk h.chain || Config.chainLength h.chain > 4 then 1
  else if !([1, 3, 4, 5].contains h.role) || !bit (anchorMask s (Config.chainAnchor h.chain)) h.role then 2
  else if h.role = 5 && !tokenOk s h.token then 3
  else if !Config.ecdsaVerify (Config.chainLeafKey h.chain) (beBytes 48 (Config.sha384 x.transcript).toNat) sig then 4
  else 0

/-- The session opens with the role asked for, which message 4 carries encrypted (R344, R345). -/
def State.openSession (s : State) (f : Frame) (x : Session) (h : HelloMsg) : State :=
  let leaf := Config.chainLeafKey h.chain
  let s1 := s.updSession x.id fun y =>
    { y with state := 2, role := h.role, line := f.port, peerKey := leaf, idleMs := 0,
             peerKeyHash := BitVec.ofNat 128 (beNat ((beBytes 48 (Config.sha384 leaf).toNat).take 16)) }
  let s2 := if h.role = 5 then s1.updHeartwood fun w => { w with serviceNonce := drawNonce s1 } else s1
  let hdr := finHeader 2 s2.dict.hopDefault x.id 0 25
  s2.sendHandshake f x.id 4
    (Config.gcmSeal (BitVec.ofNat 256 (beNat x.m2cKey)) (frameIv x.m2cIv 0) (frameAad f.port f.srcMac Config.macAddress hdr)
      [BitVec.ofNat 8 h.role])

/-- Take a fragment of H3 and, when it is whole, verify it (R344, R345). -/
def State.finishHandshake (s : State) (f : Frame) : State :=
  match s.dict.sessions.find? fun x => x.id = fSession f && x.state = 1 && samePeer x.line x.mac f with
  | none => s.endSilent f
  | some x =>
    match takeFragment s f 3, helloOf x.transcript with
    | .partly s1, some _ => s1.endSilent f
    | .whole s1 sig, some h =>
      if sig.length ≠ 96 then s1.failHandshake f x.id 6
      else if finishReason s1 x h sig ≠ 0 then s1.failHandshake f x.id (finishReason s1 x h sig)
      else s1.openSession f x h
    | _, _ => s.failHandshake f x.id 6

/-- HANDSHAKE_H3 (R344, R345). -/
def execHandshakeH3 (f : Frame) (s : State) : Host.Outcome State Fault Refusal :=
  .next <| takeFrame s f (fType f = 2 && isFinish f && handshakesServed s) fun s => s.finishHandshake f

/-! ### Session frames (R344, R346) -/

/-- Open a session frame: its session and plaintext, where the tag holds and its sequence is new (R344). -/
def openFrame (s : State) (f : Frame) : Option (Session × List Byte) :=
  match s.dict.sessions.find? fun x => x.id = fSession f && x.state = 2 && (x.line = 2) = (f.port = 2) with
  | none => none
  | some x =>
    if fSequence f ≤ x.seqIn then none
    else
      (Config.gcmOpen (BitVec.ofNat 256 (beNat x.c2mKey)) (frameIv x.c2mIv (fSequence f)) (frameAad f.port f.dstMac f.srcMac f.hdr)
        (fPayload f)).map fun p => (x, p)

/-- A frame of a session is accepted; answers go out where it came in (R342, R346). -/
def State.acceptFrame (s : State) (id : Nat) (f : Frame) : State :=
  s.updSession id fun y => { y with seqIn := fSequence f, framesIn := y.framesIn + 1, idleMs := 0, line := f.port, mac := f.srcMac }

/-- A session that has carried 2^40 frames in a direction closes (R346). -/
def State.closeWorn (s : State) (id : Nat) : State :=
  s.closeSessions fun x => x.id = id && (x.framesIn ≥ 2 ^ 40 || x.framesOut ≥ 2 ^ 40)

/-- Serve a session-data frame (R344). -/
def State.sessionFrame (s : State) (f : Frame) : State :=
  match openFrame s f with
  | none => s.dropFrame.endSilent f
  | some (x, p) =>
    let s1 := s.acceptFrame x.id f
    if p.length < 16 then (s1.dropFrame.endSilent f).closeWorn x.id
    else (serveOn s1 (.session x.id) (msgOf p) none).closeWorn x.id

/-- SESSION_DATA (R335, R344): it waits while the session's last request has no answer. -/
def execSessionData (f : Frame) (s : State) : Host.Outcome State Fault Refusal :=
  .next <| takeFrame s f (fType f = 3 && !pathBusy s (.session (fSession f))) fun s => s.sessionFrame f

/-- Serve a session-close frame: authenticated, with nothing in it (R346). -/
def State.closeFrame (s : State) (f : Frame) : State :=
  match openFrame s f with
  | some (x, []) => (s.endSilent f).closeSessions fun y => y.id = x.id
  | _ => s.dropFrame.endSilent f

/-- SESSION_CLOSE (R346). -/
def execSessionClose (f : Frame) (s : State) : Host.Outcome State Fault Refusal :=
  .next <| takeFrame s f (fType f = 4) fun s => s.closeFrame f

/-- SESSION_IDLE_TIMEOUT (R346); a handshake that idles as long goes too (log 60). -/
def execSessionIdleTimeout (id lodgeMs : Nat) (s : State) : Host.Outcome State Fault Refusal :=
  .next <|
    if !dictServed s then s
    else
      let s1 := s.lodgeMs lodgeMs
      s1.closeSessions fun x => x.id = id && x.idleMs ≥ s1.dict.sessionIdleMs

/-! ### Mailboxes (R338–R340) -/

/-- Answer a mailbox message that is none (R339). -/
def State.malformedMailbox (s : State) (k : Nat) : State :=
  let m : DictMsg := { msgOf [] with command := 0x80, status := 0x0D }
  (s.updMailbox k fun b => { b with taken := b.taken.map fun c => (BitVec.ofNat 64 (fieldAt 32 (bits c.1.toNat 63 32)), c.2) }).mailboxAnswer
    k (msgBytes m)

/-- Serve a Finuleri message of the PF 0 mailbox (R340). -/
def State.serveInner (s : State) (f : Frame) : State :=
  if frameBad f then s.dropFrame.endSilent f
  else
    match fType f with
    | 0 => s.discovery f
    | 2 =>
      if !handshakesServed s then s.updDict fun d => { d with lodgeFrames := d.lodgeFrames ++ [f] }
      else if isFinish f then s.finishHandshake f
      else s.hello f
    | 3 => s.sessionFrame f
    | 4 => s.closeFrame f
    | _ => s.endSilent f

/-- The Finuleri message of a mailbox. -/
def innerFrame (s : State) (bs : List Byte) : Frame :=
  { port := 2, dstMac := 0, srcMac := 0, etherType := BitVec.ofNat 16 s.dict.etherType, hdr := BitVec.ofNat 128 (beNat (bs.take 16)),
    payload := bs.drop 16, fcsOk := true }

/-- Take and serve a request: `mb_length` bytes of the request area are copied (R339, R340). -/
def State.serveMailbox (s : State) (k : Nat) : State :=
  let b := mailboxAt s k
  let c := b.request.toNat
  let bs := sized (bits c 15 0) b.message
  let s1 := s.updMailbox k fun b => { b with seq := BitVec.ofNat 32 (bits c 63 32), taken := some (b.request, bs) }
  if bits c 31 30 > 1 || bits c 29 16 ≠ 0 || bits c 15 0 < 16 || bits c 15 0 > 4080 || (bits c 31 30 = 1 && k ≠ 0) then s1.malformedMailbox k
  else if bits c 31 30 = 1 then s1.serveInner (innerFrame s1 bs)
  else serveOn s1 (if k = 0 then .pf0 else .vf k) (msgOf bs) none

/-- Key of a mailbox the host reaches; none for one it does not (R296, R338). -/
def mailboxReached (s : State) (mb : MailboxId) : Option Nat :=
  match mb with
  | .pf0 => if s.host.linkWidth ≠ 0 then some 0 else none
  | .vf k => if vfReachable s k then some k else none

/-- The control word shows the next request number (R339). -/
def mailboxNext (b : Mailbox) : Bool := BitVec.ofNat 32 (bits b.request.toNat 63 32) = b.seq + 1

/-- The host writes a message and then its control word into a request area; bytes beyond the message stay (R338, R339). -/
def State.fillMailbox (s : State) (k : Nat) (control : W64) (message : List Byte) : State :=
  let m := message.take 4080
  s.updMailbox k fun b => { b with request := control, message := m ++ b.message.drop m.length }

/-- Take the request of a mailbox where it shows the next number, none of that mailbox is under way, and the dictionary is
served (R335, R339, R351, R375). -/
def State.takeMailbox (s : State) (k : Nat) : State :=
  if !mailboxNext (mailboxAt s k) || (mailboxAt s k).taken.isSome || !dictServed s ||
      pathBusy s (if k = 0 then .pf0 else .vf k) then s
  else s.redraw.serveMailbox k

/-- MAILBOX_REQUEST (R339, R351): a request that cannot be taken waits in its area. -/
def execMailboxRequest (mb : MailboxId) (control : W64) (message : List Byte) (s : State) : Host.Outcome State Fault Refusal :=
  .next <|
    match mailboxReached s mb with
    | none => s
    | some k => (s.fillMailbox k control message).takeMailbox k

/-! ### The Lodge returns (R351) -/

/-- Serve the requests that wait in the mailboxes (R351, R375). -/
def State.serveWaiting (s : State) : State :=
  (s.dict.mailboxes.map Prod.fst).foldl (fun s k => s.takeMailbox k) s

/-- Requests taken and not answered are answered LODGE_RESTARTED, and those that wait are served (R351). -/
def State.lodgeServes (s : State) : State :=
  let s1 := s.restartAcks
  ((s1.dict.mailboxes.map Prod.fst).foldl (fun s k => s.updMailbox k fun b => { b with taken := none }) s1).serveWaiting

/-- LODGE_RETURNS (R351, R388): after a restart or a failure, or at the end of a handover, which is the one unit of the
Lodge's activation. -/
def execLodgeReturns (s0 : State) : Host.Outcome State Fault Refusal :=
  .next <|
    if s0.power.packageOff then s0
    else if s0.service.handing then
      ((s0.redraw.updService fun v => { v with handing := false, activeLodge := 1 - v.activeLodge }).nextUnit 1).regrade.lodgeServes
    else if !s0.service.lodgeAway then s0
    else (s0.redraw.updService fun v => { v with lodgeAway := false }).lodgeServes

end Sys2Proof.Machine
end

