-- ==== Sys2Proof/Machine/BringUp.lean ====
section
/-!
DEFINITION. The rows that end a bring-up state (R374–R376).
-/

namespace Sys2Proof.Machine

/-- A state that overruns its limit fails as its first row gives (R376; log 55). -/
def State.overrun (s : State) : State :=
  match s.service.bringUp with
  | 1 => s.stopBringUp 1
  | 2 => s.stopBringUp 3
  | 3 => (s.trainShore 0 0 s.dict.portUp).serveWaiting.enterState 4
  | 4 => s.stopBringUp 4
  | 5 => s.endMemory [(free s 5400 % 20, free s 5401 % 32)] [] []
  | _ =>
    (s.updLinks fun x => { x with links := x.links.map fun (e : Nat × Link) =>
      (e.1, if e.2.dimension ≤ 11 && !([3, 4, 5, 6, 8].contains e.2.state) then { e.2 with state := 4, width := 0 } else e.2) }).finishLinks

/-- BRING_UP_STAGE_COMPLETE (R374, R376). State 3 has two ends: the ports have trained and the dictionary is served,
and then the compute dies are powered (R375; log 122). -/
def execBringUpStageComplete (r : StageResult) (s0 : State) : Host.Outcome State Fault Refusal :=
  .next <|
    if !bringingUp s0 then s0
    else
      let s := s0.redraw.lodgeTime r.lodgeCycles
      if overLimit s then s.overrun
      else
        match s.service.bringUp with
        | 1 => s.endHeartwood r
        | 2 => if r.shoreOk then s.enterState 3 else s.stopBringUp 3
        | 3 => if s.service.served then s.enterState 4 else (s.trainShore r.cxlWidth r.cxlRate r.portsUp).serveWaiting
        | 4 =>
          if !r.diesOk then s.stopBringUp 4
          else if microcodeLoaded s then s.enterMemory
          else s0
        | 5 => s.endMemory r.failedChannels r.rowsRepaired r.failedChips
        | _ => if linksSettled s then s.finishLinks else s0

/-- BRING_UP_STATE_LIMIT_EXPIRY (R376). -/
def execBringUpStateLimitExpiry (lodgeCycles : Nat) (s0 : State) : Host.Outcome State Fault Refusal :=
  .next <|
    let s := s0.redraw.lodgeTime lodgeCycles
    if bringingUp s0 && overLimit s then s.overrun else s0

end Sys2Proof.Machine
end

