-- ==== Sys2Proof/Machine/Spdm.lean ====
section
/-!
DEFINITION. The SPDM 1.2 responder that PF 0 reaches over DOE (R403). The layouts of its messages, which the spec
takes from the standard, are the standard's (log 61).
-/

namespace Sys2Proof.Machine

/-! ### Messages -/

/-- Change the responder. -/
def State.updSpdm (s : State) (f : SpdmState → SpdmState) : State := s.updHeartwood fun h => { h with spdm := f h.spdm }
/-- Give a response. -/
def State.spdmSend (s : State) (bs : List Byte) : State := s.updSpdm fun x => { x with responses := x.responses ++ [bs] }
/-- Header of a response: version, code and two parameters. -/
def spdmHeader (code p1 p2 : Nat) : List Byte := leBytes 4 (fieldAt 24 p2 + fieldAt 16 p1 + fieldAt 8 code + 0x12)
/-- An error response. -/
def State.spdmError (s : State) (code : Nat) : State := s.spdmSend (spdmHeader 0x7F code 0)
/-- Field of `n` bytes of a request. -/
def reqField (req : List Byte) (at_ n : Nat) : List Byte := (req.drop at_).take n
/-- First parameter of a request. -/
def reqParam1 (req : List Byte) : Nat := (req.getD 2 0).toNat
/-- Second parameter of a request. -/
def reqParam2 (req : List Byte) : Nat := (req.getD 3 0).toNat

/-- Serve a request with a code, in `size` bytes at least, once the connection has come to a stage: no answer where
there is no link or Heartwood serves nothing (R294, R408), and an error where the request cannot be served. -/
def spdmServe (s0 : State) (req : List Byte) (code stage size : Nat) (run : State → State) : State :=
  if s0.host.linkWidth = 0 || !s0.power.powered || !(s0.heartwood.state = 1 || s0.heartwood.state = 2) ||
      (req.getD 1 0).toNat ≠ code then s0
  else
    let s := s0.redraw
    if (req.getD 0 0).toNat ≠ (if code = 0x84 then 0x10 else 0x12) then s.spdmError 0x41
    else if req.length < max 4 size then s.spdmError 0x01
    else if s.heartwood.spdm.stage < stage then s.spdmError 0x04
    else run s

/-- A request that needs random bits waits without an answer in the entropy error state (R408). -/
def drawsServed (s : State) : Bool := s.heartwood.state = 1

/-- Sign by the device identity key, under the standard's prefix for a context (R403). -/
def spdmSign (context : String) (covered : List Byte) : List Byte :=
  let mark := ascii "dmtf-spdm-v1.2.*"
  let c := ascii context
  sized 96 (Config.ecdsaSign identityKey
    (mark ++ mark ++ mark ++ mark ++ List.replicate (36 - c.length) 0 ++ c ++ beBytes 48 (Config.sha384 covered).toNat))

/-- Certificate slot 0: certificates 1 and 2 behind their length and the root's hash (R403). -/
def spdmChain : List Byte :=
  leBytes 2 (52 + Config.vendorCerts.length) ++ leBytes 2 0 ++ beBytes 48 Config.spdmRootHash.toNat ++ Config.vendorCerts

/-! ### Negotiation -/

/-- SPDM_GET_VERSION: the connection starts afresh; the one version is 1.2. -/
def execSpdmGetVersion (request : List Byte) (s : State) : Host.Outcome State Fault Refusal :=
  .next <| spdmServe s request 0x84 0 4 fun s =>
    let bs := leBytes 4 0x00000410 ++ leBytes 1 0 ++ leBytes 1 1 ++ leBytes 2 0x1200
    (s.updSpdm fun x => { responses := x.responses, stage := 1, negotiated := request ++ bs }).spdmSend bs

/-- Flags of the responder: certificates, challenges, signed measurements, encryption, message authentication, key
exchange and key update. -/
def spdmFlags : Nat := 2 ^ 1 + 2 ^ 2 + 2 ^ 4 + 2 ^ 6 + 2 ^ 7 + 2 ^ 9 + 2 ^ 14

/-- SPDM_GET_CAPABILITIES. -/
def execSpdmGetCapabilities (request : List Byte) (s : State) : Host.Outcome State Fault Refusal :=
  .next <| spdmServe s request 0xE1 1 20 fun s =>
    let z := Config.spdmSizes.toNat
    let bs := spdmHeader 0x61 0 0 ++ leBytes 1 0 ++ leBytes 1 (bits z 71 64) ++ leBytes 2 0 ++ leBytes 4 spdmFlags ++ leBytes 8 z
    (s.updSpdm fun x => { x with stage := 2, negotiated := x.negotiated ++ request ++ bs }).spdmSend bs

/-- SPDM_NEGOTIATE_ALGORITHMS: ECDSA P-384, SHA-384, ECDHE on P-384 and AES-256-GCM, and nothing else (R403). -/
def execSpdmNegotiateAlgorithms (request : List Byte) (s : State) : Host.Outcome State Fault Refusal :=
  .next <| spdmServe s request 0xE3 2 32 fun s =>
    if !bit (leNat (reqField request 8 4)) 7 || !bit (leNat (reqField request 12 4)) 1 then s.spdmError 0x01
    else
      let table (ty v : Nat) : List Byte := leBytes 1 ty ++ leBytes 1 0x20 ++ leBytes 2 v
      let bs := spdmHeader 0x63 3 0 ++ leBytes 2 48 ++ leBytes 1 1 ++ leBytes 1 0 ++ leBytes 4 4 ++ leBytes 4 0x80 ++ leBytes 4 2 ++
        List.replicate 12 0 ++ leBytes 4 0 ++ table 2 0x10 ++ table 3 2 ++ table 5 1
      (s.updSpdm fun x => { x with stage := 3, negotiated := x.negotiated ++ request ++ bs }).spdmSend bs

/-! ### Certificates and the challenge -/

/-- Answer a request about the certificates, which a challenge's signature covers. -/
def State.spdmCertified (s : State) (request bs : List Byte) : State :=
  (s.updSpdm fun x => { x with certified := x.certified ++ request ++ bs }).spdmSend bs

/-- SPDM_GET_DIGESTS. -/
def execSpdmGetDigests (request : List Byte) (s : State) : Host.Outcome State Fault Refusal :=
  .next <| spdmServe s request 0x81 3 4 fun s =>
    s.spdmCertified request (spdmHeader 0x01 0 1 ++ beBytes 48 (Config.sha384 spdmChain).toNat)

/-- SPDM_GET_CERTIFICATE: a portion of slot 0. -/
def execSpdmGetCertificate (request : List Byte) (s : State) : Host.Outcome State Fault Refusal :=
  .next <| spdmServe s request 0x82 3 8 fun s =>
    let off := leNat (reqField request 4 2)
    if reqParam1 request % 16 ≠ 0 || off ≥ spdmChain.length then s.spdmError 0x01
    else
      let part := (spdmChain.drop off).take (leNat (reqField request 6 2))
      s.spdmCertified request
        (spdmHeader 0x02 0 0 ++ leBytes 2 part.length ++ leBytes 2 (spdmChain.length - off - part.length) ++ part)

/-- A response's nonce or random data: open bytes. -/
def spdmRandom (s : State) : List Byte := (List.range 32).map fun i => BitVec.ofNat 8 (free s (5200 + i))

/-! ### Measurements (R401, R403) -/

/-- A measurement block: index, specification, and a raw value. -/
def measureBlock (index ty : Nat) (v : List Byte) : List Byte :=
  leBytes 1 index ++ leBytes 1 1 ++ leBytes 2 (v.length + 3) ++ leBytes 1 ty ++ leBytes 2 v.length ++ v

/-- Blocks of the images' entries, 1–6. -/
def imageBlocks (s : State) (is : List Nat) : List Byte := is.flatMap fun i => measureBlock i 0x81 (imageEntry s i)

/-- Summary hash a request asks for: of every measurement, or none. -/
def summaryHash (s : State) (ty : Nat) : List Byte :=
  if ty = 0 then [] else beBytes 48 (Config.sha384 (imageBlocks s [1, 2, 3, 4, 5, 6])).toNat

/-- SPDM_CHALLENGE: the signature covers the negotiation, the certificates read and the challenge. -/
def execSpdmChallenge (request : List Byte) (s : State) : Host.Outcome State Fault Refusal :=
  .next <|
    if !drawsServed s then s
    else
      spdmServe s request 0x83 3 36 fun s =>
        if reqParam1 request % 16 ≠ 0 then s.spdmError 0x01
        else
          let bs := spdmHeader 0x03 0 1 ++ beBytes 48 (Config.sha384 spdmChain).toNat ++ spdmRandom s ++
            summaryHash s (reqParam2 request) ++ leBytes 2 0
          let x := s.heartwood.spdm
          let sig := spdmSign "responder-challenge_auth signing" (x.negotiated ++ x.certified ++ request ++ bs)
          (s.updSpdm fun y => { y with certified := [] }).spdmSend (bs ++ sig)

/-- The measurements a request covers: none for the count, one index, or all. -/
def measured (op : Nat) : List Nat := if op = 0 then [] else if op = 0xFF then [1, 2, 3, 4, 5, 6, 0x20] else [op]

/-- Answer a request for measurements with its blocks, signed where it asks for that. -/
def State.spdmMeasured (s : State) (request blocks : List Byte) (count : Nat) : State :=
  let op := reqParam2 request
  let bs := spdmHeader 0x60 (if op = 0 then 7 else 0) 0 ++ leBytes 1 count ++ leBytes 3 blocks.length ++ blocks ++ spdmRandom s ++ leBytes 2 0
  let x := s.heartwood.spdm
  let covered := x.measured ++ request ++ bs
  if bit (reqParam1 request) 0 then
    (s.updSpdm fun y => { y with measured := [] }).spdmSend (bs ++ spdmSign "responder-measurements signing" (x.negotiated ++ covered))
  else (s.updSpdm fun y => { y with measured := covered }).spdmSend bs

/-- Serve GET_MEASUREMENTS (R401, R403): index 0x20 is a full report, whose nonce is the request's. -/
def State.measurements (s : State) (request : List Byte) : State :=
  let ms := measured (reqParam2 request)
  let signed_ := bit (reqParam1 request) 0
  if ms.any (fun i => !([1, 2, 3, 4, 5, 6, 0x20].contains i)) || (signed_ && request.length < 37) || (ms.contains 0x20 && !signed_) then
    s.spdmError 0x01
  else
    let images := ms.filter fun i => i ≤ 6
    if ms.contains 0x20 then
      (if !mayAttest s then s.spdmError 0x03
       else
         let s1 := s.signReport (reqField request 4 32)
         if s1.heartwood.state = 3 then s1.spdmError 0x03
         else s1.spdmMeasured request (imageBlocks s1 images ++ measureBlock 0x20 0x84 s1.heartwood.report) ms.length)
    else s.spdmMeasured request (imageBlocks s images) ms.length

/-- SPDM_GET_MEASUREMENTS; Heartwood's own timer has counted `heartwoodMs` since its last event (R402). A request that
covers index 0x20 is Busy in the states in which nothing is signed (R402, R403). -/
def execSpdmGetMeasurements (request : List Byte) (heartwoodMs : Nat) (s0 : State) : Host.Outcome State Fault Refusal :=
  .next <|
    let s := s0.heartwoodTime heartwoodMs
    if 3 ≤ s.heartwood.state && s.host.linkWidth ≠ 0 && (request.getD 1 0).toNat = 0xE0 && (measured (reqParam2 request)).contains 0x20 then
      s.spdmError 0x03
    else if !drawsServed s then s
    else spdmServe s request 0xE0 3 4 fun s => s.measurements request

/-! ### Sessions -/

/-- Verification data of one side of a session's handshake, under the session's secret. -/
def verifyData (secret thread : List Byte) (side : String) : List Byte :=
  sized 48 (Config.hkdf secret (beBytes 48 (Config.sha384 thread).toNat) (ascii side))

/-- SPDM_KEY_EXCHANGE: one session at a time; it is established by FINISH. -/
def execSpdmKeyExchange (request : List Byte) (s : State) : Host.Outcome State Fault Refusal :=
  .next <|
    if !drawsServed s then s
    else
      spdmServe s request 0xE4 3 138 fun s =>
        if reqParam2 request % 16 ≠ 0 || request.length < 138 + leNat (reqField request 136 2) then s.spdmError 0x01
        else if s.heartwood.spdm.session.isSome then s.spdmError 0x0F
        else
          let n := s.heartwood.ephemerals
          let own := sized 97 (Config.ephemeralKey n)
          let rspId := free s 5250 % 65536
          let bs := spdmHeader 0x64 0 0 ++ leBytes 2 rspId ++ leBytes 1 0 ++ leBytes 1 0 ++ spdmRandom s ++ own.drop 1 ++
            summaryHash s (reqParam1 request) ++ leBytes 2 0
          let th := s.heartwood.spdm.negotiated ++ beBytes 48 (Config.sha384 spdmChain).toNat ++ request ++ bs
          let sig := spdmSign "responder-key_exchange_rsp signing" th
          let secret := Config.ecdh n (0x04 :: reqField request 40 96)
          let check := verifyData secret (th ++ sig) "responder"
          ((s.updHeartwood fun h => { h with ephemerals := n + 1 }).updSpdm fun x =>
            { x with session := some (leNat (reqField request 4 2) + fieldAt 16 rspId), sessionOpen := false, secret := secret,
                     thread := th ++ sig ++ check, keyUpdates := 0 }).spdmSend (bs ++ sig ++ check)

/-- SPDM_FINISH: the requester's verification data establish the session. -/
def execSpdmFinish (request : List Byte) (s : State) : Host.Outcome State Fault Refusal :=
  .next <| spdmServe s request 0xE5 3 52 fun s =>
    let x := s.heartwood.spdm
    if x.session.isNone || x.sessionOpen then s.spdmError 0x04
    else if reqField request 4 48 ≠ verifyData x.secret (x.thread ++ request.take 4) "requester" then s.spdmError 0x06
    else (s.updSpdm fun y => { y with sessionOpen := true, thread := y.thread ++ request }).spdmSend (spdmHeader 0x65 0 0)

/-- SPDM_KEY_UPDATE: operations 1 and 2 update keys, 3 verifies them. -/
def execSpdmKeyUpdate (request : List Byte) (s : State) : Host.Outcome State Fault Refusal :=
  .next <| spdmServe s request 0xE9 3 4 fun s =>
    let op := reqParam1 request
    if !s.heartwood.spdm.sessionOpen then s.spdmError 0x04
    else if op < 1 || op > 3 then s.spdmError 0x01
    else
      (s.updSpdm fun x =>
        if op = 3 then x else { x with keyUpdates := x.keyUpdates + 1, secret := Config.hkdf x.secret [] (ascii "traffic upd") }).spdmSend
        (spdmHeader 0x69 op (reqParam2 request))

/-- SPDM_END_SESSION: the session's keys are gone. -/
def execSpdmEndSession (request : List Byte) (s : State) : Host.Outcome State Fault Refusal :=
  .next <| spdmServe s request 0xEC 3 4 fun s =>
    if !s.heartwood.spdm.sessionOpen then s.spdmError 0x04
    else
      (s.updSpdm fun x => { x with session := none, sessionOpen := false, secret := [], thread := [], keyUpdates := 0 }).spdmSend
        (spdmHeader 0x6C 0 0)

end Sys2Proof.Machine
end

