-- ==== Sys2Proof/Machine/Dispatch.lean ====
section
/-!
DEFINITION. The meaning of every command: one arm per row of the command table, each one direct
call of that command's meaning.
-/

namespace Sys2Proof.Machine

def exec (i : Instr) (s : State) : Host.Outcome State Fault Refusal :=
  match i with
  | .integerArithmetic iss op f => Sys2Proof.Machine.execIntegerArithmetic iss op f s
  | .fp32Arithmetic iss op f => Sys2Proof.Machine.execFp32Arithmetic iss op f s
  | .packedFp16Arithmetic iss op f => Sys2Proof.Machine.execPackedFp16Arithmetic iss op f s
  | .logicShiftBitfield iss op f => Sys2Proof.Machine.execLogicShiftBitfield iss op f s
  | .comparePredicateSet iss op f => Sys2Proof.Machine.execComparePredicateSet iss op f s
  | .specialFunction iss fn f => Sys2Proof.Machine.execSpecialFunction iss fn f s
  | .cvtRn iss f => Sys2Proof.Machine.execCvtRn iss f s
  | .cvtSr iss f => Sys2Proof.Machine.execCvtSr iss f s
  | .mov iss f => Sys2Proof.Machine.execMov iss f s
  | .movU iss dir f => Sys2Proof.Machine.execMovU iss dir f s
  | .movSr iss f => Sys2Proof.Machine.execMovSr iss f s
  | .shfl iss f => Sys2Proof.Machine.execShfl iss f s
  | .rand iss f => Sys2Proof.Machine.execRand iss f s
  | .vote iss mode f => Sys2Proof.Machine.execVote iss mode f s
  | .dld iss f ecc => Sys2Proof.Machine.execDld iss f ecc s
  | .localMemoryLoad iss size f ecc => Sys2Proof.Machine.execLocalMemoryLoad iss size f ecc s
  | .localMemoryStore iss size f ecc => Sys2Proof.Machine.execLocalMemoryStore iss size f ecc s
  | .localMemoryAtomic iss op wide f ecc => Sys2Proof.Machine.execLocalMemoryAtomic iss op wide f ecc s
  | .load iss size f => Sys2Proof.Machine.execLoad iss size f s
  | .store iss size f => Sys2Proof.Machine.execStore iss size f s
  | .atomic iss op wide f => Sys2Proof.Machine.execAtomic iss op wide f s
  | .memoryResponse tile serial elapsed ecc => Sys2Proof.Machine.execMemoryResponse tile serial elapsed ecc s
  | .bra iss f => Sys2Proof.Machine.execBra iss f s
  | .call iss f => Sys2Proof.Machine.execCall iss f s
  | .ret iss f => Sys2Proof.Machine.execRet iss f s
  | .exit iss f => Sys2Proof.Machine.execExit iss f s
  | .nop iss f => Sys2Proof.Machine.execNop iss f s
  | .barBlock iss f => Sys2Proof.Machine.execBarBlock iss f s
  | .barrierTimeout tile slot elapsed => Sys2Proof.Machine.execBarrierTimeout tile slot elapsed s
  | .fragLd iss f ecc => Sys2Proof.Machine.execFragLd iss f ecc s
  | .fragSt iss f ecc => Sys2Proof.Machine.execFragSt iss f ecc s
  | .mmaReg iss f => Sys2Proof.Machine.execMmaReg iss f s
  | .mmaDesc iss f => Sys2Proof.Machine.execMmaDesc iss f s
  | .accDrain iss f => Sys2Proof.Machine.execAccDrain iss f s
  | .accFill iss f => Sys2Proof.Machine.execAccFill iss f s
  | .accWait iss f => Sys2Proof.Machine.execAccWait iss f s
  | .accumulationComplete tile serial elapsed feederFreezes drainFreezes ecc => Sys2Proof.Machine.execAccumulationComplete tile serial elapsed feederFreezes drainFreezes ecc s
  | .drainComplete tile serial elapsed drainFreezes => Sys2Proof.Machine.execDrainComplete tile serial elapsed drainFreezes s
  | .fillComplete tile serial elapsed drainFreezes ecc => Sys2Proof.Machine.execFillComplete tile serial elapsed drainFreezes ecc s
  | .copyIssue iss f ecc => Sys2Proof.Machine.execCopyIssue iss f ecc s
  | .copyWait iss f => Sys2Proof.Machine.execCopyWait iss f s
  | .copyRequestComplete tile tag elapsed ecc => Sys2Proof.Machine.execCopyRequestComplete tile tag elapsed ecc s
  | .gatherIssue iss f ecc => Sys2Proof.Machine.execGatherIssue iss f ecc s
  | .xchgIssue iss f ecc => Sys2Proof.Machine.execXchgIssue iss f ecc s
  | .fenceLocal iss f => Sys2Proof.Machine.execFenceLocal iss f s
  | .fenceRegion iss f => Sys2Proof.Machine.execFenceRegion iss f s
  | .fenceBoard iss f => Sys2Proof.Machine.execFenceBoard iss f s
  | .blockLaunch tile elapsed => Sys2Proof.Machine.execBlockLaunch tile elapsed s
  | .blockEnd tile slot elapsed => Sys2Proof.Machine.execBlockEnd tile slot elapsed s
  | .personalityReloadComplete tile elapsed => Sys2Proof.Machine.execPersonalityReloadComplete tile elapsed s
  | .stackRetry tile request => Sys2Proof.Machine.execStackRetry tile request s
  | .scrubPass unit found => Sys2Proof.Machine.execScrubPass unit found s
  | .channelRetrainStart unit channel temperature => Sys2Proof.Machine.execChannelRetrainStart unit channel temperature s
  | .channelRetrainEnd unit channel => Sys2Proof.Machine.execChannelRetrainEnd unit channel s
  | .retrainRequest path tag value => Sys2Proof.Machine.execRetrainRequest path tag value s
  | .translationShootdown path tag value => Sys2Proof.Machine.execTranslationShootdown path tag value s
  | .gatherIndexIssue tile tag ecc => Sys2Proof.Machine.execGatherIndexIssue tile tag ecc s
  | .gatherRowArrival tile tag index ecc => Sys2Proof.Machine.execGatherRowArrival tile tag index ecc s
  | .poolFillComplete group set way => Sys2Proof.Machine.execPoolFillComplete group set way s
  | .censusReport tile tag => Sys2Proof.Machine.execCensusReport tile tag s
  | .censusAndFlushReport tile tag => Sys2Proof.Machine.execCensusAndFlushReport tile tag s
  | .flushReport tile tag => Sys2Proof.Machine.execFlushReport tile tag s
  | .compareReport tile tag => Sys2Proof.Machine.execCompareReport tile tag s
  | .lossReport tile tag => Sys2Proof.Machine.execLossReport tile tag s
  | .poisonMessage p => Sys2Proof.Machine.execPoisonMessage p s
  | .attemptOpen tenant set springCycles => Sys2Proof.Machine.execAttemptOpen tenant set springCycles s
  | .partReport tenant set part => Sys2Proof.Machine.execPartReport tenant set part s
  | .attemptBlockAbort tenant set value => Sys2Proof.Machine.execAttemptBlockAbort tenant set value s
  | .attemptBlockResume tenant set value => Sys2Proof.Machine.execAttemptBlockResume tenant set value s
  | .voteContribution tenant set springCycles ecc => Sys2Proof.Machine.execVoteContribution tenant set springCycles ecc s
  | .voteMessage p => Sys2Proof.Machine.execVoteMessage p s
  | .pinRetry tenant set springCycles ecc => Sys2Proof.Machine.execPinRetry tenant set springCycles ecc s
  | .applyComplete tenant set springCycles fast slow => Sys2Proof.Machine.execApplyComplete tenant set springCycles fast slow s
  | .applyMessage p => Sys2Proof.Machine.execApplyMessage p s
  | .attemptWatchdogExpiry tenant set springCycles => Sys2Proof.Machine.execAttemptWatchdogExpiry tenant set springCycles s
  | .springChipRestart chip slow => Sys2Proof.Machine.execSpringChipRestart chip slow s
  | .attemptControlAbort path tag tenant set => Sys2Proof.Machine.execAttemptControlAbort path tag tenant set s
  | .attemptControlPause path tag tenant set => Sys2Proof.Machine.execAttemptControlPause path tag tenant set s
  | .attemptControlResume path tag tenant set => Sys2Proof.Machine.execAttemptControlResume path tag tenant set s
  | .attemptControlImport path tag tenant set => Sys2Proof.Machine.execAttemptControlImport path tag tenant set s
  | .attemptControlExport path tag tenant set => Sys2Proof.Machine.execAttemptControlExport path tag tenant set s
  | .importExportComplete tenant set fast slow => Sys2Proof.Machine.execImportExportComplete tenant set fast slow s
  | .parameterSetModeWrite path tag tenant set value => Sys2Proof.Machine.execParameterSetModeWrite path tag tenant set value s
  | .layerMapWrite path tag tenant set w => Sys2Proof.Machine.execLayerMapWrite path tag tenant set w s
  | .layerSlotMapWrite path tag offset bytes => Sys2Proof.Machine.execLayerSlotMapWrite path tag offset bytes s
  | .flitReceive link codes => Sys2Proof.Machine.execFlitReceive link codes s
  | .linkDown link cause => Sys2Proof.Machine.execLinkDown link cause s
  | .linkSettlementMessage link lastSeq => Sys2Proof.Machine.execLinkSettlementMessage link lastSeq s
  | .linkTrainingStart link => Sys2Proof.Machine.execLinkTrainingStart link s
  | .errorGateComplete link outErrors inErrors => Sys2Proof.Machine.execErrorGateComplete link outErrors inErrors s
  | .trainingFrame link t => Sys2Proof.Machine.execTrainingFrame link t s
  | .opticalLightLoss link => Sys2Proof.Machine.execOpticalLightLoss link s
  | .packetRoute origin p => Sys2Proof.Machine.execPacketRoute origin p s
  | .escapeLaneTimeout p => Sys2Proof.Machine.execEscapeLaneTimeout p s
  | .readRequest p ecc => Sys2Proof.Machine.execReadRequest p ecc s
  | .writeRequest p ecc => Sys2Proof.Machine.execWriteRequest p ecc s
  | .atomicRequest p ecc => Sys2Proof.Machine.execAtomicRequest p ecc s
  | .readResponse p => Sys2Proof.Machine.execReadResponse p s
  | .writeOrAtomicResponse p => Sys2Proof.Machine.execWriteOrAtomicResponse p s
  | .exchangeData p ecc => Sys2Proof.Machine.execExchangeData p ecc s
  | .exchangeFlag p ecc => Sys2Proof.Machine.execExchangeFlag p ecc s
  | .exchangeAcknowledge p => Sys2Proof.Machine.execExchangeAcknowledge p s
  | .poolInvalidations p => Sys2Proof.Machine.execPoolInvalidations p s
  | .undeliverableNotice p => Sys2Proof.Machine.execUndeliverableNotice p s
  | .targetResetReissue r => Sys2Proof.Machine.execTargetResetReissue r s
  | .trafficHoldWrite path tag value => Sys2Proof.Machine.execTrafficHoldWrite path tag value s
  | .trafficHeld => Sys2Proof.Machine.execTrafficHeld s
  | .routeTableWrite path tag offset bytes => Sys2Proof.Machine.execRouteTableWrite path tag offset bytes s
  | .retrainDimensions path tag value => Sys2Proof.Machine.execRetrainDimensions path tag value s
  | .linkControlRetrain path tag link => Sys2Proof.Machine.execLinkControlRetrain path tag link s
  | .linkControlDisable path tag link => Sys2Proof.Machine.execLinkControlDisable path tag link s
  | .linkControlEnable path tag link => Sys2Proof.Machine.execLinkControlEnable path tag link s
  | .doorbell vf offset data => Sys2Proof.Machine.execDoorbell vf offset data s
  | .readPointer vf offset data => Sys2Proof.Machine.execReadPointer vf offset data s
  | .nopDescriptor tenant queue => Sys2Proof.Machine.execNopDescriptor tenant queue s
  | .launch tenant queue => Sys2Proof.Machine.execLaunch tenant queue s
  | .feed tenant queue => Sys2Proof.Machine.execFeed tenant queue s
  | .exportDesc tenant queue => Sys2Proof.Machine.execExportDesc tenant queue s
  | .feedExportComplete tenant queue seq hostData ecc how => Sys2Proof.Machine.execFeedExportComplete tenant queue seq hostData ecc how s
  | .vfFunctionLevelReset vf => Sys2Proof.Machine.execVfFunctionLevelReset vf s
  | .pf0FunctionLevelReset => Sys2Proof.Machine.execPf0FunctionLevelReset s
  | .vfEnableClear => Sys2Proof.Machine.execVfEnableClear s
  | .cxlLinkDown => Sys2Proof.Machine.execCxlLinkDown s
  | .hdmAccess hpa a ecc => Sys2Proof.Machine.execHdmAccess hpa a ecc s
  | .hostSnoop hpa => Sys2Proof.Machine.execHostSnoop hpa s
  | .pf0ApertureWrite offset data => Sys2Proof.Machine.execPf0ApertureWrite offset data s
  | .biasRequest path tag value => Sys2Proof.Machine.execBiasRequest path tag value s
  | .queueEntriesWrite path tag tenant queue value => Sys2Proof.Machine.execQueueEntriesWrite path tag tenant queue value s
  | .mailboxRequest mb control message => Sys2Proof.Machine.execMailboxRequest mb control message s
  | .read path m => Sys2Proof.Machine.execRead path m s
  | .write path m => Sys2Proof.Machine.execWrite path m s
  | .domainRead path m => Sys2Proof.Machine.execDomainRead path m s
  | .writeBegin path m => Sys2Proof.Machine.execWriteBegin path m s
  | .writeData path m => Sys2Proof.Machine.execWriteData path m s
  | .writeCommit path m => Sys2Proof.Machine.execWriteCommit path m s
  | .writeCancel path m => Sys2Proof.Machine.execWriteCancel path m s
  | .describe path m => Sys2Proof.Machine.execDescribe path m s
  | .frameForward f => Sys2Proof.Machine.execFrameForward f s
  | .discoveryRequest f lodgeMs => Sys2Proof.Machine.execDiscoveryRequest f lodgeMs s
  | .handshakeH1 f => Sys2Proof.Machine.execHandshakeH1 f s
  | .handshakeH3 f => Sys2Proof.Machine.execHandshakeH3 f s
  | .sessionData f => Sys2Proof.Machine.execSessionData f s
  | .sessionClose f => Sys2Proof.Machine.execSessionClose f s
  | .sessionIdleTimeout id lodgeMs => Sys2Proof.Machine.execSessionIdleTimeout id lodgeMs s
  | .sessionCloseWrite path tag value => Sys2Proof.Machine.execSessionCloseWrite path tag value s
  | .portRolesWrite path tag value => Sys2Proof.Machine.execPortRolesWrite path tag value s
  | .lodgeRestart => Sys2Proof.Machine.execLodgeRestart s
  | .lodgeWatchdogExpiry => Sys2Proof.Machine.execLodgeWatchdogExpiry s
  | .tileMaskWrite path tag tenant bytes => Sys2Proof.Machine.execTileMaskWrite path tag tenant bytes s
  | .pageOwnerMapWrite path tag offset bytes => Sys2Proof.Machine.execPageOwnerMapWrite path tag offset bytes s
  | .setGroupMapWrite path tag offset bytes => Sys2Proof.Machine.execSetGroupMapWrite path tag offset bytes s
  | .tableDescriptorsWrite path tag tenant offset bytes => Sys2Proof.Machine.execTableDescriptorsWrite path tag tenant offset bytes s
  | .watchSetupWrite path tag tenant offset bytes => Sys2Proof.Machine.execWatchSetupWrite path tag tenant offset bytes s
  | .tilePersonalityWrite path tag offset bytes => Sys2Proof.Machine.execTilePersonalityWrite path tag offset bytes s
  | .clearingHoldWrite path tag tenant value => Sys2Proof.Machine.execClearingHoldWrite path tag tenant value s
  | .exclusiveRegionsWrite path tag tenant value => Sys2Proof.Machine.execExclusiveRegionsWrite path tag tenant value s
  | .moduleWithdrawal w => Sys2Proof.Machine.execModuleWithdrawal w s
  | .releaseDiscard path tag tenant master => Sys2Proof.Machine.execReleaseDiscard path tag tenant master s
  | .releaseResume path tag tenant master => Sys2Proof.Machine.execReleaseResume path tag tenant master s
  | .releaseDiscardAll path tag tenant => Sys2Proof.Machine.execReleaseDiscardAll path tag tenant s
  | .releaseResumeAll path tag tenant => Sys2Proof.Machine.execReleaseResumeAll path tag tenant s
  | .discardMaster path tag tenant master => Sys2Proof.Machine.execDiscardMaster path tag tenant master s
  | .inspectMasterWrite path tag tenant master => Sys2Proof.Machine.execInspectMasterWrite path tag tenant master s
  | .logReportIntake => Sys2Proof.Machine.execLogReportIntake s
  | .logUnpin path tag value => Sys2Proof.Machine.execLogUnpin path tag value s
  | .logReadNumberWrite path tag value => Sys2Proof.Machine.execLogReadNumberWrite path tag value s
  | .tenantLogReadWrite path tag tenant value => Sys2Proof.Machine.execTenantLogReadWrite path tag tenant value s
  | .powerGood slotStraps => Sys2Proof.Machine.execPowerGood slotStraps s
  | .bringUpStageComplete r => Sys2Proof.Machine.execBringUpStageComplete r s
  | .bringUpStateLimitExpiry lodgeCycles => Sys2Proof.Machine.execBringUpStateLimitExpiry lodgeCycles s
  | .bistComplete result => Sys2Proof.Machine.execBistComplete result s
  | .microcodeChunk cluster chunk nextHash => Sys2Proof.Machine.execMicrocodeChunk cluster chunk nextHash s
  | .resetRequest path tag value => Sys2Proof.Machine.execResetRequest path tag value s
  | .hardwareFatalFault scope faultyTile => Sys2Proof.Machine.execHardwareFatalFault scope faultyTile s
  | .resetDrainEnd scope => Sys2Proof.Machine.execResetDrainEnd scope s
  | .resetScopeBack scope bistFailed => Sys2Proof.Machine.execResetScopeBack scope bistFailed s
  | .installStagedImage path tag image => Sys2Proof.Machine.execInstallStagedImage path tag image s
  | .activate path tag image later => Sys2Proof.Machine.execActivate path tag image later s
  | .moveLayerSlot path tag srcChip srcSlot dstChip dstSlot => Sys2Proof.Machine.execMoveLayerSlot path tag srcChip srcSlot dstChip dstSlot s
  | .prepareCartridge path tag cartridge => Sys2Proof.Machine.execPrepareCartridge path tag cartridge s
  | .returnCartridge path tag cartridge => Sys2Proof.Machine.execReturnCartridge path tag cartridge s
  | .serviceJobUnitComplete r => Sys2Proof.Machine.execServiceJobUnitComplete r s
  | .cartridgePulled k => Sys2Proof.Machine.execCartridgePulled k s
  | .cartridgeInserted k identityOk => Sys2Proof.Machine.execCartridgeInserted k identityOk s
  | .cartridgeWarmUpEnd k ok => Sys2Proof.Machine.execCartridgeWarmUpEnd k ok s
  | .rollbackCommit path tag value => Sys2Proof.Machine.execRollbackCommit path tag value s
  | .keySlotRevoke path tag value => Sys2Proof.Machine.execKeySlotRevoke path tag value s
  | .attestationRequest path tag nonce heartwoodMs => Sys2Proof.Machine.execAttestationRequest path tag nonce heartwoodMs s
  | .spdmGetVersion request => Sys2Proof.Machine.execSpdmGetVersion request s
  | .spdmGetCapabilities request => Sys2Proof.Machine.execSpdmGetCapabilities request s
  | .spdmNegotiateAlgorithms request => Sys2Proof.Machine.execSpdmNegotiateAlgorithms request s
  | .spdmGetDigests request => Sys2Proof.Machine.execSpdmGetDigests request s
  | .spdmGetCertificate request => Sys2Proof.Machine.execSpdmGetCertificate request s
  | .spdmChallenge request => Sys2Proof.Machine.execSpdmChallenge request s
  | .spdmGetMeasurements request heartwoodMs => Sys2Proof.Machine.execSpdmGetMeasurements request heartwoodMs s
  | .spdmKeyExchange request => Sys2Proof.Machine.execSpdmKeyExchange request s
  | .spdmFinish request => Sys2Proof.Machine.execSpdmFinish request s
  | .spdmKeyUpdate request => Sys2Proof.Machine.execSpdmKeyUpdate request s
  | .spdmEndSession request => Sys2Proof.Machine.execSpdmEndSession request s
  | .selfTestRun path tag value failures => Sys2Proof.Machine.execSelfTestRun path tag value failures s
  | .noiseHealthFailure => Sys2Proof.Machine.execNoiseHealthFailure s
  | .entropyStartupRetest passed => Sys2Proof.Machine.execEntropyStartupRetest passed s
  | .zeroiseVolatile path tag => Sys2Proof.Machine.execZeroiseVolatile path tag s
  | .zeroisePermanent path tag => Sys2Proof.Machine.execZeroisePermanent path tag s
  | .envelopeViolation railMicrovolts dieTemp heldNanoseconds => Sys2Proof.Machine.execEnvelopeViolation railMicrovolts dieTemp heldNanoseconds s
  | .islandThrottleDown island cycles temperature => Sys2Proof.Machine.execIslandThrottleDown island cycles temperature s
  | .islandThrottleUp island cycles temperature => Sys2Proof.Machine.execIslandThrottleUp island cycles temperature s
  | .islandShutoff island temperature => Sys2Proof.Machine.execIslandShutoff island temperature s
  | .pwrCycleN heldMs => Sys2Proof.Machine.execPwrCycleN heldMs s
  | .inputOutOfRange millivolts => Sys2Proof.Machine.execInputOutOfRange millivolts s
  | .instructionFetch tile slot group elapsed ecc => Sys2Proof.Machine.execInstructionFetch tile slot group elapsed ecc s
  | .illegalInstruction iss opcode => Sys2Proof.Machine.execIllegalInstruction iss opcode s
  | .workDescriptorReservedType tenant queue => Sys2Proof.Machine.execWorkDescriptorReservedType tenant queue s
  | .queueMaskWrite path tag tenant value => Sys2Proof.Machine.execQueueMaskWrite path tag tenant value s
  | .numvfsWrite numVfs enable => Sys2Proof.Machine.execNumvfsWrite numVfs enable s
  | .hdmDecoderCommit base size ways => Sys2Proof.Machine.execHdmDecoderCommit base size ways s
  | .doeDiscovery index => Sys2Proof.Machine.execDoeDiscovery index s
  | .cxlLinkUp width rate => Sys2Proof.Machine.execCxlLinkUp width rate s
  | .finuleriPortLinkChange port up => Sys2Proof.Machine.execFinuleriPortLinkChange port up s
  | .lodgeReturns => Sys2Proof.Machine.execLodgeReturns s

end Sys2Proof.Machine
end

