-- ==== Sys2Proof/Safety.lean ====
section
/-!
DEFINITION. The terms the claims use: what is read of a state (a group, a thread's path, a byte of a memory), what
an instruction leaves alone, the canonical form of the memories, and the invariants of the module.
-/

namespace Sys2Proof.Machine

/-! ### What is read of a state -/

/-- The group of a block slot of a tile. -/
def groupIn (s : State) (l slot gi : Nat) : Option Group :=
  match mget (tileAt s l).blocks slot with
  | some b => b.groups[gi]?
  | none => none

/-- Thread `lane` of a group runs at program counter `pc`. -/
def Group.runsAt (g : Group) (lane pc : Nat) : Prop := ∃ p ∈ g.paths, p.pc = pc ∧ inMask p.mask lane = true

/-- One byte of a tile's local memory. -/
def lmByte (s : State) (l a : Nat) : Byte := mgetD (tileAt s l).lm a 0
/-- One byte of the fast tier, by key. -/
def fastByte (s : State) (k : Nat) : Byte := mgetD s.mem.fast k 0
/-- One byte of the slow tier, by key. -/
def slowByte (s : State) (k : Nat) : Byte := mgetD s.mem.slow k 0

/-- Every byte of every memory reads as before. -/
def SameMemory (s t : State) : Prop :=
  (∀ k, fastByte t k = fastByte s k) ∧ (∀ k, slowByte t k = slowByte s k) ∧ ∀ l a, lmByte t l a = lmByte s l a

/-! ### What an instruction leaves alone -/

/-- Nothing but the issuing group and the use of its issue port has changed since the instruction issued. -/
def OnlyGroup (c : Ctx) (t : State) : Prop :=
  t = { c.s with tiles := t.tiles } ∧ (∀ l, l ≠ c.l → mget t.tiles l = mget c.s.tiles l) ∧
  tileAt t c.l = { c.tile with issued := (c.port, c.slot, c.gi) :: c.tile.issued, blocks := (tileAt t c.l).blocks } ∧
  (∀ k, k ≠ c.slot → mget (tileAt t c.l).blocks k = mget c.tile.blocks k) ∧
  ∃ b, mget (tileAt t c.l).blocks c.slot = some b ∧ b = { c.block with groups := b.groups } ∧
    b.groups.length = c.block.groups.length ∧ ∀ j, j ≠ c.gi → b.groups[j]? = c.block.groups[j]?

/-- The path of the issuing group has moved to the next instruction, and no thread of it elsewhere. -/
def Advanced (c : Ctx) (g : Group) : Prop :=
  ∀ lane pc, g.runsAt lane pc ↔
    (inMask c.path.mask lane = true ∧ pc = c.path.pc + 8) ∨
    ∃ q ∈ c.group.paths, q.pc ≠ c.path.pc ∧ q.pc = pc ∧ inMask q.mask lane = true

/-- Registers of a group as they were, but for thread register `r`. -/
def SameRegsBut (r : Byte) (g h : Group) : Prop :=
  (∀ x lane, lane < 32 → x ≠ r → readReg h x lane = readReg g x lane) ∧ h.uregs = g.uregs ∧ h.preds = g.preds

/-- What else a group holds is as it was: live threads, parked threads, what it waits for. -/
def SameRest (g h : Group) : Prop :=
  h.live = g.live ∧ h.parked = g.parked ∧ h.wait = g.wait ∧ h.ended = g.ended

/-- What a freeze of the issuing group leaves: its record, precise in pc, block, live and parked threads (R62,
R365), and nothing of the group changed. -/
def FrozeGroup (c : Ctx) (cause address : Nat) (t : State) : Prop :=
  (∃ r ∈ (tenantAt t c.tenant).freezes, r.master = groupMaster c.l c.slot c.gi ∧ r.cause = cause ∧ r.address = address ∧
    r.pc = c.path.pc ∧ r.blockId = c.block.launch.params.blockId ∧ r.live = c.group.live ∧ r.parked = c.group.parkedMask) ∧
  (tenantAt t c.tenant).nFreezes = satAdd 32 (tenantAt c.s c.tenant).nFreezes 1 ∧
  groupIn t c.l c.slot c.gi = some c.group ∧ t.mem = c.s.mem ∧ (tileAt t c.l).lm = c.tile.lm ∧
  (∀ l, l ≠ c.l → mget t.tiles l = mget c.s.tiles l) ∧ isFrozen t c.tenant (groupMaster c.l c.slot c.gi) = true

/-! ### Canonical forms -/

/-- Both memory tiers are in canonical form: keys strictly rising, no entry equal to the zero byte an
unlisted key reads as. -/
def Memory.wf (m : MemState) : Bool := mcanon 0 m.fast && mcanon 0 m.slow

end Sys2Proof.Machine
end

