-- ==== Sys2Proof/Certificates/Slice0/Obligations.lean ====
section
/-!
DEFINITION. The statements about the module that the provers prove.
-/

open Sys2Proof Sys2Proof.Machine

/-! ### The step -/

/-- A step runs the command at the front of its queue, on the state with the queue's rest; on an empty queue the module
idles (the model's choice, log 2). -/
def Obligations.StepRunsFrontCommand : Prop :=
  (∀ (c : Instr) (rest : List Instr) (s : State), s.pending = c :: rest → step s = exec c { s with pending := rest }) ∧
  ∀ s : State, s.pending = [] → step s = .next s

/-- No command touches the queue of commands: what waits behind it waits on, in order. -/
def Obligations.CommandsLeaveTheQueue : Prop :=
  ∀ (c : Instr) (s u : State), exec c s = .next u → u.pending = s.pending

/-- Reset leaves the module before power good, with no command waiting: no path is served, no tile runs a block and none
belongs to a tenant, no byte of memory is listed, no link trains and no Heartwood key is held; the settings stand at their
defaults (R19, R23, R340, R374, and each default's own rule; the shipped firmware is the model's choice, log 30).
Where a clause touches what the spec leaves open, the model's choice is that of logs 62, 63. -/
def Obligations.ResetLeavesTheModuleOff : Prop :=
  let s := State.reset
  s.service.bringUp = 0 ∧ s.pending = [] ∧ (∀ path, pathRole s path = none) ∧
  (∀ l, ownerOf s l = none ∧ (tileAt s l).blocks = [] ∧ (tileAt s l).streams = [] ∧ ∀ a, lmByte s l a = 0) ∧
  (∀ k, fastByte s k = 0 ∧ slowByte s k = 0) ∧ Memory.wf s.mem = true ∧
  (∀ l, (linkAt s l).state = 0 ∧ (linkAt s l).keys = none) ∧ s.heartwood.keysHeld = false ∧ s.heartwood.powerOns = 0 ∧
  (∀ t, (tenantAt s t).freezes = [] ∧ (tenantAt s t).queueMask = 0 ∧ (tenantAt s t).exclusive = 0) ∧
  (∀ t p, (setAt s t p).mode = 0 ∧ (setAt s t p).generation = 0) ∧
  s.globals.barrierDefault = 70000000 ∧ s.globals.histDefault = 16 ∧ s.globals.orthoDefault = 5 ∧
  s.heartwood.minIntervalMs = 10000 ∧ s.dict.etherType = 0x88B5 ∧ s.dict.pf0Role = 3

/-! ### Tile instructions that write registers -/

/-- The lane instructions: what each computes in a lane, from the registers as they stand when it issues. -/
def Sys2Proof.Machine.laneWork (c : Ctx) : Instr → Option (Issue × Fields × Use × (Nat → W32))
  | .integerArithmetic i op f => some (i, f, useInt op, fun n =>
      intResult op (f.ty = 1) (readReg c.group f.srcA n) (operandB c.group f n) (readReg c.group f.srcC n))
  | .fp32Arithmetic i op f => some (i, f, useFp op 2, fun n =>
      BitVec.ofNat 32 (fpResult fp32 op (readReg c.group f.srcA n).toNat (operandB c.group f n).toNat
        (readReg c.group f.srcC n).toNat))
  | .packedFp16Arithmetic i op f => some (i, f, useFp op 3, fun n =>
      packedResult op (readReg c.group f.srcA n) (operandB c.group f n) (readReg c.group f.srcC n))
  | .logicShiftBitfield i op f => some (i, f, useLogic op, fun n =>
      logicResult op (f.ty = 1) (readReg c.group f.srcA n) (operandB c.group f n) (free c.s n))
  | .specialFunction i fn f => some (i, f, { dst := 1, a := 1, types := [2] }, fun n =>
      BitVec.ofNat 32 (specialFn fn (readReg c.group f.srcA n).toNat))
  | .mov i f => some (i, f, { dst := 1, a := if f.imm.isSome then 0 else 1, b := b2n f.imm.isSome, imm := true }, fun n =>
      f.imm.getD (readReg c.group f.srcA n))
  | .movU i .fromUniform f => some (i, f, { dst := 1, a := 2 }, fun _ => readU c.group f.srcA)
  | .movSr i f => if f.srcA.toNat ≤ 0x0A then some (i, f, { dst := 1, a := 6 }, specialReg c f.srcA.toNat) else none
  | .shfl i f => some (i, f, { dst := 1, a := 1, b := 1, uniformB := true, imm := true }, fun n =>
      readReg c.group f.srcA ((operandB c.group f n).toNat % 32))
  | .rand i f => some (i, f, { dst := 1 }, fun n => BitVec.ofNat 32 (genBits c.tile (32 * c.port + n) 32))
  | _ => none

/-- A lane instruction whose fields are in order completes: each executing lane's destination register holds the
result (t255 still reads zero), every other register of the group, its predicates and everything outside the group
are as they were, and the path moves on by one instruction (R34, R43, R58, R60, R61).
Where a clause touches what the spec leaves open, the model's choice is that of logs 12, 13, 17. -/
def Obligations.LaneInstructionsWriteTheirLanes : Prop :=
  ∀ (x : Instr) (i : Issue) (f : Fields) (u : Use) (v : Nat → W32) (s : State) (c : Ctx),
    ctxOf s i = some c → laneWork c x = some (i, f, u, v) → fieldsIllegal u f = false →
    fieldsOutOfBounds u c.block.launch.params.regs f = false →
    ∃ t g, exec x s = .next t ∧ groupIn t c.l c.slot c.gi = some g ∧
      (∀ n, n < 32 → readReg g f.dst n =
        if f.dst = 255 then 0 else if inMask (c.lanes f) n then v n else readReg c.group f.dst n) ∧
      SameRegsBut f.dst c.group g ∧ SameRest c.group g ∧ Advanced c g ∧ OnlyGroup c t ∧ SameMemory c.s t

/-- COMPARE_PREDICATE_SET, VOTE and MOV.U into a uniform register complete: the named predicate, register or uniform register takes the
result on the executing lanes, p7 and t255 take nothing, and the rest of the group and all outside it stay (R34, R43, R45, R58, R61).
Where a clause touches what the spec leaves open, the model's choice is that of logs 13, 16. -/
def Obligations.PredicateInstructionsComplete : Prop :=
  ∀ (i : Issue) (f : Fields) (s : State) (c : Ctx), ctxOf s i = some c →
    (∀ op, fieldsIllegal useCmp f = false → fieldsOutOfBounds useCmp c.block.launch.params.regs f = false →
      ∃ t g, exec (.comparePredicateSet i op f) s = .next t ∧ groupIn t c.l c.slot c.gi = some g ∧
        (∀ p n, n < 32 → inMask (predMask g p) n =
          if p = f.dst.toNat ∧ p ≠ 7 ∧ inMask (c.lanes f) n then
            cmpResult op f.ty.toNat (readReg c.group f.srcA n) (operandB c.group f n) (free c.s n)
          else inMask (predMask c.group p) n) ∧
        g.regs = c.group.regs ∧ g.uregs = c.group.uregs ∧ SameRest c.group g ∧ Advanced c g ∧ OnlyGroup c t) ∧
    (fieldsIllegal { dst := 3, a := 3 } f = false → fieldsOutOfBounds { dst := 3, a := 3 } c.block.launch.params.regs f = false →
      ∀ m, m ≠ VoteMode.ballot → ∃ t g, exec (.vote i m f) s = .next t ∧ groupIn t c.l c.slot c.gi = some g ∧
        (∀ p n, n < 32 → inMask (predMask g p) n =
          if p = f.dst.toNat ∧ p ≠ 7 ∧ inMask (c.lanes f) n then
            (if m = .all then (List.range 32).all fun k => !inMask c.path.mask k || inMask (predMask c.group f.srcA.toNat) k
             else (List.range 32).any fun k => inMask c.path.mask k && inMask (predMask c.group f.srcA.toNat) k)
          else inMask (predMask c.group p) n) ∧
        g.regs = c.group.regs ∧ g.uregs = c.group.uregs ∧ SameRest c.group g ∧ Advanced c g ∧ OnlyGroup c t) ∧
    (fieldsIllegal { dst := 1, a := 3 } f = false → fieldsOutOfBounds { dst := 1, a := 3 } c.block.launch.params.regs f = false →
      ∃ t g, exec (.vote i .ballot f) s = .next t ∧ groupIn t c.l c.slot c.gi = some g ∧
        (∀ n, n < 32 → readReg g f.dst n = if f.dst = 255 then 0 else if inMask (c.lanes f) n
          then predMask c.group f.srcA.toNat &&& c.path.mask else readReg c.group f.dst n) ∧
        SameRegsBut f.dst c.group g ∧ SameRest c.group g ∧ Advanced c g ∧ OnlyGroup c t) ∧
    (∀ u : Use, u = { dst := 2, a := if f.imm.isSome then 0 else 1, b := b2n f.imm.isSome, imm := true } →
      fieldsIllegal u f = false → fieldsOutOfBounds u c.block.launch.params.regs f = false →
      ∃ t g, exec (.movU i .toUniform f) s = .next t ∧ groupIn t c.l c.slot c.gi = some g ∧
        (c.lanes f = 0 → readU g f.dst = readU c.group f.dst) ∧
        (∀ v, f.imm = some v → c.lanes f ≠ 0 → readU g f.dst = v) ∧
        (∀ v, f.imm = none → c.lanes f ≠ 0 → (∀ n, n < 32 → inMask (c.lanes f) n = true → readReg c.group f.srcA n = v) →
          readU g f.dst = v) ∧
        (∀ x, x ≠ f.dst → readU g x = readU c.group x) ∧ g.regs = c.group.regs ∧ g.preds = c.group.preds ∧
        SameRest c.group g ∧ Advanced c g ∧ OnlyGroup c t)

/-- CVT.RN and CVT.SR complete: each executing lane's destination holds the conversion of its scaled source (R61,
R107, R113), SAT and NONFINITE are raised where a lane saturated or met a value that is not finite (R111), the
module's counters take their numbers (R119), and memory is unchanged.
Where a clause touches what the spec leaves open, the model's choice is that of log 4. -/
def Obligations.ConversionsComplete : Prop :=
  ∀ (i : Issue) (f : Fields) (s : State) (c : Ctx), ctxOf s i = some c →
    fieldsIllegal useCvt f = false → fieldsOutOfBounds useCvt c.block.launch.params.regs f = false →
    cvtSrc f ≤ 3 → cvtDst f ≤ 3 →
    ∀ (x : Instr) (conv : Nat → Conv),
      (x = .cvtRn i f ∧ (∀ n, conv n = convRn (fmtOf (cvtDst f)) (cvtSource c.group f n)) ∨
       x = .cvtSr i f ∧ ∀ n, conv n = convGradient (fmtOf (cvtSrc f)) (fmtOf (cvtDst f)) c.tile (32 * c.port + n)
          (cvtSource c.group f n)) →
      ∃ t g, exec x s = .next t ∧ groupIn t c.l c.slot c.gi = some g ∧
        (∀ n, n < 32 → readReg g f.dst n = if f.dst = 255 then 0
          else if inMask (c.lanes f) n then BitVec.ofNat 32 (conv n).bits else readReg c.group f.dst n) ∧
        SameRegsBut f.dst c.group g ∧ SameRest c.group g ∧ Advanced c g ∧ SameMemory c.s t ∧
        (tileAt t c.l).sat = (c.tile.sat || (List.range 32).any fun n => inMask (c.lanes f) n && (conv n).sat) ∧
        (tileAt t c.l).nonfinite =
          (c.tile.nonfinite || (List.range 32).any fun n => inMask (c.lanes f) n && (conv n).nonfinite) ∧
        t.globals.convSats = satAdd 64 c.s.globals.convSats ((lanesOf (c.lanes f)).filter fun n => (conv n).sat).length ∧
        t.tenants = c.s.tenants ∧ t.mem = c.s.mem

/-! ### Control -/

/-- Where the threads of a group stand after a branch of the executing lanes to `target`: the executing threads at
their targets, the path's others at the next instruction, every other path where it was (R43, R44). -/
def Sys2Proof.Machine.Jumped (c : Ctx) (f : Fields) (target : Nat → Nat) (g : Group) : Prop :=
  ∀ n pc, n < 32 → (g.runsAt n pc ↔
    (inMask (c.lanes f) n = true ∧ pc = target n) ∨
    (inMask c.path.mask n = true ∧ inMask (c.lanes f) n = false ∧ pc = c.path.pc + 8) ∨
    ∃ q ∈ c.group.paths, q.pc ≠ c.path.pc ∧ q.pc = pc ∧ inMask q.mask n = true)

/-- BRA, CALL, RET and NOP complete: threads go to their targets, CALL leaves the address after it in `dst`, NOP goes
on, and a target that is no multiple of 8 freezes the group, an immediate one whatever threads execute (R43, R44, R58,
R59; the forms are log 9). -/
def Obligations.BranchesMoveTheThreads : Prop :=
  ∀ (i : Issue) (f : Fields) (s : State) (c : Ctx), ctxOf s i = some c →
    (fieldsIllegal (useJump 0 f) f = false → fieldsOutOfBounds (useJump 0 f) c.block.launch.params.regs f = false →
      (∀ v, f.imm = some v → v.toNat % 8 = 0) →
      (∀ n, n < 32 → inMask (c.lanes f) n = true → targetOf c.group f n % 8 = 0) →
      ∃ t g, exec (.bra i f) s = .next t ∧ groupIn t c.l c.slot c.gi = some g ∧ Jumped c f (targetOf c.group f) g ∧
        g.regs = c.group.regs ∧ g.uregs = c.group.uregs ∧ g.preds = c.group.preds ∧ SameRest c.group g ∧ OnlyGroup c t) ∧
    (fieldsIllegal (useJump 1 f) f = false → fieldsOutOfBounds (useJump 1 f) c.block.launch.params.regs f = false →
      (∀ v, f.imm = some v → v.toNat % 8 = 0) →
      (∀ n, n < 32 → inMask (c.lanes f) n = true → targetOf c.group f n % 8 = 0) →
      ∃ t g, exec (.call i f) s = .next t ∧ groupIn t c.l c.slot c.gi = some g ∧ Jumped c f (targetOf c.group f) g ∧
        (∀ n, n < 32 → inMask (c.lanes f) n = true → f.dst ≠ 255 → readReg g f.dst n = BitVec.ofNat 32 (c.path.pc + 8)) ∧
        SameRegsBut f.dst c.group g ∧ SameRest c.group g ∧ OnlyGroup c t) ∧
    (fieldsIllegal { a := 1 } f = false → fieldsOutOfBounds { a := 1 } c.block.launch.params.regs f = false →
      (∀ n, n < 32 → inMask (c.lanes f) n = true → (readReg c.group f.srcA n).toNat % 8 = 0) →
      ∃ t g, exec (.ret i f) s = .next t ∧ groupIn t c.l c.slot c.gi = some g ∧
        Jumped c f (fun n => (readReg c.group f.srcA n).toNat) g ∧
        g.regs = c.group.regs ∧ g.uregs = c.group.uregs ∧ g.preds = c.group.preds ∧ SameRest c.group g ∧ OnlyGroup c t) ∧
    (fieldsIllegal {} f = false → ∃ t g, exec (.nop i f) s = .next t ∧ groupIn t c.l c.slot c.gi = some g ∧
      Advanced c g ∧ g.regs = c.group.regs ∧ g.uregs = c.group.uregs ∧ g.preds = c.group.preds ∧ SameRest c.group g ∧
      OnlyGroup c t) ∧
    (fieldsIllegal (useJump 0 f) f = false → fieldsOutOfBounds (useJump 0 f) c.block.launch.params.regs f = false →
      ((∃ n, n < 32 ∧ inMask (c.lanes f) n = true ∧ targetOf c.group f n % 8 ≠ 0) ∨ ∃ v, f.imm = some v ∧ v.toNat % 8 ≠ 0) →
      ∃ t, exec (.bra i f) s = .next t ∧ FrozeGroup c 0x04 0 t)

/-- The same instructions with a field that R59 makes illegal, or with a register that R60 puts out of bounds, freeze
their group: ILLEGAL_INSTRUCTION (0x04) or REGISTER_BOUNDS (0x05), precisely, with no other effect (R62). ILLEGAL_INSTRUCTION, a word of class 0xF or of an op that is not assigned, freezes
its group precisely (R59, R62); the numbering of the ops that the spec leaves open is log 107. The word of an opcode with
fields of its form spells that opcode and these fields again, with every bit of them (R57, R58, R61). -/
def Obligations.BadFieldsFreezeTheGroup : Prop :=
  (∀ (x : Instr) (i : Issue) (f : Fields) (u : Use) (v : Nat → W32) (s : State) (c : Ctx),
     ctxOf s i = some c → laneWork c x = some (i, f, u, v) →
     (fieldsIllegal u f = true → ∃ t, exec x s = .next t ∧ FrozeGroup c 0x04 0 t) ∧
     (fieldsIllegal u f = false → fieldsOutOfBounds u c.block.launch.params.regs f = true →
       ∃ t, exec x s = .next t ∧ FrozeGroup c 0x05 0 t)) ∧
  (∀ (op : Byte) (f : Fields), fieldsFit op f = true →
     wordOpcode (instrWord op f) = op ∧ wordFields (instrWord op f) = f) ∧
  (∀ op : Byte, 0xF0 ≤ op.toNat → opcodeAssigned op = false) ∧
  (∀ (i : Issue) (op : Byte) (s : State) (c : Ctx), ctxOf s i = some c → opcodeAssigned op = false →
     ∃ t, exec (.illegalInstruction i op) s = .next t ∧ FrozeGroup c 0x04 0 t)

/-- BAR.BLOCK must carry guard p7 unnegated, and all its operand fields must be zero, or it freezes the group with
ILLEGAL_INSTRUCTION (0x04). The group of a block with one group arrives when its live threads are all parked, and is then
released: each of its threads that was parked runs on after the BAR.BLOCK it executed, and nobody is parked (R49). -/
def Obligations.BarBlockFieldsAndLoneGroups : Prop :=
  ∀ (i : Issue) (f : Fields) (s : State) (c : Ctx), ctxOf s i = some c →
    let zero := f.dst = 0 ∧ f.srcA = 0 ∧ f.srcB = 0 ∧ f.srcC = 0 ∧ f.ty = 0 ∧ f.mod = 0 ∧ f.imm = none
    (¬ (f.guard = 7 ∧ f.guardNeg = false ∧ zero) → ∃ t, exec (.barBlock i f) s = .next t ∧ FrozeGroup c 0x04 0 t) ∧
    (f.guard = 7 → f.guardNeg = false → zero → c.block.groups.length = 1 → c.path.mask ≠ 0 →
      (∀ n, n < 32 → inMask c.group.live n = (inMask c.group.parkedMask n || inMask c.path.mask n)) →
      ∃ t g, exec (.barBlock i f) s = .next t ∧ groupIn t c.l c.slot c.gi = some g ∧ g.parked = [] ∧ g.live = c.group.live ∧
        (∀ n, n < 32 → inMask c.path.mask n = true → g.runsAt n (c.path.pc + 8)) ∧
        (∀ n p, n < 32 → p ∈ c.group.parked → inMask p.mask n = true → g.runsAt n p.resume) ∧
        g.regs = c.group.regs ∧ g.preds = c.group.preds ∧ SameMemory c.s t)

/-- An instruction of the array that would issue on port 0 does not come after one that issued on port 1 in this
cycle: of two in one cycle the one on port 0 is the earlier (R76). -/
def Sys2Proof.Machine.PortInTurn (c : Ctx) : Prop := c.port = 0 → ∀ x ∈ c.tile.issued, x.1 ≠ 1

/-- The instructions that execute once per issue, other than BAR.BLOCK, must carry guard p7 unnegated: otherwise the
group freezes with ILLEGAL_INSTRUCTION (0x04), whatever their other fields hold (R54, R55). One of the array on port 0
does not issue once port 1 has issued in the cycle: the one on port 0 is the earlier (R76; log 67). -/
def Obligations.OnceInstructionsNeedGuardP7 : Prop :=
  ∀ (i : Issue) (f : Fields) (ecc : Ecc) (s : State) (c : Ctx), ctxOf s i = some c →
    (¬ (f.guard = 7 ∧ f.guardNeg = false) →
      (∀ x, x ∈ [Instr.copyIssue i f ecc, .copyWait i f, .gatherIssue i f ecc, .xchgIssue i f ecc, .dld i f ecc,
          .fenceLocal i f, .fenceRegion i f, .fenceBoard i f] → ∃ t, exec x s = .next t ∧ FrozeGroup c 0x04 0 t) ∧
      (PortInTurn c → ∀ x, x ∈ [Instr.mmaReg i f, .mmaDesc i f, .accDrain i f, .accFill i f, .accWait i f] →
        ∃ t, exec x s = .next t ∧ FrozeGroup c 0x04 0 t)) ∧
    (¬ PortInTurn c → ∀ x, x ∈ [Instr.mmaReg i f, .mmaDesc i f, .accDrain i f, .accFill i f, .accWait i f] →
      exec x s = .next s)

/-- EXIT and BAR.BLOCK complete. EXIT removes the executing threads from the live mask, and a group with none left has
ended; BAR.BLOCK parks the path's threads, to resume after it, and starts the watchdog from zero if it does not run (R45,
R47, R50). If then every group has arrived or ended and one has arrived, the barrier releases: nobody is parked, every
parked thread stands at its resume point and the watchdog stops; otherwise nothing is released (R48). A group released at the barrier has nobody parked, and every thread that was parked stands at the instruction
after the BAR.BLOCK it executed (R48). One tile-island cycle of an owned tile: the cycle count and every generator advance, the running watchdog of each
block that is not frozen counts, and exactly the blocks whose count has reached their limit freeze with
BARRIER_TIMEOUT (R50, R115); local memory changes by a drain alone (R73). -/
def Obligations.BarrierReleasesOrTimesOut : Prop :=
  ((∀ (i : Issue) (f : Fields) (s : State) (c : Ctx), ctxOf s i = some c → fieldsIllegal {} f = false →
      let after : State → Block → Prop := fun t b =>
        t = { c.s with tiles := t.tiles } ∧ (∀ l, l ≠ c.l → mget t.tiles l = mget c.s.tiles l) ∧ SameMemory c.s t ∧
        mget (tileAt t c.l).blocks c.slot = some (
          if (b.groups.all fun g => decide (g.live = 0 ∨ g.parkedMask = g.live)) && b.groups.any fun g => decide (g.parkedMask ≠ 0)
          then { b with groups := b.groups.map Group.release, watchRunning := false } else b)
      (let gone := c.lanes f
       let live := c.group.live &&& ~~~gone
       ∃ t g, exec (.exit i f) s = .next t ∧
         after t { c.block with groups := updateAt c.block.groups c.gi fun _ => g } ∧
         g.live = live ∧ (live = 0 → g.ended = true ∧ g.regs = [] ∧ g.paths = []) ∧
         (live ≠ 0 → g.ended = false ∧ g.regs = c.group.regs ∧ g.parked = c.group.parked ∧
           ∀ n pc, g.runsAt n pc ↔ (inMask c.path.mask n = true ∧ inMask gone n = false ∧ pc = c.path.pc + 8) ∨
             ∃ q ∈ c.group.paths, q.pc ≠ c.path.pc ∧ q.pc = pc ∧ inMask q.mask n = true)) ∧
      (guardAlways f = true →
       ∃ t g, exec (.barBlock i f) s = .next t ∧
         after t { c.block with groups := updateAt c.block.groups c.gi fun _ => g, watchRunning := true,
                                watchCount := if c.block.watchRunning then c.block.watchCount else 0 } ∧
         g.live = c.group.live ∧ g.regs = c.group.regs ∧
         (∀ n r, (∃ p ∈ g.parked, p.resume = r ∧ inMask p.mask n = true) ↔
           (∃ p ∈ c.group.parked, p.resume = r ∧ inMask p.mask n = true) ∨ (r = c.path.pc + 8 ∧ inMask c.path.mask n = true)) ∧
         (∀ n pc, g.runsAt n pc ↔ ∃ q ∈ c.group.paths, q.pc ≠ c.path.pc ∧ q.pc = pc ∧ inMask q.mask n = true)) ∧
      (guardAlways f = false → ∃ t, exec (.barBlock i f) s = .next t ∧ FrozeGroup c 0x04 0 t)) ∧
   (∀ g : Group, g.release.parked = [] ∧ g.release.live = g.live ∧ g.release.regs = g.regs ∧
      ∀ n pc, g.release.runsAt n pc ↔ g.runsAt n pc ∨ ∃ p ∈ g.parked, p.resume = pc ∧ inMask p.mask n = true)) ∧
  (∀ (s : State) (l slot tenant : Nat) (b : Block), ownerOf s l = some tenant → mget (tileAt s l).blocks slot = some b →
     isFrozen s tenant (blockMaster l slot) = false → mwf (tileAt s l).blocks = true → slot < 8 →
     (∀ e ∈ (tileAt s l).blocks, e.1 < 8) → l < 1280 →
     ∃ t, exec (.barrierTimeout l slot 1) s = .next t ∧ (tileAt t l).cycle = (tileAt s l).cycle + 1 ∧
       (tileAt t l).gens = (tileAt s l).gens.map genStep ∧
       (∃ b', mget (tileAt t l).blocks slot = some b' ∧
         b' = { b with watchCount := if b.watchRunning then b.watchCount + 1 else b.watchCount, census := b'.census } ∧
         ((tileAt s l).ops = [] → b'.census = b.census)) ∧
       (isFrozen t tenant (blockMaster l slot) = true ↔
         b.watchRunning = true ∧ b.launch.params.watchdog ≤ b.watchCount + 1) ∧
       (b.watchRunning = true → b.launch.params.watchdog ≤ b.watchCount + 1 →
         ∃ r ∈ (tenantAt t tenant).freezes, r.master = blockMaster l slot ∧ r.cause = 0x02 ∧
           r.blockId = b.launch.params.blockId) ∧
       t.mem = s.mem ∧ ((tileAt s l).ops = [] → (tileAt t l).lm = (tileAt s l).lm) ∧
       ∀ j, j ≠ l → mget t.tiles j = mget s.tiles j)

/-! ### Thread memory -/

/-- Address of the local-memory access of a lane: register `src_a` rounded down to the size (R175). -/
def Sys2Proof.Machine.lmAt (c : Ctx) (f : Fields) (n bytes : Nat) : Nat :=
  (readReg c.group f.srcA n).toNat / bytes * bytes

/-- LOCAL_MEMORY_LOAD and DLD complete where every lane stays in the block's window and meets no uncorrectable word: the
register takes the bytes at the rounded address, little-endian (the bits above a narrow load are open, log 14), the d
register takes the 64 bytes of a descriptor without reserved content; no memory changes. Out of the window the
group freezes with LOCAL_MEMORY_BOUNDS (0x07), at an uncorrectable word with UNCORRECTABLE_DATA (0x22), R63, R147, R149. LOCAL_MEMORY_STORE completes where every lane stays in the window and meets no uncorrectable word: every byte a
lane covers holds that lane's byte (one of theirs, where lanes overlap, R176), every other byte of local memory and of
every other memory reads as before, and no register changes (R147, R149). LOCAL_MEMORY_ATOMIC of one lane completes: the lane's register takes the old value, local memory the new one
(R175), and every other byte and register stays.
Where a clause touches what the spec leaves open, the model's choice is that of logs 14, 15, 18. -/
def Obligations.LocalMemoryAccessesPerform : Prop :=
  (∀ (i : Issue) (z : Size) (f : Fields) (ecc : Ecc) (s : State) (c0 c : Ctx), ctxOf s i = some c0 → c = c0.ecc ecc →
     let p := c.block.launch.params
     (fieldsIllegal { dst := 1, a := 1 } f = false → fieldsOutOfBounds { dst := 1, a := 1 } p.regs f = false → p.regs ≤ 255 →
       (z = .b8 → f.dst ≠ 255 → f.dst.toNat + 1 < p.regs) →
       ((∀ n, n < 32 → inMask (c.lanes f) n = true →
           p.lmBase ≤ lmAt c f n (sizeBytes z) ∧ lmAt c f n (sizeBytes z) + sizeBytes z ≤ p.lmBase + p.lmSize ∧
           readBad c.tile.lmBad (lmAt c f n (sizeBytes z)) (sizeBytes z) = false) →
         ∃ t g, exec (.localMemoryLoad i z f ecc) s = .next t ∧ groupIn t c.l c.slot c.gi = some g ∧
           (∀ n, n < 32 → inMask (c.lanes f) n = true → f.dst ≠ 255 → ∀ k, k < sizeBytes z →
             (if k < 4 then (readReg g f.dst n).toNat else (readReg g (f.dst + 1) n).toNat) / 2 ^ (8 * (k % 4)) % 2 ^ 8 =
               (lmByte c.s c.l (lmAt c f n (sizeBytes z) + k)).toNat) ∧
           (∀ x n, n < 32 → (inMask (c.lanes f) n = false ∨ x ≠ f.dst ∧ (z = .b8 → x ≠ f.dst + 1)) →
             readReg g x n = readReg c.group x n) ∧
           g.uregs = c.group.uregs ∧ g.preds = c.group.preds ∧ SameRest c.group g ∧ Advanced c g ∧ SameMemory c.s t ∧
           t.tenants = c.s.tenants) ∧
       (∀ n, n < 32 → inMask (c.lanes f) n = true →
           ¬ (p.lmBase ≤ lmAt c f n (sizeBytes z) ∧ lmAt c f n (sizeBytes z) + sizeBytes z ≤ p.lmBase + p.lmSize) →
         ∃ t a, exec (.localMemoryLoad i z f ecc) s = .next t ∧ FrozeGroup c 0x07 a t)) ∧
     (guardAlways f = true → fieldsIllegal { dst := 4, a := 2 } f = false →
       fieldsOutOfBounds { dst := 4, a := 2 } p.regs f = false →
       let a := (readU c.group f.srcA).toNat
       (a % 64 = 0 → inWindow p a 64 = true → readBad c.tile.lmBad a 64 = false →
         arrayDescReserved (readBytes c.tile.lm a 64) = false →
         ∃ t b g, exec (.dld i f ecc) s = .next t ∧ mget (tileAt t c.l).blocks c.slot = some b ∧
           mget b.dregs f.dst.toNat = some ((List.range 64).map fun k => lmByte c.s c.l (a + k)) ∧
           (∀ x, x ≠ f.dst.toNat → mget b.dregs x = mget c.block.dregs x) ∧ b.groups[c.gi]? = some g ∧ Advanced c g ∧
           g.regs = c.group.regs ∧ g.uregs = c.group.uregs ∧ SameMemory c.s t) ∧
       (a % 64 = 0 → inWindow p a 64 = true → readBad c.tile.lmBad a 64 = false →
         arrayDescReserved (readBytes c.tile.lm a 64) = true →
         ∃ t, exec (.dld i f ecc) s = .next t ∧ FrozeGroup c 0x06 a t) ∧
       (a % 64 ≠ 0 ∨ inWindow p a 64 = false → ∃ t, exec (.dld i f ecc) s = .next t ∧ FrozeGroup c 0x07 a t))) ∧
  (∀ (i : Issue) (z : Size) (f : Fields) (ecc : Ecc) (s : State) (c0 c : Ctx), ctxOf s i = some c0 → c = c0.ecc ecc →
     let p := c.block.launch.params
     let at_ := fun n => lmAt c f n (sizeBytes z)
     let covers := fun (n a : Nat) => n < 32 ∧ inMask (c.lanes f) n = true ∧ at_ n ≤ a ∧ a < at_ n + sizeBytes z
     fieldsIllegal { a := 1, b := 1 } f = false → fieldsOutOfBounds { a := 1, b := 1 } p.regs f = false →
     (z = .b8 → f.srcB ≠ 255 → f.srcB.toNat + 1 < p.regs) →
     (∀ n, n < 32 → inMask (c.lanes f) n = true →
       inWindow p (at_ n) (sizeBytes z) = true ∧ readBad c.tile.lmBad (at_ n) (sizeBytes z) = false) →
     ∃ t g, exec (.localMemoryStore i z f ecc) s = .next t ∧ groupIn t c.l c.slot c.gi = some g ∧
       (∀ a, (∃ n, covers n a) → ∃ n, covers n a ∧
         (lmByte t c.l a).toNat = storeValue c.group f.srcB z n / 2 ^ (8 * (a - at_ n)) % 2 ^ 8) ∧
       (∀ a, (¬ ∃ n, covers n a) → lmByte t c.l a = lmByte c.s c.l a) ∧
       (∀ l a, l ≠ c.l → lmByte t l a = lmByte c.s l a) ∧ t.mem = c.s.mem ∧
       g.regs = c.group.regs ∧ g.uregs = c.group.uregs ∧ g.preds = c.group.preds ∧ SameRest c.group g ∧ Advanced c g) ∧
  (∀ (i : Issue) (op : AtomOp) (wide : Bool) (f : Fields) (ecc : Ecc) (s : State) (c0 c : Ctx) (n : Nat),
     ctxOf s i = some c0 → c = c0.ecc ecc →
     let p := c.block.launch.params
     let w := if wide then 8 else 4
     let a := lmAt c f n w
     let old := leNat ((List.range w).map fun k => lmByte c.s c.l (a + k))
     let new := atomResult op f.ty.toNat (8 * w) old (storeValue c.group f.srcB (atomSize wide) n)
       (storeValue c.group f.srcC (atomSize wide) n)
     fieldsIllegal (useAtomic op wide) f = false → fieldsOutOfBounds (useAtomic op wide) p.regs f = false → p.regs ≤ 255 →
     pairsBad p.regs (atomSize wide) ([f.dst, f.srcB] ++ if op = .cas then [f.srcC] else []) = false →
     n < 32 → c.lanes f = 1 <<< n → inWindow p a w = true → readBad c.tile.lmBad a w = false →
     ∃ t g, exec (.localMemoryAtomic i op wide f ecc) s = .next t ∧ groupIn t c.l c.slot c.gi = some g ∧
       (f.dst ≠ 255 → (readReg g f.dst n).toNat = old % 2 ^ 32) ∧
       (f.dst ≠ 255 → wide = true → (readReg g (f.dst + 1) n).toNat = old / 2 ^ 32) ∧
       (∀ x m, m < 32 → (m ≠ n ∨ x ≠ f.dst ∧ (wide = true → x ≠ f.dst + 1)) → readReg g x m = readReg c.group x m) ∧
       (∀ k, k < w → (lmByte t c.l (a + k)).toNat = new / 2 ^ (8 * k) % 2 ^ 8) ∧
       (∀ b, b < a ∨ a + w ≤ b → lmByte t c.l b = lmByte c.s c.l b) ∧ t.mem = c.s.mem ∧ Advanced c g)

/-- Integer and logic results as numbers: sums, products and shifts modulo 2^32, minimum and maximum in the operand's
order, a bit field read or replaced (R58). The floating comparisons of two numbers agree with each other: each is the negation of its opposite, and greater is
less with the operands exchanged (R57, R58; a comparison with a NaN is open, log 16). What an atomic stores, as numbers: wrapped sums, minimum and maximum in the operand's order, bitwise results, exchange
and compare-exchange (R175).
Where a clause touches what the spec leaves open, the model's choice is that of logs 3, 12, 16. -/
def Obligations.ResultsAreArithmetic : Prop :=
  (∀ (a b c : W32) (sg : Bool) (n pos len free_ : Nat),
     (intResult .add sg a b c).toNat = (a.toNat + b.toNat) % 2 ^ 32 ∧
     (intResult .sub sg a b c).toNat = (a.toNat + 2 ^ 32 - b.toNat) % 2 ^ 32 ∧
     (intResult .mul sg a b c).toNat = a.toNat * b.toNat % 2 ^ 32 ∧
     (intResult .mad sg a b c).toNat = (a.toNat * b.toNat + c.toNat) % 2 ^ 32 ∧
     (intResult .min true a b c).toInt = min a.toInt b.toInt ∧ (intResult .max true a b c).toInt = max a.toInt b.toInt ∧
     (intResult .min false a b c).toNat = min a.toNat b.toNat ∧ (intResult .max false a b c).toNat = max a.toNat b.toNat ∧
     (n < 32 → (logicResult .shl sg a (BitVec.ofNat 32 n) free_).toNat = a.toNat * 2 ^ n % 2 ^ 32) ∧
     (n < 32 → (logicResult .shr false a (BitVec.ofNat 32 n) free_).toNat = a.toNat / 2 ^ n) ∧
     (n < 32 → (logicResult .shr true a (BitVec.ofNat 32 n) free_).toInt = a.toInt / 2 ^ n) ∧
     (0 < len → pos + len ≤ 32 →
       (logicResult (.bfe pos len) false a b free_).toNat = a.toNat / 2 ^ pos % 2 ^ len ∧
       (∀ k, k < 32 → (logicResult (.bfi pos len) sg a b free_).getLsbD k =
         if pos ≤ k ∧ k < pos + len then b.getLsbD (k - pos) else a.getLsbD k))) ∧
  (∀ (op : CmpOp) (a b : W32) (free_ : Nat),
     (cmpResult op 0 a b free_ = match op with
       | .eq => decide (a.toNat = b.toNat) | .ne => decide (a.toNat ≠ b.toNat) | .lt => decide (a.toNat < b.toNat)
       | .le => decide (a.toNat ≤ b.toNat) | .gt => decide (b.toNat < a.toNat) | .ge => decide (b.toNat ≤ a.toNat)) ∧
     (cmpResult op 1 a b free_ = match op with
       | .eq => decide (a.toInt = b.toInt) | .ne => decide (a.toInt ≠ b.toInt) | .lt => decide (a.toInt < b.toInt)
       | .le => decide (a.toInt ≤ b.toInt) | .gt => decide (b.toInt < a.toInt) | .ge => decide (b.toInt ≤ a.toInt)) ∧
     ((decodeNum fp32 a.toNat).isNan = false → (decodeNum fp32 b.toNat).isNan = false →
       (cmpResult .eq 2 a b free_ = true ↔ (decodeNum fp32 a.toNat).eqv (decodeNum fp32 b.toNat) = true) ∧
       cmpResult .ne 2 a b free_ = !cmpResult .eq 2 a b free_ ∧ cmpResult .ge 2 a b free_ = !cmpResult .lt 2 a b free_ ∧
       cmpResult .le 2 a b free_ = !cmpResult .gt 2 a b free_ ∧ cmpResult .gt 2 a b free_ = cmpResult .lt 2 b a free_)) ∧
  (∀ (w old v cmp : Nat), w = 32 ∨ w = 64 → old < 2 ^ w → v < 2 ^ w →
     atomResult .add 0 w old v cmp = (old + v) % 2 ^ w ∧ atomResult .add 1 w old v cmp = (old + v) % 2 ^ w ∧
     atomResult .min 0 w old v cmp = min old v ∧ atomResult .max 0 w old v cmp = max old v ∧
     signed w (atomResult .min 1 w old v cmp) = min (signed w old) (signed w v) ∧
     signed w (atomResult .max 1 w old v cmp) = max (signed w old) (signed w v) ∧
     (∀ k, (atomResult .and 0 w old v cmp).testBit k = (old.testBit k && v.testBit k)) ∧
     (∀ k, (atomResult .or 0 w old v cmp).testBit k = (old.testBit k || v.testBit k)) ∧
     (∀ k, (atomResult .xor 0 w old v cmp).testBit k = (old.testBit k ^^ v.testBit k)) ∧
     atomResult .xchg 0 w old v cmp = v ∧ atomResult .cas 0 w old v cmp = (if old = cmp then v else old))

/-- A tenant virtual address translates for an access: the tables have a leaf for it that grants the need, on a page the
tenant may reach, at board address `b`; a cached walk of its page, if there is one, holds the same leaf (R152–R156). -/
def Sys2Proof.Machine.Reaches (s : State) (region tenant : Nat) (need : Need) (va b : Nat) : Prop :=
  va < 2 ^ 48 ∧ ∃ leaf giant, (walk s tenant va).waits = false ∧ (walk s tenant va).leaf = some (leaf, giant) ∧
    checkLeaf s tenant va leaf giant need = .ok b ∧
    ∀ e ∈ s.mem.tlb, e.region = region → e.tenant = tenant → e.vpn = va / 2 ^ 21 → e.leaf.toNat = leaf ∧ e.giant = giant

/-- A lane of the issuing group has an outstanding access of its own (R62, R162). -/
def Sys2Proof.Machine.Outstanding (c : Ctx) (t : State) (kind : AccessKind) (lane va target size : Nat) (a : Access) : Prop :=
  a ∈ (tileAt t c.l).accesses ∧ c.tile.serial ≤ a.serial ∧ a.slot = c.slot ∧ a.group = c.gi ∧ a.kind = kind ∧
    a.thread = lane ∧ a.va = va ∧ a.target = target ∧ a.size = size ∧ a.pc = c.path.pc ∧ a.result = none

/-- LOAD, STORE and ATOMIC where every executing lane's address translates. A load whose lanes all hit the L1 completes:
each lane's register takes the line's bytes, little-endian, and the path goes on. A load that misses in some lane, and an
atomic of some lane, start: every lane has an outstanding access of its own, and the group waits for exactly these; the
lines an atomic addresses leave the L1. A store completes: every lane's store is outstanding with its data, and the path
goes on. No byte of memory has changed yet (R42, R62, R150, R152, R162). Where a lane's address does not translate the
group freezes with that cause and nothing is issued; where the translation waits, nothing happens (R62, R152, R381).
MEMORY_RESPONSE of an access of this module's own slot that may perform: a load of readable bytes gets them; a store puts
its bytes at its address and leaves, every other byte of the fast tier as before; the last lane of an atomic puts the new
value there. The last access its group waits for ends the wait, the registers take the values and the path goes on
(R150, R162, R174, R175, R185).
Where a clause touches what the spec leaves open, the model's choice is that of logs 7, 14, 15, 18, 19, 67, 108. -/
def Obligations.GlobalAccessesIssueAndPerform : Prop :=
  (∀ (i : Issue) (z : Size) (op : AtomOp) (wide : Bool) (f : Fields) (s : State) (c : Ctx) (b : Nat → Nat), ctxOf s i = some c →
     let p := c.block.launch.params
     let r := regionOf c.l
     let az := atomSize wide
     p.regs ≤ 255 → pairBad p.regs f.srcA = false →
     (fieldsIllegal { a := 1, b := 1 } f = false → fieldsOutOfBounds { a := 1, b := 1 } p.regs f = false →
       pairsBad p.regs z [f.srcB] = false →
       ((∀ n, n < 32 → inMask (c.lanes f) n = true → Reaches c.s r c.tenant .w (vaAddress c.group f z n) (b n)) →
         ∃ t g, exec (.store i z f) s = .next t ∧ groupIn t c.l c.slot c.gi = some g ∧ Advanced c g ∧ SameRest c.group g ∧
           g.regs = c.group.regs ∧ g.uregs = c.group.uregs ∧ g.preds = c.group.preds ∧
           (∀ n, n < 32 → inMask (c.lanes f) n = true →
             ∃ a, Outstanding c t .store n (vaAddress c.group f z n) (b n) (sizeBytes z) a ∧
               a.data = BitVec.ofNat 64 (storeValue c.group f.srcB z n)) ∧ SameMemory c.s t) ∧
       (∀ s1 cause va, translateLanes c.s r c.tenant .w (vaAddress c.group f z) (laneOrder c.s (c.lanes f)) = (s1, .error (cause, va)) →
         if cause = 0 then exec (.store i z f) s = .next s
         else ∃ t, exec (.store i z f) s = .next t ∧ FrozeGroup { c with s := s1 } cause va t)) ∧
     (fieldsIllegal { dst := 1, a := 1 } f = false → fieldsOutOfBounds { dst := 1, a := 1 } p.regs f = false →
       pairsBad p.regs z [f.dst] = false →
       ((∀ n, n < 32 → inMask (c.lanes f) n = true → Reaches c.s r c.tenant .r (vaAddress c.group f z n) (b n)) →
         (∀ line : Nat → List Byte, (∀ x ∈ c.tile.accesses, x.serial < c.tile.serial) →
           (∀ n, n < 32 → inMask (c.lanes f) n = true →
             isLocal c.s (b n) = true ∧ mget c.tile.l1 (boardDpa (b n) / 256) = some (line n)) →
           ∃ t g, exec (.load i z f) s = .next t ∧ groupIn t c.l c.slot c.gi = some g ∧
             (∀ n, n < 32 → inMask (c.lanes f) n = true → f.dst ≠ 255 → ∀ k, k < sizeBytes z →
               (if k < 4 then (readReg g f.dst n).toNat else (readReg g (f.dst + 1) n).toNat) / 2 ^ (8 * (k % 4)) % 2 ^ 8 =
                 ((line n).getD (b n % 256 + k) 0).toNat) ∧
             (∀ x n, n < 32 → (inMask (c.lanes f) n = false ∨ x ≠ f.dst ∧ (z = .b8 → x ≠ f.dst + 1)) →
               readReg g x n = readReg c.group x n) ∧
             g.uregs = c.group.uregs ∧ g.preds = c.group.preds ∧ SameRest c.group g ∧ Advanced c g ∧ SameMemory c.s t) ∧
         (∀ m, m < 32 → inMask (c.lanes f) m = true →
           (isLocal c.s (b m) = false ∨ mget c.tile.l1 (boardDpa (b m) / 256) = none) →
           ∃ t g, exec (.load i z f) s = .next t ∧ groupIn t c.l c.slot c.gi = some g ∧ g.regs = c.group.regs ∧
             g.paths = c.group.paths ∧
             g.wait = .accesses ((List.range (lanesOf (c.lanes f)).length).map fun k => c.tile.serial + k) ∧
             (∃ a, Outstanding c t .load m (vaAddress c.group f z m) (b m) (sizeBytes z) a) ∧ SameMemory c.s t)) ∧
       (∀ s1 cause va, translateLanes c.s r c.tenant .r (vaAddress c.group f z) (lanesOf (c.lanes f)) = (s1, .error (cause, va)) →
         if cause = 0 then exec (.load i z f) s = .next s
         else ∃ t, exec (.load i z f) s = .next t ∧ FrozeGroup { c with s := s1 } cause va t)) ∧
     (fieldsIllegal (useAtomic op wide) f = false → fieldsOutOfBounds (useAtomic op wide) p.regs f = false →
       pairsBad p.regs az ([f.dst, f.srcB] ++ if op = .cas then [f.srcC] else []) = false →
       ((∀ n, n < 32 → inMask (c.lanes f) n = true → Reaches c.s r c.tenant .rw (vaAddress c.group f az n) (b n)) →
         (∀ x ∈ c.tile.accesses, keptAtomic c x = false) → c.lanes f ≠ 0 →
         ∃ t g, exec (.atomic i op wide f) s = .next t ∧ groupIn t c.l c.slot c.gi = some g ∧ g.regs = c.group.regs ∧
           g.paths = c.group.paths ∧
           g.wait = .accesses ((List.range (lanesOf (c.lanes f)).length).map fun k => c.tile.serial + k) ∧
           (∀ n, n < 32 → inMask (c.lanes f) n = true → mget (tileAt t c.l).l1 (boardDpa (b n) / 256) = none ∧
             ∃ a, Outstanding c t (.atomic op wide) n (vaAddress c.group f az n) (b n) (sizeBytes az) a ∧
               a.data = BitVec.ofNat 64 (storeValue c.group f.srcB az n)) ∧ SameMemory c.s t) ∧
       (∀ s1 cause va, translateLanes c.s r c.tenant .rw (vaAddress c.group f az) (laneOrder c.s (c.lanes f)) = (s1, .error (cause, va)) →
         if cause = 0 then exec (.atomic i op wide f) s = .next s
         else ∃ t, exec (.atomic i op wide f) s = .next t ∧ FrozeGroup { c with s := s1 } cause va t))) ∧
  (∀ (l serial e tenant k : Nat) (ecc : Ecc) (s s1 : State) (a : Access),
     s1 = (tick s l e).redraw → ownerOf s1 l = some tenant → tileResetting s1 l = false →
     (tileAt s1 l).accesses.find? (fun x => x.serial = serial) = some a → mayPerform s1 l a = true →
     dpaResetting s1 (boardDpa a.target) = false → (∀ x ∈ (tileAt s1 l).accesses, x.serial = serial → x = a) →
     a.size = 1 ∨ a.size = 2 ∨ a.size = 4 ∨ a.size = 8 → a.target % a.size = 0 →
     backedKey s1 (boardDpa a.target) = some k → (s1.fastEcc ecc).mem.fastBad.contains (k / 16) = false →
     let old := leNat ((List.range a.size).map fun j => fastByte s1 (k + j))
     let last := fun ids : List Nat => serial ∈ ids ∧ ∀ x ∈ (tileAt s1 l).accesses, x.serial ∈ ids → x ≠ a →
       x.result.isSome = true ∧ x.fault = none ∧ x.ready = false ∧ x.pc = a.pc
     let ends := fun (g : Group) (ids : List Nat) (t : State) => ∃ g', groupIn t l a.slot a.group = some g' ∧ g'.wait = .none ∧
       (∀ x ∈ (tileAt t l).accesses, x.serial ∉ ids) ∧ g'.live = g.live ∧ g'.uregs = g.uregs ∧ g'.preds = g.preds ∧
       (∀ p, g.paths.find? (fun q => q.pc = a.pc) = some p → ∀ n, inMask p.mask n = true → g'.runsAt n (a.pc + 8)) ∧
       (ids = [serial] → a.dst % 2 ^ 8 ≠ 255 → (a.size = 8 → a.dst % 2 ^ 8 ≠ 254) → a.thread < 32 → ∀ j, j < a.size →
         (if j < 4 then (readReg g' (BitVec.ofNat 8 a.dst) a.thread).toNat
          else (readReg g' (BitVec.ofNat 8 a.dst + 1) a.thread).toNat) / 2 ^ (8 * (j % 4)) % 2 ^ 8 = (fastByte s1 (k + j)).toNat)
     (a.kind = .load → ∃ t, exec (.memoryResponse l serial e ecc) s = .next t ∧ SameMemory s1 t ∧
       ((∃ x ∈ (tileAt t l).accesses, x.serial = serial ∧ x.result = some (BitVec.ofNat 64 old)) ∨
        ∀ x ∈ (tileAt t l).accesses, x.serial ≠ serial) ∧
       ∀ g ids, groupIn s1 l a.slot a.group = some g → g.wait = .accesses ids → last ids → ends g ids t) ∧
     (a.kind = .store → ∃ t, exec (.memoryResponse l serial e ecc) s = .next t ∧
       (∀ j, j < a.size → (fastByte t (k + j)).toNat = a.data.toNat / 2 ^ (8 * j) % 2 ^ 8) ∧
       (∀ j, j < k ∨ k + a.size ≤ j → fastByte t j = fastByte s1 j) ∧ (∀ x ∈ (tileAt t l).accesses, x.serial ≠ serial) ∧
       (∀ j, slowByte t j = slowByte s1 j) ∧ ∀ j x, lmByte t j x = lmByte s1 j x) ∧
     (∀ op wide g ids, a.kind = .atomic op wide → groupIn s1 l a.slot a.group = some g → g.wait = .accesses ids → last ids →
       ∃ t, exec (.memoryResponse l serial e ecc) s = .next t ∧
         (∀ j, j < a.size → (fastByte t (k + j)).toNat =
           atomResult op (a.dst / 256) (8 * a.size) old a.data.toNat a.cmp.toNat / 2 ^ (8 * j) % 2 ^ 8) ∧
         (∀ j, j < k ∨ k + a.size ≤ j → fastByte t j = fastByte s1 j) ∧ ends g ids t ∧
         (∀ j, slowByte t j = slowByte s1 j) ∧ ∀ j x, lmByte t j x = lmByte s1 j x))

/-- A request went back to its address stream: of the requests of the copy engine, those against its bank group and those
against any other keep their order, it stands behind all of the others and ahead of its own bank group's later ones, and
nothing else of the state has changed (R182). -/
def Sys2Proof.Machine.Requeued (s : State) (l : Nat) (r : SlotReq) (t : State) : Prop :=
  let own := fun x => decide (reqGroup s (tileAt s l) x = reqGroup s (tileAt s l) r)
  t = { s with tiles := t.tiles } ∧ (∀ j, j ≠ l → mget t.tiles j = mget s.tiles j) ∧
    tileAt t l = { tileAt s l with order := (tileAt t l).order } ∧
    (tileAt t l).order.filter own = (requestOrder (tileAt s l)).filter own ∧
    (tileAt t l).order.filter (fun x => !own x) = (requestOrder (tileAt s l)).filter (fun x => !own x) ∧
    ∃ pre post, (tileAt t l).order = pre ++ r :: post ∧ ∀ x ∈ post, own x = true

/-- STACK_RETRY of a request that holds a slot, a class 0x9 access's or a copy's: it goes back to its address stream, ahead
of the later requests to its bank group and of nothing else, and nothing else changes; the read of a gather's index goes
back to wait for a slot (R182). INSTRUCTION_FETCH of a group that may run: a line in the instruction cache serves it;
where its next instruction's address translates to readable code, the line is then in the instruction cache and no memory,
register or path has changed; where it does not, the group freezes with the cause (R151, R155).
Where a clause touches what the spec leaves open, the model's choice is that of logs 7, 64. -/
def Obligations.StackAndFetchServeTheTile : Prop :=
  (∀ (l serial index : Nat) (s : State),
     (∀ a, (tileAt s l).accesses.find? (fun x => x.serial = serial) = some a → isLocal s a.target = true →
       holdsSlot s l (.access serial) = true → ∃ t, exec (.stackRetry l ⟨serial, index⟩) s = .next t ∧ Requeued s l (.access serial) t) ∧
     (∀ tag st, (tileAt s l).accesses.find? (fun x => x.serial = serial) = none →
       (tileAt s l).streams.find? (fun x => x.2.serial = serial) = some (tag, st) →
       (st.kind = .copy → ∀ b, st.target = some b → isLocal s b = true → st.inflight = [] → holdsSlot s l (.copy serial) = true →
         ∃ t, exec (.stackRetry l ⟨serial, index⟩) s = .next t ∧ Requeued s l (.copy serial) t) ∧
       (st.kind = .gather → ∀ b,
         (mget st.routes index = some (.home b) → exec (.stackRetry l ⟨serial, index⟩) s =
           .next (s.setStream l tag { st with routes := mset st.routes index (.retryHome b) })) ∧
         (∀ k, mget st.routes index = some (.pool k b) → exec (.stackRetry l ⟨serial, index⟩) s =
           .next (s.setStream l tag { st with routes := mset st.routes index (.retryPool k b) }))))) ∧
  (∀ (l slot gi e : Nat) (ecc : Ecc) (s : State) (c : Ctx),
     groupCtx s { tile := l, slot := slot, group := gi, port := 0, elapsed := e } = some c →
     let va := c.block.launch.params.entry + c.path.pc
     let x := Instr.instructionFetch l slot gi e ecc
     ((mget c.tile.icache (va / 256)).isSome = true → exec x s = .next c.s) ∧
     (mget c.tile.icache (va / 256) = none →
       (∀ b, Reaches c.s (regionOf c.l) c.tenant .x va b → dpaResetting c.s (boardDpa b) = false →
         dpaRetraining c.s (boardDpa b) = false → hostBias c.s (boardDpa b) = false →
         dpaBad (c.s.fastEcc ecc) (boardDpa b) 8 = false →
         dpaBad (c.s.fastEcc ecc) (boardDpa b / 256 * 256) 256 = false →
         ∃ t, exec x s = .next t ∧
           mget (tileAt t c.l).icache (va / 256) = some (boardDpa b / 256 * 256, dpaBytes c.s (boardDpa b / 256 * 256) 256) ∧
           tileAt t c.l = { c.tile with icache := (tileAt t c.l).icache } ∧ SameMemory c.s t ∧ t.tenants = c.s.tenants) ∧
       (∀ s1 cause, va < 2 ^ 48 → c.s.translate (regionOf c.l) c.tenant va .x = (s1, .fail cause) →
         ∃ t, exec x s = .next t ∧ FrozeGroup { c with s := s1 } cause va t) ∧
       (2 ^ 48 ≤ va → ∃ t, exec x s = .next t ∧ FrozeGroup c 0x20 va t)))

/-! ### The matrix array -/

/-- Value k (0–31) of thread n's row of a 32 × 32 FP16 block in local memory, or of its column when transposed (R61). -/
def Sys2Proof.Machine.blockValue (s : State) (l off stride : Nat) (trans : Bool) (n k : Nat) : Nat :=
  let a := if trans then off + k * stride + 2 * n else off + n * stride + 2 * k
  (lmByte s l a).toNat + 2 ^ 8 * (lmByte s l (a + 1)).toNat

/-- FRAG.LD and FRAG.ST complete for a converged group in the small configuration whose fragment stays in the window:
FRAG.LD fills the 16 registers of every thread, two values a register with the low half first; FRAG.ST puts them back in the same
layout, and no other byte of memory changes (R53, R61). A group that is not converged freezes with DIVERGENT_MATRIX (0x01). -/
def Obligations.FragmentsMoveWholeBlocks : Prop :=
  ∀ (i : Issue) (f : Fields) (ecc : Ecc) (s : State) (c0 c : Ctx), ctxOf s i = some c0 → c = c0.ecc ecc →
    let p := c.block.launch.params
    let off := (readU c.group f.srcA).toNat
    let st := (readU c.group f.srcB).toNat
    let u : Use := { dst := 5, a := 2, b := 2, mod := 1 }
    let tr := f.mod.getLsbD 0
    p.large = false → f.dst.toNat % 8 = 0 → fieldsIllegal u f = false → fieldsOutOfBounds u p.regs f = false → p.regs ≤ 255 →
    (c.converged f = true → st % 64 = 0 → inWindow p off (31 * st + 64) = true →
      ((∀ r, r < 32 → readBad c.tile.lmBad (off + r * st) 64 = false) →
        ∃ t g, exec (.fragLd i f ecc) s = .next t ∧ groupIn t c.l c.slot c.gi = some g ∧
          (∀ n j, n < 32 → j < 16 → (readReg g (f.dst + BitVec.ofNat 8 j) n).toNat =
            blockValue c.s c.l off st tr n (2 * j) + 2 ^ 16 * blockValue c.s c.l off st tr n (2 * j + 1)) ∧
          (∀ x n, n < 32 → (x.toNat < f.dst.toNat ∨ f.dst.toNat + 16 ≤ x.toNat) → readReg g x n = readReg c.group x n) ∧
          SameRest c.group g ∧ Advanced c g ∧ SameMemory c.s t) ∧
      ((∀ r, r < 32 → readBad c.tile.lmBad (off + r * st) 64 = false) →
        ∃ t g, exec (.fragSt i f ecc) s = .next t ∧ groupIn t c.l c.slot c.gi = some g ∧
          (0 < st → ∀ n k, n < 32 → k < 32 → blockValue t c.l off st tr n k = fragElement c.group f.dst n k) ∧
          (∀ a, (∀ r, r < 32 → ¬ (off + r * st ≤ a ∧ a < off + r * st + 64)) → lmByte t c.l a = lmByte c.s c.l a) ∧
          (∀ l a, l ≠ c.l → lmByte t l a = lmByte c.s l a) ∧ t.mem = c.s.mem ∧
          g.regs = c.group.regs ∧ SameRest c.group g ∧ Advanced c g)) ∧
    (c.converged f = false → (∃ t, exec (.fragLd i f ecc) s = .next t ∧ FrozeGroup c 0x01 0 t) ∧
      ∃ t, exec (.fragSt i f ecc) s = .next t ∧ FrozeGroup c 0x01 0 t)

/-- An array operation stands in the scoreboard: its number is the tile's next, its path goes on, no accumulator and
no byte of memory has changed (R68, R76). -/
def Sys2Proof.Machine.Started (c : Ctx) (slot : Nat → Prop) (kind : ArrayKind → Prop) (t : State) : Prop :=
  ∃ g o, groupIn t c.l c.slot c.gi = some g ∧ Advanced c g ∧ g.regs = c.group.regs ∧ g.wait = c.group.wait ∧
    o ∈ (tileAt t c.l).ops ∧ o.serial = c.tile.serial ∧ slot o.slot ∧ kind o.kind ∧
    (tileAt t c.l).serial = c.tile.serial + 1 ∧ (tileAt t c.l).acc = c.tile.acc ∧ SameMemory c.s t

/-- MMA.REG, MMA.DESC, ACC.DRAIN and ACC.FILL start: where their fields, extents and units pass the checks, the
operation is in the scoreboard with what it was given (R61, R73, R75, R83, R89). A unit outside the block's `acc_mask`
freezes the group with FOREIGN_TILE_SLOT (0x03), a d register without a descriptor with DESCRIPTOR_MALFORMED (0x06)
(R56, R83). ACC.WAIT completes: with no operation of its units in the scoreboard the group goes on, otherwise it waits for those
it finds there that are not complete, and for nothing issued later (R78). A full quadrant queue holds MMA.REG back (R89).
Where a clause touches what the spec leaves open, the model's choice is that of log 21. -/
def Obligations.ArrayOperationsStart : Prop :=
  (∀ (i : Issue) (f : Fields) (s : State) (c : Ctx), ctxOf s i = some c → guardAlways f = true → PortInTurn c →
     let p := c.block.launch.params
     let q := f.mod.toNat % 4
     let sl := f.mod.toNat / 4 % 2
     let u := if p.large then sl else 2 * q + sl
     let off := (readU c.group f.srcA).toNat
     let half := f.mod.toNat / 16 % 16 = 1
     let pair := p.large && decide (c.tile.pairSlot = some u)
     ((p.large = false → f.srcA.toNat % 8 = 0 → f.srcB.toNat % 8 = 0 → fieldsIllegal { a := 5, b := 5, mod := 0xF } f = false →
       fieldsOutOfBounds { a := 5, b := 5, mod := 0xF } p.regs f = false →
       (p.accMask.getLsbD (2 * q + sl) = true → quadrantFull c.tile q = false →
         ∃ t, exec (.mmaReg i f) s = .next t ∧ Started c (· = c.slot) (· = .mmaReg q sl (f.mod.getLsbD 3)
           (fragmentOf c.group f.srcA) (fragmentOf c.group f.srcB)) t) ∧
       (p.accMask.getLsbD (2 * q + sl) = true → quadrantFull c.tile q = true → exec (.mmaReg i f) s = .next s) ∧
       (p.accMask.getLsbD (2 * q + sl) = false → ∃ t, exec (.mmaReg i f) s = .next t ∧ FrozeGroup c 0x03 0 t))) ∧
     (p.large = true → fieldsIllegal { a := 4, mod := 3 } f = false → fieldsOutOfBounds { a := 4, mod := 3 } p.regs f = false →
       (∀ d, mget c.block.dregs f.srcA.toNat = some d → arrayDescBad d (personalityOf c.s c.l) = false →
         arrayExtentBad p d = false → (descUnits d (f.mod.toNat % 2)).any (fun u => !p.accMask.getLsbD u) = false →
         ∃ t, exec (.mmaDesc i f) s = .next t ∧ Started c (· = c.slot)
           (· = .mmaDesc (f.mod.toNat % 2) (f.mod.getLsbD 1) d []) t) ∧
       (mget c.block.dregs f.srcA.toNat = none → ∃ t, exec (.mmaDesc i f) s = .next t ∧ FrozeGroup c 0x06 0 t)) ∧
     (fieldsIllegal { a := 2, mod := 0xFF } f = false → fieldsOutOfBounds { a := 2, mod := 0xFF } p.regs f = false →
       (p.large = true → q = 0) → f.mod.toNat / 16 % 16 ≤ 1 → off % 16 = 0 →
       inWindow p off ((if p.large then 64 else 32) * ((if p.large then 64 else 32) * (if half then 2 else 4)) *
         (if pair && !decide half then 2 else 1)) = true → p.accMask.getLsbD u = true →
       ∃ t, exec (.accDrain i f) s = .next t ∧ Started c (· = c.slot)
         (· = .drain u off (f.mod.getLsbD 3) (decide half) pair) t) ∧
     (fieldsIllegal { a := 2, mod := 7 } f = false → fieldsOutOfBounds { a := 2, mod := 7 } p.regs f = false →
       (p.large = true → q = 0) → off % 16 = 0 →
       inWindow p off ((if p.large then 64 else 32) * ((if p.large then 64 else 32) * 4)) = true → p.accMask.getLsbD u = true →
       ∃ t, exec (.accFill i f) s = .next t ∧ Started c (· = c.slot) (· = .fill u off) t)) ∧
  (∀ (i : Issue) (f : Fields) (s : State) (c : Ctx), ctxOf s i = some c → guardAlways f = true → PortInTurn c →
     fieldsIllegal { mod := 0xFF } f = false → f.mod.setWidth 8 &&& ~~~c.block.launch.params.accMask = (0 : BitVec 8) →
     (c.block.launch.params.large = true → f.mod.setWidth 8 &&& 0xFC = (0 : BitVec 8)) →
     let held := c.tile.ops.filter fun o => !o.done && (opUnits o).any fun u => f.mod.getLsbD u && decide (u < 8)
     ∃ t g, exec (.accWait i f) s = .next t ∧ groupIn t c.l c.slot c.gi = some g ∧ Advanced c g ∧ g.regs = c.group.regs ∧
       g.wait = (if held = [] then .none else .arrayOps (held.map ArrayOp.serial)) ∧ OnlyGroup c t ∧ SameMemory c.s t)

/-- Value (i, k) of a fragment of 32 rows of 32. -/
def Sys2Proof.Machine.fragNum (l : List (BitVec 16)) (i k : Nat) : Num := decodeNum fp16 (l.getD (32 * i + k) 0).toNat

/-- The last accumulation of an MMA.REG that is due and whose earlier operations let it go: every cell of its quadrant
slot holds the sum of its
32 products, accumulated in ascending k by the array's arithmetic from the slot's value or from zero; every other
accumulator cell, all of local memory and the tile's registers stay, and the operation has left (R67, R89). The last accumulation of a plain MMA.DESC on narrow operands that nothing has written since it issued: every cell of
its slot holds the sum of its `k_depth` scaled products, A and B read at the offsets of R85 and rows and columns beyond
`m_valid` and `n_valid` fed zeros; the other slot and all memory stay (R67, R85). A shift cycle of a drain that holds its
values writes its row at the destination: FP32 as they were, or FP16 rounded to nearest (a gradient drain
stochastically); a standing pair writes its sums and then its compensations, or their sum in FP16; every other byte of
local memory stays (R73, R98). DRAIN_COMPLETE of a drain whose last row is written: the operation is complete, groups that
waited for it alone go on, and no byte and no accumulator changes (R73, R78, R90). A shift cycle of a fill takes its row;
FILL_COMPLETE of one whose rows are in and whose earlier operations have copied:
every cell of the unit holds its word, every other cell and every byte of memory stays, NONFINITE is
raised where a word is infinite or NaN, and the operation has left (R75, R80). A cycle in which the array freezes is
counted and moves nothing of it (R69, R81). The freeze cycles that a completion row reports come before its other cycles.
Where a clause touches what the spec leaves open, the model's choice is that of logs 3, 10, 22. -/
def Obligations.ArrayOperationsFinish : Prop :=
  ((∀ (l serial e ff df tenant q sl : Nat) (zf : Bool) (a b : List (BitVec 16)) (ecc : Ecc) (s s1 : State) (o : ArrayOp),
      s1 = (arrayTicks s l ff df e).redraw → ownerOf s1 l = some tenant →
      (tileAt s1 l).ops.find? (fun x => x.serial = serial) = some o → o.kind = .mmaReg q sl zf a b →
      mayAccumulate (tileAt s1 l).ops o = true → 94 ≤ o.run → q < 4 → sl < 2 →
      ∃ t, exec (.accumulationComplete l serial e ff df ecc) s = .next t ∧
        (∀ i j, i < 32 → j < 32 → (mgetD (tileAt t l).acc (4096 * sl + 64 * (32 * (q / 2) + i) + (32 * (q % 2) + j)) 0).toNat =
          ((List.range 32).foldl (fun x k => (arrayMac x (fragNum a i k) (fragNum b j k) 0 false).bits)
            (if zf then 0 else (mgetD (tileAt s1 l).acc (4096 * sl + 64 * (32 * (q / 2) + i) + (32 * (q % 2) + j)) 0).toNat)) % 2 ^ 32) ∧
        (∀ x, (∀ i j, i < 32 → j < 32 → x ≠ 4096 * sl + 64 * (32 * (q / 2) + i) + (32 * (q % 2) + j)) →
          mgetD (tileAt t l).acc x 0 = mgetD (tileAt s1 l).acc x 0) ∧
        (∀ x ∈ (tileAt t l).ops, x.serial ≠ serial) ∧ SameMemory s1 t ∧ t.tenants = s1.tenants) ∧
   (∀ (l serial e ff df tenant sl : Nat) (zf : Bool) (d : List Byte) (s s1 : State) (o : ArrayOp),
      s1 = (arrayTicks s l ff df e).redraw → ownerOf s1 l = some tenant →
      (tileAt s1 l).ops.find? (fun x => x.serial = serial) = some o →
      o.kind = .mmaDesc sl zf d [] → (tileAt s1 l).lmBad = [] → accumulationDue o = true →
      mayAccumulate (tileAt s1 l).ops o = true → sl < 2 → dbits d 3 0 = 0 → dbits d 7 4 ≠ 0 →
      let t1 := tileAt s1 l
      let ea := elemBytes (dbits d 7 4)
      let eb := elemBytes (dbits d 11 8)
      let fa := fun i k => decodeNum (fmtOf (dbits d 7 4)) (leNat (readBytes t1.lm
        (if bit (leNat d) 12 then dbits d 83 64 + k * dbits d 147 128 + i * ea else dbits d 83 64 + i * dbits d 147 128 + k * ea) ea))
      let fb := fun k j => decodeNum (fmtOf (dbits d 11 8)) (leNat (readBytes t1.lm
        (if bit (leNat d) 13 then dbits d 115 96 + j * dbits d 179 160 + k * eb else dbits d 115 96 + k * dbits d 179 160 + j * eb) eb))
      ∃ t, exec (.accumulationComplete l serial e ff df { bad := [], corrected := [] }) s = .next t ∧
        (∀ i j, i < 64 → j < 64 → (mgetD (tileAt t l).acc (4096 * sl + 64 * i + j) 0).toNat =
          ((List.range (dbits d 60 48)).foldl (fun x k => (arrayMac x
              (if i < dbits d 38 32 then fa i k else .fin false 0 0) (if j < dbits d 46 40 then fb k j else .fin false 0 0)
              (signed 8 (dbits d 23 16) + signed 8 (dbits d 31 24)) false).bits)
            (if zf then 0 else (mgetD t1.acc (4096 * sl + 64 * i + j) 0).toNat)) % 2 ^ 32) ∧
        (∀ x, x < 4096 * sl ∨ 4096 * sl + 4096 ≤ x → mgetD (tileAt t l).acc x 0 = mgetD t1.acc x 0) ∧
        (∀ x ∈ (tileAt t l).ops, x.serial ≠ serial) ∧ SameMemory s1 t)) ∧
  ((∀ (l tenant u dst r : Nat) (gr half pair : Bool) (s : State) (o : ArrayOp), o.kind = .drain u dst gr half pair →
      o.copied = true → (pair = true → o.large = true) → dst % 16 = 0 → o.run < (if pair && !half then 128 else 64) →
      let side := if o.large then 64 else 32
      let row0 := if o.large then 0 else 32 * (u / 4)
      let es := if half then 2 else 4
      let a0 := dst + (if 64 ≤ o.run then 16384 else 0) + r * (side * es)
      let v := fun c => (mgetD o.held (64 * r + c) 0).toNat
      let v2 := fun c => (mgetD o.held2 (64 * r + c) 0).toNat
      let t := advanceOp l tenant (tileAt s l).ops s o
      let word := fun a n => leNat ((List.range n).map fun k => lmByte t l (a + k))
      r < side → row0 + r = 63 - o.run % 64 →
        (∀ c, c < side →
          (half = false → word (a0 + c * 4) 4 = if 64 ≤ o.run then v2 c else v c) ∧
          (half = true → gr = false → word (a0 + c * 2) 2 =
            (convRn fp16 (decodeNum fp32 (if pair then (arrayAdd (v c) (v2 c)).bits else v c))).bits % 2 ^ 16)) ∧
        (∀ a, (a < a0 ∨ a0 + side * es ≤ a) → lmByte t l a = lmByte s l a) ∧ (∀ j a, j ≠ l → lmByte t j a = lmByte s j a) ∧
        t.mem = s.mem ∧ (tileAt t l).acc = (tileAt s l).acc ∧ t.tenants = s.tenants) ∧
   (∀ (l serial e df u dst : Nat) (gr half pair : Bool) (s s1 : State) (o : ArrayOp),
      s1 = (arrayTicks s l 0 df e).redraw → (tileAt s1 l).ops.find? (fun x => x.serial = serial) = some o →
      (∀ x ∈ (tileAt s1 l).ops, x.serial = serial → x = o) → o.kind = .drain u dst gr half pair → o.copied = true →
      drainCycles o ≤ o.run →
      ∃ t, exec (.drainComplete l serial e df) s = .next t ∧ SameMemory s1 t ∧ (tileAt t l).acc = (tileAt s1 l).acc ∧
        (∀ x ∈ (tileAt t l).ops, x.serial = serial → x.done = true ∧ o.run < chainCycles o) ∧
        (∀ slot gi g, groupIn s1 l slot gi = some g → g.wait = .arrayOps [serial] →
          groupIn t l slot gi = some { g with wait := .none }) ∧ t.tenants = s1.tenants) ∧
   (∀ (l tenant u src r : Nat) (s : State) (o : ArrayOp), o ∈ (tileAt s l).ops → o.kind = .fill u src → o.run < 64 →
      (∀ x ∈ (tileAt s l).ops, x.serial = o.serial → x = o) →
      chainsFree (tileAt s l).ops o = true → (tileAt s l).lmBad = [] →
      let side := if o.large then 64 else 32
      r < side → (if o.large then 0 else 32 * (u / 4)) + r = o.run →
      ∃ x ∈ (tileAt (advanceOp l tenant (tileAt s l).ops s o) l).ops, x.serial = o.serial ∧ x.run = o.run + 1 ∧
        (∀ c, c < side → (mgetD x.held (64 * r + c) 0).toNat =
          leNat ((List.range 4).map fun k => lmByte s l (src + r * (side * 4) + 4 * c + k))) ∧
        ∀ k, k < 64 * r ∨ 64 * r + side ≤ k → mgetD x.held k 0 = mgetD o.held k 0) ∧
   (∀ (l serial e df tenant u src : Nat) (s s1 : State) (o : ArrayOp),
      s1 = (arrayTicks s l 0 df e).redraw → ownerOf s1 l = some tenant →
      (tileAt s1 l).ops.find? (fun x => x.serial = serial) = some o → o.kind = .fill u src → 64 ≤ o.run →
      mayAccumulate (tileAt s1 l).ops o = true → u < 8 → (o.large = true → u < 2) →
      let side := if o.large then 64 else 32
      let cell := fun r c => 4096 * (u % 2) + 64 * ((if o.large then 0 else 32 * (u / 4)) + r) +
        ((if o.large then 0 else 32 * (u / 2 % 2)) + c)
      let w := fun r c => mgetD o.held (64 * r + c) 0
      ∃ t, exec (.fillComplete l serial e df { bad := [], corrected := [] }) s = .next t ∧
        (∀ r c, r < side → c < side → mgetD (tileAt t l).acc (cell r c) 0 = w r c) ∧
        (∀ x, (∀ r c, r < side → c < side → x ≠ cell r c) → mgetD (tileAt t l).acc x 0 = mgetD (tileAt s1 l).acc x 0) ∧
        (∀ x ∈ (tileAt t l).ops, x.serial ≠ serial) ∧ SameMemory s1 t ∧
        ((∃ r c, r < side ∧ c < side ∧ (decodeNum fp32 (w r c).toNat).isFin = false) → (tileAt t l).nonfinite = true)) ∧
   (∀ (l tenant : Nat) (s : State),
      let t := arrayCycle s l tenant
      ((tileAt t l).feederFreezes = (tileAt s l).feederFreezes ∧ (tileAt t l).drainFreezes = (tileAt s l).drainFreezes) ∨
      ∃ x y, x ≤ 1 ∧ y ≤ 1 ∧ 1 ≤ x + y ∧
        t = s.setTile l { tileAt s l with feederFreezes := satAdd 32 (tileAt s l).feederFreezes x,
                                          drainFreezes := satAdd 32 (tileAt s l).drainFreezes y }))

/-! ### Asynchronous movement, fences and blocks -/

/-- A tag has been taken: the lowest free one, told to the group in `dst`, held by a stream with this descriptor, and no
byte of memory has changed (R61, R162). -/
def Sys2Proof.Machine.TookTag (c : Ctx) (f : Fields) (kind : StreamKind) (d : List Byte) (t : State) : Prop :=
  ∃ tag st g, tag < 64 ∧ mget c.tile.streams tag = none ∧ (∀ k, k < tag → mget c.tile.streams k ≠ none) ∧
    streamAt t c.l tag = some st ∧ st.kind = kind ∧ st.desc = d ∧ st.slot = c.slot ∧ st.group = c.gi ∧
    st.serial = c.tile.serial ∧ groupIn t c.l c.slot c.gi = some g ∧ readU g f.dst = BitVec.ofNat 32 tag ∧
    (∀ x, x ≠ f.dst → readU g x = readU c.group x) ∧ g.regs = c.group.regs ∧ Advanced c g ∧
    (∀ k, k ≠ tag → mget (tileAt t c.l).streams k = mget c.tile.streams k) ∧ SameMemory c.s t

/-- COPY.ISSUE, GATHER.ISSUE and XCHG.ISSUE complete where a tag is free and their descriptor, read from local memory,
passes the checks: the stream holds the lowest free tag, and the group has it (R61, R162, R164, R195, R278). A copy that its
set's poison refuses retires at once and is counted (R141). A descriptor outside the window freezes the group with
LOCAL_MEMORY_BOUNDS (0x07), one that breaks its rules with DESCRIPTOR_MALFORMED (0x06). COPY.WAIT and the three fences complete: the group goes on at once where nothing it names is under way, otherwise
it waits for exactly that: FENCE.LOCAL and FENCE.REGION for its stores to this module's slot, FENCE.BOARD for all its
stores (R61, R174). FENCE.REGION and FENCE.BOARD that wait for nothing empty the L1.
Where a clause touches what the spec leaves open, the model's choice is that of log 10. -/
def Obligations.StreamsStartAndGroupsWait : Prop :=
  (∀ (i : Issue) (f : Fields) (ecc : Ecc) (s : State) (c0 c : Ctx), ctxOf s i = some c0 → c = c0.ecc ecc →
     guardAlways f = true → fieldsIllegal { dst := 2, a := 2 } f = false →
     fieldsOutOfBounds { dst := 2, a := 2 } c.block.launch.params.regs f = false →
     let p := c.block.launch.params
     let a := (readU c.group f.srcA).toNat
     let d := (List.range 64).map fun k => lmByte c.s c.l (a + k)
     let td := tableDesc c.s c.tenant (dbits d 11 4)
     (inWindow p a 64 = false → ∀ x, x = Instr.copyIssue i f ecc ∨ x = .gatherIssue i f ecc ∨ x = .xchgIssue i f ecc →
       ∃ t, exec x s = .next t ∧ FrozeGroup c 0x07 a t) ∧
     (inWindow p a 64 = true → readBad c.tile.lmBad a 64 = false → (∃ k, k < 64 ∧ mget c.tile.streams k = none) →
       (copyDescBad d c.l (tenantAt c.s c.tenant).watch.quota = false → copyExtentBad p d c.l = false →
         (cDstSpace d = 2 → ∀ m ∈ multicastTiles c.l d, tilePresent c.s m = true ∧ ownerOf c.s m = some c.tenant) →
         (copyRefused c.s c.tenant d = false → ∃ t, exec (.copyIssue i f ecc) s = .next t ∧ TookTag c f .copy d t) ∧
         (copyRefused c.s c.tenant d = true → ∃ t, exec (.copyIssue i f ecc) s = .next t ∧ SameMemory c.s t ∧
           (tileAt t c.l).serial = c.tile.serial + 1 ∧ (∀ k, mget (tileAt t c.l).streams k = mget c.tile.streams k) ∧
           (tenantAt t c.tenant).watch.refusedStores = satAdd 32 (tenantAt c.s c.tenant).watch.refusedStores 1)) ∧
       (gatherDescBad d td = false → gatherExtentBad p d td = false →
         ∃ t, exec (.gatherIssue i f ecc) s = .next t ∧ TookTag c f .gather d t) ∧
       (exchangeDescBad c.s d = false → (xSrcTenant d = false → inWindow p (dbits d 111 64) (xLen d) = true) →
         ∃ t, exec (.xchgIssue i f ecc) s = .next t ∧ TookTag c f .exchange d t) ∧
       (gatherDescBad d td = true → ∃ t, exec (.gatherIssue i f ecc) s = .next t ∧ FrozeGroup c 0x06 0 t) ∧
       (exchangeDescBad c.s d = true → ∃ t, exec (.xchgIssue i f ecc) s = .next t ∧ FrozeGroup c 0x06 0 t) ∧
       (copyDescBad d c.l (tenantAt c.s c.tenant).watch.quota = true →
         ∃ t, exec (.copyIssue i f ecc) s = .next t ∧ FrozeGroup c 0x06 0 t))) ∧
  (∀ (i : Issue) (f : Fields) (s : State) (c : Ctx), ctxOf s i = some c → guardAlways f = true →
     let stores := fun b : Bool => c.tile.accesses.filter fun a =>
       decide (a.slot = c.slot) && decide (a.group = c.gi) && !a.orphan && decide (a.kind = .store) && (b || isLocal c.s a.target)
     (fieldsIllegal { a := 2, mod := 1 } f = false → fieldsOutOfBounds { a := 2, mod := 1 } c.block.launch.params.regs f = false →
       let mine := c.tile.streams.filter fun e =>
         decide (e.2.slot = c.slot) && (f.mod.getLsbD 0 || decide (e.1 = (readU c.group f.srcA).toNat))
       ∃ t g, exec (.copyWait i f) s = .next t ∧ groupIn t c.l c.slot c.gi = some g ∧ Advanced c g ∧ g.regs = c.group.regs ∧
         g.wait = (if mine = [] then .none else .tags (mine.map fun e => e.2.serial)) ∧ OnlyGroup c t ∧ SameMemory c.s t) ∧
     (fieldsIllegal {} f = false →
       (∃ t g, exec (.fenceLocal i f) s = .next t ∧ groupIn t c.l c.slot c.gi = some g ∧ Advanced c g ∧
         g.wait = (if stores false = [] then .none else .fence ((stores false).map Access.serial) false) ∧
         OnlyGroup c t ∧ SameMemory c.s t) ∧
       (∀ b : Bool, ∃ t g, exec (if b then .fenceBoard i f else .fenceRegion i f) s = .next t ∧
         groupIn t c.l c.slot c.gi = some g ∧ Advanced c g ∧ g.regs = c.group.regs ∧ SameMemory c.s t ∧
         g.wait = (if stores b = [] then .none else .fence ((stores b).map Access.serial) true) ∧
         (tileAt t c.l).l1 = (if stores b = [] then [] else c.tile.l1))))

/-- One request of a copy: with source bytes still to fetch from local memory it holds them after the ones it has; with a
unit converted it writes the next piece at its place in local memory, every other byte as before; after the last unit
a copy without flag and report retires its tag (R162, R165, R166). The next packet of an exchange from local memory: it waits in the outbox with the peer, the address, the key and the
bytes of R279, and the exchange counts it in flight.
Where a clause touches what the spec leaves open, the model's choice is that of log 23. -/
def Obligations.RequestsMoveBytes : Prop :=
  (∀ (l tag e tenant : Nat) (s s1 : State) (st : Stream),
     s1 = (tick s l e).redraw → ownerOf s1 l = some tenant → tileResetting s1 l = false → streamAt s1 l tag = some st →
     st.kind = .copy → holdsSlot s1 l (.copy st.serial) = true → streamFrozen s1 l tenant tag st = false → st.phase = .moving → earlierDone (tileAt s1 l) st = true → st.inflight = [] →
     cSound st.desc < 4 → (tileAt s1 l).lmBad = [] → st.multicastLost = [] →
     let d := st.desc
     let u := copyUnit d st.next
     let have_ := fetched st
     let x := Instr.copyRequestComplete l tag e { bad := [], corrected := [] }
     (st.next < copyTotal d → st.outReady = false → cSrcTenant d = false → mget st.ahead (u.src + have_.length) = none → ∀ need, sourceNeed d u have_ = some need →
       have_.length < need → ∃ t, exec x s = .next t ∧
         (let n := min (need - have_.length) (1024 - (u.src + have_.length) % 1024)
          ∃ st', streamAt t l tag = some st' ∧
            st' = { st with got := st'.got, ahead := st'.ahead, target := st'.target } ∧
           mget st'.got have_.length = some ((List.range n).map fun k => lmByte s1 l (u.src + have_.length + k))) ∧
         SameMemory s1 t) ∧
     (st.next < copyTotal d → st.outReady = true → cDstSpace d = 0 → st.wrote < st.out.length →
       ∃ t, exec x s = .next t ∧
         (let a := u.dst + st.wrote
          let n := min (st.out.length - st.wrote) (1024 - a % 1024)
          (∀ k, k < n → lmByte t l (a + k) = st.out.getD (st.wrote + k) 0) ∧
          (∀ b, b < a ∨ a + n ≤ b → lmByte t l b = lmByte s1 l b) ∧ (∀ j b, j ≠ l → lmByte t j b = lmByte s1 j b) ∧
          ∃ st', streamAt t l tag = some st' ∧
            (st.wrote + n < st.out.length → st' = { st with wrote := st.wrote + n, target := st'.target }) ∧
            (st.out.length ≤ st.wrote + n → st'.next = st.next + u.step ∧ st'.outReady = false ∧ st'.wrote = 0)) ∧
         t.mem.fast = s1.mem.fast ∧ t.mem.slow = s1.mem.slow) ∧
     (copyTotal d ≤ st.next → cFlagEn d = false → cSound d = 0 → ∃ t, exec x s = .next t ∧
       streamAt t l tag = none ∧ (∀ k, k ≠ tag → streamAt t l k = streamAt s1 l k) ∧ SameMemory s1 t)) ∧
  (∀ (s : State) (l tenant tag : Nat) (st : Stream), streamAt s l tag = some st → st.kind = .exchange →
     streamFrozen s l tenant tag st = false → earlierDone (tileAt s l) st = true → st.next < xParts st.desc →
     xSrcTenant st.desc = false → (tileAt s l).lmBad = [] →
     ∃ t p, pumpExchangeOnce s l tenant tag = some t ∧ t.links.outbox = s.links.outbox ++ [p] ∧
       p.ptype = 5 ∧ p.src = s.links.nodeId ∧ p.dst = xNode s st.desc ∧ p.tenant = tenant ∧
       p.key = (tenantAt s tenant).exchangeKey ∧ p.tag = s.links.nextTag % 2 ^ 24 ∧
       p.data = (List.range (min 4096 (xLen st.desc - 4096 * st.next))).map
         (fun k => lmByte s l (dbits st.desc 111 64 + 4096 * st.next + k)) ∧
       p.addr = BitVec.ofNat 48 (dbits st.desc 159 112 + 4096 * st.next) ∧
       streamAt t l tag = some { st with next := st.next + 1, inflight := st.inflight ++ [st.next] } ∧ SameMemory s t)

/-- BLOCK_LAUNCH of the tile's oldest waiting block that fits, and BLOCK_END of a block whose groups have ended and whose
work has retired: the block stands in the lowest free slot with its groups at their start, or its slot is free and its
LAUNCH counts complete (R33, R34, R36, R38, R39, R315). PERSONALITY_RELOAD_COMPLETE ends the reload and nothing else (R92).
Where a clause touches what the spec leaves open, the model's choice is that of log 29. -/
def Obligations.BlocksComeAndGo : Prop :=
  ∀ (l slot e : Nat) (s s1 : State), s1 = (tick s l e).redraw →
    let t1 := tileAt s1 l
    (∀ la rest, t1.waiting = la :: rest → inService s1 = true → t1.reloading = false → tileResetting s1 l = false →
      ownerOf s1 l = some la.tenant → fitsTile t1 la.params = true → microcodeJob s1 = false →
      ∃ t k b, exec (.blockLaunch l e) s = .next t ∧ k < 8 ∧ mget t1.blocks k = none ∧ (∀ j, j < k → mget t1.blocks j ≠ none) ∧
        tileAt t l = { t1 with waiting := rest, blocks := mset t1.blocks k b } ∧ b.groups.length = la.params.groups ∧
        (∀ g ∈ b.groups, g.live = 0xFFFFFFFF ∧ g.paths = [{ pc := 0, mask := 0xFFFFFFFF }] ∧ g.regs = [] ∧ g.preds = [] ∧
          g.parked = [] ∧ g.wait = .none ∧ g.ended = false ∧
          (∀ x : Byte, readU g x = if x.toNat < 8 then la.params.uniformInit.getD x.toNat 0 else 0)) ∧
        b.dregs = [] ∧ b.launch.params.watchdog =
          (if la.params.watchdog = 0 then s1.globals.barrierDefault else la.params.watchdog) ∧
        t = { s1 with tiles := t.tiles } ∧ ∀ j, j ≠ l → mget t.tiles j = mget s1.tiles j) ∧
    (∀ b, mget t1.blocks slot = some b → (∀ g ∈ b.groups, g.ended = true) → asyncDone t1 slot = true →
      let la := b.launch
      ∃ t, exec (.blockEnd l slot e) s = .next t ∧ mget (tileAt t l).blocks slot = none ∧
        (∀ k, k ≠ slot → mget (tileAt t l).blocks k = mget t1.blocks k) ∧
        (tileAt t l).acc = t1.acc ∧ (tileAt t l).lm = t1.lm ∧
        ((queueAt s1 la.tenant la.queue).epoch = la.epoch → queueInUse s1 la.tenant la.queue = true →
          queueAt t la.tenant la.queue = (queueAt s1 la.tenant la.queue).finish la.seq ∧
          (∀ cause, b.discard = some cause → t.mem.fast = (s1.writeDpa (recordAddress s1 la.tenant la.queue la.seq)
            (recordBytes la.seq la.queue 1 cause l 0)).1.mem.fast) ∧
          (b.discard = none → t.mem.fast = (s1.writeDpa (recordAddress s1 la.tenant la.queue la.seq)
            (recordBytes la.seq la.queue 0 0 0 0)).1.mem.fast))) ∧
    ((tileAt (tick s l e) l).reloading = true →
      exec (.personalityReloadComplete l e) s =
        .next ((tick s l e).setTile l { tileAt (tick s l e) l with reloading := false }))

/-! ### Gathers and the Pool -/

/-- The gather has nothing to write and no fault: writing what is complete changes nothing (R196, R198, R199). -/
def Sys2Proof.Machine.Quiet (st : Stream) : Prop :=
  (∀ k, k < gOutputs st.desc → outputReady st k = false) ∧ st.written.length ≠ gOutputs st.desc ∧ firstFault st = none

/-- GATHER_INDEX_ISSUE of the next index of a gather whose lists are read, whose earlier indices all went on and whose turn
it is: beyond the table it is skipped and counted, or freezes the stream with GATHER_TABLE_BOUNDS; a row of this module's
own is read at home; with the Pool off, a row of another module is asked for over the links; a valid way of the Pool is a
hit, and a miss that may fill takes a way and asks the home (R197, R200, R201, R207). What is complete is then written, and
a gather that has nothing complete and no fault stays as the index left it; acknowledgements that waited for the read
are given (R327). GATHER_ROW_ARRIVAL of a row of this module
whose words are good: the index has the row's bytes and has arrived, and every output that is then whole is written (R196,
R199, R200). A row that cannot be corrected leaves the index with UNCORRECTABLE_DATA, which freezes the stream once every
output before it is written (R185, R197, R198). POOL_FILL_COMPLETE: a fill that was doomed or that the home declined makes
its way invalid; any other makes it valid, most recently used, with the row's bytes in its slot (R207, R209, R211). A way
that is not filling stays.
Where a clause touches what the spec leaves open, the model's choice is that of logs 10, 31, 33, 36, 37. -/
def Obligations.GathersServeTheirIndices : Prop :=
  (∀ (s s1 : State) (l tag tenant : Nat) (st : Stream),
     s1 = s.redraw → ownerOf s1 l = some tenant → tileResetting s1 l = false → streamAt s1 l tag = some st → st.kind = .gather →
     streamFrozen s1 l tenant tag st = false → st.outReady = true → waitingIndices st = [] → firstFault st = none →
     gatherTurn s1 l tag st = true →
     let i := st.next
     let d := st.desc
     let table := dbits d 11 4
     let td := tableDesc s1 tenant table
     let r := gIndex st i
     let x := Instr.gatherIndexIssue l tag { bad := [], corrected := [] }
     let after := fun (route : Route) (counts : List Nat) (more : State → Prop) =>
       ∃ t st', exec x s = .next (settleGather t l tenant tag).settleAcks ∧ streamAt t l tag = some st' ∧ st'.next = i + 1 ∧
         st'.routes = mset st.routes i route ∧ st'.written = st.written ∧ st'.turn = s1.globals.gatherClock ∧ more t ∧
         SameMemory s1 t ∧ (Quiet st' → settleGather t l tenant tag = t) ∧
         (∀ k, k < 8 → (statsAt t tenant table).getD k 0 =
           if k ∈ counts then satAdd 64 ((statsAt s1 tenant table).getD k 0) 1 else (statsAt s1 tenant table).getD k 0)
     (statsAt s1 tenant table).length = 8 →
     (tRows td ≤ r → dbits d 14 14 = 1 → after .skipped [7] fun _ => True) ∧
     (tRows td ≤ r → dbits d 14 14 ≠ 1 → after (.fault 0x24 (dbits d 83 64 + 4 * i)) [] fun _ => True) ∧
     (∀ b, r < tRows td → Reaches s1 (regionOf l) tenant .r (rowAddress td r) b → (∀ e, (i, e) ∉ st.routes) →
       let s3 := s1.setStream l tag { st with next := i + 1, turn := s1.globals.gatherClock }
       rowInFlight s3 (regionOf l) tenant table r = none →
       (isLocal s1 b = true → slotFree s3 (regionOf l) b = true → after (.home b) [6] fun _ => True) ∧
       (isLocal s1 b = false → dbits d 13 12 = 0 → slotFree s3 (regionOf l) b = true →
         after (.remote b) [6] fun t => ∃ p, t.links.outbox = s1.links.outbox ++ [p] ∧ p.ptype = 0 ∧
           p.addr = BitVec.ofNat 48 b ∧ p.aux = BitVec.ofNat 64 (tRowBytes td - 1) ∧ p.tenant = tenant) ∧
       (isLocal s1 b = false → dbits d 13 12 ≠ 0 → tPoolEn td = true → classGroups s1 tenant (tClass td) (dieOf l) ≠ [] →
         let ks := rowWays (classGroups s1 tenant (tClass td) (dieOf l)) table r
         (∀ k, ks.find? (fun k => wayMatches s1 tenant table r k && decide ((wayAt s1 k).state ≠ 3)) = some k →
           (wayAt s1 k).state = 2 → slotFree s3 (regionOf l) (2 ^ 45 * s1.service.boardSlot + slotAddress s1 k) = true →
           after (.pool k b) [0, 1] fun t => (wayAt t k).age = 0) ∧
         (ks.find? (fun k => wayMatches s1 tenant table r k && decide ((wayAt s1 k).state ≠ 3)) = none →
           slotFree s3 (regionOf l) b = true → dbits d 13 12 = 2 → ks.find? (fun k => wayMatches s1 tenant table r k) = none →
           ∀ k, victim s1 ks = some k →
           after (.remote b) [0, 3] fun t => (wayAt t k).tenant = tenant ∧ (wayAt t k).table = table ∧ (wayAt t k).row = r ∧
             (wayAt t k).state = 1)))) ∧
  ((∀ (s s1 : State) (l tag tenant i b : Nat) (st : Stream),
      s1 = s.redraw → ownerOf s1 l = some tenant → tileResetting s1 l = false → streamAt s1 l tag = some st → st.kind = .gather →
      streamFrozen s1 l tenant tag st = false → mget st.routes i = some (.home b) →
      dpaResetting s1 (boardDpa b) = false → dpaRetraining s1 (boardDpa b) = false →
      sharers s1 l tag i = [] →
      let td := tableDesc s1 tenant (dbits st.desc 11 4)
      let n := tRowBytes td
      let x := Instr.gatherRowArrival l tag i { bad := [], corrected := [] }
      (dpaBad s1 (boardDpa b) n = false → ∃ t st', exec x s = .next (settleGather t l tenant tag).settleAcks ∧
        streamAt t l tag = some st' ∧ mget st'.routes i = some .arrived ∧
        mget st'.got i = some (dpaBytes s1 (boardDpa b) n) ∧ (∀ j, j ≠ i → mget st'.routes j = mget st.routes j) ∧
        (∀ j, j ≠ i → mget st'.got j = mget st.got j) ∧ SameMemory s1 t ∧ (Quiet st' → settleGather t l tenant tag = t)) ∧
      (dpaBad s1 (boardDpa b) n = true → ∃ t st', exec x s = .next (settleGather t l tenant tag).settleAcks ∧
        streamAt t l tag = some st' ∧ mget st'.routes i = some (.fault 0x22 (rowAddress td (gIndex st i))) ∧ SameMemory s1 t)) ∧
   (∀ (g set way : Nat) (s : State) (w : Way) (bs : List Byte), set < 1024 → way < 4 →
      let k := 4 * (1024 * g + set) + way
      wayAt s k = w → w.data = some bs → w.state = 1 → dpaResetting s (slotAddress s k) = false →
      dpaRetraining s (slotAddress s k) = false →
      (w.doomed = true ∨ w.declined = true →
        ∃ t, exec (.poolFillComplete g set way) s = .next t ∧ (wayAt t k).state = 0 ∧ t.mem.fast = s.mem.fast ∧
          (∀ j, j ≠ k → wayAt t j = wayAt s j)) ∧
      (w.doomed = false → w.declined = false → (s.writeDpa (slotAddress s k) bs).2 = false →
        ∃ t, exec (.poolFillComplete g set way) s = .next t ∧ (wayAt t k).state = 2 ∧ (wayAt t k).age = 0 ∧
          (wayAt t k).tenant = w.tenant ∧ (wayAt t k).table = w.table ∧ (wayAt t k).row = w.row ∧ (wayAt t k).data = none ∧
          t.mem.fast = (s.writeDpa (slotAddress s k) bs).1.mem.fast ∧
          ∀ j, j / 4 ≠ k / 4 → wayAt t j = wayAt s j)))

/-! ### Sounding -/

/-- Reports of copies: a census goes to its record where the record takes it and to the unattributed census, without its
maximum, where not; a flush takes the block's accumulator and clears it; and the copy's tag retires after the report
(R129, R130, R132, R133). COMPARE_REPORT: a record that takes agreement counts the sample, keeps the error as its last, and a finite error enters maximum and
sum; where no record takes it, it counts as unattributed; the tag retires (R130, R135). LOSS_REPORT and POISON_MESSAGE: a loss after the contribution is refused and counted; before it, it is stored, and one
that is not finite poisons the attempt, once; a poison message for the open attempt poisons it, and one for a later
attempt is kept for it (R141, R142). -/
def Obligations.ReportsReachTheirRecords : Prop :=
  ((∀ (l tag tenant : Nat) (s : State) (st : Stream) (b : Block), ownerOf s l = some tenant → streamAt s l tag = some st →
      st.kind = .copy → st.phase = .reporting → mget (tileAt s l).blocks st.slot = some b →
      let i := cWatch st.desc
      let taken := fun (c : Census) (t : State) => (∀ r, tensorAt s tenant i = some r → r.flags.getLsbD 0 = true →
          ∃ r', tensorAt t tenant i = some r' ∧ r'.elementsOpen = satAdd 32 r.elementsOpen c.elements ∧
            r'.zeroOpen = satAdd 32 r.zeroOpen c.zeros ∧ r'.satOpen = satAdd 32 r.satOpen c.sats ∧
            r'.nonfiniteOpen = satAdd 32 r.nonfiniteOpen c.nonfinite ∧
            r'.amaxOpen = maxMagnitude r.amaxOpen (maxMagnitude (representedMax c.amax r.scale)
              (BitVec.ofNat 32 (scaledMagnitude (.fin false c.exactM c.exactE) r.scale))) ∧ r'.scale = r.scale ∧
            (tenantAt t tenant).watch.unattributed = (tenantAt s tenant).watch.unattributed) ∧
        ((∀ r, tensorAt s tenant i = some r → r.flags.getLsbD 0 = false) →
          (tenantAt t tenant).watch.entries = (tenantAt s tenant).watch.entries ∧
          (tenantAt t tenant).watch.unattributed.elements = satAdd 32 (tenantAt s tenant).watch.unattributed.elements c.elements ∧
          (tenantAt t tenant).watch.unattributed.sats = satAdd 32 (tenantAt s tenant).watch.unattributed.sats c.sats ∧
          (tenantAt t tenant).watch.unattributed.amax = 0)
      let retired := fun t : State => streamAt t l tag = none ∧ (∀ k, k ≠ tag → streamAt t l k = streamAt s l k) ∧ SameMemory s t
      (cSound st.desc = 1 → ∃ t, exec (.censusReport l tag) s = .next t ∧ taken st.census t ∧ retired t) ∧
      (cSound st.desc = 3 → ∃ t b', exec (.flushReport l tag) s = .next t ∧ taken b.census t ∧ retired t ∧
        mget (tileAt t l).blocks st.slot = some b' ∧ b'.census = {}) ∧
      (cSound st.desc = 2 → ∃ t t1 b', exec (.censusAndFlushReport l tag) s = .next t ∧ retired t ∧
        mget (tileAt t l).blocks st.slot = some b' ∧ b'.census = {} ∧ t1 = s.reportCensus tenant i st.census ∧ taken st.census t1 ∧
        (tenantAt t tenant).watch = (tenantAt (t1.reportCensus tenant i b.census) tenant).watch)) ∧
   (∀ (l tag tenant : Nat) (s : State) (st : Stream), ownerOf s l = some tenant → streamAt s l tag = some st →
      st.kind = .copy → st.phase = .reporting → cSound st.desc = 4 →
      let d := st.desc
      let fm := fmtOf (cSrcFmt d)
      let xs := (encodings fm.bytes ((mget st.got 0).getD [])).map fun v => (decodeNum fm v).scale (cScale d)
      let rs := (encodings 4 ((mget st.got 1).getD [])).map (decodeNum fp32)
      let e := relativeError xs rs
      ∃ t, exec (.compareReport l tag) s = .next t ∧ streamAt t l tag = none ∧ SameMemory s t ∧
        (∀ r, tensorAt s tenant (cWatch d) = some r → r.flags.getLsbD 1 = true →
          ∃ r', tensorAt t tenant (cWatch d) = some r' ∧ r'.samples = satAdd 32 r.samples 1 ∧ r'.errLast = BitVec.ofNat 32 e ∧
            (isNonfiniteBits fp32 e = true → r'.errMax = r.errMax ∧ r'.errSum = r.errSum) ∧
            (isNonfiniteBits fp32 e = false → r'.errMax = maxMagnitude r.errMax (BitVec.ofNat 32 e) ∧
              r'.errSum = BitVec.ofNat 32 (laneAdd fp32 r.errSum.toNat e))) ∧
        ((∀ r, tensorAt s tenant (cWatch d) = some r → r.flags.getLsbD 1 = false) →
          (tenantAt t tenant).watch.unattributedCompares = satAdd 32 (tenantAt s tenant).watch.unattributedCompares 1 ∧
          (tenantAt t tenant).watch.entries = (tenantAt s tenant).watch.entries))) ∧
  (∀ (l tag tenant : Nat) (s : State) (st : Stream) (p : Packet),
     (ownerOf s l = some tenant → streamAt s l tag = some st → st.kind = .copy → st.phase = .reporting → cSound st.desc = 5 →
       let q := cParamSet st.desc
       let pair := leNat ((mget st.got 0).getD [])
       let bad := isNonfiniteBits fp32 (pair % 2 ^ 32) || isNonfiniteBits fp32 (pair / 2 ^ 32 % 2 ^ 32)
       ∃ t, exec (.lossReport l tag) s = .next t ∧ streamAt t l tag = none ∧ SameMemory s t ∧
         ((setAt s tenant q).contributed = true →
           (tenantAt t tenant).watch.lateLoss = satAdd 32 (tenantAt s tenant).watch.lateLoss 1 ∧
           (tenantAt t tenant).watch.lossPair = (tenantAt s tenant).watch.lossPair ∧ setAt t tenant q = setAt s tenant q) ∧
         ((setAt s tenant q).contributed = false →
           mget (tenantAt t tenant).watch.lossPair q = some (BitVec.ofNat 64 pair) ∧
           (setAt t tenant q).poisoned = ((setAt s tenant q).poisoned || bad) ∧
           (bad = false → t.links.outbox = s.links.outbox))) ∧
     (votePacketOk s p 2 = true →
       let m := voteOf p.data
       let open_ := watchAttempt s m.tenant m.set
       ∃ t, exec (.poisonMessage p) s = .next t ∧ t.links.inbox = s.links.inbox.erase p ∧ SameMemory s t ∧
         ((setAt s m.tenant m.set).mode ≠ 0 → m.attempt = open_ → (setAt t m.tenant m.set).poisoned = true) ∧
         ((setAt s m.tenant m.set).mode ≠ 0 → open_ < m.attempt →
           (runAt t m.tenant m.set).held = (runAt s m.tenant m.set).held ++ [m] ∧ setAt t m.tenant m.set = setAt s m.tenant m.set) ∧
         ((setAt s m.tenant m.set).mode = 0 → t.tenants = s.tenants)))

/-- The scale controller at an attempt's end (R136): an attempt that committed lowers the exponent by at most one binade, one that
failed never lowers it, the exponent stays within −128 to 127, and a record whose elements saturated or were not finite is
marked backed off. -/
def Obligations.ScaleControllerIsBounded : Prop :=
  ∀ (r : TensorRecord) (hist : List W32) (committed poisoned : Bool), r.histState = 1 → -128 ≤ r.scale → r.scale ≤ 127 →
    let o := (endRecord r hist committed poisoned).1
    (-128 ≤ o.scale ∧ o.scale ≤ 127) ∧ (committed = false → r.scale ≤ o.scale) ∧ r.scale - 1 ≤ o.scale ∧
    (o.backedOff = true ↔ 0 < r.satClosed ∨ 0 < r.nonfiniteClosed ∨ (poisoned = true ∧ r.flags.getLsbD 2 = true)) ∧
    o.histCount = (if committed then min (r.histCount + 1) r.histLen else r.histCount) ∧ o.histLen = r.histLen ∧
    o.histState = 1 ∧ o.margin = r.margin ∧ o.targetFormat = r.targetFormat

/-! ### Translation and the memory units -/

/-- A translation changes no memory, no tile and no tenant; a board address it gives grants what was asked, and on this
module it lies in a backed page of the tenant's own, outside the page-table and queue areas (R153, R155). -/
def Obligations.TenantsReachOnlyTheirPages : Prop :=
  ∀ (s t : State) (region tenant va : Nat) (need : Need) (r : Trans), s.translate region tenant va need = (t, r) →
    t.tiles = s.tiles ∧ t.tenants = s.tenants ∧ (∀ k, fastByte t k = fastByte s k) ∧ (∀ k, slowByte t k = slowByte s k) ∧
    ∀ b, r = .ok b →
      (∃ leaf giant, b = leafTarget leaf va giant ∧ leafGrants leaf need = true) ∧
      (boardSlotOf b ≠ s.service.boardSlot → need ≠ .x) ∧
      (boardSlotOf b = s.service.boardSlot → ∃ p, pageOf s.mem (boardDpa b) = some p ∧ ownsPage s tenant p = true ∧
        inPtArea s.mem (boardDpa b) = false ∧ inQueueArea s (boardDpa b) = false)

/-- The path is served in this role, for this tenant of its own if it is a VF's, and waits for no answer. -/
def Sys2Proof.Machine.Served (s : State) (path : Path) (role : Nat) (own : Option Nat) : Prop :=
  pathRole s path = some (role, own) ∧ pathBusy s path = false

/-- The last answer the module gave: to this request on this path, with a status and data. -/
def Sys2Proof.Machine.Answered (t : State) (path : Path) (m : DictMsg) (status : Nat) (data : List Byte) : Prop :=
  ∃ pre, t.dict.replies = pre ++ [(path, response m status data)]

/-- No flip of a page's bias waits for nothing more than its acknowledgement (R301, R302). -/
def Sys2Proof.Machine.NoFlipDue (s : State) : Prop :=
  ∀ a ∈ s.dict.acks, ∀ page toHost, a.kind = .bias page toHost → pageInFlight s page = true

/-- SCRUB_PASS and the retraining rows: every word that a pass found uncorrectable is marked and its channel queued for
retraining, and no byte changes (R186, R187); CHANNEL_RETRAIN_START stops the channel and takes it from the queue;
CHANNEL_RETRAIN_END lets it serve, where no attempt waits to end it changes no byte, and it gives the acknowledgements that
waited for it; RETRAIN_REQUEST queues the channel
and its acknowledgement (R187, R327). TRANSLATION_SHOOTDOWN: no cached walk and no cached instruction of the tenant is left, everyone else keeps theirs,
and no byte changes (R156).
Where a clause touches what the spec leaves open, the model's choice is that of logs 11, 97. -/
def Obligations.MemoryAndTranslationUnitsServe : Prop :=
  ((∀ (s : State) (n k : Nat) (ecc : Ecc), unitServes s (.stack n) = true → s.mem.span ≤ 56 →
     ∃ t, exec (.scrubPass (.stack n) { ecc := ecc, repaired := k }) s = .next t ∧ SameMemory s t ∧ t.tenants = s.tenants ∧ t.tiles = s.tiles ∧
       ∀ o ∈ ecc.bad, o < 56 * gib → keyBacked s (2 ^ 36 * n + o) = true →
         (2 ^ 36 * n + o) / 16 ∈ t.mem.fastBad ∧ 32 * n + channelOf (2 ^ 36 * n + o) ∈ t.mem.retrainQueue) ∧
   (∀ (s : State) (n k : Nat) (ecc : Ecc), unitServes s (.slow n) = true →
     ∃ t, exec (.scrubPass (.slow n) { ecc := ecc, repaired := k }) s = .next t ∧ SameMemory s t ∧ t.tenants = s.tenants ∧ t.tiles = s.tiles ∧
       ∀ a ∈ ecc.bad, a < 224 * gib →
         (2 ^ 38 * n + a) / 16 ∈ t.mem.slowBad ∧ 32 * (20 + n) + a / 2 ^ 12 % 8 ∈ t.mem.retrainQueue) ∧
   (∀ (s : State) (u : MemUnit) (ch : Nat) (temp : Int), unitServes s u = true → ch < unitChannels u →
     mget s.mem.retired (unitNumber u) ≠ some ch → mget s.mem.retraining (unitNumber u) = none →
     retrainDue s (32 * unitNumber u + ch) temp = true →
     ∃ t, exec (.channelRetrainStart u ch temp) s = .next t ∧ mget t.mem.retraining (unitNumber u) = some ch ∧
       mget t.mem.trainTemp (32 * unitNumber u + ch) = some temp ∧ 32 * unitNumber u + ch ∉ t.mem.retrainQueue ∧
       (∀ v, v ≠ unitNumber u → mget t.mem.retraining v = mget s.mem.retraining v) ∧
       (∀ c, c ≠ 32 * unitNumber u + ch → (c ∈ t.mem.retrainQueue ↔ c ∈ s.mem.retrainQueue)) ∧ SameMemory s t) ∧
   (∀ (s : State) (u : MemUnit) (ch : Nat), ch < 32 → mget s.mem.retraining (unitNumber u) = some ch →
     ∃ t, exec (.channelRetrainEnd u ch) s = .next t ∧ mget t.mem.retraining (unitNumber u) = none ∧
       ((∀ v q, (runAt s v q).reduction = none ∧ (runAt s v q).markers = []) → SameMemory s t ∧
         (s.service.lodgeAway = false → 32 * unitNumber u + ch ∉ s.mem.retrainQueue →
           ∀ a ∈ t.dict.acks, a.kind ≠ .retrain (32 * unitNumber u + ch)))) ∧
   (∀ (s : State) (path : Path) (tag value : BitVec 16) (role : Nat) (own : Option Nat), Served s path role own →
     role = 3 ∨ role = 5 →
     let v := value.toNat
     let st := v / 2 ^ 8 % 2 ^ 5
     let ch := v % 2 ^ 5
     v = 2 ^ 8 * st + ch → st < 20 → s.service.stacksOut.contains st = false → stackResetting s st = false →
     mget s.mem.retired st ≠ some ch →
     ∃ t, exec (.retrainRequest path tag value) s = .next t ∧ 32 * st + ch ∈ t.mem.retrainQueue ∧ SameMemory s t ∧
       (s.service.lodgeAway = false → ∃ a ∈ t.dict.acks, a.path = path ∧ a.kind = .retrain (32 * st + ch)))) ∧
  (∀ (s : State) (path : Path) (tag value : BitVec 16) (role : Nat) (own : Option Nat), Served s path role own →
     role = 3 ∨ role = 5 → value.toNat < 1024 →
     ∃ t, exec (.translationShootdown path tag value) s = .next t ∧
       (∀ e, e ∈ t.mem.tlb ↔ e ∈ s.mem.tlb ∧ e.tenant ≠ value.toNat) ∧
       (∀ l, ownerOf s l = some value.toNat → mget s.tiles l ≠ none → (tileAt t l).icache = []) ∧
       (NoFlipDue s → ∀ l, ownerOf s l ≠ some value.toNat → tileAt t l = tileAt s l) ∧ SameMemory s t ∧
       (s.service.lodgeAway = false → translationUsers s value.toNat = [] → applyUses s value.toNat = false → s.dict.acks = [] →
         Answered t path (writeMsg tag none 0x4000 8 (leBytes 2 value.toNat)) 0 []))

/-! ### Attempts and generations -/

/-- A program's write of a word of its set's attempt block lands at DPA `d` and leaves the block where it is: `s2` is the
state after the write alone. -/
def Sys2Proof.Machine.BlockWord (s : State) (t p off v d : Nat) (s2 : State) : Prop :=
  (setAt s t p).attBlock ≠ 0 ∧ ownBlock s t (setAt s t p).attBlock .rw = .ok d ∧ dpaBad s (d + off) 8 = false ∧
  dpaWaits s (d + off) 8 = false ∧
  s2 = (s.writeDpa (d + off) (leBytes 8 (v % 2 ^ 64))).1 ∧ ownBlock s2 t (setAt s t p).attBlock .r = .ok d

/-- ATTEMPT_OPEN where pacing lets the set open: the set collects for its next attempt number, with no arrivals, and its
watchdog starts; no other set changes (R236, R237). PART_REPORT, ATTEMPT_BLOCK_ABORT and ATTEMPT_BLOCK_RESUME: each writes its word of the attempt block. A part's bit
arrives while the set collects; an abort of the attempt that collects forces its contribution, not clean; a resume of a
paused set asks for its next attempt (R235, R247, R250).
Where a clause touches what the spec leaves open, the model's choice is that of log 81. -/
def Obligations.AttemptsOpenAndHearTheirBlock : Prop :=
  (∀ (s s1 : State) (t p n : Nat), s1 = (s.springTick n).redraw → mayOpen s1 t p = true → inService s1 = true →
     ownWaits s1 t (setAt s1 t p).attBlock 128 = false →
     ∃ u, exec (.attemptOpen t p n) s = .next u ∧ (setAt u t p).state = 1 ∧
       (setAt u t p).attempts = ((setAt s t p).attempts + 1) % 2 ^ 64 ∧ (setAt u t p).arrivals = 0 ∧
       (setAt u t p).contributed = false ∧ (setAt u t p).forced = 0 ∧ (setAt u t p).generation = (setAt s t p).generation ∧
       (runAt u t p).openedAt = s.globals.springNow + n ∧ u.globals.lastOpen = some (s.globals.springNow + n) ∧
       (t, p) ∉ u.globals.openQueue ∧ (∀ e, e ≠ (t, p) → (e ∈ u.globals.openQueue ↔ e ∈ s.globals.openQueue)) ∧
       (∀ t' p', (t', p') ≠ (t, p) → setAt u t' p' = setAt s t' p') ∧ u.tiles = s.tiles ∧
       -- pacing: 17,500 cycles since any open, 140,000 since the set's own
       (∀ k, s.globals.lastOpen = some k → k + 17500 ≤ s.globals.springNow + n) ∧
       ((runAt s t p).everOpened = true → (runAt s t p).openedAt + 140000 ≤ s.globals.springNow + n)) ∧
  (∀ (s : State) (t p : Nat), p < 4 →
     (∀ part d s2, part < 256 → d % 128 = 0 →
       BlockWord s.redraw t p (64 + 8 * (part / 64))
         (leNat (dpaBytes s (d + 64 + 8 * (part / 64)) 8) ||| 2 ^ (part % 64)) d s2 →
       (setAt s t p).state = 1 → (setAt s t p).forced = 0 → jobTroubled s t p = false →
       let a := BitVec.ofNat 256 (leNat (dpaBytes s2 (d + 64) 32))
       a &&& ~~~(setAt s t p).partMask = 0 →
       ∃ u, exec (.partReport t p part) s = .next u ∧ (setAt u t p).arrivals = a ∧ a.getLsbD part = true ∧
         (setAt u t p).state = 1 ∧ u.mem = s2.mem ∧ u.tiles = s.tiles) ∧
     (∀ (v : W64) d s2, BlockWord s.redraw t p 56 v.toNat d s2 → dpaBytes s2 (d + 56) 8 = leBytes 8 v.toNat →
       (setAt s t p).state = 1 → (setAt s t p).contributed = false → (setAt s t p).forced = 0 →
       v.toNat = (setAt s t p).attempts →
       ∃ w, exec (.attemptBlockAbort t p v) s = .next (if contributionWaits w t p then w else w.contribute t p) ∧
         (setAt w t p).forced = 3 ∧
         (setAt w t p).state = 1 ∧ w.mem = s2.mem) ∧
     (∀ (v : W64) d s2, BlockWord s.redraw t p 48 v.toNat d s2 → dpaBytes s2 (d + 48) 8 = leBytes 8 v.toNat →
       setStateRead s t p = 5 → v.toNat = (runAt s t p).outcomeAttempt + 1 →
       ∃ u, exec (.attemptBlockResume t p v) s = .next u ∧ (t, p) ∈ u.globals.openQueue ∧ u.mem = s2.mem ∧ u.tiles = s.tiles))

/-- VOTE_CONTRIBUTION once every part has reported, or when forced: the watch records close, and the module enters the
reduction with the number of its parts and a flag that is set only where the attempt is clean (R134, R238, R240).
VOTE_MESSAGE and APPLY_MESSAGE leave the inbox and wait for their round; a round combines one held message of its
dimension: flags by AND, sums modulo 2^32, and a digest or target that differs freezes the job (R240, R241). The result of a reduction: a vote succeeds where every flag was set and the sum is what the set expects, and an apply
publishes where every module applied and the sum is the number of layers; the generation then grows by one. Otherwise the
attempt is abandoned: the generation stands, the skips grow by one and the set pauses, or passes to the state in which a
release of its frozen job has put it (R240, R243, R244, R246, R363).
Where a clause touches what the spec leaves open, the model's choice is that of logs 41, 83. -/
def Obligations.ReductionsEndTheAttempt : Prop :=
  ((∀ (s s1 : State) (t p n : Nat) (ecc : Ecc), s1 = ((s.springTick n).redraw).fastEcc ecc → watchdogPast s1 t p = false →
     let x := setAt s1 t p
     x.state = 1 → x.contributed = false → x.mode = 1 → contributionWaits s1 t p = false →
     mwf (tenantAt s1 t).watch.entries = true →
     (x.forced ≠ 0 ∨ jobFrozen s1 t p = true ∨
       (x.arrivals = x.partMask ∧ ∀ c ∈ owningChips s1 t p, chipState s1 c ≠ 1 ∧ chipState s1 c ≠ 3)) →
     ∃ w ok, exec (.voteContribution t p n ecc) s = .next (w.reduceAll t p) ∧
       (runAt w t p).reduction = some { phase := 0, ok := ok, sum := bitCount x.arrivals.toNat, fatal := false, dims := voteDimsOf s1 t p } ∧
       (setAt w t p).contributed = true ∧ (setAt w t p).state = 2 ∧
       (ok = true → x.poisoned = false ∧ x.resetSeen = false ∧ x.forced = 0 ∧ jobFrozen w t p = false ∧
         ∀ c ∈ owningChips s1 t p, chipState s1 c = 2) ∧
       (∀ i r, tensorAt s1 t i = some r → r.paramSet = p → tensorAt w t i = some r.close) ∧
       (∀ i r, tensorAt s1 t i = some r → r.paramSet ≠ p → tensorAt w t i = some r) ∧ w.mem.fast = s1.mem.fast ∧
       w.mem.slow = s1.mem.slow) ∧
   (∀ (s : State) (pk : Packet) (m : VoteMsg), voteOf pk.data = m → (setAt s m.tenant m.set).attempts ≤ m.attempt →
     ∀ (ph : Nat) (x : Instr), (ph = 0 ∧ x = .voteMessage pk ∨ ph = 1 ∧ x = .applyMessage pk) → votePacketOk s pk ph = true →
     ∃ w, exec x s = .next ((w.reduceAll m.tenant m.set).settleAcks) ∧
       (runAt w m.tenant m.set).held = (runAt s m.tenant m.set).held ++ [m] ∧ w.links.inbox = s.links.inbox.erase pk ∧
       setAt w m.tenant m.set = setAt s m.tenant m.set ∧ w.mem = s.mem ∧ w.tiles = s.tiles) ∧
   (∀ (s : State) (t p : Nat) (r : Reduction) (m : VoteMsg) (d : Nat) (rest : List Nat),
     (runAt s t p).reduction = some r → r.dims = d :: rest →
     ((runAt s t p).held.find? fun m => m.attempt = (setAt s t p).attempts && m.phase = r.phase && m.round = d) = some m →
     let same := decide (m.digest = (setAt s t p).digest ∧ m.target = (setAt s t p).generation + 1)
     ∃ u, reduceOnce s t p = some u ∧ (runAt u t p).held = (runAt s t p).held.erase m ∧
       (runAt u t p).reduction = some { phase := r.phase, ok := r.ok && m.ok && same, sum := (r.sum + m.sum) % 2 ^ 32,
                                        fatal := r.fatal || m.fatal, dims := rest } ∧
       (same = false → jobFrozen u t p = true) ∧ (same = true → jobFrozen u t p = jobFrozen s t p) ∧ u.mem = s.mem)) ∧
  (∀ (s : State) (t p : Nat) (r : Reduction), (runAt s t p).reduction = some r → r.dims = [] → endWaits s t p = false →
     let x := setAt s t p
     ∃ u, reduceOnce s t p = some u ∧
       (r.phase = 0 → r.ok = true → r.sum = x.voteExpected → (setAt u t p).state = 3 ∧ (setAt u t p).generation = x.generation) ∧
       (r.phase ≠ 0 → r.ok = true → r.fatal = false → r.sum = presentLayers s t p →
         (setAt u t p).generation = x.generation + 1 ∧ ((setAt u t p).state = 4 ∨ (setAt u t p).state = restingState s t p) ∧
         u.globals.published = satAdd 64 s.globals.published 1 ∧ (runAt u t p).undo = []) ∧
       ((r.phase = 0 ∧ (r.ok = false ∨ r.sum ≠ x.voteExpected)) ∨
         (r.phase ≠ 0 ∧ (r.ok = false ∨ r.fatal = true ∨ r.sum ≠ presentLayers s t p)) →
         (setAt u t p).generation = x.generation ∧ (setAt u t p).skips = x.skips + 1 ∧ (setAt u t p).state = restingState s t p ∧
         u.globals.published = s.globals.published ∧ (runAt u t p).undo = []))

/-- PIN_RETRY, APPLY_COMPLETE, ATTEMPT_WATCHDOG_EXPIRY and SPRING_CHIP_RESTART: an apply that waits for its pin word takes it as
soon as it reads zero; an apply that ends contributes how its layers ended and how many there are; a watchdog that has run
forces the contribution while the set collects, fails an apply, and between the two does nothing more; a chip that restarts empties the undo rings of its
applies and serves again (R214, R242, R243, R248, R249). A dense layer that is applied: the new lo halves, momenta and second moments stand in the bank of the new
generation, no other byte of the slow tier changes, and the bank of the generation before keeps its lo halves and momenta
(R224, R228, R230).
Where a clause touches what the spec leaves open, the model's choice is that of log 82. -/
def Obligations.AppliesWriteTheNextBank : Prop :=
  ((∀ (s s1 : State) (t p n d : Nat) (ecc : Ecc), s1 = ((s.springTick n).redraw).fastEcc ecc → pinWaits s1 t p = true →
     watchdogPast s1 t p = false → ownBlock s1 t (setAt s1 t p).genBlock .rw = .ok d →
     let off := 8 + 8 * (((setAt s1 t p).generation + 1) % 2)
     dpaBad s1 (d + off) 8 = false → dpaWaits s1 (d + off) 8 = false →
     ∃ u, exec (.pinRetry t p n ecc) s = .next ((u.reduceAll t p).settleAcks) ∧
       (leNat (dpaBytes s1 (d + off) 8) = 0 → (runAt u t p).writing = true ∧
         u.mem = (s1.writeDpa (d + off) (leBytes 8 (2 ^ 63))).1.mem) ∧
       (leNat (dpaBytes s1 (d + off) 8) ≠ 0 → u = s1.touchBias (d + off) 8)) ∧
   (∀ (s s1 : State) (t p n : Nat) (ecc : Ecc), s1 = ((s.springTick n).redraw).fastEcc ecc → applying s1 t p = true →
     pinWaits s1 t p = false → (∀ c ∈ owningChips s1 t p, chipState s1 c = 2) → watchdogPast s1 t p = false →
     (setAt s1 t p).mode = 1 → applyWaits s1 t p ((setAt s1 t p).generation + 1) = false →
     let r := s1.applyAll t p ((setAt s1 t p).generation + 1)
     ∃ w, exec (.applyComplete t p n ecc []) s = .next ((w.reduceAll t p).settleAcks) ∧ (runAt w t p).applied = true ∧
       (setAt r.1 t p).mode = 1 ∧ w.mem = r.1.mem ∧
       (runAt w t p).reduction = some { phase := 1, ok := decide (r.2.1 = .ok) && !jobTroubled r.1 t p, sum := r.2.2,
                                        fatal := decide (r.2.1 = .fatal), dims := voteDimsOf r.1 t p }) ∧
   (∀ (s s1 : State) (t p n : Nat), s1 = (s.springTick n).redraw → watchdogOver s1 t p = true →
     ((setAt s1 t p).state = 1 → (setAt s1 t p).contributed = false → ∃ w, exec (.attemptWatchdogExpiry t p n) s =
         .next ((if contributionWaits w t p then w else w.contribute t p).settleAcks) ∧
       (setAt w t p).forced = (if (setAt s t p).forced = 0 then 4 else (setAt s t p).forced) ∧ w.mem = s.mem) ∧
     (applying s1 t p = true → (runAt s1 t p).expired = false → applyWaits s1 t p ((setAt s1 t p).generation + 1) = false →
       exec (.attemptWatchdogExpiry t p n) s = .next ((s1.failApply t p).settleAcks)) ∧
     ((setAt s1 t p).state = 2 → exec (.attemptWatchdogExpiry t p n) s =
       .next ((s1.updRun t p fun r => { r with expired := true }).settleAcks)) ∧
     ((setAt s1 t p).state ≠ 1 → (setAt s1 t p).state ≠ 2 → applying s1 t p = false →
       exec (.attemptWatchdogExpiry t p n) s = .next s1.settleAcks)) ∧
   (∀ (s : State) (chip : Nat), chip < 4 → 2 ≤ chipState s chip → chipState s chip ≠ 4 →
     (∀ r ∈ s.service.resets, r.scope ≠ .spring chip) →
     ∃ u, exec (.springChipRestart chip { bad := [], corrected := [] }) s = .next u ∧ chipState u chip = 2 ∧
       (∀ c, c ≠ chip → chipState u c = chipState s c) ∧
       (∀ t p, p < 4 → applying s t p = true → chip ∈ owningChips s t p → (runAt u t p).undo = [] ∧
         (runAt u t p).changedRows = []) ∧
       (∀ t p, (applying s t p = false ∨ chip ∉ owningChips s t p) → (runAt u t p).undo = (runAt s t p).undo) ∧
       ((∀ t p, applying s t p = true → chip ∉ owningChips s t p) → u.mem = s.mem))) ∧
  (∀ (s : State) (t p h : Nat) (c : Captured), (setAt s t p).mode ≠ 2 → 0 < h → s.mem.slowBad = [] →
     let d := c.block
     let n := rElems d
     let base := slotBase s c.chip c.slot
     let src := denseBank d ((h - 1) % 2)
     let dst := denseBank d (h % 2)
     let hi := capRead s c.pages (rHi d ((h - 1) % 2)) (2 * n)
     let g := capRead s c.pages (rGrad d + 64) (4 * n)
     let old := ((encodings 2 hi.1).zip (encodings 2 (readBytes s.mem.slow (base + src.1) (2 * n)))).map
       fun e => recombine e.1 e.2 (rScale d)
     let new := denseRule s d h (encodings 4 (readBytes s.mem.slow (base + src.2.1) (4 * n)))
       (if rRule d = 1 then encodings 4 (readBytes s.mem.slow (base + src.2.2) (4 * n)) else [])
       (old.map Conv.bits) (encodings 4 g.1)
     let los := fp16Bytes ((new.2.2.map fun w => (splitPair ((decodeNum fp32 w).scale (-(rScale d)))).lo).take n)
     let ms := fp32Bytes (new.1.take n)
     hi.2 = none → g.2 = none →
     ∃ u res, applyDense s t p c h n = (u, res) ∧ res ≠ .fatal ∧
       readBytes u.mem.slow (base + dst.1) los.length = los ∧ readBytes u.mem.slow (base + dst.2.1) ms.length = ms ∧
       (∀ k, (k < base + dst.1 ∨ base + dst.1 + los.length ≤ k) → (k < base + dst.2.1 ∨ base + dst.2.1 + ms.length ≤ k) →
         (k < base + dst.2.2 ∨ base + dst.2.2 + 4 * n ≤ k ∨ rRule d ≠ 1) → slowByte u k = slowByte s k) ∧
       (∀ k, base + src.1 ≤ k → k < base + src.1 + align4k (2 * n) + align4k (4 * n) → slowByte u k = slowByte s k) ∧
       u.tiles = s.tiles)

/-- The five values of ATTEMPT_CONTROL, PARAMETER_SET_MODE_WRITE and IMPORT_EXPORT_COMPLETE: each has its effect where SetState
allows it and is answered OK, and REFUSED with no effect elsewhere; an export ends in the state it began in, an import
with its generation (R250, R253, R254). LAYER_MAP_WRITE and LAYER_SLOT_MAP_WRITE: the entries that a range touches take their new values, the set's digest is that of
what it then holds, and a slot area that changes its tenant reads zero (R222, R223).
Where a clause touches what the spec leaves open, the model's choice is that of logs 81, 84. -/
def Obligations.ControlsSteerTheSet : Prop :=
  ((∀ (s : State) (path : Path) (tag : BitVec 16) (t p : Nat), Served s path 2 (some t) → t < 1024 → p < 4 →
     let st := setStateRead s t p
     let x := setAt s t p
     let msg := fun v : Byte => writeMsg tag (some t) 0xC10B (p + 1) [v]
     let refused := fun (c : Instr) (v : Byte) => exec c s = .next (s.redraw.respond path (response (msg v) 7 []))
     (st = 1 → x.contributed = false → (runAt s t p).releasedTo = none →
       ∃ w, exec (.attemptControlAbort path tag t p) s =
         .next ((if contributionWaits w t p then w else w.contribute t p).respond path (response (msg 1) 0 [])) ∧
       (setAt w t p).forced = (if x.forced = 0 then 3 else x.forced) ∧ w.mem = s.mem) ∧
     ((st ≠ 1 ∨ x.contributed = true) → refused (.attemptControlAbort path tag t p) 1) ∧
     (1 ≤ st → st ≤ 4 → ∃ u, exec (.attemptControlPause path tag t p) s = .next u ∧
       setAt u t p = { x with pausePending := true } ∧ Answered u path (msg 2) 0 [] ∧ u.mem = s.mem) ∧
     ((st = 0 ∨ 4 < st) → refused (.attemptControlPause path tag t p) 2) ∧
     (st = 5 → ∃ u, exec (.attemptControlResume path tag t p) s = .next u ∧ (t, p) ∈ u.globals.openQueue ∧
       setAt u t p = x ∧ Answered u path (msg 3) 0 [] ∧ u.mem = s.mem) ∧
     (st ≠ 5 → refused (.attemptControlResume path tag t p) 3) ∧
     ((st = 0 ∨ st = 5 ∨ st = 8) → ∃ u, exec (.attemptControlImport path tag t p) s = .next u ∧
       setStateRead u t p = 6 ∧ ((runAt s t p).releasedTo = none → setAt u t p = { x with state := 6 }) ∧
       (runAt u t p).importing = true ∧ (runAt u t p).importFrom = st ∧
       Answered u path (msg 4) 0 [] ∧ u.mem = s.mem) ∧
     ((st ≠ 0 ∧ st ≠ 5 ∧ st ≠ 8) → refused (.attemptControlImport path tag t p) 4) ∧
     ((st = 0 ∨ st = 5) → ∃ u, exec (.attemptControlExport path tag t p) s = .next u ∧
       setStateRead u t p = 6 ∧ ((runAt s t p).releasedTo = none → setAt u t p = { x with state := 6 }) ∧
       (runAt u t p).importing = false ∧ (runAt u t p).importFrom = st ∧
       Answered u path (msg 5) 0 [] ∧ u.mem = s.mem) ∧
     ((st ≠ 0 ∧ st ≠ 5) → refused (.attemptControlExport path tag t p) 5) ∧
     -- the mode
     (∀ v : Byte, let m := writeMsg tag (some t) 0xC100 (p + 1) [v]
       let c := Instr.parameterSetModeWrite path tag t p v
       (setIdle s t p = false → exec c s = .next (s.redraw.respond path (response m 6 []))) ∧
       (setIdle s t p = true → (2 < v.toNat ∨ v ≠ 0 ∧ (st = 8 ∨ x.attBlock = 0)) →
         exec c s = .next (s.redraw.respond path (response m 7 []))) ∧
       (setIdle s t p = true → (v = 1 ∨ v = 2) → st ≠ 8 → x.attBlock ≠ 0 →
         ∃ u, exec c s = .next u ∧ setAt u t p = { x with mode := v.toNat } ∧ Answered u path m 0 [] ∧
           (x.mode ≠ v.toNat → (t, p) ∈ u.globals.openQueue)) ∧
       (setIdle s t p = true → v = 0 → ∃ u, exec c s = .next u ∧ (setAt u t p).mode = 0 ∧ Answered u path m 0 [] ∧
         setStateRead u t p = (if st = 8 then 8 else 0) ∧ (t, p) ∉ u.globals.openQueue))) ∧
   (∀ (s : State) (t p : Nat), (setAt s t p).state = 6 →
     imageWaits (s.redraw.fastEcc { bad := [], corrected := [] }) t p = false →
     endWaits (s.redraw.fastEcc { bad := [], corrected := [] }) t p = false →
     ∃ u, exec (.importExportComplete t p { bad := [], corrected := [] } []) s = .next u ∧ u.tiles = s.tiles ∧
       ((runAt s t p).importing = false → (setAt u t p).state = (runAt s t p).importFrom ∧
         (setAt u t p).generation = (setAt s t p).generation ∧ ∀ k, slowByte u k = slowByte s k) ∧
       ((runAt s t p).importing = true → jobFrozen u t p = false →
         (setAt u t p).generation = (setAt s t p).importGen ∧
         (setAt u t p).state = (if (runAt s t p).importFrom = 5 then 5 else 0) ∧ (runAt u t p).undo = []))) ∧
  ((∀ (s : State) (path : Path) (tag : BitVec 16) (t p : Nat), Served s path 2 (some t) → t < 1024 → p < 4 → setIdle s t p = true →
     (∀ (off : Nat) (bs : List Byte), 1 ≤ bs.length → off + bs.length ≤ 16384 →
       let es := newEntries (domainOf s t 0xC108 (p + 1)) off bs
       (∀ e ∈ es, bits e.2 30 28 = 0 ∧ bits e.2 15 12 = 0) →
       ∃ u, exec (.layerMapWrite path tag t p (.map off bs)) s = .next u ∧ (setAt u t p).digest = setDigest (setAt u t p) ∧
         (∀ e ∈ es, mgetD (setAt u t p).layerMap e.1 0 = BitVec.ofNat 32 e.2) ∧
         (∀ k, k ∉ es.map Prod.fst → mget (setAt u t p).layerMap k = mget (setAt s t p).layerMap k) ∧ SameMemory s u) ∧
     (∀ v : BitVec 16, v.toNat < 2 ^ 12 → ∃ u, exec (.layerMapWrite path tag t p (.dims v)) s = .next u ∧
       (setAt u t p).voteDims = v ∧ (setAt u t p).digest = setDigest (setAt u t p) ∧
       (setAt u t p).layerMap = (setAt s t p).layerMap ∧ SameMemory s u) ∧
     (∀ v : W32, ∃ u, exec (.layerMapWrite path tag t p (.expected v)) s = .next u ∧
       (setAt u t p).voteExpected = v.toNat ∧ (setAt u t p).digest = setDigest (setAt u t p) ∧
       (setAt u t p).layerMap = (setAt s t p).layerMap ∧ SameMemory s u)) ∧
   (∀ (s : State) (path : Path) (tag : BitVec 16) (role off : Nat) (own : Option Nat) (bs : List Byte),
     Served s path role own → role = 3 ∨ role = 5 → 1 ≤ bs.length → off + bs.length ≤ 32768 →
     let old := fun j : Nat => (mgetD s.globals.layerSlots j 0).toNat
     let es := newEntries (domainOf s 0 0x4201 1) off bs
     let ch := es.filter fun e => old e.1 ≠ e.2
     let m := ch.foldl (fun o e => mput (0 : W64) o e.1 (BitVec.ofNat 64 e.2)) s.globals.layerSlots
     (∀ t ∈ ownersOf slotTenant old ch, ∀ p, p < 4 → setIdle s t p = true) → slotsBad m = false →
     ∃ u, exec (.layerSlotMapWrite path tag off bs) s = .next u ∧ u.globals.layerSlots = m ∧
       (∀ e ∈ ch, slotTenant (old e.1) ≠ slotTenant e.2 → bit e.2 63 = true →
         ∀ k, 2 ^ 38 * (e.1 / 1024) + 2 ^ 21 * bits e.2 16 0 ≤ k →
           k < 2 ^ 38 * (e.1 / 1024) + 2 ^ 21 * bits e.2 16 0 + 2 ^ 21 * bits e.2 33 17 → slowByte u k = 0) ∧
       (∀ k, slowByte u k = slowByte s k ∨ slowByte u k = 0) ∧ ∀ k, fastByte u k = fastByte s k))

/-! ### The dictionary and its paths -/

/-- The eight commands on a served path: the first check that fails is answered, and nothing else changes. A READ, a
DOMAIN_READ and a DESCRIBE answer the object's value (UNAVAILABLE while the unit behind it is away), the bytes of the range
and its description; a WRITE is applied and a whole object reads back; a transfer opens with BEGIN, takes DATA, takes effect whole with COMMIT and goes with CANCEL (R333,
R334, R336).
Where a clause touches what the spec leaves open, the model's choice is that of logs 69, 70, 79, 119. -/
def Obligations.DictionaryAnswersTheFirstFailedCheck : Prop :=
  ∀ (s : State) (path : Path) (m0 : DictMsg) (role : Nat) (own : Option Nat), Served s path role own →
    let msg := fun c : Byte => { m0 with command := c }
    let t := m0.tenant.toNat
    let index := m0.index.toNat
    let sub := m0.sub.toNat
    let off := m0.offset.toNat
    let seen := if index = 0x2000 ∨ index = 0x2001 then s.redraw.measure else s.redraw
    let same := fun u : State => u.mem = s.mem ∧ u.tiles = s.tiles ∧ u.tenants = s.tenants ∧ u.globals = s.globals ∧
      u.links = s.links ∧ u.host = s.host ∧ u.service = s.service
    (∀ (c : Byte) (x : Instr), (c, x) ∈ [(1, Instr.read path m0), (2, .write path m0), (3, .domainRead path m0),
        (4, .writeBegin path m0), (5, .writeData path m0), (6, .writeCommit path m0), (7, .writeCancel path m0),
        (8, .describe path m0)] → ∀ k, checkRequest role own (msg c) = k → k ≠ 0 →
      ∃ u, exec x s = .next u ∧ Answered u path (msg c) k [] ∧ same u ∧ u.dict.transfers = s.dict.transfers) ∧
    (checkRequest role own (msg 1) = 0 → m0.length = 0 → m0.data = [] →
      ∃ u, exec (.read path m0) s = .next u ∧ same u ∧
        (unitAway s index sub = false → Answered u path (msg 1) 0 (objectValue seen t index sub)) ∧
        (unitAway s index sub = true → Answered u path (msg 1) 0x0B [])) ∧
    (checkRequest role own (msg 3) = 0 → 1 ≤ m0.length.toNat → m0.length.toNat ≤ 1024 → m0.data = [] →
      off ≤ (domainOf seen t index sub).1 → ∃ u, exec (.domainRead path m0) s = .next u ∧ same u ∧
        Answered u path (msg 3) 0 (domainBytes (domainOf seen t index sub) off m0.length.toNat)) ∧
    (∀ o, checkRequest role own (msg 8) = 0 → objectAt index sub = some o → m0.length = 0 → m0.data = [] →
      ∃ u, exec (.describe path m0) s = .next u ∧ Answered u path (msg 8) 0 (describeData s.redraw role t index sub o) ∧ same u) ∧
    (∀ o s1, checkRequest role own (msg 2) = 0 → objectAt index sub = some o → lengthOk (msg 2) = true →
      m0.data.length = o.size → (o.access = 4 → quiesced s.redraw t index sub (leNat m0.data) = true) →
      (if tenantIndex index then writeOwn s.redraw t index sub (leNat m0.data)
       else writeModule s.redraw role index sub m0.data none) = .ok s1 →
      exec (.write path m0) s = .next (s1.respond path (response (msg 2) 0 [])) ∧
      ((index, sub) ∈ [(0x2100, 1), (0x2400, 1), (0x4000, 4), (0x4000, 5), (0x4000, 6), (0x4200, 1), (0x5000, 5),
        (0x8000, 8), (0xC300, 3)] → objectValue s1 t index sub = m0.data)) ∧
    (checkRequest role own (msg 4) = 0 → lengthOk (msg 4) = true → m0.data.length = 4 → 1 ≤ leNat m0.data →
      off + leNat m0.data ≤ (domainOf s.redraw t index sub).1 →
      (index ≠ 0xA002 →
        s.dict.transfers.foldl (fun n x => if isStaging x.index then n else n + x.total) 0 + leNat m0.data ≤ 2 ^ 23) →
      (∀ x ∈ s.dict.transfers, x.path ≠ path ∧ (x.index = index → x.sub = sub → x.tenant ≠ t)) →
      ∃ u, exec (.writeBegin path m0) s = .next u ∧ Answered u path (msg 4) 0 [] ∧ same u ∧
        u.dict.transfers = s.dict.transfers ++
          [{ path := path, index := index, sub := sub, tenant := t, offset := off, total := leNat m0.data, supplied := [] }]) ∧
    (∀ x : Transfer, transferOf s path m0 = some x →
      (checkRequest role own (msg 5) = 0 → lengthOk (msg 5) = true → x.offset ≤ off → off + m0.data.length ≤ x.offset + x.total →
        mwf x.supplied = true → (∀ y ∈ s.dict.transfers, y.path = path → y = x) →
        ∃ u y, exec (.writeData path m0) s = .next u ∧ Answered u path (msg 5) 0 [] ∧ same u ∧ y ∈ u.dict.transfers ∧
          y = { x with supplied := y.supplied } ∧
          (∀ k, k < m0.data.length → mget y.supplied (off + k) = m0.data[k]?) ∧
          ∀ k, k < off ∨ off + m0.data.length ≤ k → mget y.supplied k = mget x.supplied k) ∧
      (∀ s2, checkRequest role own (msg 6) = 0 → quiesced s.redraw t index sub 0 = true → m0.length = 0 → m0.data = [] →
        x.total ≤ x.supplied.length → x.offset + x.total ≤ (domainOf s.redraw t index sub).1 →
        writeRange (s.redraw.closeTransfer path) t index sub x.offset (x.supplied.map Prod.snd) = .ok s2 →
        exec (.writeCommit path m0) s = .next ((s2.closeTransfer path).respond path (response (msg 6) 0 [])) ∧
        ∀ y ∈ (s2.closeTransfer path).dict.transfers, y.path ≠ path) ∧
      (checkRequest role own (msg 7) = 0 → m0.length = 0 → m0.data = [] →
        ∃ u, exec (.writeCancel path m0) s = .next u ∧ Answered u path (msg 7) 0 [] ∧ same u ∧
          (∀ y, y ∈ u.dict.transfers ↔ y ∈ s.dict.transfers ∧ y.path ≠ path)))

/-! ### Links, routing and packets -/

/-- Training: LINK_TRAINING_START begins an attempt, ERROR_GATE_COMPLETE passes the lanes whose errors are within the limit in
both directions and sends this end's frame, TRAINING_FRAME judges the other end, and a link that becomes ready uses the lanes
R282 names and numbers its flits afresh (R269, R281–R283, R399). Each leaves the other links as they are.
Where a clause touches what the spec leaves open, the model's choice is that of logs 44, 45. -/
def Obligations.LinksTrain : Prop :=
  ∀ (s : State) (l : Nat),
    let lk := linkAt s l
    let others := fun u : State =>
      (∀ j, j ≠ l → linkAt u j = linkAt s j) ∧ u.mem = s.mem ∧ (NoFlipDue s → u.tiles = s.tiles)
    (lk.dimension ≤ 11 → (lk.state = 1 ∨ lk.state = 7 ∧ isOptical l = false) →
      ∃ u, exec (.linkTrainingStart l) s = .next u ∧ others u ∧ u.links.nodeId = s.links.nodeIdTraining ∧
        linkAt u l = { lk with state := 2, attempts := lk.attempts + 1, width := 0, trainKey := s.links.jobKey, ephemeral := none }) ∧
    (∀ outE inE, lk.state = 2 →
      let ls := (List.range 4).filter fun i => outE.getD i 0 ≤ gateLimit s && inE.getD i 0 ≤ gateLimit s
      let w := if ls.length = 4 then 4 else if 2 ≤ ls.length then 2 else ls.length
      ∃ u, exec (.errorGateComplete l outE inE) s = .next u ∧ others u ∧
        (∀ i, i < 4 → ((linkAt u l).lanesPassed.getLsbD i = true ↔ i ∈ ls)) ∧
        (w ≠ 0 → floorOf s lk.dimension ≤ w → (linkAt u l).state = 1 ∧ (linkAt u l).width = w ∧
          ∃ f : TrainFrame, u.links.trainOut = s.links.trainOut ++ [(l, f)] ∧ f.node = s.links.nodeId ∧ f.link = l ∧
            f.dimension = lk.dimension ∧ f.passSet = (linkAt u l).lanesPassed ∧ f.encrypts = encrypts s l ∧
            (isOptical l = true → f.keyCheck = keyCheckOf s lk (partnerOf s s.links.nodeId lk.dimension))) ∧
        (w = 0 ∨ w < floorOf s lk.dimension → (linkAt u l).width = 0 ∧
          (linkAt u l).state = if s.links.trainAttempts ≤ lk.attempts then 4 else 1)) ∧
    (∀ t : TrainFrame, lk.state = 1 → lk.width ≠ 0 → (encrypts s l = true → heartwoodServes s = true) →
      let ls := (List.range 4).filter fun i => lk.lanesPassed.getLsbD i && t.passSet.getLsbD i
      let w := if ls.length = 4 then 4 else if 2 ≤ ls.length then 2 else ls.length
      let peer := decide (t.node = partnerOf s s.links.nodeId lk.dimension ∧ t.dimension = lk.dimension)
      let keyed := !isOptical l || decide (t.keyCheck = keyCheckOf s lk t.node ∧ t.encrypts = encrypts s l)
      ∃ u, exec (.trainingFrame l t) s = .next u ∧ others u ∧
        (peer = false → (linkAt u l).state = 5) ∧
        (peer = true → keyed = false → (linkAt u l).state = 6) ∧
        (peer = true → keyed = true → (w = 0 ∨ w < floorOf s lk.dimension) →
          (linkAt u l).state = if s.links.trainAttempts ≤ lk.attempts then 4 else 1) ∧
        (peer = true → keyed = true → w ≠ 0 → floorOf s lk.dimension ≤ w →
          let ready := fun ks => (linkAt u l).state = 3 ∧ (linkAt u l).width = w ∧ (linkAt u l).keys = ks ∧ (linkAt u l).txSeq = 0 ∧
            (linkAt u l).rxSeq = 0xFFFF ∧ (linkAt u l).sent = [] ∧ (linkAt u l).credits = [] ∧
            ∀ i, i < 4 → ((linkAt u l).lanes.getLsbD i = true ↔ i ∈ ls.take w)
          (encrypts s l = false → ready none) ∧
          (encrypts s l = true → match linkKeysOf s l t with
            | none => (linkAt u l).state = 6
            | some k => ready (some k))))

/-- Flits and links that fall: FLIT_RECEIVE takes the code words of its lanes, and the next flit whose units have come: it discards a flit whose CRC fails or that is out of order, and asks for the resend;
a flit in order is accepted and a whole packet arrives. LINK_DOWN and OPTICAL_LIGHT_LOSS keep every unacknowledged packet
until LINK_SETTLEMENT_MESSAGE says which the other end has, and the rest are routed again, or are undeliverable (R259, R261, R263, R287).
Where a clause touches what the spec leaves open, the model's choice is that of logs 43, 45, 87, 109. -/
def Obligations.LinksLoseNoPacket : Prop :=
  (∀ (s : State) (l : Nat) (codes : List LaneCode), (linkAt s l).state = 3 → codesFit (linkAt s l) codes = true →
    let s1 := codes.foldl (fun s c => s.takeCode l c) s.redraw
    nextFlit (linkAt s1 l) = none → exec (.flitReceive l codes) s = .next s1 ∧ s1.links.arrived = s.links.arrived ∧
      (linkAt s1 l).rxSeq = (linkAt s l).rxSeq ∧ (linkAt s1 l).part = (linkAt s l).part ∧
      ∀ j, j ≠ l → linkAt s1 j = linkAt s j) ∧
  (∀ (s : State) (l : Nat) (codes : List LaneCode) (f : Flit) (rest : SMap (List (BitVec 256))), (linkAt s l).state = 3 →
    codesFit (linkAt s l) codes = true →
    nextFlit (linkAt (codes.foldl (fun s c => s.takeCode l c) s.redraw) l) = some (f, rest) →
    let lk := linkAt s l
    let good := decide (crc32 (flitBody f.hdr f.hdrCheck f.payload) = f.crc)
    let kept := fun u : State => u.links.arrived = s.links.arrived ∧ (linkAt u l).rxSeq = lk.rxSeq ∧ (linkAt u l).part = lk.part
    (good = false → ∃ u x, exec (.flitReceive l codes) s = .next u ∧ kept u ∧ (linkAt u l).discarding = true ∧
      (linkAt u l).crcFailures = satAdd 64 lk.crcFailures 1 ∧ u.links.flitsOut = s.links.flitsOut ++ [(l, x)]) ∧
    (∀ hdr, good = true → decodeWord (f.hdrCheck ++ f.hdr) = some hdr →
      let h := hdr.toNat
      let ws := f.payload.take (bits h 67 64)
      (bit h 89 = true → ∃ u, exec (.flitReceive l codes) s = .next u ∧ kept u) ∧
      (bit h 89 = false → BitVec.ofNat 16 (bits h 127 112) ≠ lk.rxSeq + 1 → lk.discarding = false →
        ∃ u x, exec (.flitReceive l codes) s = .next u ∧ kept u ∧ (linkAt u l).discarding = true ∧
          u.links.flitsOut = s.links.flitsOut ++ [(l, x)]) ∧
      (bit h 89 = false → BitVec.ofNat 16 (bits h 127 112) = lk.rxSeq + 1 → lk.keys = none → bit h 87 = false →
        ∃ u, exec (.flitReceive l codes) s = .next u ∧ (linkAt u l).rxSeq = lk.rxSeq + 1 ∧ (linkAt u l).discarding = false ∧
          (bit h 90 = false → u.links.arrived = s.links.arrived ∧ (linkAt u l).part = (if bit h 91 then [] else lk.part) ++ ws) ∧
          (∀ p, bit h 90 = true → packetOf ((if bit h 91 then [] else lk.part) ++ ws) = some p →
            u.links.arrived = s.links.arrived ++ [p] ∧ (linkAt u l).part = [] ∧ (linkAt u l).rxWhole = lk.rxSeq + 1)))) ∧
  (∀ (s : State) (l : Nat) (x : Instr) (st : Nat),
    ((∃ c, x = .linkDown l c ∧ (c = .resends → 16 ≤ (linkAt s l).resends) ∧ (linkAt s l).state = 3 ∧ st = 7) ∨
      x = .opticalLightLoss l ∧ isOptical l = true ∧ (linkAt s l).dimension ≤ 11 ∧ (linkAt s l).state ≠ 0 ∧ st = 8) →
    ∃ u, exec x s = .next u ∧ (linkAt u l).state = st ∧ (linkAt u l).width = 0 ∧ (∀ j, j ≠ l → linkAt u j = linkAt s j) ∧
      ((linkAt s l).state = 3 → (linkAt u l).sent = [] ∧ (linkAt u l).queue = [] ∧ (linkAt u l).part = [] ∧
        u.links.settleOut = s.links.settleOut ++ [(l, (linkAt s l).rxWhole)] ∧
        mgetD u.links.unsettled l [] = mgetD s.links.unsettled l [] ++ unacknowledged (linkAt s l)) ∧
      u.links.arrived = s.links.arrived ∧ u.mem = s.mem ∧ (NoFlipDue s → u.tiles = s.tiles)) ∧
  (∀ (s : State) (l : Nat) (ps : List (Packet × Option (BitVec 16))), mget s.links.unsettled l = some ps →
    (∃ u, exec (.linkSettlementMessage l none) s = .next u ∧ mget u.links.unsettled l = none ∧
      u.links.arrived = s.links.arrived ∧
      u.links.undeliverable = ps.foldl (fun n _ => satAdd 64 n 1) s.links.undeliverable) ∧
    (∀ q, ∃ u, exec (.linkSettlementMessage l (some q)) s = .next u ∧ mget u.links.unsettled l = none ∧
      u.links.undeliverable = s.links.undeliverable ∧
      (∀ i e, ps[i]? = some (e, some q) → (∀ j f, j < i → ps[j]? = some f → f.2 ≠ some q) →
        u.links.arrived = s.links.arrived ++ (ps.drop (i + 1)).map Prod.fst) ∧
      ((∀ f ∈ ps, f.2 ≠ some q) → u.links.arrived = s.links.arrived ++ ps.map Prod.fst)))

/-- PACKET_ROUTE and ESCAPE_LANE_TIMEOUT: the router hands in what is for this module, waits where no ready link has credit, drops
what cannot go on, and sends on a ready link that has credit (a packet that waits moves to the escape lane): on the adaptive lane in a dimension the route names, on the
escape lane in the fallback's, a board-window packet in dimensions 0–2 only, and never past 15 links (R272, R273, R275). -/
def Obligations.PacketsTakeAllowedLinks : Prop :=
  ∀ (s : State) (origin : PacketFrom) (p : Packet),
    (origin = .own → p ∈ s.links.outbox ∧ (s.links.trafficHold = 0 ∨ heldBack p = false)) →
    let e := routeEntry s p.dst
    (p.dst = s.links.nodeId → packetMalformed p = false →
      ∃ u, exec (.packetRoute origin p) s = .next u ∧ u.links.inbox = s.links.inbox ++ [p] ∧ u.mem = s.mem) ∧
    (p.dst ≠ s.links.nodeId → (bit e 31 = false ∨ 15 ≤ p.hops) →
      ∃ u, exec (.packetRoute origin p) s = .next u ∧
        u.links.undeliverable = satAdd 64 s.links.undeliverable 1 ∧ u.mem = s.mem) ∧
    (routeOf s.redraw p = .wait → exec (.packetRoute origin p) s = .next s) ∧
    (∀ l lane, mwf s.links.links = true → routeOf s.redraw p = .link l lane →
      p.dst ≠ s.links.nodeId ∧ p.hops < 15 ∧ bit e 31 = true ∧ (linkAt s l).state = 3 ∧
      0 < creditsHeld s l (channelOfType p.ptype) lane ∧ (p.ptype ≤ 4 → (linkAt s l).dimension < 3) ∧
      (lane = 0 ∧ bit e (linkAt s l).dimension = true ∨ lane = 1 ∧ p ∈ s.links.escape ∧ (linkAt s l).dimension = bits e 15 12) ∧
      ∃ u, exec (.packetRoute origin p) s = .next u ∧ u.mem = s.mem ∧
        (∀ j, j ≠ l → (origin = .own ∨ ∀ r ∈ s.links.received, r.1 = p → r.2.1 ≠ j) → linkAt u j = linkAt s j) ∧
        mgetD (linkAt u l).credits (2 * channelOfType p.ptype + lane) 0 =
          mgetD (linkAt s l).credits (2 * channelOfType p.ptype + lane) 0 +
            (packetFlits p (channelOfType p.ptype) lane (if (linkAt s l).keys.isSome then 12 else 13)
              (packetWords s.redraw { p with hops := p.hops + 1 })).length) ∧
    (routeOf s p ≠ .wait → exec (.escapeLaneTimeout p) s = .next s) ∧
    ((p ∈ s.links.outbox ∨ p ∈ s.links.arrived) → p ∉ s.links.escape → routeOf s p = .wait →
      ∃ u, exec (.escapeLaneTimeout p) s = .next u ∧ p ∈ u.links.escape ∧ u.links.outbox = s.links.outbox ∧
        u.links.arrived = s.links.arrived ∧ u.mem = s.mem)

/-- The answer to a packet waits in the outbox, for the node and tag it came from. -/
def Sys2Proof.Machine.AnswerSent (s u : State) (p : Packet) (ty status : Nat) (aux : BitVec 64) (data : List Byte) : Prop :=
  u.links.outbox = s.links.outbox ++ [{ basePacket s.links.nodeId p.src p.tenant ty p.tag with
    status := status, aux := aux, data := data, length := data.length }]

/-- READ_REQUEST, WRITE_REQUEST and ATOMIC_REQUEST at their home: where the tenant may reach the address they perform, and their
answer carries the data, nothing, or the old value; where it may not, or the stack is being reset, they are answered with that
status and change no byte; a packet that breaks its table is dropped and counted (R160, R175, R265, R266, R381).
Where a clause touches what the spec leaves open, the model's choice is that of logs 20, 26, 88. -/
def Obligations.RequestsPerformAtTheirHome : Prop :=
  ∀ (s : State) (p : Packet) (ecc : Ecc), p.dst = s.links.nodeId → ecc = { bad := [], corrected := [] } →
    let d := boardDpa p.addr.toNat
    let st := targetStatus s p.tenant p.addr.toNat
    let kept := fun u : State => u.mem.fast = s.mem.fast ∧ u.mem.slow = s.mem.slow ∧ u.tiles = s.tiles
    (∀ (x : Instr) (ty ans : Nat), (x, ty, ans) ∈ [(Instr.readRequest p ecc, 0, 3), (.writeRequest p ecc, 1, 4)] → p.ptype = ty →
      (packetMalformed p = true → ∃ u, exec x s = .next u ∧ u.links.undeliverable = satAdd 64 s.links.undeliverable 1 ∧ kept u) ∧
      (packetMalformed p = false → st ≠ 0 → ∃ u, exec x s = .next u ∧ AnswerSent s u p ans st 0 [] ∧ kept u)) ∧
    (p.ptype = 0 → packetMalformed p = false → st = 0 → dpaRetraining s d = false →
      let n := p.aux.toNat % 1024 + 1
      (dpaBad s d n = false → ∃ u, exec (.readRequest p ecc) s = .next u ∧
        AnswerSent s u p 3 0 (if homeDeclines s p.tenant p.addr.toNat then 1 else 0) (padTo 16 (dpaBytes s d n)) ∧ kept u) ∧
      (dpaBad s d n = true → ∃ u, exec (.readRequest p ecc) s = .next u ∧ AnswerSent s u p 3 3 0 [] ∧ kept u)) ∧
    (p.ptype = 1 → packetMalformed p = false → st = 0 → dpaRetraining s d = false → p.badWords = [] →
      ∃ u, exec (.writeRequest p ecc) s = .next u ∧ u.mem.fast = (performWrite s p d).1.mem.fast ∧
        u.mem.slow = s.mem.slow ∧ u.tiles = s.tiles ∧
        AnswerSent s u p 4 (if (performWrite s p d).2 then 3 else 0) 0 []) ∧
    (p.ptype = 2 → packetMalformed p = false →
      let a := p.aux.toNat
      let n := if bit a 5 then 8 else 4
      let op := atomOfCode a
      (atomTypes op (bit a 5)).contains (bits a 4 3) = true → d % n = 0 →
      (st ≠ 0 → ∃ u, exec (.atomicRequest p ecc) s = .next u ∧ AnswerSent s u p 4 st 0 [] ∧ kept u) ∧
      (st = 0 → dpaRetraining s d = false → p.badWords = [] → dpaBad s d n = false →
        let old := leNat (dpaBytes s d n)
        let new := atomResult op (bits a 4 3) (8 * n) old (leNat (p.data.take n)) (leNat ((p.data.drop 8).take n))
        ∃ u, exec (.atomicRequest p ecc) s = .next u ∧ AnswerSent s u p 4 0 (BitVec.ofNat 64 old) [] ∧
          u.mem.fast = (s.writeDpa d (leBytes n new)).1.mem.fast ∧ u.mem.slow = s.mem.slow ∧ u.tiles = s.tiles))

/-- READ_RESPONSE, WRITE_OR_ATOMIC_RESPONSE, UNDELIVERABLE_NOTICE and TARGET_RESET_REISSUE at the requester: an answer closes its
request and reaches who waits, the data of a good one, or a freeze with BOARD_WINDOW or UNCORRECTABLE_DATA; target reset leaves the
request waiting, and its reissue sends it again; one whose master is being reset is discarded (R185, R260, R267, R276, R380,
R381). -/
def Obligations.AnswersReachTheirRequesters : Prop :=
  ∀ (s : State) (p : Packet) (r : Request), p.dst = s.links.nodeId → packetMalformed p = false →
    mget s.links.requests p.tag = some r → r.packet.dst = p.src →
    let n := r.packet.aux.toNat % 1024 + 1
    let away := masterResetting s r.who
    let asAnswer := fun (x : Instr) (st : Nat) => x = Instr.readResponse p ∧ p.ptype = 3 ∧ st = p.status ∨
      x = .writeOrAtomicResponse p ∧ p.ptype = 4 ∧ st = p.status ∨
      x = .undeliverableNotice p ∧ p.ptype = 10 ∧ st = 4 ∧ p.aux.toNat % 16 ≠ 5 ∧ p.aux.toNat % 16 ≠ 6
    (∀ x st, asAnswer x st → away = true →
      ∃ u, exec x s = .next u ∧ mget u.links.requests p.tag = none ∧ u.tenants = s.tenants ∧ SameMemory s u) ∧
    (∀ x st, asAnswer x st → away = false → st = 1 →
      ∃ u, exec x s = .next u ∧ mget u.links.requests p.tag = some { r with resetSeen := true } ∧ u.mem = s.mem ∧
        (NoFlipDue s → u.tiles = s.tiles)) ∧
    (∀ x st l tag off, asAnswer x st → away = false → st ≠ 1 → r.who = .copyRead l tag off → ∀ tenant strm,
      ownerOf s l = some tenant → streamAt s l tag = some strm →
      ∃ u, exec x s = .next u ∧ mget u.links.requests p.tag = none ∧
        (answerCause st p = none → ∃ target, streamAt u l tag =
          some { strm with inflight := [], got := mset strm.got off (p.data.take n), target := target }) ∧
        (∀ c, answerCause st p = some c → ∃ f ∈ (tenantAt u tenant).freezes, f.master = streamMaster strm.kind l tag ∧ f.cause = c)) ∧
    (∀ x st l tag k, asAnswer x st → away = false → st ≠ 1 → r.who = .copyWrite l tag k → ∀ tenant strm,
      ownerOf s l = some tenant → streamAt s l tag = some strm →
      ∃ u, exec x s = .next u ∧ mget u.links.requests p.tag = none ∧
        (boardCause st = none → ∃ target, streamAt u l tag =
          some { wroteBytes { strm with inflight := [] } (copyUnit strm.desc strm.next) k with target := target }) ∧
        (∀ c, boardCause st = some c → ∃ f ∈ (tenantAt u tenant).freezes, f.master = streamMaster strm.kind l tag ∧ f.cause = c)) ∧
    (∀ x st l serial, asAnswer x st → away = false → st ≠ 1 → r.who = .access l serial → ∀ tenant a,
      ownerOf s l = some tenant → (tileAt s l).accesses.find? (fun a => a.serial = serial) = some a →
      ∃ s1, s1.tiles = s.tiles ∧ s1.mem = s.mem ∧ mget s1.links.requests p.tag = none ∧
        (answerCause st p = none → a.kind ≠ .store →
          exec x s = .next (((returnAccess s1 l tenant a (answerValue a p)).pump l tenant).settleAcks)) ∧
        (answerCause st p = none → a.kind = .store → exec x s = .next (((retireStore s1 l a).pump l tenant).settleAcks)) ∧
        (∀ c, answerCause st p = some c → exec x s = .next (((faultAccess s1 l tenant a c).pump l tenant).settleAcks))) ∧
    (∀ x st l tag i, asAnswer x st → away = false → st ≠ 1 → r.who = .gatherRow l tag i none → answerCause st p = none →
      ∃ s1 : State, s1.tiles = s.tiles ∧ s1.mem = s.mem ∧ mget s1.links.requests p.tag = none ∧
        exec x s = .next ((s1.deliverRow l tag i (p.data.take n)).settleAcks)) ∧
    (∀ l tag, r.resetSeen = true → r.who = .copyRead l tag 0 → (∀ e ∈ s.links.requests, reissueMatches (.copyPart l tag) e.2 = true → e = (p.tag, r)) →
      ∃ u, exec (.targetResetReissue (.copyPart l tag)) s = .next u ∧ u.links.outbox = s.links.outbox ++ [r.packet] ∧
        mget u.links.requests p.tag = some { r with resetSeen := false } ∧ u.mem = s.mem ∧ u.tiles = s.tiles)

/-- EXCHANGE_DATA and EXCHANGE_FLAG at the peer write its tile's local memory where the key is the tenant's and the tile its own,
and answer 6 or 5 with nothing written where not; EXCHANGE_ACKNOWLEDGE counts a packet as written, retires the tag after
the last, or freezes the stream with its cause; POOL_INVALIDATIONS makes each named row's valid ways stale and dooms its
fills (R211, R267, R277–R280).
Where a clause touches what the spec leaves open, the model's choice is that of logs 25, 89. -/
def Obligations.ExchangesAndInvalidationsArrive : Prop :=
  (∀ (s : State) (p : Packet) (ecc : Ecc) (x : Instr) (bs : List Byte), p.dst = s.links.nodeId → packetMalformed p = false →
    ecc = { bad := [], corrected := [] } → p.badWords = [] →
    (x = .exchangeData p ecc ∧ p.ptype = 5 ∧ bit p.aux.toNat 52 = false ∧ bs = p.data ∨
      x = .exchangeFlag p ecc ∧ p.ptype = 6 ∧ bs = leBytes 4 (p.aux.toNat % 2 ^ 32)) →
    let l := bits p.aux.toNat 63 53
    (p.key ≠ (tenantAt s p.tenant).exchangeKey → ∃ u, exec x s = .next u ∧ AnswerSent s u p 7 6 0 [] ∧ SameMemory s u) ∧
    (p.key = (tenantAt s p.tenant).exchangeKey → ownerOf s l ≠ some p.tenant →
      ∃ u, exec x s = .next u ∧ AnswerSent s u p 7 5 0 [] ∧ SameMemory s u) ∧
    (p.key = (tenantAt s p.tenant).exchangeKey → ownerOf s l = some p.tenant → tileResetting s l = false →
      (tileAt s l).lmBad = [] → ∃ u, exec x s = .next u ∧ AnswerSent s u p 7 0 0 [] ∧
        (∀ k, k < bs.length → lmByte u l (p.addr.toNat + k) = bs.getD k 0) ∧
        (∀ a, a < p.addr.toNat ∨ p.addr.toNat + bs.length ≤ a → lmByte u l a = lmByte s l a) ∧
        (∀ j a, j ≠ l → lmByte u j a = lmByte s j a) ∧ u.mem = s.mem)) ∧
  (∀ (s : State) (p : Packet) (r : Request) (l tag tenant k : Nat) (st : Stream), p.dst = s.links.nodeId → p.ptype = 7 →
    packetMalformed p = false → mget s.links.requests p.tag = some r → r.packet.dst = p.src → r.who = .exchangePart l tag k →
    ownerOf s l = some tenant → streamAt s l tag = some st → tileResetting s l = false →
    (p.status = 0 → (ninsert st.written k).length = xParts st.desc → xFlagEn st.desc = false →
      ∃ u, exec (.exchangeAcknowledge p) s = .next u ∧ streamAt u l tag = none ∧ mget u.links.requests p.tag = none ∧ SameMemory s u) ∧
    (∀ c, exchangeCause p.status = some c → k < xParts st.desc →
      ∃ u f, exec (.exchangeAcknowledge p) s = .next u ∧ f ∈ (tenantAt u tenant).freezes ∧
        f.master = streamMaster st.kind l tag ∧ f.cause = c ∧ f.address = dbits st.desc 159 112 + 4096 * k ∧ SameMemory s u)) ∧
  (∀ (s : State) (p : Packet), p.dst = s.links.nodeId → p.ptype = 9 → packetMalformed p = false →
    ∃ u, exec (.poolInvalidations p) s = .next u ∧ u.tiles = s.tiles ∧ ∀ k,
      let w := wayAt s k
      let named := (recordsOfPacket p).any fun v => !bit v 13 && decide (bits v 63 54 = w.tenant) &&
        decide (bits v 53 46 = w.table) && decide (bits v 45 14 = w.row)
      wayAt u k = if named && decide (w.state = 2) then { w with state := 3 }
        else if named && decide (w.state = 1) then { w with doomed := true } else w)

/-- The link objects: TRAFFIC_HOLD_WRITE holds the module's own packets back and TRAFFIC_HELD says when none is under way,
ROUTE_TABLE_WRITE takes effect only while traffic is held, and RETRAIN_DIMENSIONS and LINK_CONTROL order training, take a link
down or bring it back (R271, R274, R286, R291).
Where a clause touches what the spec leaves open, the model's choice is that of logs 74, 87. -/
def Obligations.LinkObjectsTakeEffect : Prop :=
  (∀ (s : State) (path : Path) (tag : BitVec 16) (role : Nat) (own : Option Nat), Served s path role own → role = 3 ∨ role = 5 →
    (∃ u, exec (.trafficHoldWrite path tag 0) s = .next u ∧ u.links.trafficHold = 0 ∧ u.mem = s.mem ∧
      Answered u path (writeMsg tag none 0x5000 2 [0]) 0 []) ∧
    (∃ u, exec (.trafficHoldWrite path tag 1) s = .next u ∧ u.mem = s.mem ∧
      u.links.trafficHold = (if s.links.trafficHold = 0 then 1 else s.links.trafficHold) ∧
      Answered u path (writeMsg tag none 0x5000 2 [1]) 0 []) ∧
    (∀ off bs, 1 ≤ bs.length → off + bs.length ≤ 16384 →
      let m := (newEntries (domainOf s 0 0x5080 1) off bs).foldl (fun o e => mput (0 : W32) o e.1 (BitVec.ofNat 32 e.2)) s.links.routes
      (s.links.trafficHold = 2 → routesBad s m = false →
        ∃ u, exec (.routeTableWrite path tag off bs) s = .next u ∧ u.links = { s.links with routes := m } ∧ u.mem = s.mem) ∧
      ((s.links.trafficHold ≠ 2 ∨ routesBad s m = true) →
        ∃ u, exec (.routeTableWrite path tag off bs) s = .next u ∧ u.links = s.links ∧ u.mem = s.mem)) ∧
    (∀ v : BitVec 16, v.toNat < 2 ^ 12 → mwf s.links.links = true →
      ∃ u, exec (.retrainDimensions path tag v) s = .next u ∧ u.mem = s.mem ∧ (NoFlipDue s → u.tiles = s.tiles) ∧
        (∀ l, mget s.links.links l ≠ none → (linkAt s l).dimension < 12 → v.getLsbD (linkAt s l).dimension = true → (linkAt s l).state ≠ 0 →
          (linkAt u l).state = 1) ∧
        (∀ l, (12 ≤ (linkAt s l).dimension ∨ v.getLsbD (linkAt s l).dimension = false ∨ (linkAt s l).state = 0) →
          linkAt u l = linkAt s l)) ∧
    (∀ l, l < 96 → (linkAt s l).dimension ≤ 11 →
      ((linkAt s l).state ≠ 0 → ∃ u, exec (.linkControlRetrain path tag l) s = .next u ∧ (linkAt u l).state = 1 ∧ u.mem = s.mem) ∧
      ((linkAt s l).state ≠ 0 → ∃ u, exec (.linkControlDisable path tag l) s = .next u ∧ (linkAt u l).state = 0 ∧
        (linkAt u l).width = 0 ∧ u.mem = s.mem) ∧
      ((linkAt s l).state = 0 → ∃ u, exec (.linkControlEnable path tag l) s = .next u ∧ (linkAt u l).state = 1 ∧ u.mem = s.mem))) ∧
  (∀ s : State, s.links.trafficHold = 1 →
    (ownDrained s = true → exec .trafficHeld s = .next { s with links := { s.links with trafficHold := 2 } }) ∧
    (ownDrained s = false → exec .trafficHeld s = .next s))

/-! ### Work queues and the host -/

/-- The four descriptors and a reserved type, when it is the queue's turn and its next descriptor can be read: NOP completes with
its record in the ring, LAUNCH puts its block in the tile's launch order, FEED and EXPORT begin their copy, and one that
breaks its table, or of a reserved type, freezes the queue with QUEUE_DESCRIPTOR and is not passed (R306–R310, R313, R316); a
read of the ring waits for a channel that retrains or a scope under reset (R187, R381). A
descriptor that cannot be read freezes it with UNCORRECTABLE_DATA. FEED_EXPORT_COMPLETE: a FEED of one line writes the host's 64 bytes at the tenant's address, an EXPORT of one line writes the line's bytes
to the host, and each completes with its record; a line that does not translate freezes the queue with its cause, and a copy
without the host link ends with status 6 (R309, R310, R316, R320).
Where a clause touches what the spec leaves open, the model's choice is that of logs 27, 28, 91. -/
def Obligations.QueuesRunTheirDescriptors : Prop :=
  (∀ (s : State) (t q : Nat), q < 8 → queueTurn s t q = true →
     let n := nextDesc s t q
     let d := nextDescBytes s t q
     let y := queueAt s t q
     let p := launchParams d
     let passed := fun z : Queue => z.head = (if y.reread = [] then y.head + 1 else y.head) ∧ z.reread = y.reread.tail
     let froze := fun (u : State) (c : Nat) => isFrozen u t (queueMaster q) = true ∧
       (∃ f ∈ (tenantAt u t).freezes, f.master = queueMaster q ∧ f.cause = c ∧ f.address = n ∧ f.desc = d) ∧
       (queueAt u t q).head = y.head ∧ (queueAt u t q).completed = y.completed ∧ u.tiles = s.tiles
     let bad := dpaBad s (descAddress s t q n) 64
     (dpaWaits s (descAddress s t q n) 64 = true →
       ∀ x, x = Instr.nopDescriptor t q ∨ x = .launch t q ∨ x = .feed t q ∨ x = .exportDesc t q → exec x s = .next s) ∧
     (dpaWaits s (descAddress s t q n) 64 = false →
     (∀ x, x = Instr.nopDescriptor t q ∨ x = .launch t q ∨ x = .feed t q ∨ x = .exportDesc t q → bad = true →
       ∃ u, exec x s = .next u ∧ froze u 0x22) ∧
     (bad = false → dbits d 4 0 = 0 → descReserved d 511 16 = false →
       ∃ u, exec (.nopDescriptor t q) s = .next u ∧ passed (queueAt u t q) ∧ u.tiles = s.tiles ∧
         (n = y.completed + 1 → y.completed + 1 ≤ (queueAt u t q).completed) ∧
         u.mem = (s.writeDpa (recordAddress s t q n) (recordBytes n q 0 0 0 0)).1.mem) ∧
     (bad = false → dbits d 4 0 = 1 → descReserved d 92 16 = false → launchBad s t p = false →
       ∃ u, exec (.launch t q) s = .next u ∧ passed (queueAt u t q) ∧ u.mem = s.mem ∧
         tileAt u p.tile = { tileAt s p.tile with waiting := (tileAt s p.tile).waiting ++
           [{ params := p, tenant := t, queue := q, seq := n, epoch := y.epoch }] } ∧
         ∀ l, l ≠ p.tile → tileAt u l = tileAt s l) ∧
     (∀ x ty need, (x, ty, need) ∈ [(Instr.feed t q, 2, 0), (.exportDesc t q, 3, 1)] → bad = false → dbits d 4 0 = ty →
       (moveDescBad s t d need = false → ∃ u, exec x s = .next u ∧ passed (queueAt u t q) ∧ u.mem = s.mem ∧ u.tiles = s.tiles ∧
         (queueAt u t q).running = y.running ++ [(y.epoch, n, d)]) ∧
       (moveDescBad s t d need = true → ∃ u, exec x s = .next u ∧ froze u 0x60)) ∧
     (∀ x ty, (x, ty) ∈ [(Instr.nopDescriptor t q, 0), (.launch t q, 1)] → bad = false → dbits d 4 0 = ty →
       (ty = 0 ∧ descReserved d 511 16 = true ∨ ty = 1 ∧ (descReserved d 92 16 = true ∨ launchBad s t p = true)) →
       ∃ u, exec x s = .next u ∧ froze u 0x60) ∧
     (bad = false → 4 ≤ dbits d 4 0 → ∃ u, exec (.workDescriptorReservedType t q) s = .next u ∧ froze u 0x60))) ∧
  (∀ (s : State) (t q n : Nat) (d data : List Byte) (ecc : Ecc), ecc = { bad := [], corrected := [] } →
     (queueAt s t q).running.find? (fun e => e.2.1 = n) = some ((queueAt s t q).epoch, n, d) → queueInUse s t q = true →
     let finish := fun (how : TransferEnd) => exec (.feedExportComplete t q n data ecc how) s
     let ring := recordAddress s t q n
     let ended := fun u : State => (queueAt u t q).running = (queueAt s t q).running.erase ((queueAt s t q).epoch, n, d)
     (s.host.linkWidth = 0 → ∃ u, finish .linkLost = .next u ∧ ended u ∧ u.tiles = s.tiles ∧
       u.mem = (s.writeDpa ring (recordBytes n q 6 0 0 0)).1.mem) ∧
     (s.host.linkWidth ≠ 0 → moveWaits s t d = false → moveBytes d = 64 →
       (∀ a, dbits d 4 0 = 2 → data.length = 64 → moveTarget s t d 0 .w = .ok a → (s.writeDpa a data).2 = false →
         ∃ u, finish .done = .next u ∧ ended u ∧ u.tiles = s.tiles ∧ u.host.written.take s.host.written.length = s.host.written ∧
           u.mem = ((s.writeDpa a data).1.writeDpa ring (recordBytes n q 0 0 0 64)).1.mem) ∧
       (∀ a, dbits d 4 0 = 3 → moveTarget s t d 0 .r = .ok a → dpaBad s a 64 = false →
         ∃ u rest, finish .done = .next u ∧ ended u ∧ u.tiles = s.tiles ∧
           u.host.written = s.host.written ++
             (windowBase (hostWindow s t (dbits d 105 104)) + dbits d 255 192, dpaBytes s a 64) :: rest ∧
           u.mem = (s.writeDpa ring (recordBytes n q 0 0 0 64)).1.mem) ∧
       (∀ c need, dbits d 4 0 = 2 ∧ need = .w ∧ data.length = 64 ∨ dbits d 4 0 = 3 ∧ need = .r → moveTarget s t d 0 need = .error c →
         queueFrozen s t q = false →
         ∃ u, finish .done = .next u ∧ ended u ∧ u.tiles = s.tiles ∧
           ∃ f ∈ (tenantAt u t).freezes, f.master = queueMaster q ∧ f.cause = c ∧ f.address = n)))

/-- The functions and the link: a Function Level Reset takes every queue of the VF out of use with its objects at their defaults
and its copies running on, and resets its mailbox; PF 0's closes the sessions of its mailbox; VF_ENABLE_CLEAR and NUMVFS_WRITE
reset the VFs that leave; CXL_LINK_DOWN ends every copy under way, and CXL_LINK_UP brings the link back, narrow or not (R294,
R296, R320, R337).
Where a clause touches what the spec leaves open, the model's choice is that of logs 51, 92. -/
def Obligations.FunctionsAndLinkReset : Prop :=
  (∀ (s : State) (k : Nat), vfReachable s k = true →
    ∃ u, exec (.vfFunctionLevelReset k) s = .next u ∧ u.mem = s.mem ∧ u.tiles = s.tiles ∧ mailboxAt u k = {} ∧
      (∀ j, j ≠ k → mailboxAt u j = mailboxAt s j) ∧ (∀ x ∈ u.dict.transfers, x.path ≠ .vf k) ∧
      (∀ q, q < 8 → queueAt u (k - 1) q = { epoch := (queueAt s (k - 1) q).epoch + 1, running := (queueAt s (k - 1) q).running } ∧
        queueFrozen u (k - 1) q = false) ∧
      ∀ t q, t ≠ k - 1 → queueAt u t q = queueAt s t q) ∧
  (∀ s : State, s.host.linkWidth ≠ 0 →
    (∃ u, exec .pf0FunctionLevelReset s = .next u ∧ u.mem = s.mem ∧ u.tiles = s.tiles ∧ mailboxAt u 0 = {} ∧
      u.dict.sessions = (s.dict.sessions.filter fun x => x.line ≠ 2) ∧ u.tenants = s.tenants ∧
      ∀ x ∈ u.dict.transfers, x.path ≠ .pf0) ∧
    (s.host.vfEnable = true →
      ∃ u, exec .vfEnableClear s = .next u ∧ u.host = { s.host with vfEnable := false } ∧ u.mem = s.mem ∧ u.tiles = s.tiles ∧
        ∀ t q, t < s.host.numVfs → q < 8 → (queueAt u t q).entries = 0) ∧
    (∀ n e, n ≤ 1024 → ∃ u, exec (.numvfsWrite n e) s = .next u ∧ u.host = { s.host with numVfs := n, vfEnable := e } ∧
      u.mem = s.mem ∧ u.tiles = s.tiles ∧ (s.host.vfEnable = false ∨ e = true → u.tenants = s.tenants) ∧
      (s.host.vfEnable = true → e = false → ∀ t q, t < s.host.numVfs → q < 8 → (queueAt u t q).entries = 0)) ∧
    ∃ u, exec .cxlLinkDown s = .next u ∧ u.host.linkWidth = 0 ∧ u.host.linkRate = 0 ∧ u.tiles = s.tiles ∧
      (∀ t q, q < 8 → (queueAt u t q).running = []) ∧
      ((∀ t q, q < 8 → (queueAt s t q).running = []) → u.mem = s.mem ∧ u.tenants = s.tenants)) ∧
  (∀ (s : State) (w r : Nat), s.host.linkWidth = 0 → 3 ≤ s.service.bringUp →
    ∃ u, exec (.cxlLinkUp w r) s = .next u ∧ u.mem = s.mem ∧ u.tiles = s.tiles ∧
      (w ∈ [4, 8, 16] → r ∈ [8, 16, 32] → u.host.linkWidth = w ∧ u.host.linkRate = r ∧
        (u.host.cxlNarrow = true ↔ ¬ (w = 16 ∧ r = 32))) ∧
      (w ∉ [4, 8, 16] ∨ r ∉ [8, 16, 32] → u.host.linkWidth = 0))

/-- DOORBELL and READ_POINTER write one of a queue's two pointers: a value within its bounds is taken, one beyond them freezes the
queue with QUEUE_OVERRUN at the descriptor it would read next, whose record it writes, a write to a queue that is not in use is dropped and counted, and a write that is not 8
aligned bytes changes nothing; a write to the descriptor rings lands there (R304, R305, R311, R312, R315, R318). QUEUE_ENTRIES_WRITE by the tenant: a size the table allows, for an assigned queue whose mirror fits, puts the queue in use with
its pointers and counts at zero and its completion ring zero; 0 takes it out; any other is refused, and one that has
not completed what it accepted is not quiesced (R306, R323).
Where a clause touches what the spec leaves open, the model's choice is that of logs 50, 75, 93, 113. -/
def Obligations.QueuesComeIntoUseAndMovePointers : Prop :=
  (∀ (s : State) (vf q : Nat) (data : List Byte), vfReachable s vf = true → q < 8 →
     let t := vf - 1
     let y := queueAt s t q
     let v := leNat data
     ∀ (x : Instr) (ok : Prop) (moved : Queue → Queue),
       (x = .doorbell vf (8 * q) data ∧ (ok ↔ y.tail ≤ v ∧ v ≤ y.readPtr + y.entries) ∧ moved = (fun z => { z with tail := v }) ∨
        x = .readPointer vf (0x100 + 8 * q) data ∧ (ok ↔ y.readPtr ≤ v ∧ v ≤ y.completed) ∧ moved = fun z => { z with readPtr := v }) →
       (data.length ≠ 8 → exec x s = .next s) ∧
       (data.length = 8 → queueState s t q = 0 ∨ queueState s t q = 3 →
         exec x s = .next (s.updQueue t q fun z => { z with dropped := satAdd 32 z.dropped 1 })) ∧
       (data.length = 8 → queueState s t q = 1 ∨ queueState s t q = 2 → ok → exec x s = .next (s.updQueue t q moved)) ∧
       (data.length = 8 → queueState s t q = 1 → ¬ ok → ∃ u, exec x s = .next u ∧ isFrozen u t (queueMaster q) = true ∧
         (∃ f ∈ (tenantAt u t).freezes, f.master = queueMaster q ∧ f.cause = 0x61 ∧
           (y.tail < nextDesc s t q → f.address = 0) ∧ (nextDesc s t q ≤ y.tail → f.address = nextDesc s t q)) ∧
         (queueAt u t q).tail = y.tail ∧ (queueAt u t q).readPtr = y.readPtr ∧ u.tiles = s.tiles ∧
         (y.tail < nextDesc s t q → u.mem = s.mem) ∧
         (nextDesc s t q ≤ y.tail → nextDesc s t q ≠ 0 → u.mem =
           (s.writeDpa (recordAddress s t q (nextDesc s t q)) (recordBytes (nextDesc s t q) q 3 0x61 0 0)).1.mem))) ∧
  (∀ (s : State) (vf off : Nat) (data : List Byte), vfReachable s vf = true → 0x100000 ≤ off → off + data.length ≤ 0x200000 →
     let a := s.host.queueArea + 2 ^ 21 * (vf - 1) + (off - 0x100000)
     (dpaWaits s a data.length = true → exec (.doorbell vf off data) s = .next s) ∧
     (dpaWaits s a data.length = false → ∃ u, exec (.doorbell vf off data) s = .next u ∧
       u.mem = (s.writeDpa a data).1.mem ∧ u.tenants = s.tenants ∧ u.tiles = s.tiles)) ∧
  (∀ (s : State) (path : Path) (tag v : BitVec 16) (t q : Nat), Served s path 2 (some t) → t < 1024 → q < 8 →
     let n := v.toNat
     let y := queueAt s t q
     let m := writeMsg tag (some t) (0xC000 + q) 1 (leBytes 2 n)
     let ok := n = 0 ∨ n ∈ [16, 32, 64, 128, 256, 512, 1024, 2048] ∧ queueAssigned s t q = true ∧
       mirrorFits s.host.windows t y.mirrorWindow y.mirrorOffset n = true
     (queueQuiesced s t q = false → ∃ u, exec (.queueEntriesWrite path tag t q v) s = .next u ∧ u.tenants = s.tenants ∧ u.mem = s.mem ∧
       Answered u path m 6 []) ∧
     (queueQuiesced s t q = true → ¬ ok → ∃ u, exec (.queueEntriesWrite path tag t q v) s = .next u ∧ u.tenants = s.tenants ∧
       u.mem = s.mem ∧ Answered u path m 7 []) ∧
     (queueQuiesced s t q = true → ok → ∃ u, exec (.queueEntriesWrite path tag t q v) s = .next u ∧ Answered u path m 0 [] ∧
       u.tiles = s.tiles ∧ queueFrozen u t q = false ∧ (queueAt u t q).entries = n ∧ (queueAt u t q).mirrorWindow = y.mirrorWindow ∧
       (n = 0 → u.mem = s.mem) ∧
       (n ≠ 0 → (queueAt u t q).tail = 0 ∧ (queueAt u t q).head = 0 ∧ (queueAt u t q).completed = 0 ∧ (queueAt u t q).readPtr = 0 ∧
         u.mem = (s.writeDpa (s.host.queueArea + 2 ^ 21 * t + 0x100000 + 0x10000 * q) (List.replicate (32 * n) 0)).1.mem)))

/-- HDM_ACCESS, HOST_SNOOP, PF0_APERTURE_WRITE, HDM_DECODER_COMMIT, BIAS_REQUEST and DOE_DISCOVERY: an open access reads or writes the
bytes it names, one that is not open is counted, reads zeros with poison and writes nothing; a snoop misses; the aperture
writes the page-table area; the decoder commits one way over the whole view; and a page's bias flips once nothing uses it (R293,
R299–R302).
Where a clause touches what the spec leaves open, the model's choice is that of log 94. -/
def Obligations.HostManagedMemoryServes : Prop :=
  (∀ (s : State) (hpa : Nat) (a : HostAccess) (ecc : Ecc), ecc = { bad := [], corrected := [] } → s.host.linkWidth ≠ 0 →
    s.host.hdmCommitted = true → s.host.hdmBase ≤ hpa →
    let d := hpa - s.host.hdmBase
    let n := accessBytes a
    d + n ≤ gib * (20 * s.mem.span) → 0 < n → hpa % 64 + n ≤ 64 →
    (hostOpen s d n = false → ∃ u, exec (.hdmAccess hpa a ecc) s = .next u ∧ u.mem = s.mem ∧
      u.host.hdmRefused = satAdd 64 s.host.hdmRefused 1 ∧
      u.host.hostReads = s.host.hostReads ++ (match a with | .read k => [(hpa, List.replicate k 0, true)] | .write _ => [])) ∧
    (hostOpen s d n = true → dpaWaits s d n = false →
      (∀ k, a = .read k → dpaBad s d k = false → ∃ u, exec (.hdmAccess hpa a ecc) s = .next u ∧ u.mem = s.mem ∧
        u.host = { s.host with hostReads := s.host.hostReads ++ [(hpa, dpaBytes s d k, false)] }) ∧
      (∀ k, a = .read k → dpaBad s d k = true → ∃ u bs, exec (.hdmAccess hpa a ecc) s = .next u ∧ u.mem.fast = s.mem.fast ∧
        bs.length = k ∧ u.host.hostReads = s.host.hostReads ++ [(hpa, bs, true)]) ∧
      (∀ bs, a = .write bs → ∃ u, exec (.hdmAccess hpa a ecc) s = .next u ∧ u.host = s.host ∧
        u.mem = (s.writeDpa d bs).1.mem))) ∧
  (∀ s : State, s.host.linkWidth ≠ 0 →
    (∀ hpa, exec (.hostSnoop hpa) s = .next { s with host := { s.host with snoops := s.host.snoops ++ [(hpa, false)] } }) ∧
    (∀ off data, off + data.length ≤ 2 ^ 20 * s.mem.ptSize →
      (dpaWaits s (s.mem.ptBase + off) data.length = true → exec (.pf0ApertureWrite off data) s = .next s) ∧
      (dpaWaits s (s.mem.ptBase + off) data.length = false → ∃ u, exec (.pf0ApertureWrite off data) s = .next u ∧
        u.mem = (s.writeDpa (s.mem.ptBase + off) data).1.mem ∧ u.tiles = s.tiles ∧ u.tenants = s.tenants ∧ u.dict = s.dict)) ∧
    (∀ base size ways, (ways = 1 → size = gib * (20 * s.mem.span) →
        exec (.hdmDecoderCommit base size ways) s = .next { s with host := { s.host with hdmBase := base, hdmCommitted := true } }) ∧
      (ways ≠ 1 ∨ size ≠ gib * (20 * s.mem.span) →
        exec (.hdmDecoderCommit base size ways) s = .next { s with host := { s.host with hdmCommitted := false } })) ∧
    ∀ i, ∃ bs, bs.length = 4 ∧ exec (.doeDiscovery i) s = .next { s with host := { s.host with doe := s.host.doe ++ [bs] } }) ∧
  (∀ (s : State) (path : Path) (tag : BitVec 16) (role : Nat) (own : Option Nat) (v : W64), Served s path role own → role = 3 ∨ role = 5 →
    let page := bits v.toNat 19 0
    let m := writeMsg tag none 0x7000 5 (leBytes 8 v.toNat)
    (bits v.toNat 62 20 ≠ 0 ∨ gib * (20 * s.mem.span) ≤ 2 ^ 21 * page →
      ∃ u, exec (.biasRequest path tag v) s = .next u ∧ u.host.bias = s.host.bias ∧ Answered u path m 7 []) ∧
    (bits v.toNat 62 20 = 0 → 2 ^ 21 * page < gib * (20 * s.mem.span) →
      (pageInFlight s page = false → ∃ u, exec (.biasRequest path tag v) s = .next u ∧ Answered u path m 0 [] ∧
        (page ∈ u.host.bias ↔ bit v.toNat 63 = true) ∧ u.mem = s.mem) ∧
      (pageInFlight s page = true → ∃ u, exec (.biasRequest path tag v) s = .next u ∧ (page ∈ u.host.bias ↔ page ∈ s.host.bias) ∧
        (∃ a ∈ u.dict.acks, a.path = path ∧ a.request = m) ∧ u.mem = s.mem)))

/-! ### The line, sessions and mailboxes -/

/-- FRAME_FORWARD, PORT_ROLES_WRITE, FINULERI_PORT_LINK_CHANGE and DISCOVERY_REQUEST: a damaged or foreign frame is dropped and counted, one for
the module waits for the Lodge or is dropped where it breaks its table, another goes out of the other port one hop
nearer its end, and a multicast does both; the ports change roles and links; discovery answers a source at most every
100 ms (R341–R343, R348).
Where a clause touches what the spec leaves open, the model's choice is that of logs 58, 95, 96. -/
def Obligations.FramesReachTheirPort : Prop :=
  (∀ (s : State) (f : Frame), 3 ≤ s.service.bringUp → s.power.packageOff = false → f.port ≤ 1 → portUpAt s f.port = true →
    let dropped := { s.dict with dropped := satAdd 64 s.dict.dropped 1 }
    let mine := { s.dict with lodgeFrames := s.dict.lodgeFrames ++ [f] }
    let out := { f with port := 1 - f.port, hdr := f.hdr - BitVec.ofNat 128 (2 ^ 112) }
    let become := fun d => exec (.frameForward f) s = .next { s with dict := d }
    (f.fcsOk = false ∨ f.etherType.toNat ≠ s.dict.etherType → become dropped) ∧
    (f.fcsOk = true → f.etherType.toNat = s.dict.etherType →
      (f.dstMac = Config.macAddress → dictServed s = false → exec (.frameForward f) s = .next s) ∧
      (f.dstMac = Config.macAddress → dictServed s = true →
        (frameBad f = true → become dropped) ∧ (frameBad f = false → fType f ≠ 1 → become mine)) ∧
      (f.dstMac ≠ Config.macAddress → s.dict.forwardEnable = true →
        (f.dstMac.getLsbD 40 = false → fHops f ≤ 1 → become dropped) ∧
        (1 < fHops f → portUpAt s (1 - f.port) = true →
          (f.dstMac.getLsbD 40 = false → become { s.dict with forwarded := satAdd 64 s.dict.forwarded 1, frames := s.dict.frames ++ [out] }) ∧
          (f.dstMac.getLsbD 40 = true → dictServed s = true → frameBad f = false → fType f ≠ 1 →
            become { mine with forwarded := satAdd 64 s.dict.forwarded 1, frames := s.dict.frames ++ [out] }))))) ∧
  (∀ (s : State) (path : Path) (tag : BitVec 16) (role : Nat) (own : Option Nat) (v : Byte), Served s path role own → role = 3 ∨ role = 5 →
    ∃ u, exec (.portRolesWrite path tag v) s = .next u ∧ u.mem = s.mem ∧ u.tiles = s.tiles ∧
      (v.toNat ≤ 3 → u.dict.portRoles.toNat = v.toNat ∧ Answered u path (writeMsg tag none 0x1010 3 [v]) 0 [] ∧
        ∀ p, p < 2 → portUpAt u p = (portUpAt s p && (s.dict.portRoles.getLsbD p == v.getLsbD p))) ∧
      (3 < v.toNat → u.dict.portRoles = s.dict.portRoles ∧ u.dict.portUp = s.dict.portUp ∧
        Answered u path (writeMsg tag none 0x1010 3 [v]) 7 [])) ∧
  (∀ (s : State) (p : Nat) (up : Bool), 3 ≤ s.service.bringUp → p ≤ 1 →
    ∃ m, exec (.finuleriPortLinkChange p up) s = .next { s with dict := { s.dict with portUp := m } } ∧ m.getLsbD p = up ∧
      m.getLsbD (1 - p) = s.dict.portUp.getLsbD (1 - p)) ∧
  (∀ (s : State) (f : Frame) (ms : Nat), f ∈ s.dict.lodgeFrames → fType f = 0 → dictServed s = true →
    f.port ≠ 2 →
    ∃ u, exec (.discoveryRequest f ms) s = .next u ∧ u.dict.lodgeFrames = s.dict.lodgeFrames.erase f ∧ u.mem = s.mem ∧
      (fLength f = 0 → (∀ e ∈ s.dict.discovered, e.1 = f.srcMac → 100 ≤ e.2 + ms) →
        ∃ a, u.dict.frames = s.dict.frames ++ [a] ∧ a.port = f.port ∧ a.dstMac = f.srcMac ∧ a.srcMac = Config.macAddress ∧
          a.payload.take 6 = beBytes 6 Config.macAddress.toNat ∧ a.hdr = finHeader 1 s.dict.hopDefault 0 0 a.payload.length) ∧
      (fLength f ≠ 0 ∨ (∃ e ∈ s.dict.discovered, e.1 = f.srcMac ∧ e.2 + ms < 100) → u.dict.frames = s.dict.frames))

/-- HANDSHAKE_H1 and HANDSHAKE_H3 open a session, SESSION_DATA serves its requests, SESSION_CLOSE, SESSION_IDLE_TIMEOUT and SESSION_CLOSE_WRITE close it: a
whole H1 takes a free session, one H3 that verifies opens it with the role asked for and one that does not is a failure;
a frame whose tag or sequence fails is dropped and counted (R344–R346, R349).
Where a clause touches what the spec leaves open, the model's choice is that of logs 60, 95, 96. -/
def Obligations.SessionsOpenServeAndClose : Prop :=
  (∀ (s s' s1 : State) (f : Frame) (bs : List Byte) (h : HelloMsg), f ∈ s.dict.lodgeFrames → fType f = 2 → dictServed s = true →
    s.heartwood.state = 1 → s' = (s.redraw.updDict fun d => { d with lodgeFrames := d.lodgeFrames.erase f }) →
    (isFinish f = false → fSession f = 0 → takeFragment s' f 1 = .whole s1 bs → helloOf bs = some h → h.size = bs.length →
      let kept := s.dict.sessions.filter fun x => !(x.state = 1 && samePeer x.line x.mac f)
      (kept.length < 16 → ∃ u x, exec (.handshakeH1 f) s = .next u ∧ u.dict.sessions = kept ++ [x] ∧ x.state = 1 ∧ x.id ≠ 0 ∧
        (∀ y ∈ kept, y.id ≠ x.id) ∧ x.line = f.port ∧ x.mac = f.srcMac ∧ u.mem = s.mem) ∧
      (16 ≤ kept.length → ∃ u, exec (.handshakeH1 f) s = .next u ∧ u.dict.sessions = kept ∧
        u.dict.handshakeFailures = satAdd 32 s.dict.handshakeFailures 1 ∧ u.mem = s.mem)) ∧
    (∀ x, isFinish f = true →
      s.dict.sessions.find? (fun x => x.id = fSession f && x.state = 1 && samePeer x.line x.mac f) = some x →
      takeFragment s' f 3 = .whole s1 bs → bs.length = 96 → helloOf x.transcript = some h →
      ∃ u, exec (.handshakeH3 f) s = .next u ∧ u.mem = s.mem ∧
        if finishReason s1 x h bs = 0 then ∃ y, sessionOf u x.id = some y ∧ y.state = 2 ∧ y.role = h.role
        else x ∉ u.dict.sessions ∧ u.dict.handshakeFailures = satAdd 32 s.dict.handshakeFailures 1)) ∧
  (∀ (s s' : State) (f : Frame), f ∈ s.dict.lodgeFrames → dictServed s = true →
    s' = (s.redraw.updDict fun d => { d with lodgeFrames := d.lodgeFrames.erase f }) →
    let drop := fun u : State => u.dict.sessions = s.dict.sessions ∧ u.dict.dropped = satAdd 64 s.dict.dropped 1 ∧ u.mem = s.mem
    (fType f = 3 → pathBusy s (.session (fSession f)) = false →
      match openFrame s' f with
      | none => ∃ u, exec (.sessionData f) s = .next u ∧ drop u
      | some (x, p) => 16 ≤ p.length →
        exec (.sessionData f) s = .next ((serveOn (s'.acceptFrame x.id f) (.session x.id) (msgOf p) none).closeWorn x.id)) ∧
    (fType f = 4 → ∃ u, exec (.sessionClose f) s = .next u ∧
      match openFrame s' f with
      | some (x, []) => u.dict.sessions = (s.dict.sessions.filter fun y => y.id ≠ x.id) ∧ u.mem = s.mem
      | _ => drop u)) ∧
  (∀ (s : State) (id ms : Nat), dictServed s = true →
    ∃ u, exec (.sessionIdleTimeout id ms) s = .next u ∧ u.mem = s.mem ∧
      u.dict.sessions = ((s.dict.sessions.map fun x => { x with idleMs := x.idleMs + ms }).filter fun x =>
        !(x.id = id && decide (s.dict.sessionIdleMs ≤ x.idleMs)))) ∧
  (∀ (s : State) (path : Path) (tag v : BitVec 16) (role : Nat) (own : Option Nat), Served s path role own → role = 3 ∨ role = 5 →
    let open_ := s.dict.sessions.any fun x => x.id = v.toNat && x.state = 2
    ∃ u, exec (.sessionCloseWrite path tag v) s = .next u ∧ u.mem = s.mem ∧
      (open_ = true → (∀ y ∈ u.dict.sessions, y.id ≠ v.toNat) ∧ Answered u path (writeMsg tag none 0x1020 7 (leBytes 2 v.toNat)) 0 []) ∧
      (open_ = false → u.dict.sessions.map Session.id = s.dict.sessions.map Session.id ∧
        Answered u path (writeMsg tag none 0x1020 7 (leBytes 2 v.toNat)) 7 []))

/-- LODGE_RESTART and LODGE_WATCHDOG_EXPIRY take the Lodge away with its sessions and transfers and fail a running job; LODGE_RETURNS answers
what was taken LODGE_RESTARTED, and ends a handover with its sessions kept; MAILBOX_REQUEST fills its request area, which waits there
until the dictionary is served and its mailbox is free, takes the next request, `mb_length` bytes long, serves it, and answers
one that is no message MALFORMED (R338–R340, R346, R351, R375, R386, R388).
Where a clause touches what the spec leaves open, the model's choice is that of logs 59, 96. -/
def Obligations.LodgeAndMailboxesAnswer : Prop :=
  (∀ s : State, lodgeRuns s = true →
    let lost := fun u : State => u.service.lodgeAway = true ∧ u.dict.sessions = [] ∧ u.dict.transfers = [] ∧ u.dict.lodgeFrames = [] ∧
      u.mem = s.mem ∧ u.tiles = s.tiles ∧ u.dict.acks.length = s.dict.acks.length ∧ dictServed u = false ∧
      (s.service.job.phase = 1 → u.service.job.phase = 3 ∧ u.service.job.reason = 4) ∧
      (s.service.job.phase ≠ 1 → u.service.job = s.service.job)
    (∃ u, exec .lodgeRestart s = .next u ∧ lost u ∧ u.service.activeLodge = s.service.activeLodge) ∧
    ∃ u, exec .lodgeWatchdogExpiry s = .next u ∧ lost u ∧ u.service.activeLodge = 1 - s.service.activeLodge) ∧
  (∀ s : State, s.power.packageOff = false → (∀ m ∈ s.dict.mailboxes, mailboxNext m.2 = false) →
    let answered := fun u : State => u.dict.acks = [] ∧ u.mem = s.mem ∧ (∀ k, (mailboxAt u k).taken = none) ∧
      ∀ a ∈ s.dict.acks, (a.path = .pf0 ∨ ∃ k, a.path = .vf k) → (a.path, response a.request 0x0C []) ∈ u.dict.replies
    (s.service.handing = false → s.service.lodgeAway = true →
      ∃ u, exec .lodgeReturns s = .next u ∧ u.service.lodgeAway = false ∧ answered u) ∧
    (s.service.handing = true → ∃ u, exec .lodgeReturns s = .next u ∧ u.service.handing = false ∧
      u.service.activeLodge = 1 - s.service.activeLodge ∧ u.dict.sessions.map Session.id = s.dict.sessions.map Session.id ∧ answered u)) ∧
  (∀ (s : State) (mb : MailboxId) (k : Nat) (control : W64) (msg : List Byte), mailboxReached s mb = some k →
    let c := control.toNat
    let path := if k = 0 then Path.pf0 else .vf k
    let x := mailboxAt s k
    let area := msg.take 4080 ++ x.message.drop (msg.take 4080).length
    let next := BitVec.ofNat 32 (bits c 63 32) = x.seq + 1
    ((¬ next ∨ x.taken ≠ none ∨ dictServed s = false ∨ pathBusy s path = true) →
      ∃ u, exec (.mailboxRequest mb control msg) s = .next u ∧ u.mem = s.mem ∧ u.dict.replies = s.dict.replies ∧
        mailboxAt u k = { x with request := control, message := area }) ∧
    (next → x.taken = none → dictServed s = true → pathBusy s path = false →
      let bs := padTo (bits c 15 0) (area.take (bits c 15 0))
      let s1 := (s.fillMailbox k control msg).redraw.updMailbox k fun b =>
        { b with seq := BitVec.ofNat 32 (bits c 63 32), taken := some (control, bs) }
      let malformed := 1 < bits c 31 30 ∨ bits c 29 16 ≠ 0 ∨ bits c 15 0 < 16 ∨ 4080 < bits c 15 0 ∨ bits c 31 30 = 1 ∧ k ≠ 0
      (malformed → ∃ u, exec (.mailboxRequest mb control msg) s = .next u ∧ u.mem = s.mem ∧ (mailboxAt u k).taken = none ∧
        (msgOf (mailboxAt u k).response).status = 0x0D ∧ bits (mailboxAt u k).control.toNat 63 32 = bits c 63 32) ∧
      (¬ malformed → bits c 31 30 = 0 →
        exec (.mailboxRequest mb control msg) s = .next (serveOn s1 path (msgOf bs) none)) ∧
      (¬ malformed → bits c 31 30 = 1 →
        exec (.mailboxRequest mb control msg) s = .next (s1.serveInner (innerFrame s1 bs)))))

/-! ### Clearings -/

/-- The clearing record: CLEARING_HOLD_WRITE holds the tenant's queues or lets them go; TILE_MASK_WRITE gives and takes tiles, each changed one
scrubbed with its local memory zero, and refuses an absent tile or another tenant's; QUEUE_MASK_WRITE takes the queues it clears out of
use; EXCLUSIVE_REGIONS_WRITE needs every tile of a region and no other holder (R353, R357, R359). Only a quiesced tenant's change.
Where a clause touches what the spec leaves open, the model's choice is that of logs 51, 90. -/
def Obligations.ClearingRecordsAreWritten : Prop :=
  ∀ (s : State) (path : Path) (tag : BitVec 16) (role : Nat) (own : Option Nat) (t : Nat), Served s path role own →
    role = 3 ∨ role = 5 → t < 1024 →
    let msg := fun (sub : Nat) (bs : List Byte) => writeMsg tag none (0x6000 + t) sub bs
    (∀ v : Byte, ∃ u, exec (.clearingHoldWrite path tag t v) s = .next u ∧ u.mem = s.mem ∧ u.tiles = s.tiles ∧
      (v.toNat ≤ 1 → tenantAt u t = { tenantAt s t with clearingHold := decide (v.toNat = 1) } ∧ Answered u path (msg 1 [v]) 0 []) ∧
      (1 < v.toNat → u.tenants = s.tenants ∧ Answered u path (msg 1 [v]) 7 [])) ∧
    (tenantQuiesced s t = false → ∀ x sub bs, (x, sub, bs) ∈ [(Instr.tileMaskWrite path tag t (List.replicate 160 0), 3, List.replicate 160 0),
        (.queueMaskWrite path tag t 0, 5, [0]), (.exclusiveRegionsWrite path tag t 0, 7, [0, 0, 0, 0])] →
      ∃ u, exec x s = .next u ∧ u.tenants = s.tenants ∧ u.tileOwner = s.tileOwner ∧ Answered u path (msg sub bs) 6 []) ∧
    (tenantQuiesced s t = true →
      (∀ bs, bs.length = 160 → mwf s.tileOwner = true → s.globals.heldOwner = [] →
        let gives := fun l => bit (leNat bs) l
        let changes := fun l => gives l ≠ decide (ownerOf s l = some t)
        let may := ∀ l, l < 1280 → gives l = true → (ownerOf s l = none ∨ ownerOf s l = some t) ∧ tilePresent s l = true ∧
          regionOf l ∉ s.service.translationOut
        (¬ may → ∃ u, exec (.tileMaskWrite path tag t bs) s = .next u ∧ u.tileOwner = s.tileOwner ∧ u.tiles = s.tiles ∧
          Answered u path (msg 3 bs) 7 []) ∧
        (may → (tenantAt s t).exclusive = 0 → (∀ l, l < 1280 → changes l → tileResetting s l = false) →
          ∃ u, exec (.tileMaskWrite path tag t bs) s = .next u ∧ u.mem.fast = s.mem.fast ∧
            (∀ l, l < 1280 → changes l → (tileAt u l).blocks = [] ∧ (tileAt u l).streams = [] ∧ ∀ a, lmByte u l a = 0) ∧
            (∀ l, l < 1280 → ¬ changes l → ownerOf u l = ownerOf s l ∧ (tileAt u l).blocks = (tileAt s l).blocks ∧ ∀ a, lmByte u l a = lmByte s l a) ∧
            (∀ l, l < 1280 → changes l → gives l = false → ownerOf u l = none) ∧
            (∀ l, l < 1280 → changes l → gives l = true → ownerOf u l = if s.heartwood.state = 1 then some t else none))) ∧
      (∀ v : Byte, ∃ u, exec (.queueMaskWrite path tag t v) s = .next u ∧ (tenantAt u t).queueMask = v ∧ u.mem.fast = s.mem.fast ∧
        (∀ l a, lmByte u l a = lmByte s l a) ∧ Answered u path (msg 5 [v]) 0 [] ∧
        ∀ q, q < 8 → queueAssigned s t q = true → v.getLsbD q = false → (queueAt u t q).entries = 0) ∧
      (∀ v : W32,
        let may := bits v.toNat 31 20 = 0 ∧ ∀ r, r < 20 → bit v.toNat r = true →
          (∀ i, i < 64 → tilePresent s (64 * r + i) = true → 64 * r + i ∈ tilesOf s t) ∧
          ∀ e ∈ s.tenants, e.1 ≠ t → e.2.exclusive.getLsbD r = false
        (may → ∃ u, exec (.exclusiveRegionsWrite path tag t v) s = .next u ∧ (tenantAt u t).exclusive.toNat = v.toNat ∧ u.mem = s.mem ∧
          u.tiles = s.tiles ∧ Answered u path (msg 7 (leBytes 4 v.toNat)) 0 []) ∧
        (¬ may → ∃ u, exec (.exclusiveRegionsWrite path tag t v) s = .next u ∧ u.tenants = s.tenants ∧
          Answered u path (msg 7 (leBytes 4 v.toNat)) 7 [])))

/-- The maps: one entry of PAGE_OWNER_MAP_WRITE gives a page, which is zeroed and is the only one to change; one of SET_GROUP_MAP_WRITE empties its group
and zeroes its area; one of TILE_PERSONALITY_WRITE by the Operator reloads its tile; a tenant's TABLE_DESCRIPTORS_WRITE drops what the directory holds of the
table, and its WATCH_SETUP_WRITE builds the entry's record. A formed object that breaks its rules is refused (R91, R92, R145, R192, R203,
R204, R354, R358).
Where a clause touches what the spec leaves open, the model's choice is that of logs 47, 48, 49, 117. -/
def Obligations.MapsGiveResourcesToClearings : Prop :=
  (∀ (s : State) (path : Path) (tag : BitVec 16) (role : Nat) (own : Option Nat), Served s path role own → role = 3 ∨ role = 5 →
    s.mem.span ≤ 56 →
    (∀ (p : Nat) (e : BitVec 16), p < 1146880 → (pageEntry s p).toNat ≠ e.toNat →
      let bytes := leBytes 2 e.toNat
      let quiet := ∀ x, pageTenant (pageEntry s p).toNat = some x ∨ pageTenant e.toNat = some x → tenantQuiesced s x = true
      let ok := bits e.toNat 13 10 = 0 ∧ (bit e.toNat 15 = true → pageBacked s p = true ∧ reservedPage s p = false)
      (¬ quiet ∨ ¬ ok → ∃ u, exec (.pageOwnerMapWrite path tag (2 * p) bytes) s = .next u ∧ u.mem = s.mem ∧ u.tenants = s.tenants) ∧
      (quiet → ok → ∃ u, exec (.pageOwnerMapWrite path tag (2 * p) bytes) s = .next u ∧
        pageEntry u p = (if pageBacked s p then e else 0) ∧ (∀ j, j ≠ p → pageEntry u j = pageEntry s j) ∧
        (∀ d, pageOf s.mem d = some p → dpaBytes u d 1 = [0]) ∧ (∀ d, pageOf s.mem d ≠ some p → dpaBytes u d 1 = dpaBytes s d 1) ∧
        u.mem.slow = s.mem.slow)) ∧
    (∀ (g : Nat) (e : W64), g < 4096 → mgetD s.mem.setGroups g 0 ≠ e →
      let old := (mgetD s.mem.setGroups g 0).toNat
      let bytes := leBytes 8 e.toNat
      let quiet := ∀ x, groupTenant old = some x ∨ groupTenant e.toNat = some x → tenantQuiesced s x = true
      let ok := groupsBad s (mput 0 s.mem.setGroups g e) = false ∧ (bit e.toNat 63 = true → g ∉ s.mem.groupsOut)
      (¬ quiet ∨ ¬ ok → ∃ u, exec (.setGroupMapWrite path tag (8 * g) bytes) s = .next u ∧ u.mem = s.mem ∧ u.tenants = s.tenants) ∧
      (quiet → ok → ∃ u, exec (.setGroupMapWrite path tag (8 * g) bytes) s = .next u ∧ u.mem.setGroups = mput 0 s.mem.setGroups g e ∧
        (∀ k, k / 4096 = g → wayAt u k = noWay) ∧
        (∀ a, bit e.toNat 63 = true → groupArea e.toNat ≤ a → a < groupArea e.toNat + 4096 * groupSlot e.toNat → dpaBytes u a 1 = [0]) ∧
        u.mem.slow = s.mem.slow)) ∧
    (∀ (l : Nat) (v : Byte), l < 1280 → mgetD s.globals.personality l 0 ≠ v →
      ((tileAt s l).blocks ≠ [] ∨ 1 < v.toNat ∨ microcodeJob s = true →
        ∃ u, exec (.tilePersonalityWrite path tag l [v]) s = .next u ∧ u.tiles = s.tiles ∧ u.globals.personality = s.globals.personality) ∧
      (role = 5 → ∃ u, exec (.tilePersonalityWrite path tag l [v]) s = .next u ∧ u.tiles = s.tiles ∧ u.globals = s.globals) ∧
      (role = 3 → (tileAt s l).blocks = [] → v.toNat ≤ 1 → microcodeJob s = false →
        ∃ u, exec (.tilePersonalityWrite path tag l [v]) s = .next u ∧ mgetD u.globals.personality l 0 = v ∧
          tileAt u l = { tileAt s l with reloading := true } ∧ u.mem = s.mem ∧ ∀ j, j ≠ l → tileAt u j = tileAt s j))) ∧
  (∀ (s : State) (path : Path) (tag : BitVec 16) (t : Nat), Served s path 2 (some t) → t < 1024 → tenantQuiesced s t = true →
    (∀ (n : Nat) (d : List Byte), n < 256 → d.length = 32 → d ≠ (tableDesc s t n).take 32 →
      let m := mput (List.replicate 32 0) (tenantAt s t).tables n d
      let bad := m.any fun e : Nat × List Byte => tableReserved e.2 || (tRows e.2 ≠ 0 && tableBad s t e.2)
      (bad = true → ∃ u, exec (.tableDescriptorsWrite path tag t (32 * n) d) s = .next u ∧ u.tenants = s.tenants ∧ u.mem = s.mem) ∧
      (bad = false → ∃ u, exec (.tableDescriptorsWrite path tag t (32 * n) d) s = .next u ∧ tableDesc u t n = d ∧
        (∀ k, k ≠ n → tableDesc u t k = tableDesc s t k) ∧ (∀ k, (wayAt s k).tenant = t → (wayAt s k).table = n → wayAt u k = noWay) ∧
        u.mem.fast = s.mem.fast)) ∧
    (∀ (i : Nat) (v : W64), i < 65536 → i < (tenantAt s t).watch.quota → mgetD (tenantAt s t).watch.setup i 0 ≠ v →
      (setupBad v.toNat = true → ∃ u, exec (.watchSetupWrite path tag t (8 * i) (leBytes 8 v.toNat)) s = .next u ∧
        u.tenants = s.tenants ∧ u.mem = s.mem) ∧
      (setupBad v.toNat = false → (∀ o, historyOwner (tenantAt s t).watch i ≠ some o) → bit v.toNat 39 = false → bits v.toNat 3 0 = 1 →
        ∃ u, exec (.watchSetupWrite path tag t (8 * i) (leBytes 8 v.toNat)) s = .next u ∧ u.mem = s.mem ∧ u.tiles = s.tiles ∧
          mget (tenantAt u t).watch.entries i = some (.tensor (setupRecord s v.toNat 0)) ∧
          mgetD (tenantAt u t).watch.setup i 0 = v)))

/-- MODULE_WITHDRAWAL after bring-up: each failed part leaves its clearing and its service, its holder's `Shortfall` shows the loss, and the
tile of a region or a tile without a spare belongs to no one; a lost package takes its chip and freezes its sets (R29, R184,
R258, R358, R391).
Where a clause touches what the spec leaves open, the model's choice is that of log 78. -/
def Obligations.WithdrawalsTakeTheirResource : Prop :=
  ∀ s : State, 7 ≤ s.service.bringUp →
    (∀ l x, mget s.service.backing l = some x → (List.range 16).all (fun k => physState s (336 * dieOf l + 320 + k) ≠ 1) = true →
      ∃ u, exec (.moduleWithdrawal (.tile l)) s = .next u ∧ tilePresent u l = false ∧ ownerOf u l = none ∧ (tileAt u l).blocks = [] ∧
        ∀ t, ownerOf s l = some t → (tenantAt u t).shortfall.getLsbD 0 = true) ∧
    (∀ st ch, st < 20 → ch < 32 → st ∉ s.service.stacksOut → mget s.mem.retired st = none →
      ∃ u, exec (.moduleWithdrawal (.channel st ch)) s = .next u ∧ mget u.mem.retired st = some ch ∧
        u.service.stacksOut = s.service.stacksOut ∧ u.mem.fast = s.mem.fast ∧ (NoFlipDue s → u.tiles = s.tiles)) ∧
    (∀ st ch k, st < 20 → ch < 32 → st ∉ s.service.stacksOut → mget s.mem.retired st = some k → k ≠ ch →
      ∃ u, exec (.moduleWithdrawal (.channel st ch)) s = .next u ∧ st ∈ u.service.stacksOut ∧ ∀ t q, queueReady u t q = false) ∧
    (∀ g, g < 4096 → g ∉ s.mem.groupsOut →
      ∃ u, exec (.moduleWithdrawal (.setGroup g)) s = .next u ∧ mget u.mem.setGroups g = none ∧ g ∈ u.mem.groupsOut ∧
        (∀ k, k / 4096 = g → wayAt u k = noWay) ∧
        ∀ t, groupTenant (mgetD s.mem.setGroups g 0).toNat = some t → (tenantAt u t).shortfall.getLsbD 2 = true) ∧
    (∀ n, n < 4 → chipState s n ≠ 4 →
      ∃ u, exec (.moduleWithdrawal (.spring n)) s = .next u ∧ chipState u n = 4 ∧ u.mem = s.mem ∧ (NoFlipDue s → u.tiles = s.tiles) ∧
        ∀ e ∈ s.globals.layerSlots, e.1 / 1024 = n → ∀ t, slotTenant e.2.toNat = some t → (tenantAt u t).shortfall.getLsbD 3 = true) ∧
    (∀ n k, n < 4 → k < 8 → 8 * n + k ∉ s.service.packagesOut →
      ∃ u, exec (.moduleWithdrawal (.package n k)) s = .next u ∧ chipState u n = 4 ∧ 8 * n + k ∈ u.service.packagesOut ∧
        u.mem = s.mem ∧ ∀ t p, (t, p) ∈ setsOnChip s n → jobFrozen u t p = true) ∧
    (∀ r, r < 20 → r ∉ s.service.translationOut →
      ∃ u, exec (.moduleWithdrawal (.region r)) s = .next u ∧ r ∈ u.service.translationOut ∧ (∀ e ∈ u.mem.tlb, e.region ≠ r) ∧
        ∀ i, i < 64 → ownerOf u (64 * r + i) = none ∧
          ∀ t, ownerOf s (64 * r + i) = some t → (tenantAt u t).shortfall.getLsbD 4 = true) ∧
    (∀ k, k < 7 → k ∉ s.service.enginesFailed →
      ∃ u, exec (.moduleWithdrawal (.engine k)) s = .next u ∧ k ∈ u.service.enginesFailed ∧ u.mem = s.mem ∧ (NoFlipDue s → u.tiles = s.tiles) ∧
        (∀ l ∈ engineLinks k, (linkAt s l).dimension ≤ 11 → (linkAt s l).state ≠ 0 → (linkAt u l).state = 8) ∧
        ∀ l, l ∉ engineLinks k → linkAt u l = linkAt s l)

/-! ### Releases and the log -/

/-- A release ends a freeze: RELEASE_DISCARD, DISCARD_MASTER and RELEASE_DISCARD_ALL remove the records and count, RELEASE_RESUME and RELEASE_RESUME_ALL those that may be
resumed, a resumed or discarded job pauses its set or, discarded for uncorrectable data, ends it; a master that is not
frozen, or may not be resumed, is refused; INSPECT_MASTER_WRITE chooses what the tenant reads, and no master ID that R360 reserves (R7, R321, R360, R362, R363, R366, R372, R373).
Where a clause touches what the spec leaves open, the model's choice is that of logs 28, 46. -/
def Obligations.ReleasesEndFreezes : Prop :=
  let okMaster := fun m : W32 => masterKind m ≠ 7 ∨ m = jobMaster (masterIndex m)
  let ask := fun (tag : BitVec 16) (t a : Nat) (m : W32) => writeMsg tag none 0x6400 2 (leBytes 8 (2 ^ 32 * m.toNat + 2 ^ 16 * t + a))
  (∀ (s : State) (path : Path) (tag : BitVec 16) (t : Nat) (m : W32) (x : Instr) (discard : Bool) (msg : DictMsg), t < 1024 →
    ((∃ role own, Served s path role own ∧ (role = 3 ∨ role = 5)) ∧
        (x = .releaseDiscard path tag t m ∧ discard = true ∧ msg = ask tag t 1 m ∨
         x = .releaseResume path tag t m ∧ discard = false ∧ msg = ask tag t 2 m) ∨
      Served s path 2 (some t) ∧ m ≠ 0xFFFFFFFF ∧ x = .discardMaster path tag t m ∧ discard = true ∧
        msg = writeMsg tag (some t) 0xC300 2 (leBytes 4 m.toNat)) →
    let p := masterIndex m
    (isFrozen s t m = false → ∃ u, exec x s = .next u ∧ u.tenants = s.tenants ∧ u.tiles = s.tiles ∧ u.mem = s.mem ∧
      Answered u path msg 7 []) ∧
    (∀ r, (tenantAt s t).freezes.find? (fun r => r.master = m) = some r → okMaster m →
      (discard = false → causeResumable r.cause m = false →
        ∃ u, exec x s = .next u ∧ u.tenants = s.tenants ∧ u.tiles = s.tiles ∧ u.mem = s.mem ∧ Answered u path msg 7 []) ∧
      (discard = true ∨ causeResumable r.cause m = true → ∃ u, exec x s = .next u ∧ Answered u path msg 0 [] ∧
        (tenantAt u t).nDiscarded = (if discard then satAdd 32 (tenantAt s t).nDiscarded 1 else (tenantAt s t).nDiscarded) ∧
        (tenantAt u t).nResumed = (if discard then (tenantAt s t).nResumed else satAdd 32 (tenantAt s t).nResumed 1) ∧
        (discard = true ∨ masterKind m ≠ 1 ∨ (tileAt s (masterTile m)).accesses = [] → isFrozen u t m = false) ∧
        (masterKind m = 6 → discard = true → (queueAt s t p).tail ≤ (queueAt u t p).head) ∧
        (masterKind m = 7 → (runAt s t p).releasedTo = none → setStateRead u t p =
          if discard && decide (r.cause = 0x22) || decide ((setAt s t p).state = 8) then 8 else 5)))) ∧
  (∀ (s : State) (path : Path) (tag : BitVec 16) (t : Nat) (role : Nat) (own : Option Nat), t < 1024 → Served s path role own →
    role = 3 ∨ role = 5 → (∀ r ∈ (tenantAt s t).freezes, okMaster r.master) →
    (∃ u, exec (.releaseDiscardAll path tag t) s = .next u ∧ (tenantAt u t).freezes = [] ∧ Answered u path (ask tag t 3 0) 0 []) ∧
    ∃ u, exec (.releaseResumeAll path tag t) s = .next u ∧ Answered u path (ask tag t 4 0) 0 [] ∧
      ∀ r ∈ (tenantAt s t).freezes, (∀ q ∈ (tenantAt s t).freezes, q.master = r.master → q = r) →
        (causeResumable r.cause r.master = false → r ∈ (tenantAt u t).freezes) ∧
        (causeResumable r.cause r.master = true → 2 ≤ masterKind r.master → masterKind r.master ≤ 6 → isFrozen u t r.master = false)) ∧
  (∀ (s : State) (path : Path) (tag : BitVec 16) (t : Nat) (m : W32), t < 1024 → Served s path 2 (some t) →
    ∃ u, exec (.inspectMasterWrite path tag t m) s = .next u ∧ u.tiles = s.tiles ∧ u.mem = s.mem ∧
      (masterReserved m.toNat = false → tenantAt u t = { tenantAt s t with inspect := m } ∧
        Answered u path (writeMsg tag (some t) 0xC300 3 (leBytes 4 m.toNat)) 0 []) ∧
      (masterReserved m.toNat = true → u.tenants = s.tenants ∧
        Answered u path (writeMsg tag (some t) 0xC300 3 (leBytes 4 m.toNat)) 7 []))

/-- The error log: LOG_REPORT_INTAKE records the oldest waiting report, in the open record that takes it or in a new one; the writes of the
read numbers pass what was read, and close and unpin it, and no number passes what was written (R370–R372).
Where a clause touches what the spec leaves open, the model's choice is that of logs 54, 99. -/
def Obligations.LogKeepsItsReports : Prop :=
  (∀ (s : State) (r : Report) (rs : List Report), s.log.pending = r :: rs → lodgeRuns s = true →
    (∀ i y, s.log.ring.find? (fun e => recordTakes r e.2) = some (i, y) →
      exec .logReportIntake s = .next { s with log := { s.log with
        pending := rs, ring := mset s.log.ring i { y with repeats := satAdd 32 y.repeats 1 } } }) ∧
    ((∀ e ∈ s.log.ring, recordTakes r e.2 = false) →
      ∃ u y, exec .logReportIntake s = .next u ∧ mget u.log.ring (logSlot s.log.ring) = some y ∧ y.report = r ∧ y.repeats = 1 ∧
        y.open_ = true ∧ y.recordNo = s.log.writeNumber ∧ (y.pinned = true ↔ r.cls = 3 ∧ pinnedCount s < 64) ∧ u.log.pending = rs ∧
        u.log.writeNumber = s.log.writeNumber + 1 ∧ u.mem = s.mem ∧ u.tiles = s.tiles ∧
        (∀ j, j ≠ logSlot s.log.ring → mget u.log.ring j = mget s.log.ring j))) ∧
  (∀ (s : State) (path : Path) (tag : BitVec 16) (role : Nat) (own : Option Nat), Served s path role own → role = 3 ∨ role = 5 →
    (∃ u, exec (.logUnpin path tag 1) s = .next u ∧ Answered u path (writeMsg tag none 0x9000 5 [1]) 0 [] ∧ u.mem = s.mem ∧
      u.log.ring = s.log.ring.map fun e => (e.1, { e.2 with pinned := e.2.pinned && decide (s.log.readNumber ≤ e.2.recordNo) })) ∧
    (∀ v : W32, (v.toNat ≤ s.log.writeNumber → ∃ u, exec (.logReadNumberWrite path tag v) s = .next u ∧ u.log.readNumber = v.toNat ∧
        (u.log.ring = s.log.ring.map fun e => (e.1, { e.2 with open_ := e.2.open_ && decide (v.toNat ≤ e.2.recordNo) })) ∧
        Answered u path (writeMsg tag none 0x9000 2 (leBytes 4 v.toNat)) 0 []) ∧
      (s.log.writeNumber < v.toNat → ∃ u, exec (.logReadNumberWrite path tag v) s = .next u ∧ u.log = s.log ∧
        Answered u path (writeMsg tag none 0x9000 2 (leBytes 4 v.toNat)) 7 []))) ∧
  (∀ (s : State) (path : Path) (tag : BitVec 16) (t : Nat) (v : W32), t < 1024 → Served s path 2 (some t) →
    ∃ u, exec (.tenantLogReadWrite path tag t v) s = .next u ∧ u.log = s.log ∧
      (v.toNat ≤ (tenantAt s t).logNumber → tenantAt u t = { tenantAt s t with logRead := v.toNat }) ∧
      ((tenantAt s t).logNumber < v.toNat → u.tenants = s.tenants))

/-! ### Bring-up and service -/

/-- POWER_GOOD begins bring-up; BRING_UP_STAGE_COMPLETE carries it through its states and stops it with the first fault; BRING_UP_STATE_LIMIT_EXPIRY ends a state
that overran; MICROCODE_CHUNK keeps a chunk of 4 KiB whose hash is the one expected, and the third mismatch takes the cluster out (R374–R376, R379,
R383, R407).
Where a clause touches what the spec leaves open, the model's choice is that of logs 55, 62, 63, 122. -/
def Obligations.BringUpGoesThroughItsStates : Prop :=
  (∀ (s : State) (straps : Nat), s.service.bringUp = 0 → s.power.packageOff = false →
    ∃ u, exec (.powerGood straps) s = .next u ∧ u.service.bringUp = 1 ∧ u.service.boardSlot = straps % 8 ∧ u.links.nodeId = straps % 8 ∧
      u.power.powered = true ∧ u.heartwood.state = 0 ∧ u.heartwood.powerOns = s.heartwood.powerOns + 1 ∧
      (∀ l, l < 96 → linkAt u l = { dimension := l % 48 / 4 }) ∧ u.mem = s.mem ∧ u.tiles = s.tiles) ∧
  (∀ (s : State) (r : StageResult), bringingUp s = true → overLimit (s.lodgeTime r.lodgeCycles) = false →
    let stops := fun f => ∃ u, exec (.bringUpStageComplete r) s = .next u ∧ u.service.stopped = true ∧ u.service.fault = f
    let goes := fun n => ∃ u, exec (.bringUpStageComplete r) s = .next u ∧ u.service.bringUp = n ∧ u.service.stopped = false ∧
      mgetD u.service.times n 0 = s.service.lodgeCycles + r.lodgeCycles
    (s.service.bringUp = 1 → r.selfTestFailures &&& 0x7FF ≠ 0 → stops 1) ∧
    (s.service.bringUp = 1 → r.selfTestFailures &&& 0x7FF = 0 → r.lodgeSlotOk = false → stops 2) ∧
    (s.service.bringUp = 1 → r.selfTestFailures &&& 0x7FF = 0 → r.lodgeSlotOk = true →
      slotVerifies s 1 (fwOf s 1).active = true → (fwOf s 1).deferred = false → goes 2) ∧
    (s.service.bringUp = 2 → (r.shoreOk = true → goes 3) ∧ (r.shoreOk = false → stops 3)) ∧
    (s.service.bringUp = 3 → s.service.served = true → goes 4) ∧
    (s.service.bringUp = 3 → s.service.served = false → (∀ m ∈ s.dict.mailboxes, mailboxNext m.2 = false) →
      ∃ u, exec (.bringUpStageComplete r) s = .next u ∧ u.service.bringUp = 3 ∧ u.service.served = true ∧ u.dict.portUp = r.portsUp ∧
        (r.cxlWidth = 16 → r.cxlRate = 32 → u.host.linkWidth = 16 ∧ u.host.linkRate = 32 ∧ u.host.cxlNarrow = false)) ∧
    (s.service.bringUp = 4 → (r.diesOk = false → stops 4) ∧
      (r.diesOk = true → microcodeLoaded s = true → goes 5) ∧
      (r.diesOk = true → microcodeLoaded s = false → exec (.bringUpStageComplete r) s = .next s)) ∧
    (s.service.bringUp = 5 → s.service.stacksOut = [] → r.failedChannels = [] → goes 6 ∧ (slotVerifies s 3 (fwOf s 3).active = true →
      ∃ u, exec (.bringUpStageComplete r) s = .next u ∧ ∀ n, n < 4 → chipState u n = if n ∈ r.failedChips then 4 else 2)) ∧
    (s.service.bringUp = 6 → (linksSettled s = true → goes 7 ∨ goes 8) ∧
      (linksSettled s = false → exec (.bringUpStageComplete r) s = .next s))) ∧
  (∀ (s : State) (n : Nat), bringingUp s = true →
    let late := overLimit (s.lodgeTime n)
    (late = false → exec (.bringUpStateLimitExpiry n) s = .next s) ∧
    (∀ b f, late = true → (b, f) ∈ [(1, 1), (2, 3), (4, 4)] → s.service.bringUp = b →
      ∃ u, exec (.bringUpStateLimitExpiry n) s = .next u ∧ u.service.stopped = true ∧ u.service.fault = f) ∧
    (late = true → s.service.bringUp = 3 → (∀ m ∈ s.dict.mailboxes, mailboxNext m.2 = false) → ∃ u, exec (.bringUpStateLimitExpiry n) s = .next u ∧ u.service.bringUp = 4 ∧ u.host.linkWidth = 0)) ∧
  (∀ (s : State) (c : Nat) (chunk : List Byte) (next : BitVec 384) (x : Loader), mget s.service.loaders c = some x → bringingUp s = true →
    x.done = false →
    let good := chunk.length = 4096 ∧ Config.sha384 chunk = x.expect
    (good → ∃ u, exec (.microcodeChunk c chunk next) s = .next u ∧ u.service.backing = s.service.backing ∧
      mget u.service.loaders c =
        some { expect := next, mismatches := 0, done := decide (next = 0), image := x.image ++ [chunk] }) ∧
    (¬ good → x.mismatches < 2 → ∃ u, exec (.microcodeChunk c chunk next) s = .next u ∧
      mget u.service.loaders c = some { x with mismatches := x.mismatches + 1 } ∧ u.service.backing = s.service.backing) ∧
    (¬ good → 2 ≤ x.mismatches → ∃ u, exec (.microcodeChunk c chunk next) s = .next u ∧
      mget u.service.loaders c = none ∧ c ∈ u.service.clustersOut ∧ ∀ l, tilePresent u l = (tilePresent s l && decide (clusterOf l ≠ c))))

/-- BIST_COMPLETE builds the logical map: no two tiles share a physical tile, every tile is backed by a good tile of its own die, by its
nominal one where that is good, and a tile is left unbacked only when its die has no good spare left (R378); the clusters await
the microcode, or bring-up stops where no slot of it verifies (R376, R379). -/
def Obligations.MapBacksGoodTiles : Prop :=
  ∀ (s : State) (failed : List Nat) (manifestOk : Bool), bringingUp s = true → s.service.bringUp = 4 → s.service.mapBuilt = false →
    let bad := s.service.fusedBad ++ failed
    ∃ u, exec (.bistComplete { failed := failed, manifestOk := manifestOk }) s = .next u ∧ u.service.mapBuilt = true ∧
      (∀ l p, mget u.service.backing l = some p → p ∉ bad ∧ l < 1280 ∧ p / 336 = dieOf l) ∧
      (∀ l m p, mget u.service.backing l = some p → mget u.service.backing m = some p → l = m) ∧
      (∀ l, l < 1280 → nominalOf l ∉ bad → mget u.service.backing l = some (nominalOf l)) ∧
      (∀ l x, l < 1280 → mget u.service.backing l = none → x < 16 → 336 * dieOf l + 320 + x ∉ bad →
        ∃ m, mget u.service.backing m = some (336 * dieOf l + 320 + x)) ∧
      (manifestOk = true → slotVerifies s 2 (fwOf s 2).active = true → u.service.stopped = s.service.stopped ∧
        ∀ c, c < 80 → (mget u.service.loaders c ≠ none ↔ clusterTiles u c ≠ 0)) ∧
      (manifestOk = false ∨ slotVerifies s 2 (fwOf s 2).active = false → u.service.stopped = true ∧ u.service.fault = 5) ∧
      u.mem = s.mem ∧ u.tiles = s.tiles

/-- Partial resets: RESET_REQUEST and HARDWARE_FATAL_FAULT fence their scope (a fault never a tile alone), RESET_DRAIN_END clears its tiles, each scrubbed and kept
by its owner, or ends a chip's frozen jobs, and RESET_SCOPE_BACK lets the scope serve and gives the acknowledgement that waited (R18,
R20, R31, R364, R370, R380–R383).
Where a clause touches what the spec leaves open, the model's choice is that of logs 116, 121. -/
def Obligations.ResetsClearTheirScope : Prop :=
  (∀ (s : State) (path : Path) (tag : BitVec 16) (role : Nat) (own : Option Nat) (v : W32), Served s path role own → role = 3 ∨ role = 5 →
    let m := writeMsg tag none 0xA004 1 (leBytes 4 v.toNat)
    (∀ sc, scopeOf v.toNat = some sc → bits v.toNat 27 11 = 0 → scopeValid s sc = true →
      ∃ u, exec (.resetRequest path tag v) s = .next u ∧ scopeResetting u sc = true ∧ (∃ a ∈ u.dict.acks, a.path = path ∧ a.request = m) ∧
        (scopeResetting s sc = true → u.service.resets = s.service.resets) ∧
        (scopeResetting s sc = false → u.service.resets = s.service.resets ++ [{ scope := sc, clearing := false, faulty := none }]) ∧
        u.mem = s.mem ∧ (NoFlipDue s → u.tiles = s.tiles)) ∧
    ((scopeOf v.toNat = none ∨ bits v.toNat 27 11 ≠ 0 ∨ ∃ sc, scopeOf v.toNat = some sc ∧ scopeValid s sc = false) →
      ∃ u, exec (.resetRequest path tag v) s = .next u ∧ u.service.resets = s.service.resets ∧ Answered u path m 7 [])) ∧
  (∀ (s : State) (sc : Scope) (f : Option Nat), faultScope s sc f = false → exec (.hardwareFatalFault sc f) s = .next s) ∧
  (∀ (s : State) (sc : Scope) (f : Option Nat), faultScope s sc f = true → 7 ≤ s.service.bringUp → s.service.lodgeAway = false →
    (∀ q ∈ s.log.pending, q.source ≠ scopeSource sc f) →
    ∃ u r, exec (.hardwareFatalFault sc f) s = .next u ∧ scopeResetting u sc = true ∧ u.log.pending = s.log.pending ++ [r] ∧ r.cls = 3 ∧
      u.mem = s.mem ∧ u.tiles = s.tiles) ∧
  (∀ (s : State) (sc : Scope), (∃ r ∈ s.service.resets, r.scope = sc ∧ r.clearing = false) →
    ∃ u, exec (.resetDrainEnd sc) s = .next u ∧ u.tileOwner = s.tileOwner ∧ ((∀ n, sc ≠ .spring n) → u.mem.slow = s.mem.slow) ∧
      (∀ n t p, sc = .spring n → (t, p) ∈ setsOnChip s n → jobFrozen u t p = false) ∧
      (∀ l ∈ scopeTiles sc, tilePresent s l = true → (tileAt u l).blocks = [] ∧ (tileAt u l).streams = [] ∧ ∀ a, lmByte u l a = 0) ∧
      (∀ l, l ∉ scopeTiles sc → (tileAt u l).blocks = (tileAt s l).blocks ∧ ∀ a, lmByte u l a = lmByte s l a) ∧
      ∀ r ∈ u.service.resets, r.scope = sc → r.clearing = true) ∧
  (∀ (s : State) (sc : Scope) (r : ResetRun), s.service.resets.find? (fun r => r.scope = sc && r.clearing) = some r →
    (scopeTiles sc).any (fun l => s.globals.reseedPending.contains l) = false → r.faulty = none →
    ∃ u, exec (.resetScopeBack sc false) s = .next u ∧ u.service.resets = (s.service.resets.filter fun x => x.scope ≠ sc) ∧
      (∀ n, sc = .spring n → chipState s n = 3 → chipState u n = 2) ∧
      (s.service.lodgeAway = false → ∀ a ∈ u.dict.acks, a.kind = .reset sc → scopeResetting u sc = true))

/-- The service jobs: INSTALL_STAGED_IMAGE, ACTIVATE, MOVE_LAYER_SLOT, PREPARE_CARTRIDGE and RETURN_CARTRIDGE start a job for the role that may, answer BUSY while
one runs, and fail at once for the reasons R386 gives; SERVICE_JOB_UNIT_COMPLETE carries the job through its units to its end (R384–R386, R388–R390).
Where a clause touches what the spec leaves open, the model's choice is that of logs 76, 77. -/
def Obligations.JobsRunToTheirEnd : Prop :=
  (∀ (s : State) (path : Path) (tag : BitVec 16) (role : Nat) (own : Option Nat), Served s path role own →
    let msg := fun v : Nat => writeMsg tag none 0xA003 1 (leBytes 8 v)
    let asked : List (Instr × Nat × List Nat) :=
      [(.installStagedImage path tag 3, 2 ^ 56 + 3 * 2 ^ 48, [4, 5]), (.activate path tag 3 false, 2 * 2 ^ 56 + 3 * 2 ^ 48, [4, 5]),
       (.moveLayerSlot path tag 1 2 3 4, 3 * 2 ^ 56 + 2 ^ 34 + 2 * 2 ^ 24 + 3 * 2 ^ 22 + 4 * 2 ^ 12, [3, 5]),
       (.prepareCartridge path tag 6, 4 * 2 ^ 56 + 6, [3, 5]), (.returnCartridge path tag 6, 5 * 2 ^ 56 + 6, [3, 5])]
    (∀ x v rs, (x, v, rs) ∈ asked → 3 ≤ role → role ≤ 5 → role ∉ rs → ∃ u, exec x s = .next u ∧ u.service = s.service ∧ Answered u path (msg v) 3 []) ∧
    (∀ x v rs, (x, v, rs) ∈ asked → role ∈ rs → s.service.job.phase = 1 →
      ∃ u, exec x s = .next u ∧ u.service = s.service ∧ Answered u path (msg v) 9 []) ∧
    (s.service.job.phase ≠ 1 →
      (∀ i, role = 4 ∨ role = 5 → 1 ≤ i → i ≤ 6 → ∃ u, exec (.installStagedImage path tag i) s = .next u ∧
        u.service.job = { kind := 1, phase := 1, image := i } ∧ u.service.firmware = s.service.firmware) ∧
      (∀ i d, role = 4 ∨ role = 5 → 1 ≤ i → i ≤ 6 → ¬ (i = 6 ∧ d = false) →
        let j : Job := { kind := 2, phase := 1, image := i, defer_ := d }
        let c := activateCode s i
        ∃ u, exec (.activate path tag i d) s = .next u ∧
          (c ≠ 0 → u.service.job = { j with phase := 3, reason := 1 } ∧ (fwOf u i).lastResult = c ∧ (fwOf u i).activeB = (fwOf s i).activeB) ∧
          (c = 0 → d = true → u.service.job = { j with phase := 2 } ∧ (fwOf u i).deferred = true ∧ (fwOf u i).activeB = (fwOf s i).activeB) ∧
          (c = 0 → d = false → (fwOf s i).inactive.compat ≠ (fwOf s i).active.compat →
            u.service.job = { j with phase := 3, reason := 2 } ∧ (fwOf u i).lastResult = 5 ∧ (fwOf u i).pending = false) ∧
          (c = 0 → d = false → (fwOf s i).inactive.compat = (fwOf s i).active.compat → u.service.job = j ∧ (fwOf u i).pending = true)) ∧
      (∀ a b c d, role = 3 ∨ role = 5 → a < 4 → b < 1024 → c < 4 → d < 1024 →
        let j : Job := { kind := 3, phase := 1, srcChip := a, srcSlot := b, dstChip := c, dstSlot := d }
        ∃ u, exec (.moveLayerSlot path tag a b c d) s = .next u ∧ u.mem = s.mem ∧ u.service.job =
          if moveBad { s with service := { s.service with job := j } } then { j with phase := 3, reason := 3 } else j) ∧
      (∀ k, role = 3 ∨ role = 5 → k < 7 →
        (∃ u, exec (.prepareCartridge path tag k) s = .next u ∧ u.service.job =
          (if cartridgeAt s k = 0 then { kind := 4, phase := 1, cartridge := k } else { kind := 4, phase := 3, reason := 5, cartridge := k }) ∧
          (cartridgeAt s k = 0 → ∀ l ∈ engineLinks k, (linkAt s l).dimension ≤ 11 → (linkAt s l).state ≠ 0 → (linkAt u l).state = 8)) ∧
        ∃ u, exec (.returnCartridge path tag k) s = .next u ∧ u.links = s.links ∧ u.service.job =
          if cartridgeAt s k = 3 then { kind := 5, phase := 1, cartridge := k } else { kind := 5, phase := 3, reason := 5, cartridge := k }))) ∧
  (∀ s : State, s.service.job.phase = 1 → s.service.lodgeAway = false →
    let j := s.service.job
    let n := j.progress
    (∀ c, j.kind = 1 → ∃ u, exec (.serviceJobUnitComplete (.notVerified c)) s = .next u ∧ u.service.job.phase = 3 ∧
      u.service.job.reason = 1 ∧ (fwOf u j.image).lastResult = c ∧ (fwOf u j.image).active = (fwOf s j.image).active) ∧
    (j.kind = 1 → ∃ u, exec (.serviceJobUnitComplete .done) s = .next u ∧ (fwOf u j.image).active = (fwOf s j.image).active ∧
      ((verifyStaged s j.image).1 = 0 → u.service.job.phase = 2 ∧ (fwOf u j.image).inactive = (verifyStaged s j.image).2) ∧
      ((verifyStaged s j.image).1 ≠ 0 → u.service.job.phase = 3 ∧ u.service.job.reason = 1 ∧
        (fwOf u j.image).inactive = (fwOf s j.image).inactive)) ∧
    (j.kind = 2 → j.image = 2 → clusterEmpty s n = false → exec (.serviceJobUnitComplete .done) s = .next s) ∧
    (j.kind = 2 → j.image = 2 → clusterEmpty s n = true → ∃ u, exec (.serviceJobUnitComplete .done) s = .next u ∧
      (n + 1 < 80 → u.service.job = { j with progress := n + 1 } ∧ (fwOf u 2).activeB = (fwOf s 2).activeB) ∧
      (80 ≤ n + 1 → u.service.job.phase = 2 ∧ (fwOf u 2).activeB = !(fwOf s 2).activeB ∧ (fwOf u 2).pending = false)) ∧
    (j.kind = 2 → j.image = 1 → s.service.handing = true → exec (.serviceJobUnitComplete .done) s = .next s) ∧
    (j.kind = 2 → j.image = 1 → s.service.handing = false → ∃ u, exec (.serviceJobUnitComplete .done) s = .next u ∧
      u.service.handing = true ∧ dictServed u = false ∧ u.service.job = j ∧ u.dict.transfers = [] ∧
      u.dict.sessions.map Session.id = s.dict.sessions.map Session.id) ∧
    (j.kind = 3 → moveHeld s = true → exec (.serviceJobUnitComplete .done) s = .next s) ∧
    (j.kind = 3 → moveHeld s = false → (∀ k ∈ s.service.packagesOut, k / 8 ≠ j.srcChip) → n + 1 < bits (moveSlots s).1 33 17 →
      let a := slotBase s j.srcChip j.srcSlot + 2 ^ 21 * n
      readBad s.mem.slowBad a (2 ^ 21) = false → ∃ u, exec (.serviceJobUnitComplete .done) s = .next u ∧
        u.mem = (s.slowWrite (slotBase s j.dstChip j.dstSlot + 2 ^ 21 * n) (readBytes s.mem.slow a (2 ^ 21))).mem ∧
        u.service.job = { j with progress := n + 1 }) ∧
    (j.kind = 3 → moveHeld s = false → n < bits (moveSlots s).1 33 17 → ∃ u, exec (.serviceJobUnitComplete .uncorrectable) s = .next u ∧ u.mem = s.mem ∧
      u.service.job.phase = 3) ∧
    (j.kind = 4 → mgetD s.service.cartridges j.cartridge 0 = 0 → ∃ u, exec (.serviceJobUnitComplete .done) s = .next u ∧
      mgetD u.service.cartridges j.cartridge 0 = 1 ∧ u.service.job.phase = 2) ∧
    (j.kind = 5 → mgetD s.service.cartridges j.cartridge 0 = 5 → ∃ u, exec (.serviceJobUnitComplete .done) s = .next u ∧
      mgetD u.service.cartridges j.cartridge 0 = 0 ∧ u.service.job.phase = 2 ∧
      ∀ l ∈ engineLinks j.cartridge, (linkAt s l).dimension ≤ 11 → (linkAt s l).state ≠ 0 → (linkAt u l).state = 1)) ∧
  (∀ (s : State) (k : Nat) (ok : Bool), k < 7 →
    (cartridgeAt s k ≠ 2 → ∃ u, exec (.cartridgePulled k) s = .next u ∧ cartridgeAt u k = 2 ∧
      (∀ l ∈ engineLinks k, (linkAt s l).dimension ≤ 11 → (linkAt s l).state ≠ 0 → (linkAt u l).state = 8) ∧
      ∀ l, l ∉ engineLinks k → linkAt u l = linkAt s l) ∧
    (cartridgeAt s k = 2 → ∃ u, exec (.cartridgeInserted k ok) s = .next u ∧ cartridgeAt u k = (if ok then 3 else 4) ∧ u.links = s.links) ∧
    (mgetD s.service.cartridges k 0 = 3 → ∃ u, exec (.cartridgeWarmUpEnd k ok) s = .next u ∧ u.links = s.links ∧
      cartridgeAt u k = (if ok then 3 else 4)))

/-! ### Heartwood -/

/-- Heartwood's commands: ROLLBACK_COMMIT raises a counter to the active slot's number, KEY_SLOT_REVOKE blows a fuse but for the last slot and one in use,
ATTESTATION_REQUEST signs with the next leaf or is refused, as is one whose signature does not verify, SELF_TEST_RUN, NOISE_HEALTH_FAILURE and ENTROPY_STARTUP_RETEST set the state their tests give, and
ZEROISE_VOLATILE, ZEROISE_PERMANENT and ENVELOPE_VIOLATION forget every key and session (R396, R397, R402, R406–R408, R410, R426).
Where a clause touches what the spec leaves open, the model's choice is that of logs 72, 73. -/
def Obligations.HeartwoodGuardsItsKeys : Prop :=
  (∀ (s : State) (path : Path) (tag : BitVec 16) (role : Nat) (own : Option Nat), Served s path role own → role = 4 ∨ role = 5 →
    (∀ v : Byte, let n := v.toNat
      let m := writeMsg tag none 0x8000 10 [v]
      let c := max (rollbackOf s n) (fwOf s n).active.svn
      (n < 1 ∨ 6 < n ∨ (fwOf s n).pending = true → ∃ u, exec (.rollbackCommit path tag v) s = .next u ∧ u.heartwood.rollback = s.heartwood.rollback ∧
        u.service = s.service ∧ Answered u path m 7 []) ∧
      (1 ≤ n → n ≤ 6 → (fwOf s n).pending = false → ∃ u, exec (.rollbackCommit path tag v) s = .next u ∧ rollbackOf u n = c ∧
        (∀ i, i ≠ n → rollbackOf u i = rollbackOf s i) ∧ (fwOf u n).active = (fwOf s n).active ∧
        ((fwOf u n).inactive.valid = true ↔ (fwOf s n).inactive.valid = true ∧ c ≤ (fwOf s n).inactive.svn) ∧ Answered u path m 0 [])) ∧
    (∀ v : Byte, let n := v.toNat
      let m := writeMsg tag none 0x8000 12 [v]
      let may := n ≤ 3 ∧ (∃ k, k < 4 ∧ k ≠ n ∧ s.heartwood.revoked.getLsbD k = false) ∧ ∀ i, 1 ≤ i → i ≤ 6 → (fwOf s i).active.valid = true → (fwOf s i).active.keySlot ≠ n
      (¬ may → ∃ u, exec (.keySlotRevoke path tag v) s = .next u ∧ u.heartwood.revoked = s.heartwood.revoked ∧ Answered u path m 7 []) ∧
      (may → ∃ u, exec (.keySlotRevoke path tag v) s = .next u ∧ Answered u path m 0 [] ∧
        (∀ k, k < 4 → u.heartwood.revoked.getLsbD k = (s.heartwood.revoked.getLsbD k || decide (k = n))) ∧
        ∀ i img, img.keySlot = n → slotVerifies u i img = false)) ∧
    (∀ f : W32, s.heartwood.state = 1 ∨ s.heartwood.state = 2 →
      ∃ u, exec (.selfTestRun path tag 1 f) s = .next u ∧ Answered u path (writeMsg tag none 0x8000 4 [1]) 0 [] ∧
        u.heartwood.state = (if f &&& 0x7FE = 0 then s.heartwood.state else 3) ∧ u.heartwood.selfTests &&& 0x7FE = f &&& 0x7FE) ∧
    (s.heartwood.state ≠ 0 → ∀ x v permanent, (x, v, permanent) ∈ [(Instr.zeroiseVolatile path tag, (1 : Byte), false), (.zeroisePermanent path tag, 2, true)] →
      ∃ u, exec x s = .next u ∧ u.heartwood.keysHeld = false ∧ u.dict.sessions = [] ∧ (∀ l, (linkAt u l).keys = none) ∧
        u.heartwood.killed = (s.heartwood.killed || permanent) ∧ u.heartwood.state = (if u.heartwood.killed then 5 else 4) ∧
        (path, response (writeMsg tag none 0x8000 9 [v]) 0 []) ∈ u.dict.replies ∧ u.service.firmware = s.service.firmware ∧
        u.heartwood.recordA = s.heartwood.recordA ∧ u.heartwood.recordB = s.heartwood.recordB ∧ u.mem = s.mem ∧
        (NoFlipDue s → u.tiles = s.tiles))) ∧
  (∀ (s : State) (path : Path) (tag : BitVec 16) (role : Nat) (own : Option Nat) (nonce : List Byte) (ms : Nat), Served s path role own →
    role = 1 ∨ 3 ≤ role ∧ role ≤ 5 → nonce.length = 32 →
    let m := writeMsg tag none 0x8001 1 nonce
    let may := s.heartwood.state ≤ 2 ∧ (s.heartwood.reported = false ∨ s.heartwood.minIntervalMs ≤ s.heartwood.sinceReportMs + ms) ∧
      s.heartwood.next < lmsPool
    (s.heartwood.state ≠ 0 → may → s.heartwood.next ≤ reservedTo s.heartwood →
      ∃ u, exec (.attestationRequest path tag nonce ms) s = .next u ∧ u.heartwood.next = s.heartwood.next + 1 ∧
        u.heartwood.next ≤ reservedTo u.heartwood ∧ ∃ body : List Byte, (body.drop 32).take 32 = nonce ∧
          if Config.hssVerify Config.deviceHssKey body (Config.hssSign s.heartwood.next body) then
            u.heartwood.reported = true ∧ u.heartwood.sinceReportMs = 0 ∧ u.heartwood.report.take body.length = body ∧ Answered u path m 0 []
          else u.heartwood.state = 3 ∧ u.heartwood.report = s.heartwood.report ∧ Answered u path m 7 []) ∧
    (s.heartwood.state ≠ 0 → ¬ may → ∃ u, exec (.attestationRequest path tag nonce ms) s = .next u ∧ u.heartwood.next = s.heartwood.next ∧
      u.heartwood.report = s.heartwood.report ∧ Answered u path m 7 [])) ∧
  (∀ s : State,
    (s.service.bringUp ≠ 0 → ∃ u, exec .noiseHealthFailure s = .next u ∧ u.heartwood = { s.heartwood with
      entropyFailures := satAdd 32 s.heartwood.entropyFailures 1, selfTests := s.heartwood.selfTests ||| 0x1000,
      state := if s.heartwood.state = 1 then 2 else s.heartwood.state }) ∧
    (s.heartwood.state = 2 →
      (∃ u, exec (.entropyStartupRetest true) s = .next u ∧ u.heartwood.state = 1 ∧ u.globals.reseedPending = [] ∧
        ∀ l t, l ∈ s.globals.reseedPending → mget s.globals.heldOwner l = some t → ownerOf u l = some t) ∧
      ∃ u, exec (.entropyStartupRetest false) s = .next u ∧ u.heartwood.state = 2 ∧
        u.heartwood.entropyFailures = satAdd 32 s.heartwood.entropyFailures 1) ∧
    (∀ (rail die : Int) (ns : Nat), s.service.bringUp ≠ 0 →
      ((rail < 720000 ∨ 880000 < rail) ∧ 10000 < ns ∨ die < -25 ∨ 125 < die →
        ∃ u, exec (.envelopeViolation rail die ns) s = .next u ∧ u.heartwood.keysHeld = false ∧ u.dict.sessions = [] ∧
          (∀ l, (linkAt u l).keys = none) ∧ u.heartwood.state = (if s.heartwood.killed then 5 else 4)) ∧
      (720000 ≤ rail → rail ≤ 880000 → -25 ≤ die → die ≤ 125 → exec (.envelopeViolation rail die ns) s = .next s)))

/-- The SPDM responder: with the link up and Heartwood operational, each request of its code and version that comes whole and in turn gets
one response, whose code is the request's, and moves the connection on; one that is out of turn, short or of another
version gets an error (R403; the layouts are log 61's). -/
def Obligations.SpdmAnswersInTurn : Prop :=
  ∀ (s : State) (req : List Byte), s.host.linkWidth ≠ 0 → s.power.powered = true → s.heartwood.state = 1 →
    let x0 := s.heartwood.spdm
    let rows : List (Instr × Nat × Nat × Nat) :=
      [(.spdmGetVersion req, 0x84, 0, 4), (.spdmGetCapabilities req, 0xE1, 1, 20), (.spdmNegotiateAlgorithms req, 0xE3, 2, 32),
       (.spdmGetDigests req, 0x81, 3, 4), (.spdmGetCertificate req, 0x82, 3, 8), (.spdmChallenge req, 0x83, 3, 36),
       (.spdmKeyExchange req, 0xE4, 3, 138), (.spdmFinish req, 0xE5, 3, 52), (.spdmKeyUpdate req, 0xE9, 3, 4), (.spdmEndSession req, 0xEC, 3, 4)]
    let code := (req.getD 1 0).toNat
    let version := fun c => (req.getD 0 0).toNat = if c = 0x84 then 0x10 else 0x12
    let sends := fun (i : Instr) (first : List Byte) (more : SpdmState → Prop) =>
      ∃ u bs, exec i s = .next u ∧ u.heartwood.spdm.responses = x0.responses ++ [first ++ bs] ∧ more u.heartwood.spdm ∧
        u.mem = s.mem ∧ u.tiles = s.tiles ∧ u.dict = s.dict
    (∀ i c st n, (i, c, st, n) ∈ rows → code = c →
      (¬ version c → sends i (spdmHeader 0x7F 0x41 0) fun x => x.stage = x0.stage) ∧
      (version c → req.length < n → sends i (spdmHeader 0x7F 1 0) fun x => x.stage = x0.stage) ∧
      (version c → n ≤ req.length → x0.stage < st → sends i (spdmHeader 0x7F 4 0) fun x => x.stage = x0.stage)) ∧
    (code = 0x84 → version 0x84 → 4 ≤ req.length → sends (.spdmGetVersion req) [0x10, 4, 0, 0] fun x => x.stage = 1 ∧ x.session = none) ∧
    (version 0 →
      (code = 0xE1 → 20 ≤ req.length → 1 ≤ x0.stage → sends (.spdmGetCapabilities req) (spdmHeader 0x61 0 0) fun x => x.stage = 2) ∧
      (code = 0xE3 → 32 ≤ req.length → 2 ≤ x0.stage →
        (bit (leNat (reqField req 8 4)) 7 = true ∧ bit (leNat (reqField req 12 4)) 1 = true →
          sends (.spdmNegotiateAlgorithms req) (spdmHeader 0x63 3 0) fun x => x.stage = 3) ∧
        (bit (leNat (reqField req 8 4)) 7 = false ∨ bit (leNat (reqField req 12 4)) 1 = false →
          sends (.spdmNegotiateAlgorithms req) (spdmHeader 0x7F 1 0) fun x => x.stage = x0.stage)) ∧
      (3 ≤ x0.stage →
        (code = 0x81 → 4 ≤ req.length → sends (.spdmGetDigests req) (spdmHeader 0x01 0 1) fun x => x.stage = x0.stage) ∧
        (code = 0x82 → 8 ≤ req.length → reqParam1 req % 16 = 0 → leNat (reqField req 4 2) < spdmChain.length →
          sends (.spdmGetCertificate req) (spdmHeader 0x02 0 0) fun x => x.stage = x0.stage) ∧
        (code = 0x83 → 36 ≤ req.length → reqParam1 req % 16 = 0 →
          sends (.spdmChallenge req) (spdmHeader 0x03 0 1) fun x => x.certified = []) ∧
        (code = 0xE0 → 4 ≤ req.length → reqParam2 req = 0 → reqParam1 req = 0 → ∀ ms,
          sends (.spdmGetMeasurements req ms) (spdmHeader 0x60 7 0) fun x => x.stage = x0.stage) ∧
        (code = 0xE0 → 4 ≤ req.length → reqParam2 req ∈ [1, 2, 3, 4, 5, 6] → reqParam1 req = 0 → ∀ ms,
          sends (.spdmGetMeasurements req ms) (spdmHeader 0x60 0 0 ++ [1]) fun x => x.stage = x0.stage) ∧
        (code = 0xE0 → 37 ≤ req.length → reqParam2 req = 0x20 → reqParam1 req = 1 → ∀ ms,
          if mayAttest (s.heartwoodTime ms) = true then
            ∃ body : List Byte, (body.drop 32).take 32 = reqField req 4 32 ∧
              if Config.hssVerify Config.deviceHssKey body (Config.hssSign s.heartwood.next body) then
                sends (.spdmGetMeasurements req ms) (spdmHeader 0x60 0 0 ++ [1]) fun x => x.measured = []
              else sends (.spdmGetMeasurements req ms) (spdmHeader 0x7F 3 0) fun x => x.measured = x0.measured
          else sends (.spdmGetMeasurements req ms) (spdmHeader 0x7F 3 0) fun x => x.measured = x0.measured) ∧
        (code = 0xE4 → 138 + leNat (reqField req 136 2) ≤ req.length → reqParam2 req % 16 = 0 → x0.session = none →
          sends (.spdmKeyExchange req) (spdmHeader 0x64 0 0) fun x => x.session ≠ none ∧ x.sessionOpen = false ∧ x.keyUpdates = 0) ∧
        (code = 0xE5 → 52 ≤ req.length → x0.session ≠ none → x0.sessionOpen = false →
          if reqField req 4 48 = verifyData x0.secret (x0.thread ++ req.take 4) "requester" then
            sends (.spdmFinish req) (spdmHeader 0x65 0 0) fun x => x.sessionOpen = true
          else sends (.spdmFinish req) (spdmHeader 0x7F 6 0) fun x => x.sessionOpen = false) ∧
        (code = 0xE9 → 4 ≤ req.length → x0.sessionOpen = true → reqParam1 req = 1 ∨ reqParam1 req = 2 →
          sends (.spdmKeyUpdate req) (spdmHeader 0x69 (reqParam1 req) (reqParam2 req)) fun x => x.keyUpdates = x0.keyUpdates + 1) ∧
        (code = 0xEC → 4 ≤ req.length → x0.sessionOpen = true →
          sends (.spdmEndSession req) (spdmHeader 0x6C 0 0) fun x => x.session = none ∧ x.sessionOpen = false ∧ x.secret = [])))

/-! ### Islands and power -/

/-- ISLAND_THROTTLE_DOWN and ISLAND_THROTTLE_UP step a throttling island's frequency within its range; ISLAND_SHUTOFF stops the island and what needs it, or the package;
PWR_CYCLE_N and INPUT_OUT_OF_RANGE put the module off, with firmware, fuses, leaves and the count of shut-offs kept (R412–R415, R419, R424).
Where a clause touches what the spec leaves open, the model's choice is that of log 80. -/
def Obligations.IslandsThrottleAndStop : Prop :=
  (∀ (s : State) (i n : Nat) (temp : Int) (step low : Nat), throttleStep i = some (step, low) → islandOn s i = true →
    let x := islandAt s i
    let only := fun u : State => u.mem = s.mem ∧ u.tiles = s.tiles ∧ ∀ j, j ≠ i → islandAt u j = islandAt s j
    (105 ≤ temp → 4096 ≤ n → ∃ u, exec (.islandThrottleDown i n temp) s = .next u ∧ only u ∧ (islandAt u i).temp = temp ∧
      (islandAt u i).freq = (if x.freq ≤ low then x.freq else max low (x.freq - step)) ∧
      (low < x.freq → (islandAt u i).state = 2 ∧ (islandAt u i).throttles = if x.state = 1 then satAdd 8 x.throttles 1 else x.throttles)) ∧
    (105 ≤ temp → x.since + n < 4096 → ∃ u, exec (.islandThrottleDown i n temp) s = .next u ∧ only u ∧ (islandAt u i).freq = x.freq) ∧
    (temp < 105 → exec (.islandThrottleDown i n temp) s = .next s) ∧
    (temp ≤ 100 → x.state = 2 → 65536 ≤ n → ∃ u, exec (.islandThrottleUp i n temp) s = .next u ∧ only u ∧
      (islandAt u i).freq = min (islandMax i) (x.freq + step) ∧
      ((islandAt u i).state = 1 ↔ min (islandMax i) (x.freq + step) = islandMax i)) ∧
    (100 < temp → exec (.islandThrottleUp i n temp) s = .next s)) ∧
  (∀ (s : State) (i : Nat) (temp : Int), 115 ≤ temp → islandOn s i = true →
    (∀ l, i < 1344 → backedBy s i = some l → scopeResetting s (.cluster (clusterOf l)) = false →
      ∃ u, exec (.islandShutoff i temp) s = .next u ∧ u.power.shutoffs = satAdd 32 s.power.shutoffs 1 ∧ (islandAt u i).state = 3 ∧
        (islandAt u i).freq = 0 ∧ scopeResetting u (.cluster (clusterOf l)) = true ∧ mgetD u.service.yield_ i 0 = 5) ∧
    (1472 ≤ i → i < 1476 → chipState s (i - 1472) ≠ 4 → ∃ u, exec (.islandShutoff i temp) s = .next u ∧ chipState u (i - 1472) = 3 ∧
      u.power.shutoffs = satAdd 32 s.power.shutoffs 1 ∧ u.mem = s.mem) ∧
    (1344 ≤ i → i ≤ 1480 → i < 1472 ∨ 1476 ≤ i → ∃ u r, exec (.islandShutoff i temp) s = .next u ∧ u.power.packageOff = true ∧
      u.power.shutoffs = satAdd 32 s.power.shutoffs 1 ∧ u.power.savedFatal = some r ∧ r.cls = 3 ∧ u.service.bringUp = 0 ∧ u.tiles = [] ∧
      pinFaultCode u = 7)) ∧
  (∀ (s : State) (x : Instr), ((∃ ms, 100 ≤ ms ∧ x = .pwrCycleN ms) ∨ ∃ mv, (mv < 38000 ∨ 60000 < mv) ∧ x = .inputOutOfRange mv) →
    ∃ u, exec x s = .next u ∧ u.service.bringUp = 0 ∧ u.tiles = [] ∧ u.tenants = [] ∧ u.mem = {} ∧ u.dict = {} ∧ u.host = {} ∧
      u.power.shutoffs = s.power.shutoffs ∧ u.heartwood.rollback = s.heartwood.rollback ∧ u.heartwood.revoked = s.heartwood.revoked ∧
      u.heartwood.killed = s.heartwood.killed ∧ u.heartwood.next = reservedTo s.heartwood ∧ u.pending = s.pending ∧
      (s.service.job.phase ≠ 1 → u.service.firmware = s.service.firmware)) ∧
  (∀ (s : State) (x : Instr), ((∃ ms, ms < 100 ∧ x = .pwrCycleN ms) ∨ ∃ mv, 38000 ≤ mv ∧ mv ≤ 60000 ∧ x = .inputOutOfRange mv) →
    exec x s = .next s)

/-! ### Whole-module invariants -/

/-- Every leaf of the device key that has been used lies below what a durable record reserves (R406). -/
def Sys2Proof.Machine.LeavesReserved (s : State) : Prop := s.heartwood.next ≤ reservedTo s.heartwood

/-- From every state whose records cover the leaves used, a step gives such a state, and the next leaf never moves back:
no leaf is used twice, whatever the command (R406). -/
def Obligations.LeavesNeverRepeat : Prop :=
  ∀ s u : State, LeavesReserved s → step s = .next u → LeavesReserved u ∧ s.heartwood.next ≤ u.heartwood.next

/-- From every state whose two memory tiers are in canonical form, a step gives such a state: what is listed is exactly
the bytes that are not zero, in rising order, so that equal memories are equal data (the model's form of memory). -/
def Obligations.MemoryStaysCanonical : Prop :=
  ∀ s u : State, Memory.wf s.mem = true → step s = .next u → Memory.wf u.mem = true

/-- The module after reset meets both invariants. -/
def Obligations.ResetMeetsTheInvariants : Prop :=
  LeavesReserved State.reset ∧ Memory.wf State.reset.mem = true
end

