-- ==== Sys2Proof/Laws/Flits.lean ====
section
/-!
SUPPORT. What crosses a link loses no bit: the eight units of a flit give the flit back (R259, R260), and what a link does
with the units that have come.
-/

namespace Sys2Proof.Machine

set_option exponentiation.threshold 3000

/-- The units of a flit give the flit back: striping loses no bit of it (R259, R260). -/
theorem flit_of_units (hdr : BitVec 128) (hc : BitVec 16) (p0 p1 p2 p3 p4 p5 p6 p7 p8 p9 p10 p11 p12 : BitVec 144) (crc : BitVec 32) :
    let f : Flit := { hdr := hdr, hdrCheck := hc, payload := [p0, p1, p2, p3, p4, p5, p6, p7, p8, p9, p10, p11, p12], crc := crc }
    flitOfUnits (unitsOf f) = f := by
  intro f
  have hn : flitNumber f = crc.toNat * 2 ^ 2016 + (p0.toNat * 2 ^ 144 + p1.toNat * 2 ^ 288 + p2.toNat * 2 ^ 432 + p3.toNat * 2 ^ 576 + p4.toNat * 2 ^ 720 + p5.toNat * 2 ^ 864 + p6.toNat * 2 ^ 1008 + p7.toNat * 2 ^ 1152 + p8.toNat * 2 ^ 1296 + p9.toNat * 2 ^ 1440 + p10.toNat * 2 ^ 1584 + p11.toNat * 2 ^ 1728 + p12.toNat * 2 ^ 1872) + hc.toNat * 2 ^ 128 + hdr.toNat := by
    simp [flitNumber, f, fieldAt, List.range_succ]
    omega
  have b0 := hdr.isLt
  have b1 := hc.isLt
  have b2 := crc.isLt
  have c0 := p0.isLt
  have c1 := p1.isLt
  have c2 := p2.isLt
  have c3 := p3.isLt
  have c4 := p4.isLt
  have c5 := p5.isLt
  have c6 := p6.isLt
  have c7 := p7.isLt
  have c8 := p8.isLt
  have c9 := p9.isLt
  have c10 := p10.isLt
  have c11 := p11.isLt
  have c12 := p12.isLt
  have hs : ((List.range 8).map fun u => fieldAt (256 * u) ((unitsOf f).getD u 0).toNat).foldl (· + ·) 0 = flitNumber f := by
    have hb : flitNumber f < 2 ^ 2048 := by rw [hn]; omega
    generalize hN : flitNumber f = N at hb
    simp [unitsOf, fieldAt, List.range_succ, hN]
    omega
  unfold flitOfUnits
  simp only [hs]
  have h0 : BitVec.ofNat 128 (flitNumber f) = hdr := by
    apply BitVec.eq_of_toNat_eq; rw [BitVec.toNat_ofNat, hn]; omega
  have h1 : BitVec.ofNat 16 (flitNumber f / 2 ^ 128) = hc := by
    apply BitVec.eq_of_toNat_eq; rw [BitVec.toNat_ofNat, hn]; omega
  have h2 : BitVec.ofNat 32 (flitNumber f / 2 ^ 2016) = crc := by
    apply BitVec.eq_of_toNat_eq; rw [BitVec.toNat_ofNat, hn]; omega
  have h3 : ((List.range 13).map fun i => BitVec.ofNat 144 (flitNumber f / 2 ^ (144 + 144 * i))) = f.payload := by
    simp only [List.range_succ, List.range_zero, List.nil_append, List.map_cons, List.map_nil, List.cons_append, f, List.cons.injEq, and_true]
    refine ⟨?_, ?_, ?_, ?_, ?_, ?_, ?_, ?_, ?_, ?_, ?_, ?_, ?_⟩ <;>
      (apply BitVec.eq_of_toNat_eq; rw [BitVec.toNat_ofNat, hn]; omega)
  simp only [h0, h1, h2, h3, f]

/-- A link of one lane whose eight units have come takes the flit they are (R259). -/
theorem nextFlit_one_lane (k : Link) (f : Flit) (hl : k.lanes = 1) (hr : k.rxUnits = [(0, unitsOf f)])
    (hf : flitOfUnits (unitsOf f) = f) : nextFlit k = some (f, [(0, [])]) := by
  have ha : activeLanes k = [0] := by rw [activeLanes, hl]; decide
  have hu : ((List.range 8).map fun u => (unitsOf f).getD u 0) = unitsOf f := by simp [unitsOf, List.range_succ]
  have h8 : (unitsOf f).length = 8 := by simp [unitsOf]
  have hg : ((List.range 8).map fun u => (mgetD k.rxUnits ([0].getD (u % 1) 0) []).getD (u / 1) 0) = unitsOf f := by
    rw [hr]
    refine Eq.trans (List.map_congr_left fun u _ => ?_) hu
    simp [mgetD, mget, Nat.mod_one]
  have hd : [0].foldl (fun (m : SMap (List (BitVec 256))) i => mset m i ((mgetD m i []).drop (8 / 1))) k.rxUnits = [(0, [])] := by
    simp [hr, mgetD, mget, mset, h8]
  have hq : ([0].any fun i => (mgetD k.rxUnits i []).length < 8 / 1) = false := by simp [hr, mgetD, mget, h8]
  unfold nextFlit
  simp only [ha, List.length_singleton, hq, hg, hf, hd]
  simp

end Sys2Proof.Machine
end

