-- ==== Sys2Proof/Laws/Store.lean ====
section
/-!
SUPPORT. Laws of the sparse tables: what a read gives after a write or an erase, and that every
operation keeps the canonical form.
-/

namespace Sys2Proof.Machine

variable {β : Type}

@[simp] theorem mget_nil (k : Nat) : mget ([] : SMap β) k = none := rfl

theorem mget_mset (m : SMap β) (k j : Nat) (v : β) :
    mget (mset m k v) j = if j = k then some v else mget m j := by
  induction m with
  | nil => by_cases h : k = j <;> simp [mset, mget, h, eq_comm (a := j)]
  | cons e rest ih =>
    obtain ⟨a, w⟩ := e
    by_cases hj : j = k
    · subst hj
      by_cases h1 : j < a
      · simp [mset, h1, mget]
      · by_cases h2 : a = j
        · simp [mset, h2, mget]
        · simp [mset, h1, h2, mget, ih]
    · have hk : k ≠ j := fun h => hj h.symm
      by_cases h1 : k < a
      · simp [mset, h1, mget, hj, hk]
      · by_cases h2 : a = k
        · simp [mset, h2, mget, hj, hk]
        · simp [mset, h1, h2, mget, ih, hj]

@[simp] theorem mget_mset_self (m : SMap β) (k : Nat) (v : β) : mget (mset m k v) k = some v := by
  simp [mget_mset]

theorem mget_mset_ne (m : SMap β) {k j : Nat} (v : β) (h : j ≠ k) : mget (mset m k v) j = mget m j := by
  simp [mget_mset, h]

theorem mget_filter (p : Nat → Bool) (m : SMap β) (j : Nat) :
    mget (m.filter fun e => p e.1) j = if p j then mget m j else none := by
  induction m with
  | nil => simp
  | cons e rest ih =>
    obtain ⟨a, w⟩ := e
    by_cases hp : p a
    · by_cases h : a = j
      · subst h; simp [List.filter, hp, mget]
      · simp [List.filter, hp, mget, h, ih]
    · by_cases h : a = j
      · subst h; simp [List.filter, hp, ih]
      · simp [List.filter, hp, mget, h, ih]

theorem mget_merase (m : SMap β) (k j : Nat) : mget (merase m k) j = if j = k then none else mget m j := by
  have := mget_filter (fun a => decide (a ≠ k)) m j
  simp only [merase]
  rw [this]
  by_cases h : j = k <;> simp [h]

@[simp] theorem mget_merase_self (m : SMap β) (k : Nat) : mget (merase m k) k = none := by
  simp [mget_merase]

/-- What a canonical table reads after one of its entries is written. -/
theorem mgetD_mput [DecidableEq β] (d : β) (m : SMap β) (k j : Nat) (v : β) :
    mgetD (mput d m k v) j d = if j = k then v else mgetD m j d := by
  unfold mput mgetD
  by_cases hv : v = d
  · by_cases hj : j = k <;> simp [hv, mget_merase, hj]
  · by_cases hj : j = k <;> simp [hv, mget_mset, hj]

@[simp] theorem mgetD_mput_self [DecidableEq β] (d : β) (m : SMap β) (k : Nat) (v : β) :
    mgetD (mput d m k v) k d = v := by simp [mgetD_mput]

theorem mgetD_mput_ne [DecidableEq β] (d : β) (m : SMap β) {k j : Nat} (v : β) (h : j ≠ k) :
    mgetD (mput d m k v) j d = mgetD m j d := by simp [mgetD_mput, h]

@[simp] theorem mgetD_mset_self (m : SMap β) (k : Nat) (v d : β) : mgetD (mset m k v) k d = v := by
  simp [mgetD]

theorem mgetD_mset_ne (m : SMap β) {k j : Nat} (v d : β) (h : j ≠ k) :
    mgetD (mset m k v) j d = mgetD m j d := by simp [mgetD, mget_mset, h]

/-! ### The canonical form -/

/-- Keys strictly rising, as a relation on the list. -/
theorem mwf_iff (m : SMap β) : mwf m = true ↔ m.Pairwise fun a b => a.1 < b.1 := by
  induction m with
  | nil => simp [mwf]
  | cons e rest ih =>
    obtain ⟨a, v⟩ := e
    cases rest with
    | nil => simp [mwf]
    | cons e' rest =>
      obtain ⟨b, w⟩ := e'
      simp only [mwf, Bool.and_eq_true, decide_eq_true_eq, ih, List.pairwise_cons, List.mem_cons]
      constructor
      · rintro ⟨hab, hb, hr⟩
        refine ⟨?_, hb, hr⟩
        rintro x (rfl | hx)
        · exact hab
        · exact Nat.lt_trans hab (hb x hx)
      · rintro ⟨ha, hb, hr⟩
        exact ⟨ha _ (Or.inl rfl), hb, hr⟩

theorem mset_mem {m : SMap β} {k : Nat} {v : β} {e : Nat × β} (h : e ∈ mset m k v) : e = (k, v) ∨ e ∈ m := by
  induction m with
  | nil => simpa [mset] using h
  | cons x rest ih =>
    obtain ⟨a, w⟩ := x
    unfold mset at h
    split at h
    · simpa using h
    · split at h
      · rcases List.mem_cons.1 h with h | h
        · exact Or.inl h
        · exact Or.inr (List.mem_cons_of_mem _ h)
      · rcases List.mem_cons.1 h with h | h
        · exact Or.inr (by simp [h])
        · rcases ih h with h | h
          · exact Or.inl h
          · exact Or.inr (List.mem_cons_of_mem _ h)

theorem mwf_mset {m : SMap β} (k : Nat) (v : β) (h : mwf m = true) : mwf (mset m k v) = true := by
  rw [mwf_iff] at h ⊢
  induction m with
  | nil => simp [mset]
  | cons x rest ih =>
    obtain ⟨a, w⟩ := x
    rw [List.pairwise_cons] at h
    unfold mset
    split
    · rename_i hk
      refine List.pairwise_cons.2 ⟨?_, List.pairwise_cons.2 h⟩
      intro e he
      rcases List.mem_cons.1 he with rfl | he
      · exact hk
      · exact Nat.lt_trans hk (h.1 e he)
    · split
      · subst_vars
        exact List.pairwise_cons.2 ⟨h.1, h.2⟩
      · refine List.pairwise_cons.2 ⟨?_, ih h.2⟩
        intro e he
        rcases mset_mem he with rfl | he
        · simp; omega
        · exact h.1 e he

theorem mwf_filter {m : SMap β} (p : Nat × β → Bool) (h : mwf m = true) : mwf (m.filter p) = true := by
  rw [mwf_iff] at h ⊢
  exact h.sublist List.filter_sublist

theorem mwf_merase {m : SMap β} (k : Nat) (h : mwf m = true) : mwf (merase m k) = true := mwf_filter _ h

theorem mcanon_filter [DecidableEq β] {d : β} {m : SMap β} (p : Nat × β → Bool) (h : mcanon d m = true) :
    mcanon d (m.filter p) = true := by
  simp only [mcanon, Bool.and_eq_true] at h ⊢
  refine ⟨mwf_filter p h.1, ?_⟩
  rw [List.all_eq_true] at h ⊢
  exact fun e he => h.2 e (List.mem_of_mem_filter he)

/-- A write keeps the canonical form. -/
theorem mcanon_mput [DecidableEq β] {d : β} {m : SMap β} (k : Nat) (v : β) (h : mcanon d m = true) :
    mcanon d (mput d m k v) = true := by
  unfold mput
  split
  · exact mcanon_filter _ h
  · rename_i hv
    simp only [mcanon, Bool.and_eq_true] at h ⊢
    refine ⟨mwf_mset k v h.1, ?_⟩
    rw [List.all_eq_true] at h ⊢
    intro e he
    rcases mset_mem he with rfl | he
    · simpa using hv
    · exact h.2 e he

/-- Writing bytes keeps the canonical form. -/
theorem mcanon_writeBytes (bs : List Byte) : ∀ {m : SMap Byte} (a : Nat), mcanon 0 m = true →
    mcanon 0 (writeBytes m a bs) = true := by
  induction bs with
  | nil => intro m a h; exact h
  | cons b rest ih => intro m a h; exact ih (a + 1) (mcanon_mput a b h)

/-- Every byte outside the written range reads as before. -/
theorem mgetD_writeBytes_outside (bs : List Byte) : ∀ (m : SMap Byte) (a j : Nat), j < a ∨ a + bs.length ≤ j →
    mgetD (writeBytes m a bs) j 0 = mgetD m j 0 := by
  induction bs with
  | nil => intros; rfl
  | cons b rest ih =>
    intro m a j h
    simp only [List.length_cons] at h
    rw [writeBytes, ih _ _ _ (by omega), mgetD_mput_ne _ _ _ (by omega)]

/-- Every byte of the written range reads as written. -/
theorem mgetD_writeBytes_inside (bs : List Byte) : ∀ (m : SMap Byte) (a i : Nat) (h : i < bs.length),
    mgetD (writeBytes m a bs) (a + i) 0 = bs[i] := by
  induction bs with
  | nil => intro m a i h; simp at h
  | cons b rest ih =>
    intro m a i h
    cases i with
    | zero => rw [writeBytes, mgetD_writeBytes_outside _ _ _ _ (by omega)]; simp
    | succ k =>
      have := ih (mput 0 m a b) (a + 1) k (by simpa using h)
      rw [writeBytes, show a + (k + 1) = a + 1 + k by omega, this]
      rfl

end Sys2Proof.Machine
end

