-- ==== Sys2Proof/Laws/State.lean ====
section
/-!
SUPPORT. The fields of the state after each of its updates, one lemma per field and update, and what the
tables of tiles and tenants read after one of their entries is written.
-/

namespace Sys2Proof.Machine

variable (s : State)

/-! ### `State.setTile` -/

@[simp] theorem State.setTile_pending (l : Nat) (t : Tile) : (s.setTile l t).pending = s.pending := rfl
@[simp] theorem State.setTile_draws (l : Nat) (t : Tile) : (s.setTile l t).draws = s.draws := rfl
@[simp] theorem State.setTile_tileOwner (l : Nat) (t : Tile) : (s.setTile l t).tileOwner = s.tileOwner := rfl
@[simp] theorem State.setTile_tenants (l : Nat) (t : Tile) : (s.setTile l t).tenants = s.tenants := rfl
@[simp] theorem State.setTile_mem (l : Nat) (t : Tile) : (s.setTile l t).mem = s.mem := rfl
@[simp] theorem State.setTile_links (l : Nat) (t : Tile) : (s.setTile l t).links = s.links := rfl
@[simp] theorem State.setTile_host (l : Nat) (t : Tile) : (s.setTile l t).host = s.host := rfl
@[simp] theorem State.setTile_dict (l : Nat) (t : Tile) : (s.setTile l t).dict = s.dict := rfl
@[simp] theorem State.setTile_log (l : Nat) (t : Tile) : (s.setTile l t).log = s.log := rfl
@[simp] theorem State.setTile_service (l : Nat) (t : Tile) : (s.setTile l t).service = s.service := rfl
@[simp] theorem State.setTile_heartwood (l : Nat) (t : Tile) : (s.setTile l t).heartwood = s.heartwood := rfl
@[simp] theorem State.setTile_power (l : Nat) (t : Tile) : (s.setTile l t).power = s.power := rfl
@[simp] theorem State.setTile_globals (l : Nat) (t : Tile) : (s.setTile l t).globals = s.globals := rfl
@[simp] theorem State.setTile_tiles (l : Nat) (t : Tile) : (s.setTile l t).tiles = mset s.tiles l t := rfl

/-! ### `State.setTenant` -/

@[simp] theorem State.setTenant_pending (t : Nat) (v : Tenant) : (s.setTenant t v).pending = s.pending := rfl
@[simp] theorem State.setTenant_draws (t : Nat) (v : Tenant) : (s.setTenant t v).draws = s.draws := rfl
@[simp] theorem State.setTenant_tiles (t : Nat) (v : Tenant) : (s.setTenant t v).tiles = s.tiles := rfl
@[simp] theorem State.setTenant_tileOwner (t : Nat) (v : Tenant) : (s.setTenant t v).tileOwner = s.tileOwner := rfl
@[simp] theorem State.setTenant_mem (t : Nat) (v : Tenant) : (s.setTenant t v).mem = s.mem := rfl
@[simp] theorem State.setTenant_links (t : Nat) (v : Tenant) : (s.setTenant t v).links = s.links := rfl
@[simp] theorem State.setTenant_host (t : Nat) (v : Tenant) : (s.setTenant t v).host = s.host := rfl
@[simp] theorem State.setTenant_dict (t : Nat) (v : Tenant) : (s.setTenant t v).dict = s.dict := rfl
@[simp] theorem State.setTenant_log (t : Nat) (v : Tenant) : (s.setTenant t v).log = s.log := rfl
@[simp] theorem State.setTenant_service (t : Nat) (v : Tenant) : (s.setTenant t v).service = s.service := rfl
@[simp] theorem State.setTenant_heartwood (t : Nat) (v : Tenant) : (s.setTenant t v).heartwood = s.heartwood := rfl
@[simp] theorem State.setTenant_power (t : Nat) (v : Tenant) : (s.setTenant t v).power = s.power := rfl
@[simp] theorem State.setTenant_globals (t : Nat) (v : Tenant) : (s.setTenant t v).globals = s.globals := rfl
@[simp] theorem State.setTenant_tenants (t : Nat) (v : Tenant) : (s.setTenant t v).tenants = mset s.tenants t v := rfl

/-! ### `State.updTenant` -/

@[simp] theorem State.updTenant_pending (t : Nat) (f : Tenant → Tenant) : (s.updTenant t f).pending = s.pending := rfl
@[simp] theorem State.updTenant_draws (t : Nat) (f : Tenant → Tenant) : (s.updTenant t f).draws = s.draws := rfl
@[simp] theorem State.updTenant_tiles (t : Nat) (f : Tenant → Tenant) : (s.updTenant t f).tiles = s.tiles := rfl
@[simp] theorem State.updTenant_tileOwner (t : Nat) (f : Tenant → Tenant) : (s.updTenant t f).tileOwner = s.tileOwner := rfl
@[simp] theorem State.updTenant_mem (t : Nat) (f : Tenant → Tenant) : (s.updTenant t f).mem = s.mem := rfl
@[simp] theorem State.updTenant_links (t : Nat) (f : Tenant → Tenant) : (s.updTenant t f).links = s.links := rfl
@[simp] theorem State.updTenant_host (t : Nat) (f : Tenant → Tenant) : (s.updTenant t f).host = s.host := rfl
@[simp] theorem State.updTenant_dict (t : Nat) (f : Tenant → Tenant) : (s.updTenant t f).dict = s.dict := rfl
@[simp] theorem State.updTenant_log (t : Nat) (f : Tenant → Tenant) : (s.updTenant t f).log = s.log := rfl
@[simp] theorem State.updTenant_service (t : Nat) (f : Tenant → Tenant) : (s.updTenant t f).service = s.service := rfl
@[simp] theorem State.updTenant_heartwood (t : Nat) (f : Tenant → Tenant) : (s.updTenant t f).heartwood = s.heartwood := rfl
@[simp] theorem State.updTenant_power (t : Nat) (f : Tenant → Tenant) : (s.updTenant t f).power = s.power := rfl
@[simp] theorem State.updTenant_globals (t : Nat) (f : Tenant → Tenant) : (s.updTenant t f).globals = s.globals := rfl
@[simp] theorem State.updTenant_tenants (t : Nat) (f : Tenant → Tenant) : (s.updTenant t f).tenants = mset s.tenants t (f (tenantAt s t)) := rfl

/-! ### `State.updSet` -/

@[simp] theorem State.updSet_pending (t p : Nat) (f : SetState → SetState) : (s.updSet t p f).pending = s.pending := rfl
@[simp] theorem State.updSet_draws (t p : Nat) (f : SetState → SetState) : (s.updSet t p f).draws = s.draws := rfl
@[simp] theorem State.updSet_tiles (t p : Nat) (f : SetState → SetState) : (s.updSet t p f).tiles = s.tiles := rfl
@[simp] theorem State.updSet_tileOwner (t p : Nat) (f : SetState → SetState) : (s.updSet t p f).tileOwner = s.tileOwner := rfl
@[simp] theorem State.updSet_mem (t p : Nat) (f : SetState → SetState) : (s.updSet t p f).mem = s.mem := rfl
@[simp] theorem State.updSet_links (t p : Nat) (f : SetState → SetState) : (s.updSet t p f).links = s.links := rfl
@[simp] theorem State.updSet_host (t p : Nat) (f : SetState → SetState) : (s.updSet t p f).host = s.host := rfl
@[simp] theorem State.updSet_dict (t p : Nat) (f : SetState → SetState) : (s.updSet t p f).dict = s.dict := rfl
@[simp] theorem State.updSet_log (t p : Nat) (f : SetState → SetState) : (s.updSet t p f).log = s.log := rfl
@[simp] theorem State.updSet_service (t p : Nat) (f : SetState → SetState) : (s.updSet t p f).service = s.service := rfl
@[simp] theorem State.updSet_heartwood (t p : Nat) (f : SetState → SetState) : (s.updSet t p f).heartwood = s.heartwood := rfl
@[simp] theorem State.updSet_power (t p : Nat) (f : SetState → SetState) : (s.updSet t p f).power = s.power := rfl
@[simp] theorem State.updSet_globals (t p : Nat) (f : SetState → SetState) : (s.updSet t p f).globals = s.globals := rfl

/-! ### `State.updRun` -/

@[simp] theorem State.updRun_pending (t p : Nat) (f : SetRun → SetRun) : (s.updRun t p f).pending = s.pending := rfl
@[simp] theorem State.updRun_draws (t p : Nat) (f : SetRun → SetRun) : (s.updRun t p f).draws = s.draws := rfl
@[simp] theorem State.updRun_tiles (t p : Nat) (f : SetRun → SetRun) : (s.updRun t p f).tiles = s.tiles := rfl
@[simp] theorem State.updRun_tileOwner (t p : Nat) (f : SetRun → SetRun) : (s.updRun t p f).tileOwner = s.tileOwner := rfl
@[simp] theorem State.updRun_mem (t p : Nat) (f : SetRun → SetRun) : (s.updRun t p f).mem = s.mem := rfl
@[simp] theorem State.updRun_links (t p : Nat) (f : SetRun → SetRun) : (s.updRun t p f).links = s.links := rfl
@[simp] theorem State.updRun_host (t p : Nat) (f : SetRun → SetRun) : (s.updRun t p f).host = s.host := rfl
@[simp] theorem State.updRun_dict (t p : Nat) (f : SetRun → SetRun) : (s.updRun t p f).dict = s.dict := rfl
@[simp] theorem State.updRun_log (t p : Nat) (f : SetRun → SetRun) : (s.updRun t p f).log = s.log := rfl
@[simp] theorem State.updRun_service (t p : Nat) (f : SetRun → SetRun) : (s.updRun t p f).service = s.service := rfl
@[simp] theorem State.updRun_heartwood (t p : Nat) (f : SetRun → SetRun) : (s.updRun t p f).heartwood = s.heartwood := rfl
@[simp] theorem State.updRun_power (t p : Nat) (f : SetRun → SetRun) : (s.updRun t p f).power = s.power := rfl
@[simp] theorem State.updRun_globals (t p : Nat) (f : SetRun → SetRun) : (s.updRun t p f).globals = s.globals := rfl

/-! ### `State.updQueue` -/

@[simp] theorem State.updQueue_pending (t q : Nat) (f : Queue → Queue) : (s.updQueue t q f).pending = s.pending := rfl
@[simp] theorem State.updQueue_draws (t q : Nat) (f : Queue → Queue) : (s.updQueue t q f).draws = s.draws := rfl
@[simp] theorem State.updQueue_tiles (t q : Nat) (f : Queue → Queue) : (s.updQueue t q f).tiles = s.tiles := rfl
@[simp] theorem State.updQueue_tileOwner (t q : Nat) (f : Queue → Queue) : (s.updQueue t q f).tileOwner = s.tileOwner := rfl
@[simp] theorem State.updQueue_mem (t q : Nat) (f : Queue → Queue) : (s.updQueue t q f).mem = s.mem := rfl
@[simp] theorem State.updQueue_links (t q : Nat) (f : Queue → Queue) : (s.updQueue t q f).links = s.links := rfl
@[simp] theorem State.updQueue_host (t q : Nat) (f : Queue → Queue) : (s.updQueue t q f).host = s.host := rfl
@[simp] theorem State.updQueue_dict (t q : Nat) (f : Queue → Queue) : (s.updQueue t q f).dict = s.dict := rfl
@[simp] theorem State.updQueue_log (t q : Nat) (f : Queue → Queue) : (s.updQueue t q f).log = s.log := rfl
@[simp] theorem State.updQueue_service (t q : Nat) (f : Queue → Queue) : (s.updQueue t q f).service = s.service := rfl
@[simp] theorem State.updQueue_heartwood (t q : Nat) (f : Queue → Queue) : (s.updQueue t q f).heartwood = s.heartwood := rfl
@[simp] theorem State.updQueue_power (t q : Nat) (f : Queue → Queue) : (s.updQueue t q f).power = s.power := rfl
@[simp] theorem State.updQueue_globals (t q : Nat) (f : Queue → Queue) : (s.updQueue t q f).globals = s.globals := rfl

/-! ### `State.updWatch` -/

@[simp] theorem State.updWatch_pending (t : Nat) (f : WatchState → WatchState) : (s.updWatch t f).pending = s.pending := rfl
@[simp] theorem State.updWatch_draws (t : Nat) (f : WatchState → WatchState) : (s.updWatch t f).draws = s.draws := rfl
@[simp] theorem State.updWatch_tiles (t : Nat) (f : WatchState → WatchState) : (s.updWatch t f).tiles = s.tiles := rfl
@[simp] theorem State.updWatch_tileOwner (t : Nat) (f : WatchState → WatchState) : (s.updWatch t f).tileOwner = s.tileOwner := rfl
@[simp] theorem State.updWatch_mem (t : Nat) (f : WatchState → WatchState) : (s.updWatch t f).mem = s.mem := rfl
@[simp] theorem State.updWatch_links (t : Nat) (f : WatchState → WatchState) : (s.updWatch t f).links = s.links := rfl
@[simp] theorem State.updWatch_host (t : Nat) (f : WatchState → WatchState) : (s.updWatch t f).host = s.host := rfl
@[simp] theorem State.updWatch_dict (t : Nat) (f : WatchState → WatchState) : (s.updWatch t f).dict = s.dict := rfl
@[simp] theorem State.updWatch_log (t : Nat) (f : WatchState → WatchState) : (s.updWatch t f).log = s.log := rfl
@[simp] theorem State.updWatch_service (t : Nat) (f : WatchState → WatchState) : (s.updWatch t f).service = s.service := rfl
@[simp] theorem State.updWatch_heartwood (t : Nat) (f : WatchState → WatchState) : (s.updWatch t f).heartwood = s.heartwood := rfl
@[simp] theorem State.updWatch_power (t : Nat) (f : WatchState → WatchState) : (s.updWatch t f).power = s.power := rfl
@[simp] theorem State.updWatch_globals (t : Nat) (f : WatchState → WatchState) : (s.updWatch t f).globals = s.globals := rfl

/-! ### `State.updMem` -/

@[simp] theorem State.updMem_pending (f : MemState → MemState) : (s.updMem f).pending = s.pending := rfl
@[simp] theorem State.updMem_draws (f : MemState → MemState) : (s.updMem f).draws = s.draws := rfl
@[simp] theorem State.updMem_tiles (f : MemState → MemState) : (s.updMem f).tiles = s.tiles := rfl
@[simp] theorem State.updMem_tileOwner (f : MemState → MemState) : (s.updMem f).tileOwner = s.tileOwner := rfl
@[simp] theorem State.updMem_tenants (f : MemState → MemState) : (s.updMem f).tenants = s.tenants := rfl
@[simp] theorem State.updMem_links (f : MemState → MemState) : (s.updMem f).links = s.links := rfl
@[simp] theorem State.updMem_host (f : MemState → MemState) : (s.updMem f).host = s.host := rfl
@[simp] theorem State.updMem_dict (f : MemState → MemState) : (s.updMem f).dict = s.dict := rfl
@[simp] theorem State.updMem_log (f : MemState → MemState) : (s.updMem f).log = s.log := rfl
@[simp] theorem State.updMem_service (f : MemState → MemState) : (s.updMem f).service = s.service := rfl
@[simp] theorem State.updMem_heartwood (f : MemState → MemState) : (s.updMem f).heartwood = s.heartwood := rfl
@[simp] theorem State.updMem_power (f : MemState → MemState) : (s.updMem f).power = s.power := rfl
@[simp] theorem State.updMem_globals (f : MemState → MemState) : (s.updMem f).globals = s.globals := rfl
@[simp] theorem State.updMem_mem (f : MemState → MemState) : (s.updMem f).mem = f s.mem := rfl

/-! ### `State.updLinks` -/

@[simp] theorem State.updLinks_pending (f : LinkState → LinkState) : (s.updLinks f).pending = s.pending := rfl
@[simp] theorem State.updLinks_draws (f : LinkState → LinkState) : (s.updLinks f).draws = s.draws := rfl
@[simp] theorem State.updLinks_tiles (f : LinkState → LinkState) : (s.updLinks f).tiles = s.tiles := rfl
@[simp] theorem State.updLinks_tileOwner (f : LinkState → LinkState) : (s.updLinks f).tileOwner = s.tileOwner := rfl
@[simp] theorem State.updLinks_tenants (f : LinkState → LinkState) : (s.updLinks f).tenants = s.tenants := rfl
@[simp] theorem State.updLinks_mem (f : LinkState → LinkState) : (s.updLinks f).mem = s.mem := rfl
@[simp] theorem State.updLinks_host (f : LinkState → LinkState) : (s.updLinks f).host = s.host := rfl
@[simp] theorem State.updLinks_dict (f : LinkState → LinkState) : (s.updLinks f).dict = s.dict := rfl
@[simp] theorem State.updLinks_log (f : LinkState → LinkState) : (s.updLinks f).log = s.log := rfl
@[simp] theorem State.updLinks_service (f : LinkState → LinkState) : (s.updLinks f).service = s.service := rfl
@[simp] theorem State.updLinks_heartwood (f : LinkState → LinkState) : (s.updLinks f).heartwood = s.heartwood := rfl
@[simp] theorem State.updLinks_power (f : LinkState → LinkState) : (s.updLinks f).power = s.power := rfl
@[simp] theorem State.updLinks_globals (f : LinkState → LinkState) : (s.updLinks f).globals = s.globals := rfl
@[simp] theorem State.updLinks_links (f : LinkState → LinkState) : (s.updLinks f).links = f s.links := rfl

/-! ### `State.updHost` -/

@[simp] theorem State.updHost_pending (f : HostState → HostState) : (s.updHost f).pending = s.pending := rfl
@[simp] theorem State.updHost_draws (f : HostState → HostState) : (s.updHost f).draws = s.draws := rfl
@[simp] theorem State.updHost_tiles (f : HostState → HostState) : (s.updHost f).tiles = s.tiles := rfl
@[simp] theorem State.updHost_tileOwner (f : HostState → HostState) : (s.updHost f).tileOwner = s.tileOwner := rfl
@[simp] theorem State.updHost_tenants (f : HostState → HostState) : (s.updHost f).tenants = s.tenants := rfl
@[simp] theorem State.updHost_mem (f : HostState → HostState) : (s.updHost f).mem = s.mem := rfl
@[simp] theorem State.updHost_links (f : HostState → HostState) : (s.updHost f).links = s.links := rfl
@[simp] theorem State.updHost_dict (f : HostState → HostState) : (s.updHost f).dict = s.dict := rfl
@[simp] theorem State.updHost_log (f : HostState → HostState) : (s.updHost f).log = s.log := rfl
@[simp] theorem State.updHost_service (f : HostState → HostState) : (s.updHost f).service = s.service := rfl
@[simp] theorem State.updHost_heartwood (f : HostState → HostState) : (s.updHost f).heartwood = s.heartwood := rfl
@[simp] theorem State.updHost_power (f : HostState → HostState) : (s.updHost f).power = s.power := rfl
@[simp] theorem State.updHost_globals (f : HostState → HostState) : (s.updHost f).globals = s.globals := rfl
@[simp] theorem State.updHost_host (f : HostState → HostState) : (s.updHost f).host = f s.host := rfl

/-! ### `State.updDict` -/

@[simp] theorem State.updDict_pending (f : DictState → DictState) : (s.updDict f).pending = s.pending := rfl
@[simp] theorem State.updDict_draws (f : DictState → DictState) : (s.updDict f).draws = s.draws := rfl
@[simp] theorem State.updDict_tiles (f : DictState → DictState) : (s.updDict f).tiles = s.tiles := rfl
@[simp] theorem State.updDict_tileOwner (f : DictState → DictState) : (s.updDict f).tileOwner = s.tileOwner := rfl
@[simp] theorem State.updDict_tenants (f : DictState → DictState) : (s.updDict f).tenants = s.tenants := rfl
@[simp] theorem State.updDict_mem (f : DictState → DictState) : (s.updDict f).mem = s.mem := rfl
@[simp] theorem State.updDict_links (f : DictState → DictState) : (s.updDict f).links = s.links := rfl
@[simp] theorem State.updDict_host (f : DictState → DictState) : (s.updDict f).host = s.host := rfl
@[simp] theorem State.updDict_log (f : DictState → DictState) : (s.updDict f).log = s.log := rfl
@[simp] theorem State.updDict_service (f : DictState → DictState) : (s.updDict f).service = s.service := rfl
@[simp] theorem State.updDict_heartwood (f : DictState → DictState) : (s.updDict f).heartwood = s.heartwood := rfl
@[simp] theorem State.updDict_power (f : DictState → DictState) : (s.updDict f).power = s.power := rfl
@[simp] theorem State.updDict_globals (f : DictState → DictState) : (s.updDict f).globals = s.globals := rfl
@[simp] theorem State.updDict_dict (f : DictState → DictState) : (s.updDict f).dict = f s.dict := rfl

/-! ### `State.updService` -/

@[simp] theorem State.updService_pending (f : ServiceState → ServiceState) : (s.updService f).pending = s.pending := rfl
@[simp] theorem State.updService_draws (f : ServiceState → ServiceState) : (s.updService f).draws = s.draws := rfl
@[simp] theorem State.updService_tiles (f : ServiceState → ServiceState) : (s.updService f).tiles = s.tiles := rfl
@[simp] theorem State.updService_tileOwner (f : ServiceState → ServiceState) : (s.updService f).tileOwner = s.tileOwner := rfl
@[simp] theorem State.updService_tenants (f : ServiceState → ServiceState) : (s.updService f).tenants = s.tenants := rfl
@[simp] theorem State.updService_mem (f : ServiceState → ServiceState) : (s.updService f).mem = s.mem := rfl
@[simp] theorem State.updService_links (f : ServiceState → ServiceState) : (s.updService f).links = s.links := rfl
@[simp] theorem State.updService_host (f : ServiceState → ServiceState) : (s.updService f).host = s.host := rfl
@[simp] theorem State.updService_dict (f : ServiceState → ServiceState) : (s.updService f).dict = s.dict := rfl
@[simp] theorem State.updService_log (f : ServiceState → ServiceState) : (s.updService f).log = s.log := rfl
@[simp] theorem State.updService_heartwood (f : ServiceState → ServiceState) : (s.updService f).heartwood = s.heartwood := rfl
@[simp] theorem State.updService_power (f : ServiceState → ServiceState) : (s.updService f).power = s.power := rfl
@[simp] theorem State.updService_globals (f : ServiceState → ServiceState) : (s.updService f).globals = s.globals := rfl
@[simp] theorem State.updService_service (f : ServiceState → ServiceState) : (s.updService f).service = f s.service := rfl

/-! ### `State.updHeartwood` -/

@[simp] theorem State.updHeartwood_pending (f : HeartwoodState → HeartwoodState) : (s.updHeartwood f).pending = s.pending := rfl
@[simp] theorem State.updHeartwood_draws (f : HeartwoodState → HeartwoodState) : (s.updHeartwood f).draws = s.draws := rfl
@[simp] theorem State.updHeartwood_tiles (f : HeartwoodState → HeartwoodState) : (s.updHeartwood f).tiles = s.tiles := rfl
@[simp] theorem State.updHeartwood_tileOwner (f : HeartwoodState → HeartwoodState) : (s.updHeartwood f).tileOwner = s.tileOwner := rfl
@[simp] theorem State.updHeartwood_tenants (f : HeartwoodState → HeartwoodState) : (s.updHeartwood f).tenants = s.tenants := rfl
@[simp] theorem State.updHeartwood_mem (f : HeartwoodState → HeartwoodState) : (s.updHeartwood f).mem = s.mem := rfl
@[simp] theorem State.updHeartwood_links (f : HeartwoodState → HeartwoodState) : (s.updHeartwood f).links = s.links := rfl
@[simp] theorem State.updHeartwood_host (f : HeartwoodState → HeartwoodState) : (s.updHeartwood f).host = s.host := rfl
@[simp] theorem State.updHeartwood_dict (f : HeartwoodState → HeartwoodState) : (s.updHeartwood f).dict = s.dict := rfl
@[simp] theorem State.updHeartwood_log (f : HeartwoodState → HeartwoodState) : (s.updHeartwood f).log = s.log := rfl
@[simp] theorem State.updHeartwood_service (f : HeartwoodState → HeartwoodState) : (s.updHeartwood f).service = s.service := rfl
@[simp] theorem State.updHeartwood_power (f : HeartwoodState → HeartwoodState) : (s.updHeartwood f).power = s.power := rfl
@[simp] theorem State.updHeartwood_globals (f : HeartwoodState → HeartwoodState) : (s.updHeartwood f).globals = s.globals := rfl
@[simp] theorem State.updHeartwood_heartwood (f : HeartwoodState → HeartwoodState) : (s.updHeartwood f).heartwood = f s.heartwood := rfl

/-! ### `State.updGlobals` -/

@[simp] theorem State.updGlobals_pending (f : Globals → Globals) : (s.updGlobals f).pending = s.pending := rfl
@[simp] theorem State.updGlobals_draws (f : Globals → Globals) : (s.updGlobals f).draws = s.draws := rfl
@[simp] theorem State.updGlobals_tiles (f : Globals → Globals) : (s.updGlobals f).tiles = s.tiles := rfl
@[simp] theorem State.updGlobals_tileOwner (f : Globals → Globals) : (s.updGlobals f).tileOwner = s.tileOwner := rfl
@[simp] theorem State.updGlobals_tenants (f : Globals → Globals) : (s.updGlobals f).tenants = s.tenants := rfl
@[simp] theorem State.updGlobals_mem (f : Globals → Globals) : (s.updGlobals f).mem = s.mem := rfl
@[simp] theorem State.updGlobals_links (f : Globals → Globals) : (s.updGlobals f).links = s.links := rfl
@[simp] theorem State.updGlobals_host (f : Globals → Globals) : (s.updGlobals f).host = s.host := rfl
@[simp] theorem State.updGlobals_dict (f : Globals → Globals) : (s.updGlobals f).dict = s.dict := rfl
@[simp] theorem State.updGlobals_log (f : Globals → Globals) : (s.updGlobals f).log = s.log := rfl
@[simp] theorem State.updGlobals_service (f : Globals → Globals) : (s.updGlobals f).service = s.service := rfl
@[simp] theorem State.updGlobals_heartwood (f : Globals → Globals) : (s.updGlobals f).heartwood = s.heartwood := rfl
@[simp] theorem State.updGlobals_power (f : Globals → Globals) : (s.updGlobals f).power = s.power := rfl
@[simp] theorem State.updGlobals_globals (f : Globals → Globals) : (s.updGlobals f).globals = f s.globals := rfl

/-! ### `State.updLog` -/

@[simp] theorem State.updLog_pending (f : LogState → LogState) : (s.updLog f).pending = s.pending := rfl
@[simp] theorem State.updLog_draws (f : LogState → LogState) : (s.updLog f).draws = s.draws := rfl
@[simp] theorem State.updLog_tiles (f : LogState → LogState) : (s.updLog f).tiles = s.tiles := rfl
@[simp] theorem State.updLog_tileOwner (f : LogState → LogState) : (s.updLog f).tileOwner = s.tileOwner := rfl
@[simp] theorem State.updLog_tenants (f : LogState → LogState) : (s.updLog f).tenants = s.tenants := rfl
@[simp] theorem State.updLog_mem (f : LogState → LogState) : (s.updLog f).mem = s.mem := rfl
@[simp] theorem State.updLog_links (f : LogState → LogState) : (s.updLog f).links = s.links := rfl
@[simp] theorem State.updLog_host (f : LogState → LogState) : (s.updLog f).host = s.host := rfl
@[simp] theorem State.updLog_dict (f : LogState → LogState) : (s.updLog f).dict = s.dict := rfl
@[simp] theorem State.updLog_service (f : LogState → LogState) : (s.updLog f).service = s.service := rfl
@[simp] theorem State.updLog_heartwood (f : LogState → LogState) : (s.updLog f).heartwood = s.heartwood := rfl
@[simp] theorem State.updLog_power (f : LogState → LogState) : (s.updLog f).power = s.power := rfl
@[simp] theorem State.updLog_globals (f : LogState → LogState) : (s.updLog f).globals = s.globals := rfl
@[simp] theorem State.updLog_log (f : LogState → LogState) : (s.updLog f).log = f s.log := rfl

/-! ### `State.updPower` -/

@[simp] theorem State.updPower_pending (f : PowerState → PowerState) : (s.updPower f).pending = s.pending := rfl
@[simp] theorem State.updPower_draws (f : PowerState → PowerState) : (s.updPower f).draws = s.draws := rfl
@[simp] theorem State.updPower_tiles (f : PowerState → PowerState) : (s.updPower f).tiles = s.tiles := rfl
@[simp] theorem State.updPower_tileOwner (f : PowerState → PowerState) : (s.updPower f).tileOwner = s.tileOwner := rfl
@[simp] theorem State.updPower_tenants (f : PowerState → PowerState) : (s.updPower f).tenants = s.tenants := rfl
@[simp] theorem State.updPower_mem (f : PowerState → PowerState) : (s.updPower f).mem = s.mem := rfl
@[simp] theorem State.updPower_links (f : PowerState → PowerState) : (s.updPower f).links = s.links := rfl
@[simp] theorem State.updPower_host (f : PowerState → PowerState) : (s.updPower f).host = s.host := rfl
@[simp] theorem State.updPower_dict (f : PowerState → PowerState) : (s.updPower f).dict = s.dict := rfl
@[simp] theorem State.updPower_log (f : PowerState → PowerState) : (s.updPower f).log = s.log := rfl
@[simp] theorem State.updPower_service (f : PowerState → PowerState) : (s.updPower f).service = s.service := rfl
@[simp] theorem State.updPower_heartwood (f : PowerState → PowerState) : (s.updPower f).heartwood = s.heartwood := rfl
@[simp] theorem State.updPower_globals (f : PowerState → PowerState) : (s.updPower f).globals = s.globals := rfl
@[simp] theorem State.updPower_power (f : PowerState → PowerState) : (s.updPower f).power = f s.power := rfl

/-! ### `State.redraw` -/

@[simp] theorem State.redraw_pending : (s.redraw).pending = s.pending := rfl
@[simp] theorem State.redraw_tiles : (s.redraw).tiles = s.tiles := rfl
@[simp] theorem State.redraw_tileOwner : (s.redraw).tileOwner = s.tileOwner := rfl
@[simp] theorem State.redraw_tenants : (s.redraw).tenants = s.tenants := rfl
@[simp] theorem State.redraw_mem : (s.redraw).mem = s.mem := rfl
@[simp] theorem State.redraw_links : (s.redraw).links = s.links := rfl
@[simp] theorem State.redraw_host : (s.redraw).host = s.host := rfl
@[simp] theorem State.redraw_dict : (s.redraw).dict = s.dict := rfl
@[simp] theorem State.redraw_log : (s.redraw).log = s.log := rfl
@[simp] theorem State.redraw_service : (s.redraw).service = s.service := rfl
@[simp] theorem State.redraw_heartwood : (s.redraw).heartwood = s.heartwood := rfl
@[simp] theorem State.redraw_power : (s.redraw).power = s.power := rfl
@[simp] theorem State.redraw_globals : (s.redraw).globals = s.globals := rfl
@[simp] theorem State.redraw_draws : s.redraw.draws = s.draws + 1 := rfl

/-! ### Tiles and tenants -/

theorem tileAt_setTile (l j : Nat) (t : Tile) : tileAt (s.setTile l t) j = if j = l then t else tileAt s j := by
  simp only [tileAt, State.setTile_tiles, mget_mset]; split <;> simp
@[simp] theorem tileAt_setTile_self (l : Nat) (t : Tile) : tileAt (s.setTile l t) l = t := by simp [tileAt_setTile]
theorem tileAt_setTile_ne {l j : Nat} (t : Tile) (h : j ≠ l) : tileAt (s.setTile l t) j = tileAt s j := by
  simp [tileAt_setTile, h]
@[simp] theorem tileAt_updTenant (t j : Nat) (f : Tenant → Tenant) : tileAt (s.updTenant t f) j = tileAt s j := rfl
@[simp] theorem tileAt_updMem (j : Nat) (f : MemState → MemState) : tileAt (s.updMem f) j = tileAt s j := rfl
@[simp] theorem tileAt_updLog (j : Nat) (f : LogState → LogState) : tileAt (s.updLog f) j = tileAt s j := rfl
@[simp] theorem tileAt_updGlobals (j : Nat) (f : Globals → Globals) : tileAt (s.updGlobals f) j = tileAt s j := rfl
@[simp] theorem tileAt_redraw (j : Nat) : tileAt s.redraw j = tileAt s j := rfl
theorem tenantAt_setTenant (t j : Nat) (v : Tenant) :
    tenantAt (s.setTenant t v) j = if j = t then v else tenantAt s j := by
  simp only [tenantAt, State.setTenant_tenants, mget_mset]; split <;> simp
theorem tenantAt_updTenant (t j : Nat) (f : Tenant → Tenant) :
    tenantAt (s.updTenant t f) j = if j = t then f (tenantAt s t) else tenantAt s j := tenantAt_setTenant s t j _
@[simp] theorem tenantAt_updTenant_self (t : Nat) (f : Tenant → Tenant) :
    tenantAt (s.updTenant t f) t = f (tenantAt s t) := by simp [tenantAt_updTenant]
@[simp] theorem tenantAt_setTile (l j : Nat) (t : Tile) : tenantAt (s.setTile l t) j = tenantAt s j := rfl
@[simp] theorem tenantAt_updLog (j : Nat) (f : LogState → LogState) : tenantAt (s.updLog f) j = tenantAt s j := rfl
@[simp] theorem tenantAt_updMem (j : Nat) (f : MemState → MemState) : tenantAt (s.updMem f) j = tenantAt s j := rfl
@[simp] theorem tenantAt_updGlobals (j : Nat) (f : Globals → Globals) : tenantAt (s.updGlobals f) j = tenantAt s j := rfl
@[simp] theorem ownerOf_setTile (l j : Nat) (t : Tile) : ownerOf (s.setTile l t) j = ownerOf s j := rfl
theorem setAt_updSet (t p u q : Nat) (f : SetState → SetState) :
    setAt (s.updSet t p f) u q = if u = t ∧ q = p then f (setAt s t p) else setAt s u q := by
  simp only [setAt, State.updSet, tenantAt_updTenant]
  by_cases h : u = t
  · subst h
    by_cases hq : q = p <;> simp [hq, mget_mset]
  · simp [h]
@[simp] theorem setAt_updSet_self (t p : Nat) (f : SetState → SetState) :
    setAt (s.updSet t p f) t p = f (setAt s t p) := by simp [setAt_updSet]
theorem runAt_updRun (t p u q : Nat) (f : SetRun → SetRun) :
    runAt (s.updRun t p f) u q = if u = t ∧ q = p then f (runAt s t p) else runAt s u q := by
  simp only [runAt, State.updRun, tenantAt_updTenant]
  by_cases h : u = t
  · subst h
    by_cases hq : q = p <;> simp [hq, mget_mset]
  · simp [h]
theorem queueAt_updQueue (t p u q : Nat) (f : Queue → Queue) :
    queueAt (s.updQueue t p f) u q = if u = t ∧ q = p then f (queueAt s t p) else queueAt s u q := by
  simp only [queueAt, State.updQueue, tenantAt_updTenant]
  by_cases h : u = t
  · subst h
    by_cases hq : q = p <;> simp [hq, mget_mset]
  · simp [h]

/-! ### Reports and freezes -/

variable (src : W32) (cls cause : Nat) (tn : Option Nat) (d : W32)

@[simp] theorem State.report_pending : (s.report src cls cause tn d).pending = s.pending := rfl
@[simp] theorem State.report_draws : (s.report src cls cause tn d).draws = s.draws := rfl
@[simp] theorem State.report_tiles : (s.report src cls cause tn d).tiles = s.tiles := rfl
@[simp] theorem State.report_tileOwner : (s.report src cls cause tn d).tileOwner = s.tileOwner := rfl
@[simp] theorem State.report_tenants : (s.report src cls cause tn d).tenants = s.tenants := rfl
@[simp] theorem State.report_mem : (s.report src cls cause tn d).mem = s.mem := rfl
@[simp] theorem State.report_links : (s.report src cls cause tn d).links = s.links := rfl
@[simp] theorem State.report_host : (s.report src cls cause tn d).host = s.host := rfl
@[simp] theorem State.report_dict : (s.report src cls cause tn d).dict = s.dict := rfl
@[simp] theorem State.report_service : (s.report src cls cause tn d).service = s.service := rfl
@[simp] theorem State.report_heartwood : (s.report src cls cause tn d).heartwood = s.heartwood := rfl
@[simp] theorem State.report_power : (s.report src cls cause tn d).power = s.power := rfl
@[simp] theorem State.report_globals : (s.report src cls cause tn d).globals = s.globals := rfl
@[simp] theorem tileAt_report (j : Nat) : tileAt (s.report src cls cause tn d) j = tileAt s j := rfl
@[simp] theorem tenantAt_report (j : Nat) : tenantAt (s.report src cls cause tn d) j = tenantAt s j := rfl

@[simp] theorem State.freeze_pending (t : Nat) (r : FreezeRec) : (s.freeze t r).pending = s.pending := rfl
@[simp] theorem State.freeze_draws (t : Nat) (r : FreezeRec) : (s.freeze t r).draws = s.draws := rfl
@[simp] theorem State.freeze_tiles (t : Nat) (r : FreezeRec) : (s.freeze t r).tiles = s.tiles := rfl
@[simp] theorem State.freeze_tileOwner (t : Nat) (r : FreezeRec) : (s.freeze t r).tileOwner = s.tileOwner := rfl
@[simp] theorem State.freeze_mem (t : Nat) (r : FreezeRec) : (s.freeze t r).mem = s.mem := rfl
@[simp] theorem State.freeze_links (t : Nat) (r : FreezeRec) : (s.freeze t r).links = s.links := rfl
@[simp] theorem State.freeze_host (t : Nat) (r : FreezeRec) : (s.freeze t r).host = s.host := rfl
@[simp] theorem State.freeze_dict (t : Nat) (r : FreezeRec) : (s.freeze t r).dict = s.dict := rfl
@[simp] theorem State.freeze_service (t : Nat) (r : FreezeRec) : (s.freeze t r).service = s.service := rfl
@[simp] theorem State.freeze_heartwood (t : Nat) (r : FreezeRec) : (s.freeze t r).heartwood = s.heartwood := rfl
@[simp] theorem State.freeze_power (t : Nat) (r : FreezeRec) : (s.freeze t r).power = s.power := rfl
@[simp] theorem State.freeze_globals (t : Nat) (r : FreezeRec) : (s.freeze t r).globals = s.globals := rfl
@[simp] theorem tileAt_freeze (t : Nat) (r : FreezeRec) (j : Nat) : tileAt (s.freeze t r) j = tileAt s j := rfl
/-- What a freeze does to its tenant: the record with the tenant's next ordinal, and the counts. -/
theorem tenantAt_freeze (t : Nat) (r : FreezeRec) : tenantAt (s.freeze t r) t =
    { tenantAt s t with freezes := (tenantAt s t).freezes ++ [{ r with seq := (tenantAt s t).freezeSeq % 2 ^ 16 }],
                        freezeSeq := (tenantAt s t).freezeSeq + 1,
                        nFreezes := satAdd 32 (tenantAt s t).nFreezes 1,
                        nUncorrectable := satAdd 32 (tenantAt s t).nUncorrectable (if r.cause = 0x22 then 1 else 0) } := by
  simp [State.freeze]

/-- A frozen master reads as frozen. -/
theorem isFrozen_freeze (t : Nat) (r : FreezeRec) : isFrozen (s.freeze t r) t r.master = true := by
  simp [isFrozen, tenantAt_freeze]

end Sys2Proof.Machine
end

