-- ==== Sys2Proof/Laws/Groups.lean ====
section
/-!
SUPPORT. Laws of an issuing group: registers after a write (R34), paths after an advance (R43), and what the
operations that end an instruction leave of the state.
-/

namespace Sys2Proof.Machine

/-! ### Positions of a list -/

theorem updateAt_length {α : Type} (l : List α) (f : α → α) : ∀ i, (updateAt l i f).length = l.length := by
  induction l with
  | nil => intro i; rfl
  | cons x rest ih => intro i; cases i <;> simp [updateAt, ih]

theorem updateAt_getElem? {α : Type} (l : List α) (f : α → α) : ∀ i j,
    (updateAt l i f)[j]? = if j = i then (l[i]?).map f else l[j]? := by
  induction l with
  | nil => intro i j; simp [updateAt]
  | cons x rest ih =>
    intro i j
    cases i with
    | zero => cases j <;> simp [updateAt]
    | succ i => cases j <;> simp [updateAt, ih]

/-! ### Registers -/

@[simp] theorem readReg_zero (g : Group) (lane : Nat) : readReg g 255 lane = 0 := by simp [readReg]

theorem readReg_writeReg (g : Group) (r x : Byte) (n m : Nat) (v : W32) (hn : n < 32) (hm : m < 32) :
    readReg (writeReg g r n v) x m =
      if r = 255 then readReg g x m else if x = r ∧ m = n then v else readReg g x m := by
  unfold writeReg readReg
  by_cases hr : r = 255
  · simp [hr]
  · by_cases hx : x = 255
    · have : ¬ x = r := by rintro rfl; exact hr hx
      simp only [hx, if_true, hr, if_false]
      rw [if_neg]
      rintro ⟨h, -⟩; exact hr h.symm
    · simp only [hr, hx, if_false, mgetD_mput]
      have : (32 * x.toNat + m = 32 * r.toNat + n) ↔ (x = r ∧ m = n) := by
        constructor
        · intro h
          have h1 : x.toNat = r.toNat := by omega
          exact ⟨BitVec.eq_of_toNat_eq h1, by omega⟩
        · rintro ⟨rfl, rfl⟩; rfl
      simp [this]

/-- The registers after one result per lane of a list without repeats. -/
theorem readReg_foldl_writeReg (dst x : Byte) (value : Nat → W32) (m : Nat) (hm : m < 32) :
    ∀ (ls : List Nat) (g : Group), (∀ n ∈ ls, n < 32) →
      readReg (ls.foldl (fun h i => writeReg h dst i (value i)) g) x m =
        if dst ≠ 255 ∧ x = dst ∧ m ∈ ls then value m else readReg g x m := by
  intro ls
  induction ls with
  | nil => intro g _; simp
  | cons n rest ih =>
    intro g h
    rw [List.foldl_cons, ih _ fun k hk => h k (List.mem_cons_of_mem _ hk),
      readReg_writeReg _ _ _ _ _ _ (h n List.mem_cons_self) hm]
    by_cases hd : dst = 255 <;> by_cases hx : x = dst <;> by_cases hk : m ∈ rest <;> by_cases hmn : m = n <;>
      simp_all

theorem mem_lanesOf (m : W32) (n : Nat) : n ∈ lanesOf m ↔ n < 32 ∧ inMask m n = true := by
  simp [lanesOf, List.mem_filter]

/-- A lane reads its result in the destination register and what it held in every other. -/
theorem readReg_writeLanes (g : Group) (dst x : Byte) (mask : W32) (value : Nat → W32) (m : Nat) (hm : m < 32) :
    readReg (writeLanes g dst mask value) x m =
      if dst ≠ 255 ∧ x = dst ∧ inMask mask m = true then value m else readReg g x m := by
  rw [writeLanes, readReg_foldl_writeReg _ _ _ _ hm _ _ fun n hn => ((mem_lanesOf _ _).1 hn).1]
  simp [mem_lanesOf, hm]

theorem writeReg_frame (g : Group) (r : Byte) (n : Nat) (v : W32) :
    writeReg g r n v = { g with regs := (writeReg g r n v).regs } := by
  unfold writeReg; split <;> rfl

/-- A lane operation changes nothing of a group but its thread registers. -/
theorem writeLanes_frame (g : Group) (dst : Byte) (mask : W32) (value : Nat → W32) :
    writeLanes g dst mask value = { g with regs := (writeLanes g dst mask value).regs } := by
  unfold writeLanes
  generalize lanesOf mask = ls
  induction ls generalizing g with
  | nil => rfl
  | cons n rest ih =>
    rw [List.foldl_cons, ih]
    rw [writeReg_frame g dst n]

theorem readU_writeU (g : Group) (r x : Byte) (v : W32) :
    readU (writeU g r v) x = if x = r then v else readU g x := by
  simp only [readU, writeU, mgetD_mput]
  have : (x.toNat = r.toNat) ↔ x = r := ⟨fun h => BitVec.eq_of_toNat_eq h, fun h => by rw [h]⟩
  simp [this]

/-! ### Paths -/

/-- Where the threads of a list of paths stand after one more path is merged in (R43). -/
theorem mem_mergePath (ps : List ThreadPath) (p : ThreadPath) (lane pc : Nat) :
    (∃ q ∈ mergePath ps p, q.pc = pc ∧ inMask q.mask lane = true) ↔
      (∃ q ∈ ps, q.pc = pc ∧ inMask q.mask lane = true) ∨ (p.pc = pc ∧ inMask p.mask lane = true) := by
  by_cases h : p.mask = 0#32
  · have : mergePath ps p = ps := by cases ps <;> simp [mergePath, h]
    simp [this, h, inMask]
  · induction ps with
    | nil => simp [mergePath, h]
    | cons q rest ih =>
      by_cases hq : q.pc = p.pc
      · have e : mergePath (q :: rest) p = { q with mask := q.mask ||| p.mask } :: rest := by
          simp [mergePath, h, hq]
        rw [e]
        simp only [List.exists_mem_cons_iff, inMask, BitVec.getLsbD_or, Bool.or_eq_true, ← hq]
        rw [and_or_left, or_assoc, or_assoc, or_comm (a := q.pc = pc ∧ p.mask.getLsbD lane = true)]
      · have e : mergePath (q :: rest) p = q :: mergePath rest p := by simp [mergePath, h, hq]
        rw [e]
        simp only [List.exists_mem_cons_iff, ih, or_assoc]

/-- Where threads stand after several paths are merged in. -/
theorem mem_foldl_mergePath (new : List ThreadPath) (lane pc : Nat) : ∀ ps : List ThreadPath,
    (∃ q ∈ new.foldl mergePath ps, q.pc = pc ∧ inMask q.mask lane = true) ↔
      (∃ q ∈ ps, q.pc = pc ∧ inMask q.mask lane = true) ∨ (∃ q ∈ new, q.pc = pc ∧ inMask q.mask lane = true) := by
  induction new with
  | nil => intro ps; simp
  | cons p rest ih =>
    intro ps
    rw [List.foldl_cons, ih, mem_mergePath]
    simp only [List.exists_mem_cons_iff, or_assoc]

/-- Where threads stand after the issuing path is replaced by others. -/
theorem mem_replacePath (g : Group) (p : ThreadPath) (new : List ThreadPath) (lane pc : Nat) :
    (∃ q ∈ (g.replacePath p new).paths, q.pc = pc ∧ inMask q.mask lane = true) ↔
      (∃ q ∈ g.paths, q.pc ≠ p.pc ∧ q.pc = pc ∧ inMask q.mask lane = true) ∨
      (∃ q ∈ new, q.pc = pc ∧ inMask q.mask lane = true) := by
  simp only [Group.replacePath, mem_foldl_mergePath, List.mem_filter, decide_eq_true_eq, and_assoc]

/-! ### Completion of an instruction -/

/-- An instruction whose fields are in order goes on to its effect. -/
theorem checked_ok {c : Ctx} {u : Use} {f : Fields} (k : State) (h1 : fieldsIllegal u f = false)
    (h2 : fieldsOutOfBounds u c.block.launch.params.regs f = false) : c.checked u f k = k := by
  simp [Ctx.checked, h1, h2]

/-- What `groupCtx` answers is what stands in the state it answers it of. -/
theorem groupCtx_spec {s : State} {i : Issue} {c : Ctx} (h : groupCtx s i = some c) :
    c.s = (tick s i.tile i.elapsed).redraw ∧ c.l = i.tile ∧ c.slot = i.slot ∧ c.gi = i.group ∧ c.port = i.port ∧
    c.tile = tileAt c.s c.l ∧ ownerOf c.s c.l = some c.tenant ∧ mget c.tile.blocks c.slot = some c.block ∧
    c.block.groups[c.gi]? = some c.group ∧ lowestPath c.group.paths = some c.path := by
  unfold groupCtx at h
  simp only at h
  split at h
  · rename_i tenant b ho hb
    split at h
    · rename_i g hg
      split at h
      · rename_i p hp
        split at h
        · cases h; simp_all
        · cases h
      · cases h
    · cases h
  · cases h

theorem ctxOf_groupCtx {s : State} {i : Issue} {c : Ctx} (h : ctxOf s i = some c) : groupCtx s i = some c := by
  unfold ctxOf at h
  split at h
  · split at h
    · cases h; assumption
    · cases h
  · cases h

theorem ctxOf_spec {s : State} {i : Issue} {c : Ctx} (h : ctxOf s i = some c) :
    c.s = (tick s i.tile i.elapsed).redraw ∧ c.l = i.tile ∧ c.slot = i.slot ∧ c.gi = i.group ∧ c.port = i.port ∧
    c.tile = tileAt c.s c.l ∧ ownerOf c.s c.l = some c.tenant ∧ mget c.tile.blocks c.slot = some c.block ∧
    c.block.groups[c.gi]? = some c.group ∧ lowestPath c.group.paths = some c.path :=
  groupCtx_spec (ctxOf_groupCtx h)

theorem issue_ok {s : State} {i : Issue} {c : Ctx} (h : ctxOf s i = some c) (k : Ctx → State) : issue s i k = k c := by
  simp [issue, h]

end Sys2Proof.Machine
end

