-- ==== Sys2Proof/Laws/Lanes.lean ====
section
/-!
SUPPORT. What an instruction that only writes its group does, said once in the terms the statements use.
-/

namespace Sys2Proof.Machine

/-- Ending an instruction with a new group changes that group and the use of its issue port alone. -/
theorem done_OnlyGroup {s : State} {i : Issue} {c : Ctx} (h : ctxOf s i = some c) (g : Group) :
    OnlyGroup c (c.done g) ∧ groupIn (c.done g) c.l c.slot c.gi = some { g.advance c.path with lastIssue := c.tile.cycle.toNat } := by
  obtain ⟨h1,h2,h3,h4,h5,h6,h7,h8,h9,h10⟩ := ctxOf_spec h
  refine ⟨⟨?_,?_,?_,?_,?_⟩,?_⟩
  · rfl
  · intro l hl
    simp [Ctx.done, Ctx.finish, mget_mset, hl]
  · simp [Ctx.done, Ctx.finish, Ctx.markTile]
  · intro k hk
    simp [Ctx.done, Ctx.finish, Ctx.markTile, mget_mset, hk]
  · refine ⟨_, by simp [Ctx.done, Ctx.finish, Ctx.markTile]; rfl, rfl, ?_, ?_⟩
    · simp [Block.setGroup, updateAt_length]
    · intro j hj
      simp [Block.setGroup, updateAt_getElem?, hj]
  · simp [Ctx.done, Ctx.finish, Ctx.markTile, groupIn, Block.setGroup, updateAt_getElem?, h9]

/-- An instruction that changes its group alone writes no memory. -/
theorem OnlyGroup.sameMemory {c : Ctx} {t : State} (hc : c.tile = tileAt c.s c.l) (h : OnlyGroup c t) : SameMemory c.s t := by
  obtain ⟨h1, h2, h3, -⟩ := h
  refine ⟨fun k => by rw [h1]; rfl, fun k => by rw [h1]; rfl, fun l a => ?_⟩
  by_cases hl : l = c.l
  · subst hl; simp only [lmByte]; rw [h3]; simp [hc]
  · simp [lmByte, tileAt, h2 l hl]

/-- After an advance the issuing path stands at the next instruction. -/
theorem advance_Advanced (c : Ctx) (g : Group) (hg : g.paths = c.group.paths) (n : Nat) :
    Advanced c { g.advance c.path with lastIssue := n } := by
  intro lane pc
  have := mem_replacePath g c.path [{ c.path with pc := c.path.pc + 8 }] lane pc
  simp only [Group.runsAt, Group.advance] 
  rw [this, hg]
  simp
  constructor
  · rintro (h|⟨rfl,h⟩)
    · exact Or.inr h
    · exact Or.inl ⟨h, rfl⟩
  · rintro (⟨h,rfl⟩|h)
    · exact Or.inr ⟨rfl,h⟩
    · exact Or.inl h

/-- All that a lane operation does: each executing lane holds its result, and nothing else
changes but the path, which goes on. -/
theorem lane_ok {s : State} {i : Issue} {c : Ctx} {f : Fields} (v : Nat → W32) (h : ctxOf s i = some c) :
    ∃ g, groupIn (c.done (writeLanes c.group f.dst (c.lanes f) v)) c.l c.slot c.gi = some g ∧
      (∀ n, n < 32 → readReg g f.dst n =
        if f.dst = 255 then 0 else if inMask (c.lanes f) n then v n else readReg c.group f.dst n) ∧
      SameRegsBut f.dst c.group g ∧ SameRest c.group g ∧ Advanced c g ∧ OnlyGroup c (c.done (writeLanes c.group f.dst (c.lanes f) v)) ∧ SameMemory c.s (c.done (writeLanes c.group f.dst (c.lanes f) v)) := by
  obtain ⟨ho, hg⟩ := done_OnlyGroup h (writeLanes c.group f.dst (c.lanes f) v)
  obtain ⟨h1,h2,h3,h4,h5,h6,h7,h8,h9,h10⟩ := ctxOf_spec h
  have fr := writeLanes_frame c.group f.dst (c.lanes f) v
  have rr : ∀ (x : Byte) (m n : Nat) , readReg { (writeLanes c.group f.dst (c.lanes f) v).advance c.path with lastIssue := n } x m = readReg (writeLanes c.group f.dst (c.lanes f) v) x m := fun _ _ _ => rfl
  refine ⟨_, hg, ?_, ⟨?_, ?_, ?_⟩, ⟨?_,?_,?_,?_⟩, ?_, ho, ho.sameMemory h6⟩
  · intro n hn
    rw [rr, readReg_writeLanes _ _ _ _ _ _ hn]
    by_cases hd : f.dst = 255
    · rw [if_neg (by simp [hd]), if_pos hd, hd, readReg_zero]
    · simp only [ne_eq, hd, not_false_eq_true, true_and, if_false]
  · intro x lane hl hx
    rw [rr, readReg_writeLanes _ _ _ _ _ _ hl]; simp [hx]
  all_goals first | (rw [fr]; rfl) | skip
  exact advance_Advanced _ _ (by rw [fr]) _

end Sys2Proof.Machine
end

