-- ==== Sys2Proof/Laws/Memory.lean ====
section
/-!
SUPPORT. The operations that write the two DRAM tiers keep their canonical form, reset has it, and what each writes.
-/

namespace Sys2Proof.Machine

theorem Memory.wf_iff (m : MemState) : Memory.wf m = true ↔ mcanon 0 m.fast = true ∧ mcanon 0 m.slow = true := by
  simp [Memory.wf]

theorem Memory.wf_reset : Memory.wf State.reset.mem = true := rfl

/-- The fold of a checked write keeps the canonical form. -/
theorem mcanon_foldl_put (keep : Nat → Bool) (a : Nat) : ∀ (es : List (Nat × Byte)) (m : SMap Byte), mcanon 0 m = true →
    mcanon 0 (es.foldl (fun m e => if keep e.1 then mput 0 m (a + e.1) e.2 else m) m) = true := by
  intro es
  induction es with
  | nil => intro m h; exact h
  | cons e rest ih =>
    intro m h
    rw [List.foldl_cons]
    refine ih _ ?_
    split
    · exact mcanon_mput _ _ h
    · exact h

/-- The byte at offset `i` of a checked write lands: its word is good, or covered whole. -/
def wordKept (bad : List Nat) (a n i : Nat) : Bool :=
  !((wordsOf a n).filter fun w => bad.contains w && partialWord a n w).contains ((a + i) / 16)

theorem mcanon_writeWords {m : SMap Byte} (bad : List Nat) (a : Nat) (bs : List Byte) (h : mcanon 0 m = true) :
    mcanon 0 (writeWords m bad a bs).1 = true :=
  mcanon_foldl_put (wordKept bad a bs.length) a ((List.range bs.length).zip bs) m h

/-- A byte outside the range of a checked write reads as before. -/
theorem mgetD_foldl_put_outside (keep : Nat → Bool) (a j n : Nat) (hj : j < a ∨ a + n ≤ j) :
    ∀ (es : List (Nat × Byte)) (m : SMap Byte), (∀ e ∈ es, e.1 < n) →
      mgetD (es.foldl (fun m e => if keep e.1 then mput 0 m (a + e.1) e.2 else m) m) j 0 = mgetD m j 0 := by
  intro es
  induction es with
  | nil => intro m _; rfl
  | cons e rest ih =>
    intro m h
    rw [List.foldl_cons, ih _ fun x hx => h x (List.mem_cons_of_mem _ hx)]
    have := h e List.mem_cons_self
    split
    · exact mgetD_mput_ne _ _ _ (by omega)
    · rfl

theorem writeWords_outside (m : SMap Byte) (bad : List Nat) (a j : Nat) (bs : List Byte) (hj : j < a ∨ a + bs.length ≤ j) :
    mgetD (writeWords m bad a bs).1 j 0 = mgetD m j 0 :=
  mgetD_foldl_put_outside (wordKept bad a bs.length) a j bs.length hj ((List.range bs.length).zip bs) m
    fun _ he => List.mem_range.1 (List.of_mem_zip he).1

/-! ### What a write at a device address leaves alone -/

/-- Only the fast tier and its marks differ, and its canonical form is kept. -/
def OnlyFast (s u : State) : Prop :=
  ∃ fast bad, u = { s with mem := { s.mem with fast := fast, fastBad := bad } } ∧ (mcanon 0 s.mem.fast = true → mcanon 0 fast = true)

/-- A write at a device address changes the fast tier and its marks alone, and keeps its canonical form. -/
theorem writeDpa_spec (s : State) (a : Nat) (bs : List Byte) : OnlyFast s (s.writeDpa a bs).1 := by
  unfold State.writeDpa
  generalize piecesOf (bs.length + 1) a bs = ps
  generalize hf : (fun (acc : State × Bool) p => _) = f
  suffices ∀ acc : State × Bool, OnlyFast s acc.1 → OnlyFast s (ps.foldl f acc).1 from this (s, false) ⟨_, _, rfl, id⟩
  subst hf
  induction ps with
  | nil => intro acc h; exact h
  | cons p rest ih =>
    intro acc h
    rw [List.foldl_cons]
    refine ih _ ?_
    obtain ⟨fast, bad, he, hc⟩ := h
    split
    · exact ⟨fast, bad, he, hc⟩
    · refine ⟨_, _, by rw [he]; rfl, fun h => mcanon_writeWords _ _ _ (hc h)⟩

theorem writeDpa_wf (s : State) (a : Nat) (bs : List Byte) (h : Memory.wf s.mem = true) :
    Memory.wf (s.writeDpa a bs).1.mem = true := by
  obtain ⟨f, b, he, hc⟩ := writeDpa_spec s a bs
  rw [Memory.wf_iff] at h ⊢
  rw [he]
  exact ⟨hc h.1, h.2⟩

/-- A write to a slow tier changes the slow tier and its marks alone. -/
theorem slowWrite_spec (s : State) (key : Nat) (bs : List Byte) :
    ∃ slow bad, s.slowWrite key bs = { s with mem := { s.mem with slow := slow, slowBad := bad } } ∧
      (mcanon 0 s.mem.slow = true → mcanon 0 slow = true) ∧
      ∀ j, j < key ∨ key + bs.length ≤ j → mgetD slow j 0 = mgetD s.mem.slow j 0 :=
  ⟨_, _, rfl, fun h => mcanon_writeWords _ _ _ h, fun _ hj => writeWords_outside _ _ _ _ _ hj⟩

theorem slowWrite_wf (s : State) (key : Nat) (bs : List Byte) (h : Memory.wf s.mem = true) :
    Memory.wf (s.slowWrite key bs).mem = true := by
  obtain ⟨m, b, he, hc, -⟩ := slowWrite_spec s key bs
  rw [Memory.wf_iff] at h ⊢
  rw [he]
  exact ⟨h.1, hc h.2⟩

theorem zeroFast_wf (s : State) (p : Nat → Bool) (h : Memory.wf s.mem = true) : Memory.wf (s.zeroFast p).mem = true := by
  rw [Memory.wf_iff] at h ⊢
  exact ⟨mcanon_filter _ h.1, h.2⟩

theorem fastByte_zeroFast (s : State) (p : Nat → Bool) (k : Nat) :
    fastByte (s.zeroFast p) k = if p k then 0 else fastByte s k := by
  have := mget_filter (fun k => !p k) s.mem.fast k
  simp only [fastByte, mgetD, State.zeroFast, State.updMem, this]
  by_cases h : p k <;> simp [h]

theorem zeroSlot_wf (s : State) (chip e : Nat) (h : Memory.wf s.mem = true) : Memory.wf (s.zeroSlot chip e).mem = true := by
  rw [Memory.wf_iff] at h ⊢
  exact ⟨h.1, mcanon_filter _ h.2⟩

/-! ### Marks and reports write no byte -/

@[simp] theorem report_mem (s : State) (source : W32) (cls cause : Nat) (tenant : Option Nat) (detail : W32) :
    (s.report source cls cause tenant detail).mem = s.mem := by
  unfold State.report
  rfl

/-- What every step of a fold keeps, the fold keeps. -/
theorem foldl_keeps {α β : Type} {P : β → Prop} (f : β → α → β) (h : ∀ t x, P t → P (f t x)) :
    ∀ (xs : List α) (t : β), P t → P (xs.foldl f t) := by
  intro xs
  induction xs with
  | nil => intro t ht; exact ht
  | cons x rest ih => intro t ht; exact ih _ (h t x ht)

/-- What an access found marks words and reports: no byte of a tier changes. -/
theorem fastEcc_bytes (s : State) (e : Ecc) : (s.fastEcc e).mem.fast = s.mem.fast ∧ (s.fastEcc e).mem.slow = s.mem.slow := by
  unfold State.fastEcc
  refine foldl_keeps (P := fun t : State => t.mem.fast = s.mem.fast ∧ t.mem.slow = s.mem.slow) _ ?_ _ _ ⟨rfl, rfl⟩
  intro t d ht
  cases hk : fastKey t.mem d with
  | none => simpa only [hk] using ht
  | some k => simpa only [hk, report_mem] using ht

theorem fastEcc_wf (s : State) (e : Ecc) (h : Memory.wf s.mem = true) : Memory.wf (s.fastEcc e).mem = true := by
  obtain ⟨h1, h2⟩ := fastEcc_bytes s e
  simpa [Memory.wf, h1, h2] using h

theorem wantRetrain_bytes (s : State) (u c : Nat) :
    (s.wantRetrain u c).mem.fast = s.mem.fast ∧ (s.wantRetrain u c).mem.slow = s.mem.slow := by
  unfold State.wantRetrain
  simp only [State.updMem]
  split <;> exact ⟨rfl, rfl⟩

theorem fastUncorrectable_bytes (s : State) (d : Nat) :
    (s.fastUncorrectable d).mem.fast = s.mem.fast ∧ (s.fastUncorrectable d).mem.slow = s.mem.slow := by
  unfold State.fastUncorrectable
  cases hk : fastKey s.mem d with
  | none => simp only [report_mem, and_self]
  | some k =>
    simp only [wantRetrain_bytes, report_mem, and_self]

end Sys2Proof.Machine
end

