-- ==== Sys2Proof/Laws/PerInstr.lean ====
section
/-!
SUPPORT. Statements made for every command, one lemma per constructor.
-/

namespace Sys2Proof.Laws.Unspelled

/-- No word spells the command: the table gives its row no bits, so a command comes from outside alone. -/
def Statement (i : Instr) : Prop := ∀ nbits w, decodeTableWord nbits w ≠ some i

theorem all (i : Instr) : Statement i := by
  intro nbits w h
  simp [decodeTableWord] at h

theorem integerArithmetic (i : Issue) (op : IntOp) (f : Fields) : Statement (.integerArithmetic i op f) := all _
theorem fp32Arithmetic (i : Issue) (op : FpOp) (f : Fields) : Statement (.fp32Arithmetic i op f) := all _
theorem packedFp16Arithmetic (i : Issue) (op : FpOp) (f : Fields) : Statement (.packedFp16Arithmetic i op f) := all _
theorem logicShiftBitfield (i : Issue) (op : LogicOp) (f : Fields) : Statement (.logicShiftBitfield i op f) := all _
theorem comparePredicateSet (i : Issue) (op : CmpOp) (f : Fields) : Statement (.comparePredicateSet i op f) := all _
theorem specialFunction (i : Issue) (fn : SpecialFn) (f : Fields) : Statement (.specialFunction i fn f) := all _
theorem cvtRn (i : Issue) (f : Fields) : Statement (.cvtRn i f) := all _
theorem cvtSr (i : Issue) (f : Fields) : Statement (.cvtSr i f) := all _
theorem mov (i : Issue) (f : Fields) : Statement (.mov i f) := all _
theorem movU (i : Issue) (dir : UMove) (f : Fields) : Statement (.movU i dir f) := all _
theorem movSr (i : Issue) (f : Fields) : Statement (.movSr i f) := all _
theorem shfl (i : Issue) (f : Fields) : Statement (.shfl i f) := all _
theorem rand (i : Issue) (f : Fields) : Statement (.rand i f) := all _
theorem vote (i : Issue) (mode : VoteMode) (f : Fields) : Statement (.vote i mode f) := all _
theorem dld (i : Issue) (f : Fields) (ecc : Ecc) : Statement (.dld i f ecc) := all _
theorem localMemoryLoad (i : Issue) (size : Size) (f : Fields) (ecc : Ecc) : Statement (.localMemoryLoad i size f ecc) := all _
theorem localMemoryStore (i : Issue) (size : Size) (f : Fields) (ecc : Ecc) : Statement (.localMemoryStore i size f ecc) := all _
theorem localMemoryAtomic (i : Issue) (op : AtomOp) (wide : Bool) (f : Fields) (ecc : Ecc) : Statement (.localMemoryAtomic i op wide f ecc) := all _
theorem load (i : Issue) (size : Size) (f : Fields) : Statement (.load i size f) := all _
theorem store (i : Issue) (size : Size) (f : Fields) : Statement (.store i size f) := all _
theorem atomic (i : Issue) (op : AtomOp) (wide : Bool) (f : Fields) : Statement (.atomic i op wide f) := all _
theorem memoryResponse (tile : Nat) (serial : Nat) (elapsed : Nat) (ecc : Ecc) : Statement (.memoryResponse tile serial elapsed ecc) := all _
theorem bra (i : Issue) (f : Fields) : Statement (.bra i f) := all _
theorem call (i : Issue) (f : Fields) : Statement (.call i f) := all _
theorem ret (i : Issue) (f : Fields) : Statement (.ret i f) := all _
theorem exit (i : Issue) (f : Fields) : Statement (.exit i f) := all _
theorem nop (i : Issue) (f : Fields) : Statement (.nop i f) := all _
theorem barBlock (i : Issue) (f : Fields) : Statement (.barBlock i f) := all _
theorem barrierTimeout (tile : Nat) (slot : Nat) (elapsed : Nat) : Statement (.barrierTimeout tile slot elapsed) := all _
theorem fragLd (i : Issue) (f : Fields) (ecc : Ecc) : Statement (.fragLd i f ecc) := all _
theorem fragSt (i : Issue) (f : Fields) (ecc : Ecc) : Statement (.fragSt i f ecc) := all _
theorem mmaReg (i : Issue) (f : Fields) : Statement (.mmaReg i f) := all _
theorem mmaDesc (i : Issue) (f : Fields) : Statement (.mmaDesc i f) := all _
theorem accDrain (i : Issue) (f : Fields) : Statement (.accDrain i f) := all _
theorem accFill (i : Issue) (f : Fields) : Statement (.accFill i f) := all _
theorem accWait (i : Issue) (f : Fields) : Statement (.accWait i f) := all _
theorem accumulationComplete (tile serial elapsed feederFreezes drainFreezes : Nat) (ecc : Ecc) :
    Statement (.accumulationComplete tile serial elapsed feederFreezes drainFreezes ecc) := all _
theorem drainComplete (tile serial elapsed drainFreezes : Nat) : Statement (.drainComplete tile serial elapsed drainFreezes) := all _
theorem fillComplete (tile serial elapsed drainFreezes : Nat) (ecc : Ecc) :
    Statement (.fillComplete tile serial elapsed drainFreezes ecc) := all _
theorem copyIssue (i : Issue) (f : Fields) (ecc : Ecc) : Statement (.copyIssue i f ecc) := all _
theorem copyWait (i : Issue) (f : Fields) : Statement (.copyWait i f) := all _
theorem copyRequestComplete (tile : Nat) (tag : Nat) (elapsed : Nat) (ecc : Ecc) : Statement (.copyRequestComplete tile tag elapsed ecc) := all _
theorem gatherIssue (i : Issue) (f : Fields) (ecc : Ecc) : Statement (.gatherIssue i f ecc) := all _
theorem xchgIssue (i : Issue) (f : Fields) (ecc : Ecc) : Statement (.xchgIssue i f ecc) := all _
theorem fenceLocal (i : Issue) (f : Fields) : Statement (.fenceLocal i f) := all _
theorem fenceRegion (i : Issue) (f : Fields) : Statement (.fenceRegion i f) := all _
theorem fenceBoard (i : Issue) (f : Fields) : Statement (.fenceBoard i f) := all _
theorem blockLaunch (tile : Nat) (elapsed : Nat) : Statement (.blockLaunch tile elapsed) := all _
theorem blockEnd (tile : Nat) (slot : Nat) (elapsed : Nat) : Statement (.blockEnd tile slot elapsed) := all _
theorem personalityReloadComplete (tile : Nat) (elapsed : Nat) : Statement (.personalityReloadComplete tile elapsed) := all _
theorem stackRetry (tile : Nat) (request : RetriedRequest) : Statement (.stackRetry tile request) := all _
theorem scrubPass (unit : MemUnit) (found : ScrubResult) : Statement (.scrubPass unit found) := all _
theorem channelRetrainStart (unit : MemUnit) (channel : Nat) (temperature : Int) : Statement (.channelRetrainStart unit channel temperature) := all _
theorem channelRetrainEnd (unit : MemUnit) (channel : Nat) : Statement (.channelRetrainEnd unit channel) := all _
theorem retrainRequest (by_ : Path) (tag : BitVec 16) (value : BitVec 16) : Statement (.retrainRequest by_ tag value) := all _
theorem translationShootdown (by_ : Path) (tag : BitVec 16) (value : BitVec 16) : Statement (.translationShootdown by_ tag value) := all _
theorem gatherIndexIssue (tile : Nat) (tag : Nat) (ecc : Ecc) : Statement (.gatherIndexIssue tile tag ecc) := all _
theorem gatherRowArrival (tile : Nat) (tag : Nat) (index : Nat) (ecc : Ecc) : Statement (.gatherRowArrival tile tag index ecc) := all _
theorem poolFillComplete (group : Nat) (set : Nat) (way : Nat) : Statement (.poolFillComplete group set way) := all _
theorem censusReport (tile : Nat) (tag : Nat) : Statement (.censusReport tile tag) := all _
theorem censusAndFlushReport (tile : Nat) (tag : Nat) : Statement (.censusAndFlushReport tile tag) := all _
theorem flushReport (tile : Nat) (tag : Nat) : Statement (.flushReport tile tag) := all _
theorem compareReport (tile : Nat) (tag : Nat) : Statement (.compareReport tile tag) := all _
theorem lossReport (tile : Nat) (tag : Nat) : Statement (.lossReport tile tag) := all _
theorem poisonMessage (p : Packet) : Statement (.poisonMessage p) := all _
theorem attemptOpen (tenant : Nat) (set : Nat) (springCycles : Nat) : Statement (.attemptOpen tenant set springCycles) := all _
theorem partReport (tenant : Nat) (set : Nat) (part : Nat) : Statement (.partReport tenant set part) := all _
theorem attemptBlockAbort (tenant : Nat) (set : Nat) (value : W64) : Statement (.attemptBlockAbort tenant set value) := all _
theorem attemptBlockResume (tenant : Nat) (set : Nat) (value : W64) : Statement (.attemptBlockResume tenant set value) := all _
theorem voteContribution (tenant : Nat) (set : Nat) (springCycles : Nat) (ecc : Ecc) : Statement (.voteContribution tenant set springCycles ecc) := all _
theorem voteMessage (p : Packet) : Statement (.voteMessage p) := all _
theorem pinRetry (tenant : Nat) (set : Nat) (springCycles : Nat) (ecc : Ecc) : Statement (.pinRetry tenant set springCycles ecc) := all _
theorem applyComplete (tenant : Nat) (set : Nat) (springCycles : Nat) (fast : Ecc) (slow : List (Nat × Ecc)) : Statement (.applyComplete tenant set springCycles fast slow) := all _
theorem applyMessage (p : Packet) : Statement (.applyMessage p) := all _
theorem attemptWatchdogExpiry (tenant : Nat) (set : Nat) (springCycles : Nat) : Statement (.attemptWatchdogExpiry tenant set springCycles) := all _
theorem springChipRestart (chip : Nat) (slow : Ecc) : Statement (.springChipRestart chip slow) := all _
theorem attemptControlAbort (by_ : Path) (tag : BitVec 16) (tenant : Nat) (set : Nat) : Statement (.attemptControlAbort by_ tag tenant set) := all _
theorem attemptControlPause (by_ : Path) (tag : BitVec 16) (tenant : Nat) (set : Nat) : Statement (.attemptControlPause by_ tag tenant set) := all _
theorem attemptControlResume (by_ : Path) (tag : BitVec 16) (tenant : Nat) (set : Nat) : Statement (.attemptControlResume by_ tag tenant set) := all _
theorem attemptControlImport (by_ : Path) (tag : BitVec 16) (tenant : Nat) (set : Nat) : Statement (.attemptControlImport by_ tag tenant set) := all _
theorem attemptControlExport (by_ : Path) (tag : BitVec 16) (tenant : Nat) (set : Nat) : Statement (.attemptControlExport by_ tag tenant set) := all _
theorem importExportComplete (tenant : Nat) (set : Nat) (fast : Ecc) (slow : List (Nat × Ecc)) : Statement (.importExportComplete tenant set fast slow) := all _
theorem parameterSetModeWrite (by_ : Path) (tag : BitVec 16) (tenant : Nat) (set : Nat) (value : Byte) : Statement (.parameterSetModeWrite by_ tag tenant set value) := all _
theorem layerMapWrite (by_ : Path) (tag : BitVec 16) (tenant : Nat) (set : Nat) (w : LayerWrite) : Statement (.layerMapWrite by_ tag tenant set w) := all _
theorem layerSlotMapWrite (by_ : Path) (tag : BitVec 16) (offset : Nat) (bytes : List Byte) : Statement (.layerSlotMapWrite by_ tag offset bytes) := all _
theorem flitReceive (link : Nat) (codes : List LaneCode) : Statement (.flitReceive link codes) := all _
theorem linkDown (link : Nat) (cause : DownCause) : Statement (.linkDown link cause) := all _
theorem linkSettlementMessage (link : Nat) (lastSeq : Option (BitVec 16)) : Statement (.linkSettlementMessage link lastSeq) := all _
theorem linkTrainingStart (link : Nat) : Statement (.linkTrainingStart link) := all _
theorem errorGateComplete (link : Nat) (outErrors : List Nat) (inErrors : List Nat) : Statement (.errorGateComplete link outErrors inErrors) := all _
theorem trainingFrame (link : Nat) (t : TrainFrame) : Statement (.trainingFrame link t) := all _
theorem opticalLightLoss (link : Nat) : Statement (.opticalLightLoss link) := all _
theorem packetRoute (origin : PacketFrom) (p : Packet) : Statement (.packetRoute origin p) := all _
theorem escapeLaneTimeout (p : Packet) : Statement (.escapeLaneTimeout p) := all _
theorem readRequest (p : Packet) (ecc : Ecc) : Statement (.readRequest p ecc) := all _
theorem writeRequest (p : Packet) (ecc : Ecc) : Statement (.writeRequest p ecc) := all _
theorem atomicRequest (p : Packet) (ecc : Ecc) : Statement (.atomicRequest p ecc) := all _
theorem readResponse (p : Packet) : Statement (.readResponse p) := all _
theorem writeOrAtomicResponse (p : Packet) : Statement (.writeOrAtomicResponse p) := all _
theorem exchangeData (p : Packet) (ecc : Ecc) : Statement (.exchangeData p ecc) := all _
theorem exchangeFlag (p : Packet) (ecc : Ecc) : Statement (.exchangeFlag p ecc) := all _
theorem exchangeAcknowledge (p : Packet) : Statement (.exchangeAcknowledge p) := all _
theorem poolInvalidations (p : Packet) : Statement (.poolInvalidations p) := all _
theorem undeliverableNotice (p : Packet) : Statement (.undeliverableNotice p) := all _
theorem targetResetReissue (r : Reissue) : Statement (.targetResetReissue r) := all _
theorem trafficHoldWrite (by_ : Path) (tag : BitVec 16) (value : Byte) : Statement (.trafficHoldWrite by_ tag value) := all _
theorem trafficHeld : Statement (.trafficHeld) := all _
theorem routeTableWrite (by_ : Path) (tag : BitVec 16) (offset : Nat) (bytes : List Byte) : Statement (.routeTableWrite by_ tag offset bytes) := all _
theorem retrainDimensions (by_ : Path) (tag : BitVec 16) (value : BitVec 16) : Statement (.retrainDimensions by_ tag value) := all _
theorem linkControlRetrain (by_ : Path) (tag : BitVec 16) (link : Nat) : Statement (.linkControlRetrain by_ tag link) := all _
theorem linkControlDisable (by_ : Path) (tag : BitVec 16) (link : Nat) : Statement (.linkControlDisable by_ tag link) := all _
theorem linkControlEnable (by_ : Path) (tag : BitVec 16) (link : Nat) : Statement (.linkControlEnable by_ tag link) := all _
theorem doorbell (vf : Nat) (offset : Nat) (data : List Byte) : Statement (.doorbell vf offset data) := all _
theorem readPointer (vf : Nat) (offset : Nat) (data : List Byte) : Statement (.readPointer vf offset data) := all _
theorem nopDescriptor (tenant : Nat) (queue : Nat) : Statement (.nopDescriptor tenant queue) := all _
theorem launch (tenant : Nat) (queue : Nat) : Statement (.launch tenant queue) := all _
theorem feed (tenant : Nat) (queue : Nat) : Statement (.feed tenant queue) := all _
theorem exportDesc (tenant : Nat) (queue : Nat) : Statement (.exportDesc tenant queue) := all _
theorem feedExportComplete (tenant : Nat) (queue : Nat) (seq : Nat) (hostData : List Byte) (ecc : Ecc) (how : TransferEnd) : Statement (.feedExportComplete tenant queue seq hostData ecc how) := all _
theorem vfFunctionLevelReset (vf : Nat) : Statement (.vfFunctionLevelReset vf) := all _
theorem pf0FunctionLevelReset : Statement (.pf0FunctionLevelReset) := all _
theorem vfEnableClear : Statement (.vfEnableClear) := all _
theorem cxlLinkDown : Statement (.cxlLinkDown) := all _
theorem hdmAccess (hpa : Nat) (a : HostAccess) (ecc : Ecc) : Statement (.hdmAccess hpa a ecc) := all _
theorem hostSnoop (hpa : Nat) : Statement (.hostSnoop hpa) := all _
theorem pf0ApertureWrite (offset : Nat) (data : List Byte) : Statement (.pf0ApertureWrite offset data) := all _
theorem biasRequest (by_ : Path) (tag : BitVec 16) (value : W64) : Statement (.biasRequest by_ tag value) := all _
theorem queueEntriesWrite (by_ : Path) (tag : BitVec 16) (tenant : Nat) (queue : Nat) (value : BitVec 16) : Statement (.queueEntriesWrite by_ tag tenant queue value) := all _
theorem mailboxRequest (mb : MailboxId) (control : W64) (message : List Byte) : Statement (.mailboxRequest mb control message) := all _
theorem read (by_ : Path) (m : DictMsg) : Statement (.read by_ m) := all _
theorem write (by_ : Path) (m : DictMsg) : Statement (.write by_ m) := all _
theorem domainRead (by_ : Path) (m : DictMsg) : Statement (.domainRead by_ m) := all _
theorem writeBegin (by_ : Path) (m : DictMsg) : Statement (.writeBegin by_ m) := all _
theorem writeData (by_ : Path) (m : DictMsg) : Statement (.writeData by_ m) := all _
theorem writeCommit (by_ : Path) (m : DictMsg) : Statement (.writeCommit by_ m) := all _
theorem writeCancel (by_ : Path) (m : DictMsg) : Statement (.writeCancel by_ m) := all _
theorem describe (by_ : Path) (m : DictMsg) : Statement (.describe by_ m) := all _
theorem frameForward (f : Frame) : Statement (.frameForward f) := all _
theorem discoveryRequest (f : Frame) (lodgeMs : Nat) : Statement (.discoveryRequest f lodgeMs) := all _
theorem handshakeH1 (f : Frame) : Statement (.handshakeH1 f) := all _
theorem handshakeH3 (f : Frame) : Statement (.handshakeH3 f) := all _
theorem sessionData (f : Frame) : Statement (.sessionData f) := all _
theorem sessionClose (f : Frame) : Statement (.sessionClose f) := all _
theorem sessionIdleTimeout (id : Nat) (lodgeMs : Nat) : Statement (.sessionIdleTimeout id lodgeMs) := all _
theorem sessionCloseWrite (by_ : Path) (tag : BitVec 16) (value : BitVec 16) : Statement (.sessionCloseWrite by_ tag value) := all _
theorem portRolesWrite (by_ : Path) (tag : BitVec 16) (value : Byte) : Statement (.portRolesWrite by_ tag value) := all _
theorem lodgeRestart : Statement (.lodgeRestart) := all _
theorem lodgeWatchdogExpiry : Statement (.lodgeWatchdogExpiry) := all _
theorem tileMaskWrite (by_ : Path) (tag : BitVec 16) (tenant : Nat) (bytes : List Byte) : Statement (.tileMaskWrite by_ tag tenant bytes) := all _
theorem pageOwnerMapWrite (by_ : Path) (tag : BitVec 16) (offset : Nat) (bytes : List Byte) : Statement (.pageOwnerMapWrite by_ tag offset bytes) := all _
theorem setGroupMapWrite (by_ : Path) (tag : BitVec 16) (offset : Nat) (bytes : List Byte) : Statement (.setGroupMapWrite by_ tag offset bytes) := all _
theorem tableDescriptorsWrite (by_ : Path) (tag : BitVec 16) (tenant : Nat) (offset : Nat) (bytes : List Byte) : Statement (.tableDescriptorsWrite by_ tag tenant offset bytes) := all _
theorem watchSetupWrite (by_ : Path) (tag : BitVec 16) (tenant : Nat) (offset : Nat) (bytes : List Byte) : Statement (.watchSetupWrite by_ tag tenant offset bytes) := all _
theorem tilePersonalityWrite (by_ : Path) (tag : BitVec 16) (offset : Nat) (bytes : List Byte) : Statement (.tilePersonalityWrite by_ tag offset bytes) := all _
theorem clearingHoldWrite (by_ : Path) (tag : BitVec 16) (tenant : Nat) (value : Byte) : Statement (.clearingHoldWrite by_ tag tenant value) := all _
theorem exclusiveRegionsWrite (by_ : Path) (tag : BitVec 16) (tenant : Nat) (value : W32) : Statement (.exclusiveRegionsWrite by_ tag tenant value) := all _
theorem moduleWithdrawal (w : Withdrawal) : Statement (.moduleWithdrawal w) := all _
theorem releaseDiscard (by_ : Path) (tag : BitVec 16) (tenant : Nat) (master : W32) : Statement (.releaseDiscard by_ tag tenant master) := all _
theorem releaseResume (by_ : Path) (tag : BitVec 16) (tenant : Nat) (master : W32) : Statement (.releaseResume by_ tag tenant master) := all _
theorem releaseDiscardAll (by_ : Path) (tag : BitVec 16) (tenant : Nat) : Statement (.releaseDiscardAll by_ tag tenant) := all _
theorem releaseResumeAll (by_ : Path) (tag : BitVec 16) (tenant : Nat) : Statement (.releaseResumeAll by_ tag tenant) := all _
theorem discardMaster (by_ : Path) (tag : BitVec 16) (tenant : Nat) (master : W32) : Statement (.discardMaster by_ tag tenant master) := all _
theorem inspectMasterWrite (by_ : Path) (tag : BitVec 16) (tenant : Nat) (master : W32) : Statement (.inspectMasterWrite by_ tag tenant master) := all _
theorem logReportIntake : Statement (.logReportIntake) := all _
theorem logUnpin (by_ : Path) (tag : BitVec 16) (value : Byte) : Statement (.logUnpin by_ tag value) := all _
theorem logReadNumberWrite (by_ : Path) (tag : BitVec 16) (value : W32) : Statement (.logReadNumberWrite by_ tag value) := all _
theorem tenantLogReadWrite (by_ : Path) (tag : BitVec 16) (tenant : Nat) (value : W32) : Statement (.tenantLogReadWrite by_ tag tenant value) := all _
theorem powerGood (slotStraps : Nat) : Statement (.powerGood slotStraps) := all _
theorem bringUpStageComplete (r : StageResult) : Statement (.bringUpStageComplete r) := all _
theorem bringUpStateLimitExpiry (lodgeCycles : Nat) : Statement (.bringUpStateLimitExpiry lodgeCycles) := all _
theorem bistComplete (result : BistResult) : Statement (.bistComplete result) := all _
theorem microcodeChunk (cluster : Nat) (chunk : List Byte) (nextHash : BitVec 384) : Statement (.microcodeChunk cluster chunk nextHash) := all _
theorem resetRequest (by_ : Path) (tag : BitVec 16) (value : W32) : Statement (.resetRequest by_ tag value) := all _
theorem hardwareFatalFault (scope : Scope) (faultyTile : Option Nat) : Statement (.hardwareFatalFault scope faultyTile) := all _
theorem resetDrainEnd (scope : Scope) : Statement (.resetDrainEnd scope) := all _
theorem resetScopeBack (scope : Scope) (bistFailed : Bool) : Statement (.resetScopeBack scope bistFailed) := all _
theorem installStagedImage (by_ : Path) (tag : BitVec 16) (image : Nat) : Statement (.installStagedImage by_ tag image) := all _
theorem activate (by_ : Path) (tag : BitVec 16) (image : Nat) (defer_ : Bool) : Statement (.activate by_ tag image defer_) := all _
theorem moveLayerSlot (by_ : Path) (tag : BitVec 16) (srcChip : Nat) (srcSlot : Nat) (dstChip : Nat) (dstSlot : Nat) : Statement (.moveLayerSlot by_ tag srcChip srcSlot dstChip dstSlot) := all _
theorem prepareCartridge (by_ : Path) (tag : BitVec 16) (cartridge : Nat) : Statement (.prepareCartridge by_ tag cartridge) := all _
theorem returnCartridge (by_ : Path) (tag : BitVec 16) (cartridge : Nat) : Statement (.returnCartridge by_ tag cartridge) := all _
theorem serviceJobUnitComplete (r : UnitResult) : Statement (.serviceJobUnitComplete r) := all _
theorem cartridgePulled (k : Nat) : Statement (.cartridgePulled k) := all _
theorem cartridgeInserted (k : Nat) (identityOk : Bool) : Statement (.cartridgeInserted k identityOk) := all _
theorem cartridgeWarmUpEnd (k : Nat) (ok : Bool) : Statement (.cartridgeWarmUpEnd k ok) := all _
theorem rollbackCommit (by_ : Path) (tag : BitVec 16) (value : Byte) : Statement (.rollbackCommit by_ tag value) := all _
theorem keySlotRevoke (by_ : Path) (tag : BitVec 16) (value : Byte) : Statement (.keySlotRevoke by_ tag value) := all _
theorem attestationRequest (by_ : Path) (tag : BitVec 16) (nonce : List Byte) (heartwoodMs : Nat) : Statement (.attestationRequest by_ tag nonce heartwoodMs) := all _
theorem spdmGetVersion (request : List Byte) : Statement (.spdmGetVersion request) := all _
theorem spdmGetCapabilities (request : List Byte) : Statement (.spdmGetCapabilities request) := all _
theorem spdmNegotiateAlgorithms (request : List Byte) : Statement (.spdmNegotiateAlgorithms request) := all _
theorem spdmGetDigests (request : List Byte) : Statement (.spdmGetDigests request) := all _
theorem spdmGetCertificate (request : List Byte) : Statement (.spdmGetCertificate request) := all _
theorem spdmChallenge (request : List Byte) : Statement (.spdmChallenge request) := all _
theorem spdmGetMeasurements (request : List Byte) (heartwoodMs : Nat) : Statement (.spdmGetMeasurements request heartwoodMs) := all _
theorem spdmKeyExchange (request : List Byte) : Statement (.spdmKeyExchange request) := all _
theorem spdmFinish (request : List Byte) : Statement (.spdmFinish request) := all _
theorem spdmKeyUpdate (request : List Byte) : Statement (.spdmKeyUpdate request) := all _
theorem spdmEndSession (request : List Byte) : Statement (.spdmEndSession request) := all _
theorem selfTestRun (by_ : Path) (tag : BitVec 16) (value : Byte) (failures : W32) : Statement (.selfTestRun by_ tag value failures) := all _
theorem noiseHealthFailure : Statement (.noiseHealthFailure) := all _
theorem entropyStartupRetest (passed : Bool) : Statement (.entropyStartupRetest passed) := all _
theorem zeroiseVolatile (by_ : Path) (tag : BitVec 16) : Statement (.zeroiseVolatile by_ tag) := all _
theorem zeroisePermanent (by_ : Path) (tag : BitVec 16) : Statement (.zeroisePermanent by_ tag) := all _
theorem envelopeViolation (railMicrovolts : Int) (dieTemp : Int) (heldNanoseconds : Nat) : Statement (.envelopeViolation railMicrovolts dieTemp heldNanoseconds) := all _
theorem islandThrottleDown (island : Nat) (cycles : Nat) (temperature : Int) : Statement (.islandThrottleDown island cycles temperature) := all _
theorem islandThrottleUp (island : Nat) (cycles : Nat) (temperature : Int) : Statement (.islandThrottleUp island cycles temperature) := all _
theorem islandShutoff (island : Nat) (temperature : Int) : Statement (.islandShutoff island temperature) := all _
theorem pwrCycleN (heldMs : Nat) : Statement (.pwrCycleN heldMs) := all _
theorem inputOutOfRange (millivolts : Nat) : Statement (.inputOutOfRange millivolts) := all _
theorem instructionFetch (tile : Nat) (slot : Nat) (group : Nat) (elapsed : Nat) (ecc : Ecc) : Statement (.instructionFetch tile slot group elapsed ecc) := all _
theorem illegalInstruction (i : Issue) (opcode : Byte) : Statement (.illegalInstruction i opcode) := all _
theorem workDescriptorReservedType (tenant : Nat) (queue : Nat) : Statement (.workDescriptorReservedType tenant queue) := all _
theorem queueMaskWrite (by_ : Path) (tag : BitVec 16) (tenant : Nat) (value : Byte) : Statement (.queueMaskWrite by_ tag tenant value) := all _
theorem numvfsWrite (numVfs : Nat) (enable : Bool) : Statement (.numvfsWrite numVfs enable) := all _
theorem hdmDecoderCommit (base : Nat) (size : Nat) (ways : Nat) : Statement (.hdmDecoderCommit base size ways) := all _
theorem doeDiscovery (index : Nat) : Statement (.doeDiscovery index) := all _
theorem cxlLinkUp (width : Nat) (rate : Nat) : Statement (.cxlLinkUp width rate) := all _
theorem finuleriPortLinkChange (port : Nat) (up : Bool) : Statement (.finuleriPortLinkChange port up) := all _
theorem lodgeReturns : Statement (.lodgeReturns) := all _

end Sys2Proof.Laws.Unspelled
end

