-- ==== Sys2Proof/Laws/Serving.lean ====
section
/-!
SUPPORT. What the operations that several commands share do, one lemma each: a step, a freeze, the checks of an
instruction's fields, the service of a dictionary request, a Lodge row that takes a frame, and a queue's turn.
-/

namespace Sys2Proof.Machine

/-! ### The step -/

theorem step_cons {s : State} {c : Instr} {rest : List Instr} (h : s.pending = c :: rest) :
    step s = exec c { s with pending := rest } := by
  simp [step, h]

theorem step_nil {s : State} (h : s.pending = []) : step s = .next s := by
  simp [step, h]

/-! ### Freezes (R361, R365) -/

/-- A report changes the log alone. -/
theorem report_onlyLog (s : State) (source : W32) (cls cause : Nat) (tenant : Option Nat) (detail : W32) :
    ∃ l, s.report source cls cause tenant detail = { s with log := l } := by
  unfold State.report
  exact ⟨_, rfl⟩

/-- A freeze appends one record with the tenant's next ordinal, counts it, and reports: of the state, only that
tenant and the log change. -/
theorem freeze_spec (s : State) (t : Nat) (r : FreezeRec) :
    ∃ l v, s.freeze t r = { s with tenants := mset s.tenants t v, log := l } ∧
      v = { tenantAt s t with
        freezes := (tenantAt s t).freezes ++ [{ r with seq := (tenantAt s t).freezeSeq % 2 ^ 16 }],
        freezeSeq := (tenantAt s t).freezeSeq + 1,
        nFreezes := satAdd 32 (tenantAt s t).nFreezes 1,
        nUncorrectable := satAdd 32 (tenantAt s t).nUncorrectable (if r.cause = 0x22 then 1 else 0) } := by
  unfold State.freeze
  simp only
  obtain ⟨l, hl⟩ := report_onlyLog (s.updTenant t _) (masterSource r.master _) 2 r.cause (some t) r.master
  exact ⟨l, _, hl, rfl⟩

/-- A freeze of the issuing group is precise: its record names it, its pc, threads and block, and nothing of the
group or of any memory has changed (R62, R365). -/
theorem freeze_frozeGroup {s : State} {i : Issue} {c : Ctx} (h : ctxOf s i = some c) (cause address : Nat) :
    FrozeGroup c cause address (c.freeze cause address) := by
  obtain ⟨-, -, -, -, -, h6, -, h8, h9, -⟩ := ctxOf_spec h
  unfold Ctx.freeze Ctx.freezeGroup
  obtain ⟨l, v, hf, hv⟩ := freeze_spec (c.s.setTile c.l { c.tile with issued := (c.port, c.slot, c.gi) :: c.tile.issued }) c.tenant
    { freezeRec (groupMaster c.l c.slot c.gi) cause address with
      pc := c.path.pc, blockId := c.block.launch.params.blockId, live := c.group.live, parked := c.group.parkedMask }
  have ht : tenantAt (c.s.setTile c.l { c.tile with issued := (c.port, c.slot, c.gi) :: c.tile.issued }) c.tenant =
      tenantAt c.s c.tenant := rfl
  rw [ht] at hv
  refine ⟨⟨{ freezeRec (groupMaster c.l c.slot c.gi) cause address with
      pc := c.path.pc, blockId := c.block.launch.params.blockId, live := c.group.live, parked := c.group.parkedMask,
      seq := (tenantAt c.s c.tenant).freezeSeq % 2 ^ 16 }, ?_, rfl, rfl, rfl, rfl, rfl, rfl, rfl⟩, ?_, ?_, ?_, ?_, ?_, ?_⟩
  · rw [hf]; simp [tenantAt, hv]
  · rw [hf]; simp [tenantAt, hv]
  · rw [hf]; simp [groupIn, tileAt, h8, h9]
  · rw [hf]; rfl
  · rw [hf]; simp [tileAt]
  · intro k hk; rw [hf]; simp [mget_mset, hk]
  · rw [hf]; simp [isFrozen, tenantAt, hv, freezeRec]

/-! ### The checks of an instruction's fields (R55, R59, R60) -/

theorem checked_illegal (c : Ctx) (u : Use) (f : Fields) (k : State) (h : fieldsIllegal u f = true) :
    c.checked u f k = c.freeze 0x04 0 := by simp [Ctx.checked, h]

theorem checked_bounds (c : Ctx) (u : Use) (f : Fields) (k : State) (h : fieldsIllegal u f = false)
    (h2 : fieldsOutOfBounds u c.block.launch.params.regs f = true) : c.checked u f k = c.freeze 0x05 0 := by
  simp [Ctx.checked, h, h2]

theorem checkedOnce_guard (c : Ctx) (u : Use) (f : Fields) (k : State) (h : guardAlways f = false) :
    c.checkedOnce u f k = c.freeze 0x04 0 := by simp [Ctx.checkedOnce, h]

theorem checkedOnce_ok (c : Ctx) (u : Use) (f : Fields) (k : State) (h : guardAlways f = true) :
    c.checkedOnce u f k = c.checked u f k := by simp [Ctx.checkedOnce, h]

theorem issue_none {s : State} {i : Issue} (h : ctxOf s i = none) (k : Ctx → State) : issue s i k = s := by
  simp [issue, h]

/-! ### Dictionary requests (R334, R335) -/

theorem serveOn_closed {s : State} {path : Path} (h : pathRole s path = none) (m : DictMsg) (tests : Option W32) :
    serveOn s path m tests = s := by simp [serveOn, h]

theorem serveOn_busy {s : State} {path : Path} (h : pathBusy s path = true) (m : DictMsg) (tests : Option W32) :
    serveOn s path m tests = s := by
  unfold serveOn
  split
  · rfl
  · simp [h]

theorem serveOn_open {s : State} {path : Path} {role : Nat} {own : Option Nat} (h : pathRole s path = some (role, own))
    (hb : pathBusy s path = false) (m : DictMsg) (tests : Option W32) :
    serveOn s path m tests = serveMsg s.redraw path role own m tests := by simp [serveOn, h, hb]

/-- A request whose first checks fail is answered with the first status, and changes nothing else. -/
theorem serveMsg_fails (s : State) (path : Path) (role : Nat) (own : Option Nat) (m : DictMsg) (tests : Option W32)
    (h : checkRequest role own m ≠ 0) : serveMsg s path role own m tests = s.reply path m (checkRequest role own m) := by
  unfold serveMsg
  split
  · rename_i h2 _; exact absurd h2 h
  · rfl

theorem serveMsg_ok (s : State) (path : Path) (role : Nat) (own : Option Nat) (m : DictMsg) (tests : Option W32) (o : Obj)
    (h : checkRequest role own m = 0) (ho : objectAt m.index.toNat m.sub.toNat = some o) :
    serveMsg s path role own m tests = serveChecked s path role m o tests := by
  simp [serveMsg, h, ho]

/-! ### Frames for the Lodge, and a queue's turn -/

theorem takeFrame_no {s : State} {f : Frame} {ok : Bool} {run : State → State}
    (h : (s.dict.lodgeFrames.contains f && ok && dictServed s) = false) :
    takeFrame s f ok run = s := by simp only [takeFrame, h]; rfl

theorem takeFrame_ok {s : State} {f : Frame} {ok : Bool} {run : State → State}
    (h : (s.dict.lodgeFrames.contains f && ok && dictServed s) = true) :
    takeFrame s f ok run = run (s.redraw.updDict fun d => { d with lodgeFrames := d.lodgeFrames.erase f }) := by
  simp only [takeFrame, h, if_true]

theorem serveQueue_no {s : State} {t q : Nat} (h : queueTurn s t q = false) (ty : Nat)
    (run : State → Nat → List Byte → State ⊕ Nat) : serveQueue s t q ty run = s := by simp [serveQueue, h]

/-- A queue at its turn whose descriptor can be read and is of the type starts it, or freezes with the cause it gives. -/
theorem serveQueue_turn {s : State} {t q ty : Nat} (h : queueTurn s t q = true)
    (hw : dpaWaits s (descAddress s t q (nextDesc s t q)) 64 = false)
    (hb : dpaBad s (descAddress s t q (nextDesc s t q)) 64 = false) (ht : dbits (nextDescBytes s t q) 4 0 = ty)
    (run : State → Nat → List Byte → State ⊕ Nat) :
    serveQueue s t q ty run =
      match run ((s.redraw.touchBias (descAddress s t q (nextDesc s t q)) 64).readDesc t q) (nextDesc s t q) (nextDescBytes s t q) with
      | .inl s1 => s1
      | .inr cause => ((s.redraw.touchBias (descAddress s t q (nextDesc s t q)) 64).updHost fun h => { h with turn := 8 * t + q }).freezeQueue
          t q (nextDesc s t q) cause (nextDescBytes s t q) := by
  simp [serveQueue, h, hb, ht, hw] <;> rfl

end Sys2Proof.Machine
end

