-- ==== Sys2Proof/WellFormed.lean ====
section
/-!
DEFINITION. Well-formed commands: every operand in the range its rule gives it. The machine's meanings
are total and do not lean on these checks: a command that names something the module does not have
leaves the state as it is, or is answered as its own rule says (log 8).
-/

namespace Sys2Proof

/-- 1,280 logical tiles (R9), 8 block slots and groups 0–15 of a block (R33), two issue ports (R41). -/
def Issue.wf (i : Issue) : Bool := i.tile < 1280 && i.slot < 8 && i.group < 16 && i.port < 2

/-- The tail takes one form: an immediate replaces `src_b`, `src_c` and `mod` (R57). -/
def Fields.wf (f : Fields) : Bool := f.imm.isNone || (f.srcB = 0 && f.srcC = 0 && f.mod = 0)

/-- Words the symbol code names are 16 bytes wide (R149, R185): their addresses are multiples of 16. -/
def Ecc.wf (e : Ecc) : Bool := e.bad.all fun a => a % 16 = 0

/-- Header fields within their widths, and whole data words of the stated number (R265). -/
def Packet.wf (p : Packet) : Bool :=
  p.length < 2 ^ 13 && p.dst < 2 ^ 12 && p.src < 2 ^ 12 && p.tenant < 2 ^ 10 && p.ptype < 16 &&
    p.status < 16 && p.hops < 16 && p.tag < 2 ^ 24 && p.rsv < 2 ^ 29 && p.data.length = p.length &&
    p.data.length % 16 = 0 && p.badWords.all fun w => 16 * w < p.data.length

/-- A code word of one of four lanes has 544 symbols (R255, R259). -/
def LaneCode.wf (c : LaneCode) : Bool := c.lane < 4 && c.symbols.length = 544

/-- A link of the module (R255). -/
def linkWf (l : Nat) : Bool := l < 96
/-- A tenant (R353). -/
def tenantWf (t : Nat) : Bool := t < 1024
/-- A parameter set of a tenant (R223). -/
def paramSetWf (p : Nat) : Bool := p < 4
/-- A tile (R9). -/
def tileWf (l : Nat) : Bool := l < 1280
/-- A tag of a tile's streams (R162). -/
def tagWf (t : Nat) : Bool := t < 64
/-- A work queue of a tenant (R306). -/
def queueWf (q : Nat) : Bool := q < 8

/-- A virtual function has a number from 1 to 1,024 (R296). -/
def Path.wf (p : Path) : Bool :=
  match p with
  | .vf k => 1 ≤ k && k ≤ 1024
  | .pf0 => true
  | .session i => 0 < i && i < 2 ^ 16

/-- At most 1,024 data bytes (R332). -/
def DictMsg.wf (m : DictMsg) : Bool := m.data.length ≤ 1024

/-- Two ports (R341), and a payload that fits a frame. -/
def Frame.wf (f : Frame) : Bool := f.port < 2 && f.payload.length ≤ 1484

/-- A mailbox of PF 0 or of a virtual function (R338). -/
def MailboxId.wf (m : MailboxId) : Bool :=
  match m with
  | .pf0 => true
  | .vf k => 1 ≤ k && k ≤ 1024

/-- Twenty stacks and four spring chips (R183, R220). -/
def MemUnit.wf (u : MemUnit) : Bool :=
  match u with
  | .stack s => s < 20
  | .slow n => n < 4

/-- A scope that exists (R9, R18). -/
def Scope.wf (c : Scope) : Bool :=
  match c with
  | .tile n => n < 1280
  | .cluster n => n < 80
  | .region n => n < 20
  | .die n => n < 4
  | .spring n => n < 4

/-- A part that exists (R358, R390). -/
def Withdrawal.wf (w : Withdrawal) : Bool :=
  match w with
  | .tile l => l < 1280
  | .channel s c => s < 20 && c < 32
  | .setGroup k => k < 4096
  | .spring n => n < 4
  | .package n k => n < 4 && k < 8
  | .region r => r < 20
  | .engine k => k < 7

/-- The object a layer-map write names is inside the map (R223). -/
def LayerWrite.wf (w : LayerWrite) : Bool :=
  match w with
  | .map o bs => o + bs.length ≤ 16384
  | .dims _ => true
  | .expected _ => true

/-- A host access to HDM of one 64-byte line at most (R300). -/
def HostAccess.wf (a : HostAccess) : Bool :=
  match a with
  | .read n => 0 < n && n ≤ 64
  | .write d => 0 < d.length && d.length ≤ 64

/-- What waits for a target-reset status names a tile and a tag that exist (R381). -/
def Reissue.wf (r : Reissue) : Bool :=
  match r with
  | .access t _ => tileWf t
  | .copyPart t g => tileWf t && tagWf g
  | .gatherRow t g _ => tileWf t && tagWf g
  | .exchangePart t g _ => tileWf t && tagWf g
  | .poolFill k => k < 16777216

/-- A command's operands are in range. -/
def Instr.wf (c : Instr) : Bool :=
  match c with
  | .integerArithmetic i _ f => i.wf && f.wf
  | .fp32Arithmetic i _ f => i.wf && f.wf
  | .packedFp16Arithmetic i _ f => i.wf && f.wf
  | .logicShiftBitfield i _ f => i.wf && f.wf
  | .comparePredicateSet i _ f => i.wf && f.wf
  | .specialFunction i _ f => i.wf && f.wf
  | .cvtRn i f => i.wf && f.wf
  | .cvtSr i f => i.wf && f.wf
  | .mov i f => i.wf && f.wf
  | .movU i _ f => i.wf && f.wf
  | .movSr i f => i.wf && f.wf
  | .shfl i f => i.wf && f.wf
  | .rand i f => i.wf && f.wf
  | .vote i _ f => i.wf && f.wf
  | .dld i f ecc => i.wf && f.wf && ecc.wf
  | .localMemoryLoad i _ f ecc => i.wf && f.wf && ecc.wf
  | .localMemoryStore i _ f ecc => i.wf && f.wf && ecc.wf
  | .localMemoryAtomic i _ _ f ecc => i.wf && f.wf && ecc.wf
  | .load i _ f => i.wf && f.wf
  | .store i _ f => i.wf && f.wf
  | .atomic i _ _ f => i.wf && f.wf
  | .memoryResponse tile _ _ ecc => tileWf tile && ecc.wf
  | .bra i f => i.wf && f.wf
  | .call i f => i.wf && f.wf
  | .ret i f => i.wf && f.wf
  | .exit i f => i.wf && f.wf
  | .nop i f => i.wf && f.wf
  | .barBlock i f => i.wf && f.wf
  | .barrierTimeout tile slot _ => tileWf tile && slot < 8
  | .fragLd i f ecc => i.wf && f.wf && ecc.wf
  | .fragSt i f ecc => i.wf && f.wf && ecc.wf
  | .mmaReg i f => i.wf && f.wf
  | .mmaDesc i f => i.wf && f.wf
  | .accDrain i f => i.wf && f.wf
  | .accFill i f => i.wf && f.wf
  | .accWait i f => i.wf && f.wf
  | .accumulationComplete tile _ _ _ _ ecc => tileWf tile && ecc.wf
  | .drainComplete tile _ _ _ => tileWf tile
  | .fillComplete tile _ _ _ ecc => tileWf tile && ecc.wf
  | .copyIssue i f ecc => i.wf && f.wf && ecc.wf
  | .copyWait i f => i.wf && f.wf
  | .copyRequestComplete tile tag _ ecc => tileWf tile && tagWf tag && ecc.wf
  | .gatherIssue i f ecc => i.wf && f.wf && ecc.wf
  | .xchgIssue i f ecc => i.wf && f.wf && ecc.wf
  | .fenceLocal i f => i.wf && f.wf
  | .fenceRegion i f => i.wf && f.wf
  | .fenceBoard i f => i.wf && f.wf
  | .blockLaunch tile _ => tileWf tile
  | .blockEnd tile slot _ => tileWf tile && slot < 8
  | .personalityReloadComplete tile _ => tileWf tile
  | .stackRetry tile _ => tileWf tile
  | .scrubPass unit found => unit.wf && found.ecc.wf
  | .channelRetrainStart unit channel _ => unit.wf && channel < 32
  | .channelRetrainEnd unit channel => unit.wf && channel < 32
  | .retrainRequest by_ _ _ => by_.wf
  | .translationShootdown by_ _ _ => by_.wf
  | .gatherIndexIssue tile tag ecc => tileWf tile && tagWf tag && ecc.wf
  | .gatherRowArrival tile tag _ ecc => tileWf tile && tagWf tag && ecc.wf
  | .poolFillComplete group set way => group < 4096 && set < 1024 && way < 4
  | .censusReport tile tag => tileWf tile && tagWf tag
  | .censusAndFlushReport tile tag => tileWf tile && tagWf tag
  | .flushReport tile tag => tileWf tile && tagWf tag
  | .compareReport tile tag => tileWf tile && tagWf tag
  | .lossReport tile tag => tileWf tile && tagWf tag
  | .poisonMessage p => p.wf
  | .attemptOpen tenant set _ => tenantWf tenant && paramSetWf set
  | .partReport tenant set part => tenantWf tenant && paramSetWf set && part < 256
  | .attemptBlockAbort tenant set _ => tenantWf tenant && paramSetWf set
  | .attemptBlockResume tenant set _ => tenantWf tenant && paramSetWf set
  | .voteContribution tenant set _ ecc => tenantWf tenant && paramSetWf set && ecc.wf
  | .voteMessage p => p.wf
  | .pinRetry tenant set _ ecc => tenantWf tenant && paramSetWf set && ecc.wf
  | .applyComplete tenant set _ fast slow => tenantWf tenant && paramSetWf set && fast.wf && (slow.all fun e => e.1 < 4 && e.2.wf)
  | .applyMessage p => p.wf
  | .attemptWatchdogExpiry tenant set _ => tenantWf tenant && paramSetWf set
  | .springChipRestart chip slow => chip < 4 && slow.wf
  | .attemptControlAbort by_ _ tenant set => by_.wf && tenantWf tenant && paramSetWf set
  | .attemptControlPause by_ _ tenant set => by_.wf && tenantWf tenant && paramSetWf set
  | .attemptControlResume by_ _ tenant set => by_.wf && tenantWf tenant && paramSetWf set
  | .attemptControlImport by_ _ tenant set => by_.wf && tenantWf tenant && paramSetWf set
  | .attemptControlExport by_ _ tenant set => by_.wf && tenantWf tenant && paramSetWf set
  | .importExportComplete tenant set fast slow => tenantWf tenant && paramSetWf set && fast.wf && (slow.all fun e => e.1 < 4 && e.2.wf)
  | .parameterSetModeWrite by_ _ tenant set _ => by_.wf && tenantWf tenant && paramSetWf set
  | .layerMapWrite by_ _ tenant set w => by_.wf && tenantWf tenant && paramSetWf set && w.wf
  | .layerSlotMapWrite by_ _ _ _ => by_.wf
  | .flitReceive link codes => linkWf link && codes.all LaneCode.wf
  | .linkDown link _ => linkWf link
  | .linkSettlementMessage link _ => linkWf link
  | .linkTrainingStart link => linkWf link
  | .errorGateComplete link _ _ => linkWf link
  | .trainingFrame link _ => linkWf link
  | .opticalLightLoss link => linkWf link
  | .packetRoute _ p => p.wf
  | .escapeLaneTimeout p => p.wf
  | .readRequest p ecc => p.wf && ecc.wf
  | .writeRequest p ecc => p.wf && ecc.wf
  | .atomicRequest p ecc => p.wf && ecc.wf
  | .readResponse p => p.wf
  | .writeOrAtomicResponse p => p.wf
  | .exchangeData p ecc => p.wf && ecc.wf
  | .exchangeFlag p ecc => p.wf && ecc.wf
  | .exchangeAcknowledge p => p.wf
  | .poolInvalidations p => p.wf
  | .undeliverableNotice p => p.wf
  | .targetResetReissue r => r.wf
  | .trafficHoldWrite by_ _ _ => by_.wf
  | .trafficHeld => true
  | .routeTableWrite by_ _ _ _ => by_.wf
  | .retrainDimensions by_ _ _ => by_.wf
  | .linkControlRetrain by_ _ link => by_.wf && linkWf link
  | .linkControlDisable by_ _ link => by_.wf && linkWf link
  | .linkControlEnable by_ _ link => by_.wf && linkWf link
  | .doorbell vf _ _ => (1 ≤ vf && vf ≤ 1024)
  | .readPointer vf _ _ => (1 ≤ vf && vf ≤ 1024)
  | .nopDescriptor tenant queue => tenantWf tenant && queueWf queue
  | .launch tenant queue => tenantWf tenant && queueWf queue
  | .feed tenant queue => tenantWf tenant && queueWf queue
  | .exportDesc tenant queue => tenantWf tenant && queueWf queue
  | .feedExportComplete tenant queue _ _ ecc _ => tenantWf tenant && queueWf queue && ecc.wf
  | .vfFunctionLevelReset vf => (1 ≤ vf && vf ≤ 1024)
  | .pf0FunctionLevelReset => true
  | .vfEnableClear => true
  | .cxlLinkDown => true
  | .hdmAccess _ a ecc => a.wf && ecc.wf
  | .hostSnoop _ => true
  | .pf0ApertureWrite _ _ => true
  | .biasRequest by_ _ _ => by_.wf
  | .queueEntriesWrite by_ _ tenant queue _ => by_.wf && tenantWf tenant && queueWf queue
  | .mailboxRequest mb _ _ => mb.wf
  | .read by_ m => by_.wf && m.wf
  | .write by_ m => by_.wf && m.wf
  | .domainRead by_ m => by_.wf && m.wf
  | .writeBegin by_ m => by_.wf && m.wf
  | .writeData by_ m => by_.wf && m.wf
  | .writeCommit by_ m => by_.wf && m.wf
  | .writeCancel by_ m => by_.wf && m.wf
  | .describe by_ m => by_.wf && m.wf
  | .frameForward f => f.wf
  | .discoveryRequest f _ => f.wf
  | .handshakeH1 f => f.wf
  | .handshakeH3 f => f.wf
  | .sessionData f => f.wf
  | .sessionClose f => f.wf
  | .sessionIdleTimeout _ _ => true
  | .sessionCloseWrite by_ _ _ => by_.wf
  | .portRolesWrite by_ _ _ => by_.wf
  | .lodgeRestart => true
  | .lodgeWatchdogExpiry => true
  | .tileMaskWrite by_ _ tenant _ => by_.wf && tenantWf tenant
  | .pageOwnerMapWrite by_ _ _ _ => by_.wf
  | .setGroupMapWrite by_ _ _ _ => by_.wf
  | .tableDescriptorsWrite by_ _ tenant _ _ => by_.wf && tenantWf tenant
  | .watchSetupWrite by_ _ tenant _ _ => by_.wf && tenantWf tenant
  | .tilePersonalityWrite by_ _ _ _ => by_.wf
  | .clearingHoldWrite by_ _ tenant _ => by_.wf && tenantWf tenant
  | .exclusiveRegionsWrite by_ _ tenant _ => by_.wf && tenantWf tenant
  | .moduleWithdrawal w => w.wf
  | .releaseDiscard by_ _ tenant _ => by_.wf && tenantWf tenant
  | .releaseResume by_ _ tenant _ => by_.wf && tenantWf tenant
  | .releaseDiscardAll by_ _ tenant => by_.wf && tenantWf tenant
  | .releaseResumeAll by_ _ tenant => by_.wf && tenantWf tenant
  | .discardMaster by_ _ tenant _ => by_.wf && tenantWf tenant
  | .inspectMasterWrite by_ _ tenant _ => by_.wf && tenantWf tenant
  | .logReportIntake => true
  | .logUnpin by_ _ _ => by_.wf
  | .logReadNumberWrite by_ _ _ => by_.wf
  | .tenantLogReadWrite by_ _ tenant _ => by_.wf && tenantWf tenant
  | .powerGood slotStraps => slotStraps < 8
  | .bringUpStageComplete _ => true
  | .bringUpStateLimitExpiry _ => true
  | .bistComplete _ => true
  | .microcodeChunk cluster _ _ => cluster < 80
  | .resetRequest by_ _ _ => by_.wf
  | .hardwareFatalFault scope faultyTile => scope.wf && (faultyTile.all fun l => l < 1280)
  | .resetDrainEnd scope => scope.wf
  | .resetScopeBack scope _ => scope.wf
  | .installStagedImage by_ _ _ => by_.wf
  | .activate by_ _ _ _ => by_.wf
  | .moveLayerSlot by_ _ srcChip _ dstChip _ => by_.wf && srcChip < 4 && dstChip < 4
  | .prepareCartridge by_ _ cartridge => by_.wf && cartridge < 7
  | .returnCartridge by_ _ cartridge => by_.wf && cartridge < 7
  | .serviceJobUnitComplete _ => true
  | .cartridgePulled k => k < 7
  | .cartridgeInserted k _ => k < 7
  | .cartridgeWarmUpEnd k _ => k < 7
  | .rollbackCommit by_ _ _ => by_.wf
  | .keySlotRevoke by_ _ _ => by_.wf
  | .attestationRequest by_ _ _ _ => by_.wf
  | .spdmGetVersion _ => true
  | .spdmGetCapabilities _ => true
  | .spdmNegotiateAlgorithms _ => true
  | .spdmGetDigests _ => true
  | .spdmGetCertificate _ => true
  | .spdmChallenge _ => true
  | .spdmGetMeasurements _ _ => true
  | .spdmKeyExchange _ => true
  | .spdmFinish _ => true
  | .spdmKeyUpdate _ => true
  | .spdmEndSession _ => true
  | .selfTestRun by_ _ _ _ => by_.wf
  | .noiseHealthFailure => true
  | .entropyStartupRetest _ => true
  | .zeroiseVolatile by_ _ => by_.wf
  | .zeroisePermanent by_ _ => by_.wf
  | .envelopeViolation _ _ _ => true
  | .islandThrottleDown _ _ _ => true
  | .islandThrottleUp _ _ _ => true
  | .islandShutoff _ _ => true
  | .pwrCycleN _ => true
  | .inputOutOfRange _ => true
  | .instructionFetch tile slot group _ ecc => tileWf tile && slot < 8 && group < 16 && ecc.wf
  | .illegalInstruction i _ => i.wf
  | .workDescriptorReservedType tenant queue => tenantWf tenant && queueWf queue
  | .queueMaskWrite by_ _ tenant _ => by_.wf && tenantWf tenant
  | .numvfsWrite _ _ => true
  | .hdmDecoderCommit _ _ _ => true
  | .doeDiscovery _ => true
  | .cxlLinkUp _ _ => true
  | .finuleriPortLinkChange port _ => port < 2
  | .lodgeReturns => true

end Sys2Proof
end

