-- ==== Sys2Proof/Tests/Slice0.lean ====
section
/-!
SUPPORT. Tests: ill-formed commands, witnesses for the hypotheses of the statements, and single steps. A witness shows a
concrete state and operands that meet a statement's hypotheses, and most show a field of what the step then gives.
-/

namespace Sys2Proof.Machine

set_option Elab.async false

/-! ### Ill-formed commands, one for each check -/

/-- Fields of an instruction word that runs on every thread. -/
def tFields : Fields :=
  { guardNeg := false, guard := 7, dst := 0, srcA := 0, srcB := 0, srcC := 0, ty := 0, mod := 0, imm := none }
/-- Issue of group 0 of block slot 0 of tile 0 on port 0. -/
def tIssue : Issue := { tile := 0, slot := 0, group := 0, port := 0, elapsed := 1 }
/-- No word found bad. -/
def noEcc : Ecc := { bad := [], corrected := [] }
/-- A packet from node 9 to node 0. -/
def tPacket (ty : Nat) : Packet :=
  { addr := 0, aux := 0, length := 0, dst := 0, src := 9, tenant := 5, ptype := ty, status := 0, hops := 1, key := 0,
    tag := 3, rsv := 0, data := [], badWords := [] }
/-- An empty dictionary message. -/
def tMsg (command : Byte) : DictMsg :=
  { tag := 1, length := 0, offset := 0, rsv := 0, tenant := 0, tenantScope := false, index := 0, sub := 0, status := 0,
    command := command, data := [] }
/-- A frame that came in at port 0. -/
def tFrame (hdr : BitVec 128) : Frame :=
  { port := 0, dstMac := 0, srcMac := 0x0A, etherType := 0x88B5, hdr := hdr, payload := [], fcsOk := true }

theorem test_wf_issue_ports : (Instr.nop { tIssue with port := 2 } tFields).wf = false ∧
    (Instr.nop { tIssue with tile := 1280 } tFields).wf = false ∧ (Instr.nop { tIssue with slot := 8 } tFields).wf = false ∧
    (Instr.nop { tIssue with group := 16 } tFields).wf = false ∧ (Instr.nop tIssue tFields).wf = true := by decide
theorem test_wf_immediate_tail : (Instr.mov tIssue { tFields with imm := some 1, srcB := 3 }).wf = false := by decide
theorem test_wf_ecc_words : (Instr.dld tIssue tFields { bad := [8], corrected := [] }).wf = false := by decide
theorem test_wf_packet_header : (Instr.voteMessage { tPacket 8 with dst := 4096 }).wf = false ∧
    (Instr.voteMessage { tPacket 8 with length := 16 }).wf = false ∧
    (Instr.voteMessage { tPacket 8 with badWords := [0] }).wf = false ∧ (Instr.voteMessage (tPacket 8)).wf = true := by decide
theorem test_wf_flit_codes : (Instr.flitReceive 0 [{ lane := 0, symbols := [] }]).wf = false ∧
    (Instr.flitReceive 0 [{ lane := 4, symbols := List.replicate 544 0 }]).wf = false ∧
    (Instr.flitReceive 0 [{ lane := 3, symbols := List.replicate 544 0 }]).wf = true := by decide +kernel
theorem test_wf_link : (Instr.linkTrainingStart 96).wf = false ∧ (Instr.linkTrainingStart 95).wf = true := by decide
theorem test_wf_tile_and_tag : (Instr.censusReport 1280 0).wf = false ∧ (Instr.censusReport 0 64).wf = false := by decide
theorem test_wf_tenant_and_set : (Instr.attemptOpen 1024 0 0).wf = false ∧ (Instr.attemptOpen 0 4 0).wf = false ∧
    (Instr.partReport 0 0 256).wf = false := by decide
theorem test_wf_queue : (Instr.launch 0 8).wf = false ∧ (Instr.doorbell 0 0 []).wf = false ∧
    (Instr.doorbell 1025 0 []).wf = false := by decide
theorem test_wf_path : (Instr.logUnpin (.vf 0) 0 0).wf = false ∧ (Instr.logUnpin (.session 0) 0 0).wf = false := by decide
theorem test_wf_message : (Instr.read .pf0 { tMsg 1 with data := List.replicate 1025 0 }).wf = false := by decide +kernel
theorem test_wf_frame : (Instr.frameForward { tFrame 0 with port := 2 }).wf = false := by decide
theorem test_wf_mailbox : (Instr.mailboxRequest (.vf 0) 0 []).wf = false := by decide
theorem test_wf_memory_unit : (Instr.scrubPass (.stack 20) { ecc := noEcc, repaired := 0 }).wf = false ∧ (Instr.scrubPass (.slow 4) { ecc := noEcc, repaired := 0 }).wf = false ∧
    (Instr.channelRetrainEnd (.slow 0) 32).wf = false := by decide
theorem test_wf_scope : (Instr.resetDrainEnd (.tile 1280)).wf = false ∧ (Instr.resetDrainEnd (.cluster 80)).wf = false ∧
    (Instr.resetDrainEnd (.region 20)).wf = false ∧ (Instr.resetDrainEnd (.die 4)).wf = false ∧
    (Instr.resetDrainEnd (.spring 4)).wf = false := by decide
theorem test_wf_withdrawal : (Instr.moduleWithdrawal (.tile 1280)).wf = false ∧
    (Instr.moduleWithdrawal (.channel 20 0)).wf = false ∧ (Instr.moduleWithdrawal (.setGroup 4096)).wf = false ∧
    (Instr.moduleWithdrawal (.spring 4)).wf = false ∧ (Instr.moduleWithdrawal (.region 20)).wf = false ∧
    (Instr.moduleWithdrawal (.engine 7)).wf = false := by decide
theorem test_wf_layer_write : (Instr.layerMapWrite .pf0 0 0 0 (.map 16383 [0, 0])).wf = false := by decide
theorem test_wf_host_access : (Instr.hdmAccess 0 (.read 0) noEcc).wf = false ∧ (Instr.hdmAccess 0 (.read 65) noEcc).wf = false := by decide
theorem test_wf_reissue : (Instr.targetResetReissue (.copyPart 0 64)).wf = false := by decide
theorem test_wf_pool_way : (Instr.poolFillComplete 4096 0 0).wf = false ∧ (Instr.poolFillComplete 0 1024 0).wf = false ∧
    (Instr.poolFillComplete 0 0 4).wf = false := by decide
theorem test_wf_numbers : (Instr.powerGood 8).wf = false ∧ (Instr.microcodeChunk 80 [] 0).wf = false ∧
    (Instr.springChipRestart 4 noEcc).wf = false ∧ (Instr.cartridgePulled 7).wf = false ∧
    (Instr.finuleriPortLinkChange 2 true).wf = false := by decide

/-! ### A small module -/

/-- A module in service, with Heartwood operational and the host link up. -/
def tOn : State :=
  { State.reset with
    service := { State.reset.service with bringUp := 7, served := true }
    power := { powered := true }
    heartwood := { state := 1, keysHeld := true }
    host := { linkWidth := 16, linkRate := 32, vfEnable := true, numVfs := 8 } }
/-- Tile 0 of tenant 5, with these contents. -/
def tOwn (t : Tile) (s : State) : State := { s with tiles := [(0, t)], tileOwner := [(0, 5)] }
/-- Launch parameters of a block with registers t0–t15 and 4 KiB of local memory. -/
def tParams : BlockParams :=
  { tile := 0, entry := 0, blockId := 7, groups := 1, regs := 16, lmBase := 0, lmSize := 4096, large := false,
    accMask := 0x0F, watchdog := 1000, uniformInit := [] }
/-- A group whose 32 threads stand at pc 16. -/
def tGroup : Group := { live := 0xFFFFFFFF, paths := [{ pc := 16, mask := 0xFFFFFFFF }] }
/-- The launch of a block of tenant 5's queue 1. -/
def tLaunch (p : BlockParams) : Launch := { params := p, tenant := 5, queue := 1, seq := 1, epoch := 0 }
/-- A block of these groups. -/
def tBlock (p : BlockParams) (gs : List Group) : Block := { launch := tLaunch p, groups := gs }
/-- The module with one block of one group in slot 0 of tile 0. -/
def tRun (g : Group) : State := tOwn { blocks := [(0, tBlock tParams [g])] } tOn
/-- A hypothesis of an issuing instruction holds of the context it issues in. -/
def met (s : State) (p : Ctx → Bool) : Bool := match ctxOf s tIssue with | some c => p c | none => false
/-- What a command gives. -/
def after (c : Instr) (s : State) : State := match exec c s with | .next t => t | .fault _ => s | .refused _ => s

/-! ### Tile instructions -/

/-- An addition t2 := t0 + t1 with t0 = 5 and t1 = 0xFFFFFFFF in thread 3. -/
def tAdd : State := tRun { tGroup with regs := [(3, 5), (35, 0xFFFFFFFF)] }
theorem witness_LaneInstructionsWriteTheirLanes : met tAdd (fun c =>
    let f := { tFields with dst := 2, srcA := 0, srcB := 1 }
    (match laneWork c (.integerArithmetic tIssue .add f) with
      | some (_, g, u, _) => decide (g = f) && !fieldsIllegal u f && !fieldsOutOfBounds u 16 f
      | none => false)) = true ∧
    readReg (((groupIn (after (.integerArithmetic tIssue .add { tFields with dst := 2, srcA := 0, srcB := 1 }) tAdd) 0 0 0).getD {})) 2 3 = 4 := by
  decide +kernel


/-- The group after a command. -/
def tGroupAfter (c : Instr) (s : State) : Group := (groupIn (after c s) 0 0 0).getD {}
/-- Causes of tenant 5's freeze records after a command. -/
def tCauses (c : Instr) (s : State) : List Nat := (tenantAt (after c s) 5).freezes.map FreezeRec.cause
/-- Fields pass the checks of R59 and R60. -/
def fieldsOk (u : Use) (f : Fields) (c : Ctx) : Bool :=
  !fieldsIllegal u f && !fieldsOutOfBounds u c.block.launch.params.regs f

theorem witness_PredicateInstructionsComplete_compare :
    met tAdd (fieldsOk useCmp { tFields with dst := 1, srcB := 1, ty := 1 }) = true ∧
    inMask (predMask (tGroupAfter (.comparePredicateSet tIssue .gt { tFields with dst := 1, srcB := 1, ty := 1 }) tAdd) 1) 3 = true ∧
    inMask (predMask (tGroupAfter (.comparePredicateSet tIssue .gt { tFields with dst := 1, srcB := 1 }) tAdd) 1) 3 = false := by
  decide +kernel
theorem witness_PredicateInstructionsComplete_vote :
    met tAdd (fieldsOk { dst := 3, a := 3 } { tFields with dst := 1, srcA := 7 }) = true ∧
    predMask (tGroupAfter (.vote tIssue .all { tFields with dst := 1, srcA := 7 }) tAdd) 1 = 0xFFFFFFFF ∧
    met tAdd (fieldsOk { dst := 1, a := 3 } { tFields with dst := 4, srcA := 7 }) = true ∧
    readReg (tGroupAfter (.vote tIssue .ballot { tFields with dst := 4, srcA := 7 }) tAdd) 4 9 = 0xFFFFFFFF := by decide +kernel
theorem witness_PredicateInstructionsComplete_uniform :
    met tAdd (fieldsOk { dst := 2, a := 0, b := 1, imm := true } { tFields with dst := 63, imm := some 9 }) = true ∧
    readU (tGroupAfter (.movU tIssue .toUniform { tFields with dst := 63, imm := some 9 }) tAdd) 63 = 9 ∧
    met tAdd (fun c => fieldsOk { dst := 2, a := 1, imm := true } { tFields with dst := 3, srcA := 5 } c && decide (c.lanes tFields ≠ 0) &&
      (List.range 32).all fun n => decide (readReg c.group 5 n = 0)) = true := by decide +kernel
/-- 1.0 in t0 of every thread. -/
def tOnes : State := tRun { tGroup with regs := (List.range 32).map fun n => (n, 0x3F800000) }
theorem witness_ConversionsComplete :
    met tOnes (fun c => fieldsOk useCvt { tFields with dst := 1, srcA := 0, mod := 0x23 } c &&
      decide (cvtSrc { tFields with mod := 0x23 } ≤ 3) && decide (cvtDst { tFields with mod := 0x23 } ≤ 3)) = true := by decide +kernel
theorem witness_BranchesMoveTheThreads :
    met tAdd (fun c => fieldsOk (useJump 0 { tFields with imm := some 64 }) { tFields with imm := some 64 } c &&
      (List.range 32).all fun n => decide (targetOf c.group { tFields with imm := some 64 } n % 8 = 0)) = true ∧
    (tGroupAfter (.bra tIssue { tFields with imm := some 64 }) tAdd).paths = [{ pc := 64, mask := 0xFFFFFFFF }] ∧
    met tAdd (fieldsOk (useJump 1 { tFields with dst := 4, imm := some 64 }) { tFields with dst := 4, imm := some 64 }) = true ∧
    readReg (tGroupAfter (.call tIssue { tFields with dst := 4, imm := some 64 }) tAdd) 4 0 = 24 ∧
    met tAdd (fieldsOk { a := 1 } { tFields with srcA := 9 }) = true ∧
    (tGroupAfter (.ret tIssue { tFields with srcA := 9 }) tAdd).paths = [{ pc := 0, mask := 0xFFFFFFFF }] ∧
    met tAdd (fun _ => !fieldsIllegal {} tFields) = true ∧
    -- a target that is no multiple of 8, taken by thread 3 alone
    met tAdd (fun c => inMask (c.lanes tFields) 3 && decide (targetOf c.group tFields 3 % 8 ≠ 0)) = true ∧
    tCauses (.bra tIssue tFields) tAdd = [0x04] := by decide +kernel
theorem witness_BadFieldsFreezeTheGroup :
    met tAdd (fun c => (laneWork c (.mov tIssue { tFields with ty := 1 })).isSome && fieldsIllegal { dst := 1, a := 1, imm := true } { tFields with ty := 1 }) = true ∧
    tCauses (.mov tIssue { tFields with ty := 1 }) tAdd = [0x04] ∧
    met tAdd (fun c => fieldsOutOfBounds { dst := 1, a := 1, imm := true } c.block.launch.params.regs { tFields with dst := 16 }) = true ∧
    tCauses (.mov tIssue { tFields with dst := 16 }) tAdd = [0x05] ∧ tCauses (.illegalInstruction tIssue 0xFF) tAdd = [0x04] := by
  decide +kernel
theorem witness_BarBlockFieldsAndLoneGroups :
    met tAdd (fun c => decide (c.block.groups.length = 1) && decide (c.path.mask ≠ 0) &&
      (List.range 32).all fun n => inMask c.group.live n == (inMask c.group.parkedMask n || inMask c.path.mask n)) = true ∧
    (tGroupAfter (.barBlock tIssue tFields) tAdd).paths = [{ pc := 24, mask := 0xFFFFFFFF }] ∧
    (tGroupAfter (.barBlock tIssue tFields) tAdd).parked = [] ∧
    tCauses (.barBlock tIssue { tFields with dst := 1 }) tAdd = [0x04] ∧ tCauses (.barBlock tIssue { tFields with guard := 2 }) tAdd = [0x04] ∧
    tCauses (.barBlock tIssue { tFields with guardNeg := true }) tAdd = [0x04] := by decide +kernel
theorem witness_OnceInstructionsNeedGuardP7 :
    met tAdd (fun _ => true) = true ∧ tCauses (.fenceBoard tIssue { tFields with guard := 0 }) tAdd = [0x04] ∧
    tCauses (.mmaReg tIssue { tFields with guardNeg := true }) tAdd = [0x04] ∧
    -- port 1 has issued in the cycle
    (let s := { tAdd with tiles := [(0, { tileAt tAdd 0 with issued := [(1, 3, 0)] })] }
     (ctxOf s { tIssue with elapsed := 0 }).isSome = true ∧ tCauses (.mmaReg { tIssue with elapsed := 0 } { tFields with guardNeg := true }) s = []) := by decide +kernel
/-- Two groups: group 0 runs, group 1 has parked its threads at the barrier, to resume at 40. -/
def tTwo : State :=
  tOwn { blocks := [(0, { tBlock tParams [tGroup, { tGroup with paths := [], parked := [{ resume := 40, mask := 0xFFFFFFFF }] }] with
                          watchRunning := true, watchCount := 998 })] } tOn
theorem witness_BarrierReleasesOrTimesOut_exit :
    met tTwo (fun _ => !fieldsIllegal {} tFields) = true ∧ (tGroupAfter (.exit tIssue tFields) tTwo).ended = true ∧
    ((groupIn (after (.exit tIssue tFields) tTwo) 0 0 1).getD {}).paths = [{ pc := 40, mask := 0xFFFFFFFF }] := by decide +kernel
theorem witness_BarrierReleasesOrTimesOut_barrier :
    met tTwo (fun _ => guardAlways tFields) = true ∧
    ((groupIn (after (.barBlock tIssue tFields) tTwo) 0 0 1).getD {}).paths = [{ pc := 40, mask := 0xFFFFFFFF }] ∧
    (tGroupAfter (.barBlock tIssue tFields) tTwo).paths = [{ pc := 24, mask := 0xFFFFFFFF }] := by decide +kernel
theorem witness_BarrierReleasesOrTimesOut_watchdog :
    ownerOf tTwo 0 = some 5 ∧ (mget (tileAt tTwo 0).blocks 0).isSome = true ∧ isFrozen tTwo 5 (blockMaster 0 0) = false ∧
    mwf (tileAt tTwo 0).blocks = true ∧ (∀ e ∈ (tileAt tTwo 0).blocks, e.1 < 8) ∧
    tCauses (.barrierTimeout 0 0 1) tTwo = [] ∧ tCauses (.barrierTimeout 0 0 2) tTwo = [0x02] := by decide +kernel
/-! ### Thread memory -/

/-- The same module, with tables for tenant 5: its page 0 is page 2048 of the fast tier, readable, writable and
executable, and its page 1 lies on board slot 1. -/
def tMapped (s : State) : State :=
  { s with
    mem := { s.mem with
      fast := [(2 ^ 36, 1), (2 ^ 36 + 1, 0x20), (2 * 2 ^ 36, 1), (2 * 2 ^ 36 + 1, 0x30), (3 * 2 ^ 36, 0x1F), (3 * 2 ^ 36 + 4, 1),
               (3 * 2 ^ 36 + 8, 0x1F), (3 * 2 ^ 36 + 13, 0x20)]
      pageOwner := [(2048, 0x8005)] }
    tenants := [(5, { ptRoot := 0x1000 })] }
/-- A group with thread 3 alone alive. -/
def tLone (regs : SMap W32) : Group := { live := 8, paths := [{ pc := 16, mask := 8 }], regs := regs }
/-- Thread 3 of tile 0 with t0 = 0x102, t1 = 0xAB and local memory 0x55 at 0x100. -/
def tLocal : State :=
  tOwn { blocks := [(0, tBlock tParams [tLone [(3, 0x102), (35, 0xAB)]])], lm := [(0x100, 0x55)] } tOn
theorem witness_LocalMemoryAccessesPerform_load :
    met tLocal (fun c => fieldsOk { dst := 1, a := 1 } { tFields with dst := 4 } c && decide (lmAt c { tFields with dst := 4 } 3 4 = 0x100) &&
      inWindow c.block.launch.params 0x100 4 && !readBad c.tile.lmBad 0x100 4) = true ∧
    readReg (tGroupAfter (.localMemoryLoad tIssue .b4 { tFields with dst := 4 } noEcc) tLocal) 4 3 = 0x55 ∧
    -- a load whose address lies outside the window, and one at an uncorrectable word
    tCauses (.localMemoryLoad tIssue .b4 { tFields with dst := 4 } noEcc)
      (tOwn { blocks := [(0, tBlock tParams [tLone [(3, 0x1000)]])] } tOn) = [0x07] ∧
    tCauses (.localMemoryLoad tIssue .b4 { tFields with dst := 4 } { bad := [0x100], corrected := [] }) tLocal = [0x22] := by decide +kernel
/-- A plain descriptor at 0x80: operands of format 1, 64 rows and columns, 32 deep. -/
def tPlain : SMap Byte := [(0x80, 0x10), (0x81, 1), (0x84, 64), (0x85, 64), (0x86, 32)]
/-- A descriptor register is loaded from the 64 bytes at u0 = 0x80. -/
def tDesc (bytes : SMap Byte) (u0 : W32) : State :=
  tOwn { blocks := [(0, tBlock tParams [{ tGroup with uregs := [(0, u0)] }])], lm := bytes } tOn
theorem witness_LocalMemoryAccessesPerform_descriptor :
    met (tDesc tPlain 0x80) (fun c => fieldsOk { dst := 4, a := 2 } { tFields with dst := 15 } c && guardAlways tFields &&
      inWindow c.block.launch.params 0x80 64 && !readBad c.tile.lmBad 0x80 64 && !arrayDescReserved (readBytes c.tile.lm 0x80 64)) = true ∧
    (((mget (tileAt (after (.dld tIssue { tFields with dst := 15 } noEcc) (tDesc tPlain 0x80)) 0).blocks 0).bind
      fun b => mget b.dregs 15).map fun d => d.getD 0 0) = some 0x10 ∧
    arrayDescReserved (readBytes [(0xBF, 0x80)] 0x80 64) = true ∧
    tCauses (.dld tIssue { tFields with dst := 15 } noEcc) (tDesc [(0xBF, 0x80)] 0x80) = [0x06] ∧
    tCauses (.dld tIssue { tFields with dst := 15 } noEcc) (tDesc [] 0x84) = [0x07] := by decide +kernel
theorem witness_LocalMemoryAccessesPerform_store :
    met tLocal (fun c => fieldsOk { a := 1, b := 1 } { tFields with srcB := 1 } c &&
      inWindow c.block.launch.params 0x102 2 && !readBad c.tile.lmBad 0x102 2) = true ∧
    lmByte (after (.localMemoryStore tIssue .b2 { tFields with srcB := 1 } noEcc) tLocal) 0 0x102 = 0xAB ∧
    lmByte (after (.localMemoryStore tIssue .b2 { tFields with srcB := 1 } noEcc) tLocal) 0 0x100 = 0x55 := by decide +kernel
theorem witness_LocalMemoryAccessesPerform_atomic :
    met tLocal (fun c => fieldsOk (useAtomic .add false) { tFields with dst := 4, srcB := 1 } c &&
      !pairsBad 16 .b4 [4, 1] && decide (c.lanes tFields = 1 <<< 3) && inWindow c.block.launch.params 0x100 4) = true ∧
    readReg (tGroupAfter (.localMemoryAtomic tIssue .add false { tFields with dst := 4, srcB := 1 } noEcc) tLocal) 4 3 = 0x55 ∧
    lmByte (after (.localMemoryAtomic tIssue .add false { tFields with dst := 4, srcB := 1 } noEcc) tLocal) 0 0x101 = 1 := by decide +kernel
theorem witness_ResultsAreArithmetic : (0 < 32 ∧ 0 + 32 ≤ 32) ∧ (∃ g, decodeNum fp32 0x7FC00000 = .nan g) ∧
    atomResult .cas 0 64 (2 ^ 64 - 1) 3 (2 ^ 64 - 1) = 3 ∧ intResult .mul false 0xFFFFFFFF 2 0 = 0xFFFFFFFE :=
  ⟨by decide, ⟨_, rfl⟩, by decide +kernel, by decide +kernel⟩
/-- Thread 3 with t0:t1 = 0x40, an address of the tenant's page 0, and t2 = 0x1234. -/
def tGlobal : State :=
  tMapped (tOwn { blocks := [(0, tBlock tParams [tLone [(3, 0x40), (67, 0x1234)]])], serial := 70 } tOn)
/-- How the lanes of an access translate. -/
def tTranslated (need : Need) (s : State) : Option (List (Nat × Nat)) :=
  match ctxOf s tIssue with
  | some c => match translateLanes c.s (regionOf c.l) c.tenant need (vaAddress c.group tFields .b4) (lanesOf (c.lanes tFields)) with
    | (_, .ok ts) => some ts
    | _ => none
  | none => none
theorem witness_GlobalAccessesIssueAndPerform_issue :
    met tGlobal (fun c => fieldsOk { a := 1, b := 1 } { tFields with srcB := 2 } c && !pairBad 16 0 && !pairsBad 16 .b4 [2] &&
      fieldsOk { dst := 1, a := 1 } { tFields with dst := 4 } c && fieldsOk (useAtomic .add false) { tFields with dst := 4, srcB := 2 } c) = true ∧
    tTranslated .w tGlobal = some [(3, 0x100000040)] ∧
    ((tileAt (after (.store tIssue .b4 { tFields with srcB := 2 }) tGlobal) 0).accesses.map fun a => (a.serial, a.target, a.data)) =
      [(70, 0x100000040, 0x1234)] ∧
    (tGroupAfter (.load tIssue .b4 { tFields with dst := 4 }) tGlobal).wait = .accesses [70] ∧
    (tGroupAfter (.atomic tIssue .add false { tFields with dst := 4, srcB := 2 }) tGlobal).wait = .accesses [70] ∧
    -- an address without a page
    tTranslated .r (tMapped (tOwn { blocks := [(0, tBlock tParams [tLone [(3, 0x600000)]])] } tOn)) = none ∧
    tCauses (.store tIssue .b4 tFields) (tMapped (tOwn { blocks := [(0, tBlock tParams [tLone [(3, 0x600000)]])] } tOn)) = [0x20] := by
  decide +kernel
theorem witness_GlobalAccessesIssueAndPerform_reaches :
    (∀ need ∈ [Need.r, .w, .rw, .x], Reaches tGlobal 0 5 need 0x40 0x100000040) ∧ pairBad 16 0 = false ∧
    (let s := { tGlobal with tiles := [(0, { tileAt tGlobal 0 with l1 := [(0x100000040 / 256, List.replicate 256 9)] })] }
     isLocal s 0x100000040 = true ∧ (mget (tileAt s 0).l1 (boardDpa 0x100000040 / 256)).isSome = true ∧
     readReg (tGroupAfter (.load tIssue .b4 { tFields with dst := 4 }) s) 4 3 = 0x09090909) := by
  refine ⟨fun need h => ⟨by decide, 4294967327, false, by decide +kernel, by decide +kernel, ?_, fun e he => ?_⟩, by decide, by decide +kernel⟩
  · revert need
    decide +kernel
  · exact absurd he (List.not_mem_nil)
/-- An access of thread 3 to the tenant's page on this module. -/
def tAccess (kind : AccessKind) : Access :=
  { serial := 70, slot := 0, group := 0, thread := 3, kind := kind, pc := 16, va := 0x40, target := 0x100000040, size := 4,
    dst := 4, data := 0x1234, cmp := 0 }
/-- The module with that access outstanding. -/
def tOut (kind : AccessKind) : State :=
  tMapped (tOwn { blocks := [(0, tBlock tParams [{ tLone [] with wait := .accesses [70] }])], accesses := [tAccess kind] } tOn)
theorem witness_GlobalAccessesIssueAndPerform_perform :
    (∀ k ∈ [AccessKind.load, .store, .atomic .add false], let s := (tick (tOut k) 0 1).redraw
      ownerOf s 0 = some 5 ∧ (tileAt s 0).accesses.find? (fun x => x.serial = 70) = some (tAccess k) ∧
      mayPerform s 0 (tAccess k) = true ∧ tileResetting s 0 = false ∧ dpaResetting s (boardDpa (tAccess k).target) = false ∧
      (backedKey s (boardDpa (tAccess k).target)).isSome = true ∧ s.mem.fastBad = []) ∧
    dpaBytes (after (.memoryResponse 0 70 1 noEcc) (tOut .store)) 0x100000040 2 = [0x34, 0x12] ∧
    (tileAt (after (.memoryResponse 0 70 1 noEcc) (tOut .load)) 0).accesses = [] ∧
    dpaBytes (after (.memoryResponse 0 70 1 noEcc) (tOut (.atomic .add false))) 0x100000040 2 = [0x34, 0x12] := by decide +kernel
theorem witness_StackAndFetchServeTheTile :
    ((tileAt (tOut .load) 0).accesses.map Access.serial).Nodup ∧ isLocal (tOut .load) (tAccess .load).target = true ∧
    holdsSlot (tOut .load) 0 (.access 70) = true ∧ (tileAt (after (.stackRetry 0 ⟨70, 0⟩) (tOut .load)) 0).order = [.access 70] ∧
    (match groupCtx tGlobal { tIssue with elapsed := 1 } with
      | some c => (match c.s.translate (regionOf c.l) c.tenant (0 + c.path.pc) .x with | (_, .ok b) => !dpaBad c.s (boardDpa b) 8 | _ => false)
      | none => false) = true ∧
    mget (icacheFill 0 [(5, (0, []))] 0 (3, [7])) 0 = some (3, [7]) ∧ nextLineInPage tGlobal 0 5 0x40 = true ∧ nextLineInPage tGlobal 0 5 0x1FFF40 = false ∧
    -- a block whose entry has no page, and one whose entry is no address
    tCauses (.instructionFetch 0 0 0 1 noEcc) (tMapped (tOwn { blocks := [(0, tBlock { tParams with entry := 0x600000 } [tGroup])] } tOn)) = [0x20] ∧
    tCauses (.instructionFetch 0 0 0 1 noEcc) (tOwn { blocks := [(0, tBlock { tParams with entry := 2 ^ 48 } [tGroup])] } tOn) = [0x20] := by
  decide +kernel

/-- A copy of 16 bytes from the tenant's address 0x40. -/
def tCopyIn : Stream :=
  { kind := .copy, serial := 71, slot := 0, group := 0, desc := leBytes 64 (2 ^ 4 + 0x40 * 2 ^ 96 + 0x300 * 2 ^ 144 + 16 * 2 ^ 192), target := some 0x100000040 }
theorem witness_StackAndFetchServeTheTile_streams :
    (let s := tMapped (tOwn { streams := [(3, tCopyIn)] } tOn)
     holdsSlot s 0 (.copy 71) = true ∧ isLocal s 0x100000040 = true ∧ cSrcTenant tCopyIn.desc = true ∧
     (tileAt (after (.stackRetry 0 ⟨71, 0⟩) s) 0).order = [.copy 71]) ∧
    (let s := tOwn { streams := [(3, { tCopyIn with kind := .gather, routes := [(2, .home 0x40)] })] } tOn
     ((streamAt (after (.stackRetry 0 ⟨71, 2⟩) s) 0 3).bind fun st => mget st.routes 2) = some (.retryHome 0x40)) ∧
    (let s := { tGlobal with tiles := [(0, { tileAt tGlobal 0 with icache := [(0, (0x100000000, []))] })] }
     (mget (tileAt s 0).icache (0 / 256)).isSome = true ∧ (groupCtx s tIssue).isSome = true) := by decide +kernel

/-! ### The matrix array, streams and blocks -/

/-- A descriptor of 64 bytes with these fields, each at its low bit. -/
def tBits (n : Nat) (fields : List (Nat × Nat)) : List Byte :=
  leBytes n (fields.foldl (fun v e => v + e.2 * 2 ^ e.1) 0)
/-- The bytes of a descriptor at an address of local memory. -/
def tAt (a : Nat) (bs : List Byte) : SMap Byte := writeBytes [] a bs
/-- A converged group with u0 = 0x100 and u1 = 64. -/
def tFrag : State := tOwn { blocks := [(0, tBlock tParams [{ tGroup with uregs := [(0, 0x100), (1, 64)] }])], lm := [(0x142, 0x77)] } tOn
/-- The fields of FRAG.LD into t0 from there. -/
def tFragF : Fields := { tFields with srcA := 0, srcB := 1 }
theorem witness_FragmentsMoveWholeBlocks :
    met tFrag (fun c => !c.block.launch.params.large && fieldsOk { dst := 5, a := 2, b := 2, mod := 1 } tFragF c && c.converged tFragF &&
      decide ((readU c.group 1).toNat % 64 = 0) && inWindow c.block.launch.params 0x100 (31 * 64 + 64)) = true ∧
    readReg (tGroupAfter (.fragLd tIssue tFragF noEcc) tFrag) 0 1 = 0x770000 ∧
    met (tRun { tGroup with paths := [{ pc := 16, mask := 1 }, { pc := 32, mask := 0xFFFFFFFE }] }) (fun c => !c.converged tFragF) = true ∧
    tCauses (.fragSt tIssue tFragF noEcc) (tRun { tGroup with paths := [{ pc := 16, mask := 1 }, { pc := 32, mask := 0xFFFFFFFE }] }) = [0x01] := by
  decide +kernel
/-- A block in the large configuration, whose d3 is a plain descriptor. -/
def tLarge : State :=
  tOwn { blocks := [(0, { tBlock { tParams with large := true, accMask := 3, lmSize := 65536 } [{ tGroup with uregs := [(0, 0x100)] }] with
    dregs := [(3, readBytes tPlain 0x80 64)] })] } tOn
theorem witness_ArrayOperationsStart_small :
    met tFrag (fun c => guardAlways tFields && fieldsOk { a := 5, b := 5, mod := 0xF } tFields c && !quadrantFull c.tile 0 &&
      c.block.launch.params.accMask.getLsbD 0 && fieldsOk { a := 2, mod := 0xFF } { tFields with mod := 0x10 } c &&
      inWindow c.block.launch.params 0x100 2048 && !c.block.launch.params.accMask.getLsbD 4) = true ∧
    ((tileAt (after (.mmaReg tIssue tFields) tFrag) 0).ops.map ArrayOp.serial) = [0] ∧
    tCauses (.mmaReg tIssue { tFields with mod := 2 }) tFrag = [0x03] ∧
    ((tileAt (after (.accDrain tIssue { tFields with mod := 0x10 }) tFrag) 0).ops.map ArrayOp.kind) = [.drain 0 0x100 false true false] := by
  decide +kernel
theorem witness_ArrayOperationsStart_large :
    met tLarge (fun c => fieldsOk { a := 4, mod := 3 } { tFields with srcA := 3 } c &&
      (match mget c.block.dregs 3 with
        | some d => !arrayDescBad d (personalityOf c.s c.l) && !arrayExtentBad c.block.launch.params d &&
            !(descUnits d 0).any (fun u => !c.block.launch.params.accMask.getLsbD u)
        | none => false) &&
      fieldsOk { a := 2, mod := 7 } tFields c && inWindow c.block.launch.params 0x100 16384) = true ∧
    ((tileAt (after (.mmaDesc tIssue { tFields with srcA := 3 }) tLarge) 0).ops.length) = 1 ∧
    tCauses (.mmaDesc tIssue { tFields with srcA := 4 }) tLarge = [0x06] ∧
    ((tileAt (after (.accFill tIssue tFields) tLarge) 0).ops.length) = 1 := by decide +kernel
theorem witness_ArrayOperationsStart_wait :
    met tLarge (fun c => !fieldsIllegal { mod := 0xFF } { tFields with mod := 3 } && decide ((3 : Byte) &&& ~~~c.block.launch.params.accMask = 0)) = true ∧
    (tGroupAfter (.accWait tIssue { tFields with mod := 3 }) tLarge).wait = .none ∧
    met tLarge (fun c => decide (c.port = 0 → ∀ x ∈ c.tile.issued, x.1 ≠ 1)) = true ∧
    (tGroupAfter (.accWait { tIssue with elapsed := 0 } { tFields with mod := 3 })
      { tLarge with tiles := [(0, { tileAt tLarge 0 with ops := [{ serial := 9, slot := 0, large := true, kind := .fill 0 0x100 }] })] }).wait = .arrayOps [9] := by
  decide +kernel
/-- An array operation alone in the scoreboard of tile 0. -/
def tOp (o : ArrayOp) (lm : SMap Byte) : State :=
  tOwn { blocks := [(0, tBlock tParams [tGroup])], ops := [o], lm := lm } tOn
theorem witness_ArrayOperationsFinish :
    (∀ k ∈ [ArrayKind.mmaReg 3 1 true [] [], .mmaDesc 1 true (tBits 64 [(4, 1), (8, 1), (32, 64), (40, 64), (48, 32)]) []],
      let o : ArrayOp := { serial := 9, slot := 0, large := false, kind := k, age := 300, run := 94 }
      let s := (arrayTicks (tOp o []) 0 0 0 0).redraw
      ownerOf s 0 = some 5 ∧ (tileAt s 0).ops.find? (fun x => x.serial = 9) = some o ∧ mayAccumulate (tileAt s 0).ops o = true ∧
      accumulationDue o = true ∧ (tileAt s 0).lm = [] ∧ (tileAt s 0).lmBad = []) ∧
    dbits (tBits 64 [(4, 1), (8, 1), (32, 64), (40, 64), (48, 32)]) 3 0 = 0 ∧ dbits (tBits 64 [(4, 1), (8, 1), (32, 64), (40, 64), (48, 32)]) 7 4 ≠ 0 := by decide +kernel
/-- A reported feeder freeze counts and moves nothing of a running product (R69, R81). -/
theorem test_reported_freeze_counts :
    let o : ArrayOp := { serial := 9, slot := 0, large := false, kind := .mmaDesc 1 true [] [], age := 300, run := 3 }
    let t := tileAt (reportedFreeze true false (tOp o []) 0 5) 0
    t.feederFreezes = 1 ∧ t.drainFreezes = 0 ∧ t.ops.map ArrayOp.run = [3] := by decide +kernel
theorem witness_ArrayOperationsFinish_chains :
    let d : ArrayOp := { serial := 9, slot := 0, large := false, kind := .drain 0 0x100 false false false, copied := true,
                         held := [(64 * 31, 7)], run := 32 }
    let f : ArrayOp := { serial := 9, slot := 0, large := false, kind := .fill 7 0x100, run := 32 }
    let s := fun o => tOp o [(0x102, 3)]
    (∀ o ∈ [d, f], (tileAt (s o) 0).ops.find? (fun x => x.serial = 9) = some o) ∧ (0 < 32 ∧ 0 + 31 = 63 - d.run % 64) ∧
    lmByte (advanceOp 0 5 [d] (s d) d) 0 (0x100 + 31 * 128) = 7 ∧
    -- the last row has left: complete at shift cycle 64, and gone with it
    drainCycles { d with run := 64 } ≤ 64 ∧ (tileAt (after (.drainComplete 0 9 0 0) (s { d with run := 64 })) 0).ops = [] ∧
    chainsFree [f] f = true ∧ (32 * (7 / 4) + 0 = f.run) ∧
    ((tileAt (advanceOp 0 5 [f] (s f) f) 0).ops.map fun o => (o.run, mgetD o.held 0 0)) = [(33, 0x30000)] ∧
    mayAccumulate [f] f = true ∧
    mgetD (tileAt (after (.fillComplete 0 9 0 0 noEcc) (s { f with run := 64, held := [(65, 5)] })) 0).acc (4096 + 64 * 33 + 33) 0 = 5 ∧
    -- an array without an operation counts no freeze
    arrayCycle tOn 0 5 = tOn := by decide +kernel
/-- A converged group whose u0 points at a descriptor in local memory at 0x80. -/
def tIssuing (d : List Byte) : State :=
  let s := tOwn { blocks := [(0, tBlock tParams [{ tGroup with uregs := [(0, 0x80)] }])], lm := tAt 0x80 d } tOn
  { s with tenants := [(5, { tables := [(0, tBits 32 [(48, 100), (80, 4)])] })] }
/-- A copy of 16 bytes from 0x200 to 0x300. -/
def tCopy : List Byte := tBits 64 [(96, 0x200), (144, 0x300), (192, 16)]
/-- A gather of one row of table 0 to 0x300. -/
def tGather : List Byte := tBits 64 [(64, 0x200), (160, 0x300), (192, 16)]
/-- An exchange of 16 bytes from 0x200 to 0x300 of tile 0 of node 9. -/
def tXchg : List Byte := tBits 64 [(0, 1), (8, 9), (40, 15), (64, 0x200), (112, 0x300)]
theorem witness_StreamsStartAndGroupsWait_start :
    met (tIssuing tCopy) (fun c => fieldsOk { dst := 2, a := 2 } { tFields with dst := 5 } c && inWindow c.block.launch.params 0x80 64 &&
      !readBad c.tile.lmBad 0x80 64 && decide (mget c.tile.streams 0 = none) && !copyDescBad tCopy 0 0 &&
      !copyExtentBad c.block.launch.params tCopy 0 && !copyRefused c.s c.tenant tCopy &&
      !gatherDescBad tGather (tableDesc c.s c.tenant 0) && !gatherExtentBad c.block.launch.params tGather (tableDesc c.s c.tenant 0) &&
      !exchangeDescBad c.s tXchg && inWindow c.block.launch.params 0x200 16) = true ∧
    (∀ e ∈ [(Instr.copyIssue tIssue { tFields with dst := 5 } noEcc, tCopy), (.gatherIssue tIssue { tFields with dst := 5 } noEcc, tGather),
        (.xchgIssue tIssue { tFields with dst := 5 } noEcc, tXchg)],
      (streamAt (after e.1 (tIssuing e.2)) 0 0).isSome = true ∧ tCauses e.1 (tIssuing (tBits 64 [(0, 5)])) = [0x06] ∧
      tCauses e.1 (tOwn { blocks := [(0, tBlock tParams [{ tGroup with uregs := [(0, 0xFC4)] }])] } tOn) = [0x07]) := by decide +kernel
/-- A copy of a tagged gradient to tenant memory, for the set that `poisoned` names. -/
def tGradient : List Byte := tBits 64 [(8, 1), (12, 3), (16, 3), (20, 1), (21, 1), (96, 0x200), (144, 0x300), (192, 16)]
theorem witness_StreamsStartAndGroupsWait_refused :
    let s := { tIssuing tGradient with tenants := [(5, { sets := [(0, { mode := 1, poisoned := true })] })] }
    met s (fun c => !copyDescBad tGradient 0 0 && !copyExtentBad c.block.launch.params tGradient 0 && copyRefused c.s c.tenant tGradient) = true ∧
    (tenantAt (after (.copyIssue tIssue tFields noEcc) s) 5).watch.refusedStores = 1 := by decide +kernel
theorem witness_StreamsStartAndGroupsWait_wait :
    let s := tOwn { blocks := [(0, tBlock tParams [{ tGroup with uregs := [(0, 3)] }])], l1 := [(1, [])],
                     streams := [(3, { kind := .copy, serial := 70, slot := 0, group := 0, desc := tCopy })],
                     accesses := [tAccess .store] } tOn
    met s (fun c => fieldsOk { a := 2, mod := 1 } tFields c && !fieldsIllegal {} tFields && guardAlways tFields) = true ∧
    (tGroupAfter (.copyWait tIssue tFields) s).wait = .tags [70] ∧ (tGroupAfter (.fenceLocal tIssue tFields) s).wait = .fence [70] false ∧
    (tGroupAfter (.fenceRegion tIssue tFields) s).wait = .fence [70] true ∧
    (tileAt (after (.fenceBoard tIssue tFields) { s with tiles := [(0, { tileAt s 0 with accesses := [] })] }) 0).l1 = [] := by decide +kernel
/-- A stream that holds tag 3. -/
def tStream (st : Stream) (lm : SMap Byte) : State := tOwn { blocks := [(0, tBlock tParams [tGroup])], streams := [(3, st)], lm := lm } tOn
/-- The copy of 16 bytes, as it stands when issued. -/
def tCopying : Stream := { kind := .copy, serial := 70, slot := 0, group := 0, desc := tCopy }
theorem witness_RequestsMoveBytes_copy :
    (let s := (tick (tStream tCopying []) 0 1).redraw
     ownerOf s 0 = some 5 ∧ streamAt s 0 3 = some tCopying ∧ streamFrozen s 0 5 3 tCopying = false ∧
     earlierDone (tileAt s 0) tCopying = true ∧ holdsSlot s 0 (.copy 70) = true ∧ tileResetting s 0 = false ∧ tCopying.next < copyTotal tCopy ∧
     (sourceNeed tCopy (copyUnit tCopy 0) (fetched tCopying)).isSome = true) ∧
    ((streamAt (after (.copyRequestComplete 0 3 1 noEcc) (tStream tCopying [(0x201, 9)])) 0 3).map fun st => (st.got.map fun e => e.2.take 2)) =
      some [[0, 9]] ∧
    lmByte (after (.copyRequestComplete 0 3 1 noEcc)
      (tStream { tCopying with outReady := true, out := List.replicate 16 7 } [])) 0 0x30F = 7 ∧
    copyTotal tCopy ≤ 16 ∧ streamAt (after (.copyRequestComplete 0 3 1 noEcc) (tStream { tCopying with next := 16 } [])) 0 3 = none := by
  decide +kernel
theorem witness_RequestsMoveBytes_exchange :
    (let st : Stream := { tCopying with kind := .exchange, desc := tXchg }
     let s := tStream st [(0x200, 5)]
     streamFrozen s 0 5 3 st = false ∧ earlierDone (tileAt s 0) st = true ∧ st.next < xParts tXchg ∧ xSrcTenant tXchg = false ∧
     ((pumpExchangeOnce s 0 5 3).map fun t => t.links.outbox.map fun p => (p.dst, p.addr, p.data.head?)) = some [(9, 0x300, some 5)]) := by
  decide +kernel
theorem witness_BlocksComeAndGo_launch :
    let s := tOwn { waiting := [tLaunch { tParams with uniformInit := [11] }] } tOn
    inService s = true ∧ (tileAt s 0).reloading = false ∧ tileResetting s 0 = false ∧ fitsTile (tileAt s 0) tParams = true ∧
    microcodeJob s = false ∧ readU (tGroupAfter (.blockLaunch 0 1) s) 0 = 11 ∧ (tileAt (after (.blockLaunch 0 1) s) 0).waiting = [] := by
  decide +kernel
/-- Queue 1 of tenant 5 in use, with one LAUNCH to complete. -/
def tQueue (s : State) : State :=
  { s with tenants := [(5, { queueMask := 2, queues := [(1, { entries := 16, tail := 1, head := 1 })] })] }
theorem witness_BlocksComeAndGo_end :
    let s := tQueue (tOwn { blocks := [(0, tBlock tParams [{ live := 0, ended := true }])], reloading := true } tOn)
    (∀ g ∈ (tBlock tParams [{ live := 0, ended := true }]).groups, g.ended = true) ∧ asyncDone (tileAt s 0) 0 = true ∧
    queueInUse s 5 1 = true ∧ (queueAt s 5 1).epoch = 0 ∧ mget (tileAt (after (.blockEnd 0 0 1) s) 0).blocks 0 = none ∧
    (queueAt (after (.blockEnd 0 0 1) s) 5 1).completed = 1 ∧
    (tileAt (after (.personalityReloadComplete 0 1) s) 0).reloading = false := by decide +kernel

/-! ### Gathers, sounding, translation and memory units -/

/-- Tenant 5 with table 0 of 100 rows of four elements at `base`, and group 0 of the Pool. -/
def tPool (base mode : Nat) (st : Stream) (ways : SMap Way) : State :=
  let s := tMapped (tOwn { blocks := [(0, tBlock tParams [tGroup])], streams := [(3, { st with desc := tBits 64 [(12, mode % 4), (14, mode / 4), (64, 0x200), (160, 0x300), (192, 16)] })] } tOn)
  { s with
    tenants := [(5, { ptRoot := 0x1000, tables := [(0, tBits 32 [(0, base), (48, 100), (80, 4), (112, 1), (160, 16)])] })]
    mem := { s.mem with setGroups := [(0, BitVec.ofNat 64 (2 ^ 63 + 5 * 2 ^ 46))], dir := ways } }
/-- A gather of one index whose list holds `r`. -/
def tGathering (r : Nat) : Stream := { tCopying with kind := .gather, outReady := true, out := leBytes 4 r }
/-- Route of index 0 after GATHER_INDEX_ISSUE, and the counters of table 0. -/
def tRouted (s : State) : Option Route × List Nat :=
  let t := after (.gatherIndexIssue 0 3 noEcc) s
  ((streamAt t 0 3).bind fun st => mget st.routes 0, statsAt t 5 0)
theorem witness_GathersServeTheirIndices_rows :
    (∀ e ∈ [(0x200000, 0, 0), (0, 0, 0), (0, 4, 100), (0, 0, 100), (0x200000, 2, 0)],
      let s := (tPool e.1 e.2.1 (tGathering e.2.2) []).redraw
      (match streamAt s 0 3 with
        | some st => !streamFrozen s 0 5 3 st && decide (waitingIndices st = []) && decide (firstFault st = none) && gatherTurn s 0 3 st &&
            decide (st.next < gCount st.desc) && decide (gIndex st 0 = e.2.2) && decide (st.routes = [])
        | none => false) = true ∧ (tableDesc s 5 0).length = 32) ∧
    (tRouted (tPool 0x200000 0 (tGathering 0) [])) = (some (.remote (2 ^ 45)), [0, 0, 0, 0, 0, 0, 1, 0]) ∧
    (tRouted (tPool 0 0 (tGathering 2) [])) = (some (.home 0x100000020), [0, 0, 0, 0, 0, 0, 1, 0]) ∧
    (tRouted (tPool 0 4 (tGathering 100) [])).2 = [0, 0, 0, 0, 0, 0, 0, 1] ∧
    tCauses (.gatherIndexIssue 0 3 noEcc) (tPool 0 0 (tGathering 100) []) = [0x24] := by decide +kernel
theorem witness_GathersServeTheirIndices_pool :
    (let s := (tPool 0x200000 2 (tGathering 0) []).redraw
     classGroups s 5 0 0 = [0] ∧ rowWays [0] 0 0 = [0, 1, 2, 3] ∧ victim s [0, 1, 2, 3] = some 0) ∧
    (tRouted (tPool 0x200000 2 (tGathering 0) [])) = (some (.remote (2 ^ 45)), [1, 0, 0, 1, 0, 0, 0, 0]) ∧
    (wayAt (after (.gatherIndexIssue 0 3 noEcc) (tPool 0x200000 2 (tGathering 0) [])) 0).state = 1 ∧
    (tRouted (tPool 0x200000 2 (tGathering 0) [(2, { noWay with tenant := 5, state := 2, age := 3 })])) =
      (some (.pool 2 (2 ^ 45)), [1, 1, 0, 0, 0, 0, 0, 0]) := by decide +kernel
theorem witness_GathersServeTheirIndices_arrival :
    (let st := { tGathering 0 with next := 1, routes := [(0, Route.home 0x100000040)] }
     let s := (tPool 0 0 st []).redraw
     sharers s 0 3 0 = [] ∧ dpaRetraining s 0x100000040 = false ∧ dpaResetting s 0x100000040 = false ∧ dpaBad s 0x100000040 8 = false ∧
     streamAt (after (.gatherRowArrival 0 3 0 noEcc) (tPool 0 0 st [])) 0 3 = none ∧
     tCauses (.gatherRowArrival 0 3 0 { bad := [0x100000040], corrected := [] }) (tPool 0 0 st []) = [0x22]) := by decide +kernel
theorem witness_GathersServeTheirIndices_fill :
    let w : Way := { noWay with tenant := 5, row := 7, state := 1, data := some [1, 2] }
    let s := fun (v : Way) => tPool 0 0 (tGathering 0) [(2, v)]
    ((s w).writeDpa (slotAddress (s w) 2) [1, 2]).2 = false ∧ (wayAt (after (.poolFillComplete 0 0 2) (s w)) 2).state = 2 ∧
    (wayAt (after (.poolFillComplete 0 0 2) (s { w with doomed := true })) 2).state = 0 ∧
    (wayAt (after (.poolFillComplete 0 0 2) (s { w with declined := true })) 2).state = 0 := by decide +kernel
/-- A copy that has moved its data and holds its report of sounding operation `op` for watch entry 1. -/
def tReporting (op : Nat) (st : Stream) : Stream :=
  { st with desc := tBits 64 [(12, 3), (48, 1), (66, op), (96, 0x200), (144, 0x300), (192, 4)], phase := .reporting }
/-- Tenant 5 with a tensor record in watch entry 1. -/
def tWatched (flags : BitVec 3) (s : State) : State :=
  { s with tenants := [(5, { watch := { quota := 4, entries := [(1, .tensor { flags := flags })] }, sets := [(0, { mode := 1, state := 1 })] })] }
theorem witness_ReportsReachTheirRecords_census :
    let s := fun op flags => tWatched flags (tStream (tReporting op { tCopying with census := { elements := 4, sats := 1 } }) [])
    (∀ op ∈ [1, 2, 3], (mget (tileAt (s op 1) 0).blocks 0).isSome = true ∧ cSound (tReporting op tCopying).desc = op ∧ cWatch (tReporting op tCopying).desc = 1) ∧
    (tensorAt (after (.censusReport 0 3) (s 1 1)) 5 1).map TensorRecord.elementsOpen = some 4 ∧
    (tensorAt (after (.censusAndFlushReport 0 3) (s 2 1)) 5 1).map TensorRecord.satOpen = some 1 ∧
    streamAt (after (.flushReport 0 3) (s 3 1)) 0 3 = none ∧
    -- a record that takes no census
    (tenantAt (after (.censusReport 0 3) (s 1 0)) 5).watch.unattributed.elements = 4 := by decide +kernel
theorem witness_ReportsReachTheirRecords_compare :
    let s := fun flags => tWatched flags (tStream (tReporting 4 { tCopying with got := [(0, []), (1, [])] }) [])
    cSound (tReporting 4 tCopying).desc = 4 ∧ (tensorAt (after (.compareReport 0 3) (s 2)) 5 1).map TensorRecord.samples = some 1 ∧
    (tenantAt (after (.compareReport 0 3) (s 0)) 5).watch.unattributedCompares = 1 := by decide +kernel
theorem witness_ReportsReachTheirRecords_loss :
    let s := fun (pair : List Byte) => tWatched 0 (tStream (tReporting 5 { tCopying with got := [(0, pair)] }) [])
    (setAt (s []) 5 0).contributed = false ∧ (setAt (after (.lossReport 0 3) (s (leBytes 8 0x7F800000))) 5 0).poisoned = true ∧
    (setAt (after (.lossReport 0 3) (s (leBytes 8 0x3F800000))) 5 0).poisoned = false ∧
    (tenantAt (after (.lossReport 0 3) { s [] with tenants := [(5, { sets := [(0, { mode := 1, contributed := true })] })] }) 5).watch.lateLoss = 1 := by
  decide +kernel
theorem witness_ScaleControllerIsBounded :
    let r : TensorRecord := { histState := 1, histLen := 16, scale := 127, satClosed := 1 }
    (-128 ≤ r.scale ∧ r.scale ≤ 127) ∧ (endRecord r [] false false).1.scale = 127 ∧ (endRecord r [] false false).1.backedOff = true := by
  decide +kernel
theorem witness_TenantsReachOnlyTheirPages :
    (tGlobal.translate 0 5 0x40 .rw).2 = .ok 0x100000040 ∧ (tGlobal.translate 0 5 0x200040 .r).2 = .ok (2 ^ 45 + 0x40) ∧
    (tGlobal.translate 0 5 0x200040 .x).2 = .fail 0x21 := by decide +kernel
/-- The Operator on PF 0. -/
def tOp0 : State := { tOn with dict := { tOn.dict with pf0Role := 3 } }
/-- The last status answered. -/
def tStatus (c : Instr) (s : State) : Option Byte := ((after c s).dict.replies.getLast?).map fun e => e.2.status
theorem witness_MemoryAndTranslationUnitsServe_scrub :
    unitServes tOp0 (.stack 1) = true ∧ unitServes tOp0 (.slow 3) = true ∧ keyBacked tOp0 (1 * 2 ^ 36 + 0x20) = true ∧
    tOp0.mem.span ≤ 56 ∧ (after (.scrubPass (.stack 1) { ecc := { bad := [0x20], corrected := [] }, repaired := 0 }) tOp0).mem.fastBad = [2 ^ 32 + 2] ∧
    (after (.scrubPass (.slow 3) { ecc := { bad := [0x20], corrected := [] }, repaired := 0 }) tOp0).mem.slowBad = [3 * 2 ^ 34 + 2] := by decide +kernel
theorem witness_MemoryAndTranslationUnitsServe_retrain :
    let s := { tOp0 with mem := { tOp0.mem with retrainQueue := [33] } }
    retrainDue s 33 50 = true ∧ mget (after (.channelRetrainStart (.stack 1) 1 50) s).mem.retraining 1 = some 1 ∧
    mget (after (.channelRetrainEnd (.stack 1) 1) (after (.channelRetrainStart (.stack 1) 1 50) s)).mem.retraining 1 = none ∧
    pathRole tOp0 .pf0 = some (3, none) ∧ pathBusy tOp0 .pf0 = false ∧ stackResetting tOp0 19 = false ∧
    (after (.retrainRequest .pf0 1 0x131F) tOp0).mem.retrainQueue = [32 * 19 + 31] := by decide +kernel
theorem witness_MemoryAndTranslationUnitsServe_shootdown :
    let s := { tGlobal with mem := { tGlobal.mem with tlb := [{ region := 0, tenant := 5, vpn := 0, leaf := 0, giant := false },
                                                               { region := 0, tenant := 6, vpn := 0, leaf := 0, giant := false }] } }
    pathRole s .pf0 = some (3, none) ∧ translationUsers s 5 = [] ∧ applyUses s 5 = false ∧
    (after (.translationShootdown .pf0 1 5) s).mem.tlb.map TlbEntry.tenant = [6] ∧ tStatus (.translationShootdown .pf0 1 5) s = some 0 := by
  decide +kernel

/-! ### Parameter sets -/

/-- Tenant 5 with parameter set 0. -/
def tSet (x : SetState) (r : SetRun) : State :=
  { tMapped tOn with tenants := [(5, { ptRoot := 0x1000, sets := [(0, x)], runs := [(0, r)] })] }
theorem witness_AttemptsOpenAndHearTheirBlock_open :
    let s := { tSet { mode := 1, attempts := 6 } { openedAt := 1000, everOpened := true } with
               globals := { springNow := 100000, lastOpen := some 100000, openQueue := [(5, 0)] } }
    mayOpen (s.springTick 41000).redraw 5 0 = true ∧ mayOpen (s.springTick 40999).redraw 5 0 = false ∧ inService s = true ∧
    jobFrozen (s.springTick 41000).redraw 5 0 = false ∧ (setAt (after (.attemptOpen 5 0 41000) s) 5 0).attempts = 7 ∧
    (setAt (after (.attemptOpen 5 0 40999) s) 5 0).attempts = 6 := by decide +kernel
theorem witness_AttemptsOpenAndHearTheirBlock_words :
    let x : SetState := { mode := 1, state := 1, attempts := 6, attBlock := 0x80, partMask := 3 }
    let s := tSet x {}
    ownBlock s.redraw 5 0x80 .rw = .ok 0x100000080 ∧ 0x100000080 % 128 = 0 ∧ dpaBad s (0x100000080 + 64) 8 = false ∧
    ownBlock (s.redraw.writeDpa (0x100000080 + 64) (leBytes 8 2)).1 5 0x80 .r = .ok 0x100000080 ∧
    (setAt (after (.partReport 5 0 1) s) 5 0).arrivals = 2 ∧
    (setAt (after (.attemptBlockAbort 5 0 6) s) 5 0).forced = 3 ∧ (setAt (after (.attemptBlockAbort 5 0 7) s) 5 0).forced = 0 ∧
    (after (.attemptBlockResume 5 0 7) (tSet { x with state := 5 } { outcomeAttempt := 6 })).globals.openQueue = [(5, 0)] := by
  decide +kernel
/-- A vote message of tenant 5's set 0 for attempt 6. -/
def tVote (phase : Nat) (ok : Bool) (digest : W32) : VoteMsg :=
  { target := 1, attempt := 6, sum := 4, digest := digest, tenant := 5, set := 0, phase := phase, round := 0, sender := 1, fatal := false, ok := ok }
theorem witness_ReductionsEndTheAttempt_contribute :
    let x : SetState := { mode := 1, state := 1, attempts := 6, partMask := 3, arrivals := 3, voteExpected := 2 }
    let s := tSet x {}
    watchdogPast (s.springTick 1).redraw 5 0 = false ∧ owningChips (s.springTick 1).redraw 5 0 = [] ∧
    mwf (tenantAt s 5).watch.entries = true ∧ (setAt (after (.voteContribution 5 0 1 noEcc) s) 5 0).contributed = true := by decide +kernel
theorem witness_ReductionsEndTheAttempt_messages :
    let x : SetState := { mode := 1, state := 2, attempts := 6, voteDims := 1 }
    let s := tSet x {}
    (∀ ph ∈ [0, 1], votePacketOk s { tPacket 8 with data := voteBytes (tVote ph true 0) } ph = true ∧
      voteOf (voteBytes (tVote ph true 0)) = tVote ph true 0) ∧
    (runAt (after (.voteMessage { tPacket 8 with data := voteBytes (tVote 0 true 0) }) s) 5 0).held.length = 1 ∧
    (runAt (after (.applyMessage { tPacket 8 with data := voteBytes (tVote 1 true 0) }) s) 5 0).held.length = 1 := by decide +kernel
theorem witness_ReductionsEndTheAttempt_rounds :
    let r : Reduction := { phase := 0, ok := true, sum := 3, fatal := false, dims := [0] }
    let s := fun m => tSet { mode := 1, state := 2, attempts := 6 } { reduction := some r, held := [m] }
    ((reduceOnce (s (tVote 0 true 0)) 5 0).bind fun u => (runAt u 5 0).reduction) = some { r with sum := 7, dims := [] } ∧
    ((reduceOnce (s (tVote 0 true 9)) 5 0).map fun u => jobFrozen u 5 0) = some true := by decide +kernel
theorem witness_ReductionsEndTheAttempt_results :
    let s := fun ph ok sum => tSet { mode := 1, state := 2, attempts := 6, generation := 8, voteExpected := 7 }
      { reduction := some { phase := ph, ok := ok, sum := sum, fatal := false, dims := [] } }
    ((reduceOnce (s 0 true 7) 5 0).map fun u => (setAt u 5 0).state) = some 3 ∧
    ((reduceOnce (s 0 true 6) 5 0).map fun u => ((setAt u 5 0).state, (setAt u 5 0).skips)) = some (5, 1) ∧
    ((reduceOnce (s 1 true 0) 5 0).map fun u => (setAt u 5 0).generation) = some 9 ∧ presentLayers (s 1 true 0) 5 0 = 0 ∧
    ((reduceOnce (s 1 false 0) 5 0).map fun u => (setAt u 5 0).generation) = some 8 := by decide +kernel
theorem witness_AppliesWriteTheNextBank_pin :
    let s := tSet { mode := 1, state := 3, generation := 8, genBlock := 0x80 } {}
    let s1 := (s.springTick 1).redraw
    pinWaits s1 5 0 = true ∧ watchdogPast s1 5 0 = false ∧ ownBlock s1 5 0x80 .rw = .ok 0x100000080 ∧
    dpaBad s1 (0x100000080 + 16) 8 = false ∧ (runAt (after (.pinRetry 5 0 1 noEcc) s) 5 0).writing = true ∧
    (runAt (after (.pinRetry 5 0 1 noEcc) (s.writeDpa 0x100000090 [1]).1) 5 0).writing = false := by decide +kernel
theorem witness_AppliesWriteTheNextBank_complete :
    let s := tSet { mode := 1, state := 3, generation := 8 } { writing := true }
    applying (s.springTick 1).redraw 5 0 = true ∧ pinWaits (s.springTick 1).redraw 5 0 = false ∧ owningChips s 5 0 = [] ∧
    (setAt (after (.applyComplete 5 0 1 noEcc []) s) 5 0).generation = 9 := by decide +kernel
theorem witness_AppliesWriteTheNextBank_watchdog :
    let s := fun st => tSet { mode := 1, state := st, generation := 8, watchdog := 10 } {}
    (∀ st ∈ [1, 3, 5], watchdogOver ((s st).springTick 10).redraw 5 0 = true ∧ watchdogOver ((s st).springTick 9).redraw 5 0 = false) ∧
    (setAt (after (.attemptWatchdogExpiry 5 0 10) (s 1)) 5 0).forced = 4 ∧
    (setAt (after (.attemptWatchdogExpiry 5 0 10) (s 3)) 5 0).generation = 8 ∧
    (setAt (after (.attemptWatchdogExpiry 5 0 10) (s 5)) 5 0).skips = 0 := by decide +kernel
theorem witness_AppliesWriteTheNextBank_restart :
    let s := { tSet { mode := 1 } { undo := [(0, 3)] } with service := { tOn.service with springState := [(2, 3)] } }
    chipState s 2 ≠ 0 ∧ chipState s 2 ≠ 4 ∧ chipState (after (.springChipRestart 2 noEcc) s) 2 = 2 := by decide +kernel
theorem witness_AppliesWriteTheNextBank_dense :
    let c : Captured := { layer := 0, chip := 0, slot := 0, block := tBits 128 [(32, 1), (64, 1)], pages := [(0, 0x100000000)], rows := [] }
    let s := tSet { mode := 1 } {}
    (capRead s c.pages (rHi c.block 0) 2).2 = none ∧ (capRead s c.pages (rGrad c.block + 64) 4).2 = none ∧ s.mem.slowBad = [] ∧
    (setAt s 5 0).mode ≠ 2 ∧ rElems c.block = 1 := by decide +kernel
/-- Tenant 5's own path. -/
def tVf : Path := .vf 6
theorem witness_ControlsSteerTheSet_controls :
    let s := fun st => tSet { mode := 1, state := st } {}
    pathRole (s 1) tVf = some (2, some 5) ∧ pathBusy (s 1) tVf = false ∧
    (setAt (after (.attemptControlAbort tVf 1 5 0) (s 1)) 5 0).forced = 3 ∧ tStatus (.attemptControlAbort tVf 1 5 0) (s 2) = some 7 ∧
    (∀ st ∈ [1, 4], (setAt (after (.attemptControlPause tVf 1 5 0) (s st)) 5 0).pausePending = true) ∧
    (∀ st ∈ [0, 5], tStatus (.attemptControlPause tVf 1 5 0) (s st) = some 7) ∧
    (after (.attemptControlResume tVf 1 5 0) (s 5)).globals.openQueue = [(5, 0)] ∧ tStatus (.attemptControlResume tVf 1 5 0) (s 4) = some 7 ∧
    (∀ st ∈ [0, 5, 8], (setAt (after (.attemptControlImport tVf 1 5 0) (s st)) 5 0).state = 6) ∧
    tStatus (.attemptControlImport tVf 1 5 0) (s 1) = some 7 ∧
    (∀ st ∈ [0, 5], (setAt (after (.attemptControlExport tVf 1 5 0) (s st)) 5 0).state = 6) ∧
    tStatus (.attemptControlExport tVf 1 5 0) (s 8) = some 7 := by decide +kernel
theorem witness_ControlsSteerTheSet_mode :
    let s := fun st att => tSet { mode := 0, state := st, attBlock := att } {}
    setIdle (s 0 0x80) 5 0 = true ∧ setIdle (s 1 0x80) 5 0 = false ∧
    (setAt (after (.parameterSetModeWrite tVf 1 5 0 2) (s 0 0x80)) 5 0).mode = 2 ∧
    tStatus (.parameterSetModeWrite tVf 1 5 0 1) (s 1 0x80) = some 6 ∧ tStatus (.parameterSetModeWrite tVf 1 5 0 3) (s 0 0x80) = some 7 ∧
    tStatus (.parameterSetModeWrite tVf 1 5 0 1) (s 0 0) = some 7 ∧ tStatus (.parameterSetModeWrite tVf 1 5 0 1) (s 8 0x80) = some 7 ∧
    (setAt (after (.parameterSetModeWrite tVf 1 5 0 0) (s 5 0)) 5 0).state = 0 := by decide +kernel
theorem witness_ControlsSteerTheSet_ends :
    let s := fun imp from_ => tSet { mode := 1, state := 6, generation := 8, importGen := 3 } { importing := imp, importFrom := from_ }
    (setAt (after (.importExportComplete 5 0 noEcc []) (s false 5)) 5 0).state = 5 ∧
    (setAt (after (.importExportComplete 5 0 noEcc []) (s true 8)) 5 0).generation = 3 ∧
    jobFrozen (after (.importExportComplete 5 0 noEcc []) (s true 8)) 5 0 = false := by decide +kernel
theorem witness_ControlsSteerTheSet_layers :
    let s := tSet {} {}
    (∀ e ∈ newEntries (domainOf s 5 0xC108 1) 4 [1, 0, 0, 0x80], bits e.2 30 28 = 0 ∧ bits e.2 15 12 = 0) ∧
    mget (setAt (after (.layerMapWrite tVf 1 5 0 (.map 4 [1, 0, 0, 0x80])) s) 5 0).layerMap 1 = some 0x80000001 ∧
    (setAt (after (.layerMapWrite tVf 1 5 0 (.dims 0xFFF)) s) 5 0).voteDims = 0xFFF ∧
    (setAt (after (.layerMapWrite tVf 1 5 0 (.expected 9)) s) 5 0).voteExpected = 9 ∧
    slotsBad [(0, BitVec.ofNat 64 (2 ^ 63 + 5 * 2 ^ 53 + 2 ^ 17))] = false ∧
    (after (.layerSlotMapWrite .pf0 1 0 (leBytes 8 (2 ^ 63 + 5 * 2 ^ 53 + 2 ^ 17))) { s with mem := { s.mem with slow := [(3, 9)] } }).mem.slow = [] := by
  decide +kernel

/-! ### The dictionary and the links -/

/-- A dictionary message for an object of the module. -/
def tAsk (index : BitVec 16) (sub : Byte) (off : W32) (data : List Byte) : DictMsg :=
  { tMsg 0 with index := index, sub := sub, offset := off, length := BitVec.ofNat 16 data.length, data := data }
/-- An open transfer of eight bytes of `LayerSlotMap`, with these supplied. -/
def tOpen (supplied : SMap Byte) : State :=
  { tOp0 with dict := { tOp0.dict with transfers :=
      [{ path := .pf0, index := 0x4201, sub := 1, tenant := 0, offset := 0, total := 8, supplied := supplied }] } }
theorem witness_DictionaryAnswersTheFirstFailedCheck_objects :
    pathRole tOp0 .pf0 = some (3, none) ∧ pathBusy tOp0 .pf0 = false ∧
    checkRequest 3 none { tAsk 0x2100 1 0 [] with command := 1 } = 0 ∧ checkRequest 3 none { tAsk 0x0001 1 0 [] with command := 8 } = 1 ∧
    tStatus (.describe .pf0 (tAsk 0x0001 1 0 [])) tOp0 = some 1 ∧ tStatus (.read .pf0 (tAsk 0x2100 1 0 [])) tOp0 = some 0 ∧
    (objectAt 0x2100 1).isSome = true ∧ tStatus (.describe .pf0 (tAsk 0x2100 1 0 [])) tOp0 = some 0 ∧
    checkRequest 3 none { tAsk 0x2100 1 0 (leBytes 8 9) with command := 2 } = 0 ∧
    tStatus (.write .pf0 (tAsk 0x2100 1 0 (leBytes 4 70000))) tOp0 = some 0 ∧
    objectValue (after (.write .pf0 (tAsk 0x2100 1 0 (leBytes 4 70000))) tOp0) 0 0x2100 1 = leBytes 4 70000 := by decide +kernel
theorem witness_DictionaryAnswersTheFirstFailedCheck_domains :
    let m := { tAsk 0x4201 1 0 [] with length := 1024 }
    checkRequest 3 none { m with command := 3 } = 0 ∧ 0 ≤ (domainOf tOp0.redraw 0 0x4201 1).1 ∧
    tStatus (.domainRead .pf0 m) tOp0 = some 0 ∧
    checkRequest 3 none { tAsk 0x4201 1 0 (leBytes 4 8) with command := 4 } = 0 ∧
    (after (.writeBegin .pf0 (tAsk 0x4201 1 0 (leBytes 4 8))) tOp0).dict.transfers.length = 1 := by decide +kernel
theorem witness_DictionaryAnswersTheFirstFailedCheck_transfers :
    let d := leBytes 8 (2 ^ 63 + 5 * 2 ^ 53 + 2 ^ 17)
    (transferOf (tOpen []) .pf0 (tAsk 0x4201 1 0 d)).isSome = true ∧ checkRequest 3 none { tAsk 0x4201 1 0 d with command := 5 } = 0 ∧
    ((after (.writeData .pf0 (tAsk 0x4201 1 0 d)) (tOpen [])).dict.transfers.map fun x => x.supplied.length) = [8] ∧
    checkRequest 3 none { tAsk 0x4201 1 0 [] with command := 6 } = 0 ∧ quiesced (tOpen []).redraw 0 0x4201 1 0 = true ∧
    (after (.writeCommit .pf0 (tAsk 0x4201 1 0 [])) (after (.writeData .pf0 (tAsk 0x4201 1 0 d)) (tOpen []))).globals.layerSlots ≠ [] ∧
    checkRequest 3 none { tAsk 0x4201 1 0 [] with command := 7 } = 0 ∧
    (after (.writeCancel .pf0 (tAsk 0x4201 1 0 [])) (tOpen [])).dict.transfers = [] := by decide +kernel
/-- The module, with one link. -/
def tLinked (l : Nat) (k : Link) : State := { tOp0 with links := { tOp0.links with links := [(l, k)] } }
theorem witness_LinksTrain :
    (linkAt (after (.linkTrainingStart 0) (tLinked 0 { dimension := 1, state := 1 })) 0).state = 2 ∧
    (linkAt (after (.errorGateComplete 0 [0, 0, 0, 0] [0, 0, 0, 0]) (tLinked 0 { dimension := 1, state := 2 })) 0).width = 4 ∧
    (linkAt (after (.errorGateComplete 0 [0, 2 ^ 64, 2 ^ 64, 2 ^ 64] [0, 0, 0, 0]) (tLinked 0 { dimension := 1, state := 2, attempts := 3 })) 0).state = 4 ∧
    (let s := tLinked 0 { dimension := 1, state := 1, width := 4, lanesPassed := 0xF }
     let t : TrainFrame := { node := 2, link := 0, dimension := 1, passSet := 0xF, keyCheck := 0, encrypts := false, chain := [], chainLms := [], ephemeral := [], signature := [] }
     encrypts s 0 = false ∧ partnerOf s s.links.nodeId 1 = 2 ∧ (linkAt (after (.trainingFrame 0 t) s) 0).state = 3 ∧
     (linkAt (after (.trainingFrame 0 { t with node := 3 }) s) 0).state = 5 ∧
     (linkAt (after (.trainingFrame 0 { t with passSet := 1 }) s) 0).state = 1) := by decide +kernel
/-- A flit that carries these words, in order, with no more of its packet to come. -/
def tFlit (words : List (BitVec 144)) : Flit := makeFlit (flitHeader 0 0 0 0 true true false false false 0 0 0 2 0) words
/-- A data word with its check symbols. -/
def tCode (d : BitVec 128) : BitVec 144 := Config.checkSymbols d ++ d
theorem test_clean_word_decodes (d : BitVec 128) : decodeWord (tCode d) = some d := by
  have g : ∀ i, (tCode d).getLsbD i = if i < 128 then d.getLsbD i else (Config.checkSymbols d).getLsbD (i - 128) :=
    fun i => BitVec.getLsbD_append (x := Config.checkSymbols d) (y := d)
  have e : (tCode d).extractLsb' 0 128 = d := by
    apply BitVec.eq_of_getLsbD_eq
    intro i hi
    simp [g, hi]
  have f : (tCode d).extractLsb' 128 16 = Config.checkSymbols d := by
    apply BitVec.eq_of_getLsbD_eq
    intro i hi
    simp [g, hi]
  simp [decodeWord, wordClean, wordData, e, f]
theorem witness_LinksLoseNoPacket_flits : (tFlit [tCode 0, tCode 1]).payload.length = 13 ∧
    crc32 (flitBody (tFlit [tCode 0, tCode 1]).hdr (tFlit [tCode 0, tCode 1]).hdrCheck (tFlit [tCode 0, tCode 1]).payload) =
      (tFlit [tCode 0, tCode 1]).crc ∧
    decodeWord ((tFlit [tCode 0, tCode 1]).hdrCheck ++ (tFlit [tCode 0, tCode 1]).hdr) = some (tFlit [tCode 0, tCode 1]).hdr ∧
    (packetOf ((tFlit [tCode 0, tCode 1]).payload.take 2)).isSome = true ∧
    (let h := (flitHeader 0 0 0 0 true true false false false 0 0 0 2 0).toNat
     bit h 89 = false ∧ bit h 90 = true ∧ bit h 87 = false) :=
  ⟨by simp [tFlit, makeFlit], by simp only [tFlit, makeFlit], test_clean_word_decodes _, by
    have e : (tFlit [tCode 0, tCode 1]).payload.take 2 = [tCode 0, tCode 1] := rfl
    rw [e]
    simp only [packetOf, test_clean_word_decodes, Option.isSome],
   by decide +kernel⟩
/-- A link of one lane, for which these units have come. -/
def tLane (us : List (BitVec 256)) : Link := { dimension := 1, state := 3, width := 1, lanes := 1, rxUnits := [(0, us)] }
theorem witness_LinksLoseNoPacket_codes :
    let f := tFlit [tCode 0, tCode 1]
    let s := fun us => tLinked 0 (tLane us)
    (∀ us, (linkAt (s us) 0).state = 3 ∧ codesFit (linkAt (s us) 0) [] = true ∧ (linkAt (s us) 0).keys = none ∧ (linkAt (s us) 0).discarding = false) ∧
    nextFlit (linkAt (s []).redraw 0) = none ∧ nextFlit (linkAt (s (unitsOf f)).redraw 0) = some (f, [(0, [])]) ∧
    (∀ us, BitVec.ofNat 16 (bits (flitHeader 0 0 0 0 true true false false false 0 0 0 2 0).toNat 127 112) = (linkAt (s us) 0).rxSeq + 1) :=
  ⟨fun _ => ⟨rfl, rfl, rfl, rfl⟩, by decide +kernel, nextFlit_one_lane _ _ rfl rfl (flit_of_units ..), fun _ => by
    change _ = (0xFFFF : BitVec 16) + 1
    decide +kernel⟩
/-- The generator's lowest coefficients, as the table of IEEE 802.3 for RS(544,514) lists them (R259). -/
theorem test_rs_generator : (rsGenerator.take 5).map BitVec.toNat = [523, 834, 128, 158, 185] := by decide +kernel
theorem witness_LinksLoseNoPacket_down :
    let k : Link := { dimension := 1, state := 3, width := 4, resends := 16, rxWhole := 7,
                      sent := [{ packet := some (tPacket 0), vc := 0, lane := 0, sop := true, eop := true, words := [], seq := 9 }] }
    let s := tLinked 0 k
    (linkAt (after (.linkDown 0 .resends) s) 0).state = 7 ∧ ((after (.linkDown 0 .resends) s).links.settleOut) = [(0, 7)] ∧
    mget (after (.linkDown 0 .announced) s).links.unsettled 0 = some [(tPacket 0, some 9)] ∧
    (isOptical 40 = true ∧ (linkAt (after (.opticalLightLoss 40) (tLinked 40 k)) 40).state = 8) ∧
    (let v := { s with links := { s.links with unsettled := [(0, [(tPacket 0, some 8), (tPacket 1, some 9)])] } }
     (after (.linkSettlementMessage 0 (some 8)) v).links.arrived = [tPacket 1] ∧ (after (.linkSettlementMessage 0 (some 7)) v).links.arrived = [tPacket 0, tPacket 1] ∧
     (after (.linkSettlementMessage 0 none) v).links.undeliverable = 2) := by decide +kernel
/-- A packet of this module's own to node 1, and a module with one ready link of dimension 0 and a route to it. -/
def tRouter (p : Packet) : State :=
  { tOp0 with links := { tOp0.links with links := [(0, { dimension := 0, state := 3, width := 4 })], routes := [(1, 0x80000001)], outbox := [p] } }
theorem witness_PacketsTakeAllowedLinks :
    let p := { tPacket 5 with dst := 1, src := 0 }
    routeOf (tRouter p).redraw p = .link 0 0 ∧ mwf (tRouter p).links.links = true ∧ heldBack p = true ∧ (tRouter p).links.trafficHold = 0 ∧
    (after (.packetRoute .own p) (tRouter p)).links.outbox = [] ∧
    mgetD (linkAt (after (.packetRoute .own p) (tRouter p)) 0).credits 4 0 = 1 ∧
    packetMalformed { tPacket 8 with length := 32, data := List.replicate 32 0 } = false ∧
    (after (.packetRoute .transit (tPacket 9)) tOp0).links.inbox = [] ∧
    -- no route, and fifteen links already
    (after (.packetRoute .own { p with dst := 2 }) (tRouter { p with dst := 2 })).links.undeliverable = 1 ∧
    (after (.packetRoute .own { p with hops := 15 }) (tRouter { p with hops := 15 })).links.undeliverable = 1 ∧
    -- a link without credit
    (let q := { p with ptype := 0 }
     let s := { tRouter q with links := { (tRouter q).links with links := [(0, { dimension := 0, state := 3, width := 4, credits := [(0, 192)] })] } }
     routeOf s.redraw q = .wait ∧ (after (.escapeLaneTimeout q) s).links.escape = [q]) := by decide +kernel
/-- A packet that has been handed in. -/
def tIn (s : State) (p : Packet) : State := { s with links := { s.links with inbox := [p] } }
theorem witness_RequestsPerformAtTheirHome :
    let rd := { tPacket 0 with addr := 0x100000040, aux := 15 }
    let wr := { tPacket 1 with addr := 0x100000040, aux := 0xFFFF, length := 16, data := leBytes 16 77 }
    let at_ := { tPacket 2 with addr := 0x100000040, aux := 0x20, length := 16, data := leBytes 16 5 }
    (∀ p ∈ [rd, wr, at_], packetMalformed p = false ∧ targetStatus tGlobal p.tenant p.addr.toNat = 0 ∧ dpaRetraining tGlobal (boardDpa p.addr.toNat) = false ∧
      targetStatus tGlobal 6 p.addr.toNat = 2) ∧ dpaBad tGlobal 0x100000040 16 = false ∧ packetMalformed { rd with rsv := 1 } = true ∧
    (atomTypes (atomOfCode 0x20) true).contains 0 = true ∧
    ((after (.readRequest rd noEcc) (tIn tGlobal rd)).links.outbox.map fun p => (p.ptype, p.status, p.data.length)) = [(3, 0, 16)] ∧
    dpaBytes (after (.writeRequest wr noEcc) (tIn tGlobal wr)) 0x100000040 2 = [77, 0] ∧
    dpaBytes (after (.atomicRequest at_ noEcc) (tIn tGlobal at_)) 0x100000040 1 = [5] ∧
    ((after (.atomicRequest { at_ with tenant := 6 } noEcc) (tIn tGlobal { at_ with tenant := 6 })).links.outbox.map Packet.status) = [2] := by
  decide +kernel
/-- A request in flight, which packet tag 3 names. -/
def tAsked (s : State) (who : Requester) (p : Packet) : State :=
  { tIn s p with links := { (tIn s p).links with requests := [(3, { who := who, packet := { tPacket 0 with dst := 9, src := 0, aux := 15 } })] } }
theorem witness_AnswersReachTheirRequesters :
    let ok := { tPacket 3 with length := 16, data := leBytes 16 6 }
    let s := tStream { tCopying with inflight := [0] } []
    packetMalformed ok = false ∧ ownerOf s 0 = some 5 ∧ (streamAt s 0 3).isSome = true ∧
    ((streamAt (after (.readResponse ok) (tAsked s (.copyRead 0 3 0) ok)) 0 3).map fun st => st.got.length) = some 1 ∧
    tCauses (.readResponse { tPacket 3 with status := 2 }) (tAsked s (.copyRead 0 3 0) { tPacket 3 with status := 2 }) = [0x23] ∧
    tCauses (.writeOrAtomicResponse { tPacket 4 with status := 3 }) (tAsked s (.copyWrite 0 3 0) { tPacket 4 with status := 3 }) = [0x22] ∧
    tCauses (.undeliverableNotice { tPacket 10 with status := 4 }) (tAsked s (.copyRead 0 3 0) { tPacket 10 with status := 4 }) = [0x23] ∧
    (let t := after (.readResponse { tPacket 3 with status := 1 }) (tAsked s (.copyRead 0 3 0) { tPacket 3 with status := 1 })
     (mget t.links.requests 3).map Request.resetSeen = some true ∧
     (after (.targetResetReissue (.copyPart 0 3)) t).links.outbox.length = 1) ∧
    (tileAt (after (.writeOrAtomicResponse (tPacket 4)) (tAsked (tOut .store) (.access 0 70) (tPacket 4))) 0).accesses = [] := by
  decide +kernel
theorem witness_ExchangesAndInvalidationsArrive :
    let ok := { tPacket 5 with addr := 0x40, length := 16, data := leBytes 16 6 }
    let fl := { tPacket 6 with addr := 0x40, aux := 0x1234 }
    (∀ p ∈ [ok, fl], packetMalformed p = false) ∧ (tenantAt tLocal 5).exchangeKey = 0 ∧ tileResetting tLocal 0 = false ∧ (tileAt tLocal 0).lmBad = [] ∧
    lmByte (after (.exchangeData ok noEcc) (tIn tLocal ok)) 0 0x40 = 6 ∧ lmByte (after (.exchangeFlag fl noEcc) (tIn tLocal fl)) 0 0x41 = 0x12 ∧
    ((after (.exchangeData { ok with key := 1 } noEcc) (tIn tLocal { ok with key := 1 })).links.outbox.map Packet.status) = [6] ∧
    ((after (.exchangeData { ok with tenant := 6 } noEcc) (tIn tLocal { ok with tenant := 6 })).links.outbox.map Packet.status) = [5] ∧
    (let s := tStream { tCopying with kind := .exchange, desc := tXchg, next := 1, inflight := [0] } []
     streamAt (after (.exchangeAcknowledge (tPacket 7)) (tAsked s (.exchangePart 0 3 0) (tPacket 7))) 0 3 = none ∧
     tCauses (.exchangeAcknowledge { tPacket 7 with status := 6 }) (tAsked s (.exchangePart 0 3 0) { tPacket 7 with status := 6 }) = [0x41]) := by
  decide +kernel
theorem witness_ExchangesAndInvalidationsArrive_pool :
    let p := { tPacket 9 with length := 16, data := leBytes 16 (5 * 2 ^ 54 + 7 * 2 ^ 14) }
    let s := fun st => tPool 0 0 (tGathering 0) [(2, { noWay with tenant := 5, row := 7, state := st })]
    packetMalformed p = false ∧ (wayAt (after (.poolInvalidations p) (tIn (s 2) p)) 2).state = 3 ∧
    (wayAt (after (.poolInvalidations p) (tIn (s 1) p)) 2).doomed = true := by decide +kernel
theorem witness_LinkObjectsTakeEffect :
    let held := { tOp0 with links := { tOp0.links with
      trafficHold := 2, links := [(0, { dimension := 0, state := 3 })], routes := [(0, 0x80000000)] } }
    (after (.trafficHoldWrite .pf0 1 1) tOp0).links.trafficHold = 1 ∧ (after (.trafficHoldWrite .pf0 1 0) held).links.trafficHold = 0 ∧
    routesBad held [(0, 0x80000000), (1, 0x80000001)] = false ∧
    (after (.routeTableWrite .pf0 1 4 (leBytes 4 0x80000001)) held).links.routes = [(0, 0x80000000), (1, 0x80000001)] ∧
    (after (.routeTableWrite .pf0 1 4 (leBytes 4 0x80000001)) tOp0).links.routes = [] ∧
    (linkAt (after (.retrainDimensions .pf0 1 2) (tLinked 0 { dimension := 1, state := 3 })) 0).state = 1 ∧
    (linkAt (after (.retrainDimensions .pf0 1 2) (tLinked 0 { dimension := 2, state := 3 })) 0).state = 3 ∧
    (linkAt (after (.linkControlRetrain .pf0 1 0) (tLinked 0 { dimension := 1, state := 3 })) 0).state = 1 ∧
    (linkAt (after (.linkControlDisable .pf0 1 95) (tLinked 95 { dimension := 11, state := 3 })) 95).state = 0 ∧
    (linkAt (after (.linkControlEnable .pf0 1 0) (tLinked 0 { dimension := 1, state := 0 })) 0).state = 1 ∧
    (let s := { tOp0 with links := { tOp0.links with trafficHold := 1 } }
     ownDrained s = true ∧ (after .trafficHeld s).links.trafficHold = 2 ∧ ownDrained { s with links := { s.links with outbox := [tPacket 0] } } = true ∧
     ownDrained { s with links := { s.links with outbox := [tPacket 7] } } = false) := by
  decide +kernel

/-! ### Work queues and the host -/

/-- Queue 1 of tenant 5 with this descriptor 1 to read. -/
def tDescriptor (d : List Byte) : State :=
  let s := { tMapped tOn with tenants := [(5, { ptRoot := 0x1000, queueMask := 2, queues := [(1, { entries := 16, tail := 1 })] })], tileOwner := [(0, 5)] }
  let s1 := { s with service := { s.service with backing := [(0, 0)] }, host := { s.host with windows := [(20, BitVec.ofNat 128 (4096 * 2 ^ 64 + 3))] } }
  (s1.writeDpa (descAddress s1 5 1 1) d).1
/-- Cause of queue 1's freeze after a command. -/
def tQueueCause (c : Instr) (s : State) : List (W32 × Nat × Nat) := (tenantAt (after c s) 5).freezes.map fun f => (f.master, f.cause, f.address)
/-- A FEED or EXPORT of one line of the tenant's address 0x40. -/
def tMove (ty : Nat) : List Byte := tBits 64 [(0, ty), (112, 63), (144, 0x40), (192, 0x80)]
theorem witness_QueuesRunTheirDescriptors_nop :
    let s := tDescriptor (tBits 64 [(0, 0)])
    queueTurn s 5 1 = true ∧ dpaBad s (descAddress s 5 1 1) 64 = false ∧ descReserved (nextDescBytes s 5 1) 511 16 = false ∧
    (queueAt (after (.nopDescriptor 5 1) s) 5 1).completed = 1 ∧ dpaBytes (after (.nopDescriptor 5 1) s) (recordAddress s 5 1 1) 1 = [1] ∧
    tQueueCause (.nopDescriptor 5 1) (tDescriptor (tBits 64 [(16, 1)])) = [(queueMaster 1, 0x60, 1)] ∧
    tQueueCause (.workDescriptorReservedType 5 1) (tDescriptor (tBits 64 [(0, 4)])) = [(queueMaster 1, 0x60, 1)] ∧
    (let b := { s with mem := { s.mem with fastBad := [(fastKey s.mem (descAddress s 5 1 1)).getD 0 / 16] } }
     dpaBad b (descAddress b 5 1 1) 64 = true ∧ tQueueCause (.launch 5 1) b = [(queueMaster 1, 0x22, 1)]) := by decide +kernel
theorem witness_QueuesRunTheirDescriptors_launch :
    let d := tBits 64 [(0, 1), (104, 1), (109, 16), (126, 1)]
    let s := tDescriptor d
    descReserved (nextDescBytes s 5 1) 92 16 = false ∧ launchBad s 5 (launchParams (nextDescBytes s 5 1)) = false ∧
    ((tileAt (after (.launch 5 1) s) 0).waiting.map Launch.seq) = [1] ∧
    tQueueCause (.launch 5 1) (tDescriptor (tBits 64 [(0, 1), (109, 16)])) = [(queueMaster 1, 0x60, 1)] := by decide +kernel
theorem witness_QueuesRunTheirDescriptors_move :
    (∀ e ∈ [(2, 0, Instr.feed 5 1), (3, 1, .exportDesc 5 1)], moveDescBad (tDescriptor (tMove e.1)) 5 (tMove e.1) e.2.1 = false ∧
      ((queueAt (after e.2.2 (tDescriptor (tMove e.1))) 5 1).running.map fun r => r.2.1) = [1]) ∧
    tQueueCause (.feed 5 1) (tDescriptor (tBits 64 [(0, 2), (112, 62)])) = [(queueMaster 1, 0x60, 1)] := by decide +kernel
/-- Queue 1 with its copy under way. -/
def tMoving (ty va : Nat) : State :=
  let s := tDescriptor []
  { s with tenants := [(5, { ptRoot := 0x1000, queueMask := 2,
                             queues := [(1, { entries := 16, tail := 1, head := 1, running := [(0, 1, tBits 64 [(0, ty), (112, 63), (144, va), (192, 0x80)])] })] })] }
/-- What a copy's first line meets: its device address, or the cause that stops it and 1. -/
def tTarget (s : State) (d : List Byte) (need : Need) : Nat × Nat :=
  match moveTarget s 5 d 0 need with
  | .ok a => (a, 0)
  | .error c => (c, 1)
/-- How its copy ends. -/
def tMoved (how : TransferEnd) : Instr := .feedExportComplete 5 1 1 (leBytes 64 9) { bad := [], corrected := [] } how
theorem witness_QueuesRunTheirDescriptors_end :
    queueInUse (tMoving 2 0x40) 5 1 = true ∧ moveWaits (tMoving 2 0x40) 5 (tMove 2) = false ∧
    (∀ e ∈ [(2, Need.w), (3, .r)], tTarget (tMoving e.1 0x40) (tMove e.1) e.2 = (0x100000040, 0)) ∧
    ((tMoving 2 0x40).writeDpa 0x100000040 (leBytes 64 9)).2 = false ∧ dpaBad (tMoving 3 0x40) 0x100000040 64 = false ∧
    dpaBytes (after (tMoved .done) (tMoving 2 0x40)) 0x100000040 1 = [9] ∧
    ((after (tMoved .done) (tMoving 3 0x40)).host.written.map fun e => (e.1, e.2.length)) = [(0x80, 64)] ∧
    tTarget (tMoving 2 0x400000) (tBits 64 [(0, 2), (112, 63), (144, 0x400000), (192, 0x80)]) .w = (0x20, 1) ∧
    tQueueCause (tMoved .done) (tMoving 2 0x400000) = [(queueMaster 1, 0x20, 1)] ∧
    (let s := tMoving 2 0x40
     let off := { s with host := { s.host with linkWidth := 0 } }
     dpaBytes (after (tMoved .linkLost) off) (recordAddress off 5 1 1 + 8) 1 = [6]) := by decide +kernel
theorem witness_FunctionsAndLinkReset :
    let s := tMoving 2 0x40
    vfReachable s 6 = true ∧ (queueAt (after (.vfFunctionLevelReset 6) s) 5 1).epoch = 1 ∧ queueInUse (after (.vfFunctionLevelReset 6) s) 5 1 = false ∧
    (after .pf0FunctionLevelReset { s with dict := { s.dict with transfers :=
      [{ path := .pf0, index := 0x4201, sub := 1, tenant := 0, offset := 0, total := 8, supplied := [] }] } }).dict.transfers = [] ∧
    (after .vfEnableClear s).host.vfEnable = false ∧ (queueAt (after .vfEnableClear s) 5 1).entries = 0 ∧
    (after (.numvfsWrite 16 true) s).host.numVfs = 16 ∧ (queueAt (after (.numvfsWrite 0 false) s) 5 1).entries = 0 ∧
    (after .cxlLinkDown tOn).host.linkWidth = 0 ∧
    (let off := { tOn with host := { tOn.host with linkWidth := 0 } }
     (after (.cxlLinkUp 8 32) off).host.cxlNarrow = true ∧ (after (.cxlLinkUp 16 32) off).host.linkWidth = 16 ∧ (after (.cxlLinkUp 2 32) off).host.linkWidth = 0) := by
  decide +kernel
theorem witness_QueuesComeIntoUseAndMovePointers_pointers :
    let s := tDescriptor []
    queueState s 5 1 = 1 ∧ queueState s 5 0 = 3 ∧ (queueAt (after (.doorbell 6 8 (leBytes 8 16)) s) 5 1).tail = 16 ∧
    tQueueCause (.doorbell 6 8 (leBytes 8 17)) s = [(queueMaster 1, 0x61, 1)] ∧ tQueueCause (.doorbell 6 8 (leBytes 8 0)) s = [(queueMaster 1, 0x61, 1)] ∧
    (queueAt (after (.readPointer 6 0x108 (leBytes 8 0)) s) 5 1).readPtr = 0 ∧ tQueueCause (.readPointer 6 0x108 (leBytes 8 1)) s = [(queueMaster 1, 0x61, 1)] ∧
    (queueAt (after (.doorbell 6 0 (leBytes 8 1)) s) 5 0).dropped = 1 ∧ after (.doorbell 6 8 (leBytes 4 1)) s = s := by decide +kernel
theorem witness_QueuesComeIntoUseAndMovePointers_entries :
    let s := { tOp0 with tenants := [(5, { queueMask := 2, queues := [(1, { entries := 32, tail := 2, head := 2, completed := 2, readPtr := 1 })] })] }
    let busy := { tOp0 with tenants := [(5, { queueMask := 2, queues := [(1, { entries := 32, tail := 2, head := 2, completed := 1 })] })] }
    pathRole s tVf = some (2, some 5) ∧ queueQuiesced s 5 1 = true ∧ queueQuiesced busy 5 1 = false ∧
    (queueAt (after (.queueEntriesWrite tVf 1 5 1 16) s) 5 1) = { entries := 16 } ∧ (queueAt (after (.queueEntriesWrite tVf 1 5 1 0) s) 5 1).entries = 0 ∧
    tStatus (.queueEntriesWrite tVf 1 5 1 17) s = some 7 ∧ tStatus (.queueEntriesWrite tVf 1 5 0 16) s = some 7 ∧
    tStatus (.queueEntriesWrite tVf 1 5 1 16) busy = some 6 := by decide +kernel
theorem witness_HostManagedMemoryServes :
    let h := { tOn.host with hdmCommitted := true, hdmBase := 0x1000000000, access := [2048] }
    let s := { tOn with host := h }
    let ecc : Ecc := { bad := [], corrected := [] }
    hostOpen s 0x100000000 8 = true ∧ hostOpen s 0x200000 8 = false ∧
    (after (.hdmAccess 0x1100000000 (.write [7]) ecc) s).mem.fast ≠ [] ∧
    (after (.hdmAccess 0x1100000000 (.read 1) ecc) s).host.hostReads = [(0x1100000000, [0], false)] ∧
    (after (.hdmAccess 0x1000200000 (.read 1) ecc) s).host.hostReads = [(0x1000200000, [0], true)] ∧
    (let b := { s with mem := { s.mem with fastBad := [(fastKey s.mem 0x100000000).getD 0 / 16] } }
     dpaBad b 0x100000000 1 = true ∧ ((after (.hdmAccess 0x1100000000 (.read 1) ecc) b).host.hostReads.map fun e => e.2.2) = [true]) ∧
    (after (.hostSnoop 64) s).host.snoops = [(64, false)] ∧ dpaBytes (after (.pf0ApertureWrite 4 [9]) s) 4 1 = [9] ∧
    (after (.hdmDecoderCommit 0 (1120 * 2 ^ 30) 1) tOn).host.hdmCommitted = true ∧ (after (.hdmDecoderCommit 0 (1120 * 2 ^ 30) 2) s).host.hdmCommitted = false ∧
    (after (.doeDiscovery 0) s).host.doe = [[1, 0, 0, 1]] ∧ pageInFlight tOp0 3 = false ∧
    (after (.biasRequest .pf0 1 (BitVec.ofNat 64 (2 ^ 63 + 3))) tOp0).host.bias = [3] ∧ tStatus (.biasRequest .pf0 1 (BitVec.ofNat 64 (2 ^ 63 + 2 ^ 20))) tOp0 = some 7 := by
  decide +kernel

/-! ### The line, sessions and mailboxes -/

theorem test_other_addresses (b : Bool) : ∃ m : BitVec 48, m ≠ Config.macAddress ∧ m.getLsbD 40 = b := by
  cases b
  · by_cases h : Config.macAddress = 0
    · exact ⟨1, by rw [h]; decide, by decide⟩
    · exact ⟨0, fun e => h e.symm, by decide⟩
  · by_cases h : Config.macAddress = 2 ^ 40
    · exact ⟨2 ^ 40 + 1, by rw [h]; decide, by decide⟩
    · exact ⟨2 ^ 40, fun e => h e.symm, by decide⟩
/-- The module with both ports up. -/
def tLine : State := { tOp0 with dict := { tOp0.dict with portUp := 3 } }
/-- A frame of a type, with this session, sequence and payload. -/
def tTyped (ty sid seq : Nat) (payload : List Byte) : Frame :=
  { tFrame (finHeader ty 16 sid seq payload.length) with payload := payload }
theorem witness_FramesReachTheirPort_forward : portUpAt tLine 0 = true ∧ portUpAt tLine 1 = true ∧ tLine.power.packageOff = false ∧
    tLine.service.lodgeAway = false ∧ tLine.dict.forwardEnable = true ∧ frameBad (tTyped 3 1 1 []) = false ∧ frameBad (tTyped 3 1 0 []) = true ∧
    fHops (tTyped 3 1 1 []) = 16 ∧ fHops (tFrame 0) = 0 ∧ (tFrame 0).etherType.toNat = tLine.dict.etherType ∧
    (after (.frameForward { tFrame 0 with fcsOk := false }) tLine).dict.dropped = 1 ∧
    (after (.frameForward { tFrame 0 with etherType := 0x800 }) tLine).dict.dropped = 1 ∧
    (∀ v ∈ [(0 : Byte), 2, 3], (after (.portRolesWrite .pf0 1 v) tLine).dict.portRoles.toNat = v.toNat) ∧
    tStatus (.portRolesWrite .pf0 1 4) tLine = some 7 ∧ (after (.portRolesWrite .pf0 1 3) tLine).dict.portUp = 1 ∧
    (after (.finuleriPortLinkChange 1 true) tOp0).dict.portUp = 2 ∧ (after (.finuleriPortLinkChange 0 false) tLine).dict.portUp = 2 := by decide +kernel
/-- The module with a frame for the Lodge. -/
def tArrived (f : Frame) (xs : List Session) : State := { tLine with dict := { tLine.dict with lodgeFrames := [f], sessions := xs } }
theorem witness_FramesReachTheirPort_discovery :
    let f := tTyped 0 0 0 []
    let s := tArrived f []
    f ∈ s.dict.lodgeFrames ∧ fType f = 0 ∧ lodgeRuns s = true ∧ f.port ≠ 2 ∧ fLength f = 0 ∧ fLength (tTyped 0 0 0 [1]) ≠ 0 ∧
    (after (.discoveryRequest f 0) s).dict.frames.length = 1 ∧
    (after (.discoveryRequest (tTyped 0 0 0 [1]) 0) (tArrived (tTyped 0 0 0 [1]) [])).dict.frames = [] ∧
    (after (.discoveryRequest f 99) { s with dict := { s.dict with discovered := [(0x0A, 0)] } }).dict.frames = [] ∧
    (after (.discoveryRequest f 100) { s with dict := { s.dict with discovered := [(0x0A, 0)] } }).dict.frames.length = 1 := by decide +kernel
/-- An H1 that asks for the Operator's role, with no token and no chain, and one fragment of a message. -/
def tHello : List Byte := [3, 0, 0, 0] ++ List.replicate 133 0
def tFragment (n : Nat) (bs : List Byte) : Frame := tTyped 2 (if n = 3 then 7 else 0) 0 (beBytes 1 n ++ [0] ++ beBytes 2 bs.length ++ [0, 0] ++ beBytes 2 bs.length ++ bs)
/-- A session, in a handshake or open, with the peer of `tFrame`. -/
def tPeer (state id : Nat) : Session :=
  { id := id, state := state, role := 3, line := 0, mac := 0x0A, peerKeyHash := 0, framesIn := 0, framesOut := 0, seqIn := 0, seqOut := 0,
    c2mKey := [], m2cKey := [], c2mIv := [], m2cIv := [], transcript := tHello, peerKey := [], idleMs := 0 }
theorem witness_SessionsOpenServeAndClose_hello :
    let f := tFragment 1 tHello
    let s := tArrived f []
    let s' := s.redraw.updDict fun d => { d with lodgeFrames := d.lodgeFrames.erase f }
    fType f = 2 ∧ isFinish f = false ∧ fSession f = 0 ∧ s.heartwood.state = 1 ∧
    (match takeFragment s' f 1 with
      | .whole _ bs => (helloOf bs).map fun h => decide (h.size = bs.length)
      | _ => none) = some true ∧
    (after (.handshakeH1 f) s).dict.sessions.map Session.id = [1] ∧
    (after (.handshakeH1 f) (tArrived f ((List.range 16).map fun i => tPeer 2 (i + 1)))).dict.handshakeFailures = 1 := by decide +kernel
theorem witness_SessionsOpenServeAndClose_finish :
    let f := tFragment 3 (List.replicate 96 0)
    let s := tArrived f [tPeer 1 7]
    let s' := s.redraw.updDict fun d => { d with lodgeFrames := d.lodgeFrames.erase f }
    isFinish f = true ∧ (s.dict.sessions.find? fun x => x.id = fSession f && x.state = 1 && samePeer x.line x.mac f) = some (tPeer 1 7) ∧
    (match takeFragment s' f 3 with
      | .whole _ bs => bs.length
      | _ => 0) = 96 ∧ (helloOf (tPeer 1 7).transcript).isSome = true := by decide +kernel
theorem witness_SessionsOpenServeAndClose_frames :
    let f := fun ty sid => tTyped ty sid 1 []
    fType (f 3 7) = 3 ∧ pathBusy tLine (.session 7) = false ∧
    (after (.sessionData (f 3 7)) (tArrived (f 3 7) [])).dict.dropped = 1 ∧ (after (.sessionClose (f 4 7)) (tArrived (f 4 7) [])).dict.dropped = 1 ∧
    (let s := tArrived (f 3 7) [tPeer 2 7]
     lodgeRuns s = true ∧ (after (.sessionIdleTimeout 7 600000) s).dict.sessions = [] ∧ (after (.sessionIdleTimeout 7 599999) s).dict.sessions.length = 1 ∧
     (after (.sessionCloseWrite .pf0 1 7) s).dict.sessions = [] ∧ tStatus (.sessionCloseWrite .pf0 1 8) s = some 7) := by decide +kernel
theorem witness_LodgeAndMailboxesAnswer_lodge :
    let s := { tOp0 with service := { tOp0.service with job := { phase := 1 } }, dict := { tOp0.dict with sessions := [tPeer 2 7] } }
    lodgeRuns s = true ∧ (after .lodgeRestart s).dict.sessions = [] ∧ (after .lodgeRestart s).service.job.reason = 4 ∧
    (after .lodgeWatchdogExpiry s).service.activeLodge = 1 ∧
    (let away := { tOp0 with service := { tOp0.service with lodgeAway := true },
                             dict := { tOp0.dict with acks := [{ path := .pf0, request := tMsg 2, kind := .retrain 0 }] } }
     (after .lodgeReturns away).service.lodgeAway = false ∧ (after .lodgeReturns away).dict.replies = [(.pf0, response (tMsg 2) 0x0C [])]) := by
  decide +kernel
theorem witness_LodgeAndMailboxesAnswer_mailbox :
    let c := fun form size => BitVec.ofNat 64 (2 ^ 32 + form * 2 ^ 30 + size)
    let msg : List Byte := List.replicate 16 0
    mailboxReached tOp0 .pf0 = some 0 ∧ mailboxReached tOp0 (.vf 6) = some 6 ∧
    (∀ form ∈ [0, 1, 2], ∀ size ∈ [15, 16, 4080, 4081], mailboxNext { request := c form size } = true) ∧ mailboxNext {} = false ∧
    (after (.mailboxRequest .pf0 (c 0 15) msg) tOp0).dict.mailboxes.map (fun e => (msgOf e.2.response).status) = [0x0D] ∧
    (after (.mailboxRequest (.vf 6) (c 1 16) msg) tOp0).dict.mailboxes.map (fun e => (msgOf e.2.response).status) = [0x0D] ∧
    (after (.mailboxRequest .pf0 (c 0 16) msg) tOp0).dict.replies.length = 1 ∧
    (after (.mailboxRequest .pf0 (c 1 16) msg) tOp0).dict.dropped = 1 ∧
    (let away := { tOp0 with service := { tOp0.service with lodgeAway := true } }
     let held := after (.mailboxRequest .pf0 (c 0 16) msg) away
     lodgeRuns away = false ∧ (mailboxAt held 0).request = c 0 16 ∧ (mailboxAt held 0).taken = none ∧ held.dict.replies = [] ∧
     (after .lodgeReturns held).dict.replies.length = 1) := by decide +kernel

/-! ### Clearings -/

/-- Tiles 0 and 1 in place, tile 0 with tenant 5. -/
def tTiles : State := { tOp0 with service := { tOp0.service with backing := [(0, 0), (1, 1)] }, tileOwner := [(0, 5)] }
/-- A tile mask. -/
def tMask (ls : List Nat) : List Byte := (List.range 160).map fun i => BitVec.ofNat 8 (((ls.filter fun l => l / 8 = i).map fun l => 2 ^ (l % 8)).foldl (· + ·) 0)
theorem witness_ClearingRecordsAreWritten_tiles :
    pathRole tTiles .pf0 = some (3, none) ∧ pathBusy tTiles .pf0 = false ∧ tenantQuiesced tTiles 5 = true ∧ tTiles.globals.heldOwner = [] ∧
    (tMask [1]).length = 160 ∧ mwf tTiles.tileOwner = true ∧ tilePresent tTiles 1 = true ∧ tTiles.service.translationOut = [] ∧
    (let s := after (.tileMaskWrite .pf0 1 5 (tMask [1])) tTiles
     ownerOf s 0 = none ∧ ownerOf s 1 = some 5) ∧
    tStatus (.tileMaskWrite .pf0 1 5 (tMask [2])) tTiles = some 7 ∧ tStatus (.tileMaskWrite .pf0 1 6 (tMask [0])) tTiles = some 7 ∧
    ownerOf (after (.tileMaskWrite .pf0 1 5 (tMask [1])) { tTiles with heartwood := { state := 2 } }) 1 = none := by decide +kernel
theorem witness_ClearingRecordsAreWritten_records :
    let busy := { tTiles with tenants := [(5, { queueMask := 2, queues := [(1, { entries := 16, tail := 1 })] })] }
    let idle := { tTiles with tenants := [(5, { queueMask := 2, queues := [(1, { entries := 16 })] })] }
    tenantQuiesced busy 5 = false ∧ tenantQuiesced idle 5 = true ∧ tStatus (.queueMaskWrite .pf0 1 5 0) busy = some 6 ∧
    (tenantAt (after (.clearingHoldWrite .pf0 1 5 1) busy) 5).clearingHold = true ∧ tStatus (.clearingHoldWrite .pf0 1 5 2) busy = some 7 ∧
    queueAssigned idle 5 1 = true ∧ (queueAt (after (.queueMaskWrite .pf0 1 5 1) idle) 5 1).entries = 0 ∧
    tStatus (.exclusiveRegionsWrite .pf0 1 5 1) idle = some 7 ∧
    (let lone := { idle with service := { idle.service with backing := [(0, 0)] } }
     (tenantAt (after (.exclusiveRegionsWrite .pf0 1 5 1) lone) 5).exclusive = 1 ∧
     tStatus (.exclusiveRegionsWrite .pf0 1 5 1) { lone with tenants := lone.tenants ++ [(6, { exclusive := 1 })] } = some 7) := by decide +kernel
theorem witness_MapsGiveResourcesToClearings_pages :
    let s := (tOp0.writeDpa 0x100000040 [9]).1
    s.mem.span ≤ 56 ∧ (pageEntry s 2048).toNat ≠ 0x8005 ∧ tenantQuiesced s 5 = true ∧ pageBacked s 2048 = true ∧ reservedPage s 2048 = false ∧
    dpaBytes s 0x100000040 1 = [9] ∧
    (let u := after (.pageOwnerMapWrite .pf0 1 4096 (leBytes 2 0x8005)) s
     pageEntry u 2048 = 0x8005 ∧ dpaBytes u 0x100000040 1 = [0]) ∧
    reservedPage s 1024 = true ∧ tStatus (.pageOwnerMapWrite .pf0 1 2048 (leBytes 2 0x8005)) s = some 7 ∧
    tStatus (.pageOwnerMapWrite .pf0 1 4096 (leBytes 2 0x8405)) s = some 7 := by decide +kernel
theorem witness_MapsGiveResourcesToClearings_groups :
    let e : W64 := BitVec.ofNat 64 (2 ^ 63 + 5 * 2 ^ 46)
    let s := { tOp0 with mem := { tOp0.mem with pageOwner := [(0, 0xC005), (1, 0xC005), (2048, 0x8005)] } }
    mgetD s.mem.setGroups 0 0 ≠ e ∧ tenantQuiesced s 5 = true ∧ groupsBad s (mput 0 s.mem.setGroups 0 e) = false ∧ s.mem.groupsOut = [] ∧
    mgetD (after (.setGroupMapWrite .pf0 1 0 (leBytes 8 e.toNat)) s).mem.setGroups 0 0 = e ∧
    tStatus (.setGroupMapWrite .pf0 1 0 (leBytes 8 e.toNat)) tOp0 = some 7 ∧
    (tileAt (after (.tilePersonalityWrite .pf0 1 0 [1]) tOp0) 0).reloading = true ∧ tStatus (.tilePersonalityWrite .pf0 1 0 [2]) tOp0 = some 7 ∧
    microcodeJob tOp0 = false := by decide +kernel
theorem witness_MapsGiveResourcesToClearings_tenant :
    let d := fun (rows : Nat) => tBits 32 [(0, rows)]
    let s := { tMapped tOn with
                 tenants := [(5, { ptRoot := 0x1000, tables := [(3, tBits 32 [(40, 9)])], watch := { quota := 4 } })] }
    pathRole s tVf = some (2, some 5) ∧ tenantQuiesced s 5 = true ∧ d 0 ≠ (tableDesc s 5 3).take 32 ∧
    tableDesc (after (.tableDescriptorsWrite tVf 1 5 96 (d 0)) s) 5 3 = d 0 ∧
    (tableReserved (leBytes 32 (2 ^ 255)) = true ∧ tStatus (.tableDescriptorsWrite tVf 1 5 96 (leBytes 32 (2 ^ 255))) s = some 7) ∧
    setupBad 0x801 = false ∧ setupBad 0x10 = true ∧ historyOwner (tenantAt s 5).watch 2 = none ∧
    mget (tenantAt (after (.watchSetupWrite tVf 1 5 16 (leBytes 8 0x801)) s) 5).watch.entries 2 = some (.tensor (setupRecord s 0x801 0)) ∧
    tStatus (.watchSetupWrite tVf 1 5 16 (leBytes 8 0x10)) s = some 7 := by decide +kernel
theorem witness_WithdrawalsTakeTheirResource :
    let s := { tTiles with service := { tTiles.service with yield_ := (List.range 16).map fun k => (320 + k, 3) }, links := (tLinked 20 { dimension := 1, state := 3 }).links,
                           mem := { tTiles.mem with setGroups := [(7, BitVec.ofNat 64 (2 ^ 63 + 5 * 2 ^ 46))] },
                           globals := { tTiles.globals with layerSlots := [(3, BitVec.ofNat 64 (2 ^ 63 + 5 * 2 ^ 53 + 2 ^ 17))] } }
    let fails := fun f => after (.moduleWithdrawal f) s
    let short := fun (u : State) i => (tenantAt u 5).shortfall.getLsbD i
    7 ≤ s.service.bringUp ∧ (List.range 16).all (fun k => physState s (336 * dieOf 0 + 320 + k) ≠ 1) = true ∧
    (tilePresent (fails (.tile 0)) 0 = false ∧ short (fails (.tile 0)) 0 = true) ∧
    mget (fails (.channel 19 31)).mem.retired 19 = some 31 ∧
    19 ∈ (after (.moduleWithdrawal (.channel 19 31)) { s with mem := { s.mem with retired := [(19, 0)] } }).service.stacksOut ∧
    short (fails (.setGroup 7)) 2 = true ∧ (chipState (fails (.spring 0)) 0 = 4 ∧ short (fails (.spring 0)) 3 = true) ∧
    (ownerOf (fails (.region 0)) 0 = none ∧ short (fails (.region 0)) 4 = true) ∧
    20 ∈ engineLinks 0 ∧ (linkAt (fails (.engine 0)) 20).state = 8 := by decide +kernel

/-! ### Releases and the log -/

/-- Tenant 5 with this master frozen. -/
def tFrozen (m : W32) (cause : Nat) : State :=
  { tTiles with tenants := [(5, { queueMask := 2, queues := [(1, { entries := 16, tail := 1 })], sets := [(0, { mode := 1, state := 1 })],
                                  freezes := [freezeRec m cause 1] })] }
theorem witness_ReleasesEndFreezes :
    let q := queueMaster 1
    let j := jobMaster 0
    masterKind q = 6 ∧ masterKind j = 7 ∧ masterIndex j = 0 ∧ causeResumable 0x60 q = true ∧ causeResumable 0x22 j = false ∧
    pathRole (tFrozen q 0x60) .pf0 = some (3, none) ∧ pathRole (tFrozen q 0x60) tVf = some (2, some 5) ∧ q ≠ 0xFFFFFFFF ∧
    (queueAt (after (.releaseDiscard .pf0 1 5 q) (tFrozen q 0x60)) 5 1).head = 1 ∧
    isFrozen (after (.releaseResume .pf0 1 5 q) (tFrozen q 0x60)) 5 q = false ∧
    (tenantAt (after (.discardMaster tVf 1 5 q) (tFrozen q 0x60)) 5).nDiscarded = 1 ∧
    (setAt (after (.releaseDiscard .pf0 1 5 j) (tFrozen j 0x22)) 5 0).state = 8 ∧ (setAt (after (.releaseDiscard .pf0 1 5 j) (tFrozen j 0x80)) 5 0).state = 5 ∧
    tStatus (.releaseDiscard .pf0 1 5 (queueMaster 2)) (tFrozen q 0x60) = some 7 ∧
    (causeResumable 0x04 (blockMaster 0 0) = false ∧ tStatus (.releaseResume .pf0 1 5 (blockMaster 0 0)) (tFrozen (blockMaster 0 0) 0x04) = some 7) ∧
    (tenantAt (after (.releaseDiscardAll .pf0 1 5) (tFrozen q 0x60)) 5).freezes = [] ∧
    isFrozen (after (.releaseResumeAll .pf0 1 5) (tFrozen q 0x60)) 5 q = false ∧
    isFrozen (after (.releaseResumeAll .pf0 1 5) (tFrozen (blockMaster 0 0) 0x04)) 5 (blockMaster 0 0) = true ∧
    (tenantAt (after (.inspectMasterWrite tVf 1 5 q) (tFrozen q 0x60)) 5).inspect = q := by decide +kernel
/-- A report of class 3. -/
def tReport : Report := { source := 1, cls := 3, cause := 2, tenant := none, detail := 0, seq := 1, stamp := 9 }
/-- The log with this ring and one report waiting. -/
def tLogged (ring : SMap LogRecord) : State := { tOp0 with log := { tOp0.log with pending := [tReport], ring := ring, writeNumber := ring.length } }
theorem witness_LogKeepsItsReports :
    let y : LogRecord := { report := tReport, repeats := 1, pinned := true, open_ := true, recordNo := 0, ordinal := 0 }
    lodgeRuns (tLogged []) = true ∧ recordTakes tReport y = true ∧
    (mget (after .logReportIntake (tLogged [])).log.ring 0).map LogRecord.pinned = some true ∧
    (mget (after .logReportIntake (tLogged [(0, y)])).log.ring 0).map LogRecord.repeats = some 2 ∧
    ((after (.logUnpin .pf0 1 1) { tLogged [(0, y)] with log := { (tLogged [(0, y)]).log with readNumber := 1 } }).log.ring.map fun e => e.2.pinned) = [false] ∧
    (after (.logReadNumberWrite .pf0 1 1) (tLogged [(0, y)])).log.readNumber = 1 ∧ tStatus (.logReadNumberWrite .pf0 1 2) (tLogged [(0, y)]) = some 7 ∧
    (let s := { tLogged [] with tenants := [(5, { logNumber := 3 })] }
     (tenantAt (after (.tenantLogReadWrite tVf 1 5 3) s) 5).logRead = 3 ∧ tStatus (.tenantLogReadWrite tVf 1 5 4) s = some 7) := by decide +kernel

/-! ### Bring-up and service -/

/-- A stage that ends well. -/
def tStage : StageResult :=
  { selfTestFailures := 0, lodgeSlotOk := true, shoreOk := true, cxlWidth := 16, cxlRate := 32, portsUp := 3, diesOk := true,
    failedChannels := [], rowsRepaired := [], failedChips := [2], lodgeCycles := 5 }
/-- Bring-up in a state. -/
def tBring (n : Nat) : State := { State.reset with service := { State.reset.service with bringUp := n, mapBuilt := true, served := true }, power := { powered := true } }
/-- State and fault after a command. -/
def tCame (c : Instr) (s : State) : Nat × Nat := ((after c s).service.bringUp, (after c s).service.fault)
theorem witness_BringUpGoesThroughItsStates_stages :
    (after (.powerGood 5) State.reset).links.nodeId = 5 ∧
    (∀ n ∈ [1, 2, 3, 4, 5, 6], bringingUp (tBring n) = true ∧ overLimit ((tBring n).lodgeTime 5) = false) ∧
    (∀ i ∈ [1, 2, 3], slotVerifies (tBring 1) i (fwOf (tBring 1) i).active = true ∧ (fwOf (tBring 1) i).deferred = false) ∧
    microcodeLoaded (tBring 4) = true ∧ linksSettled (tBring 6) = true ∧
    linksSettled { tBring 6 with links := (tLinked 0 { dimension := 1, state := 2 }).links } = false ∧
    ([2, 3, 4, 5].map fun n => tCame (.bringUpStageComplete tStage) (tBring n)) = [(3, 0), (4, 0), (5, 0), (6, 0)] ∧
    (tCame (.bringUpStageComplete tStage) (tBring 6)).1 = 8 ∧
    (after (.bringUpStageComplete { tStage with failedChips := [] }) (tBring 5)).service.springState.length = 4 ∧
    tCame (.bringUpStageComplete { tStage with selfTestFailures := 1 }) (tBring 1) = (1, 1) ∧
    tCame (.bringUpStageComplete { tStage with lodgeSlotOk := false }) (tBring 1) = (1, 2) ∧
    tCame (.bringUpStageComplete { tStage with shoreOk := false }) (tBring 2) = (2, 3) ∧
    tCame (.bringUpStageComplete { tStage with diesOk := false }) (tBring 4) = (4, 4) ∧
    (let u := after (.bringUpStageComplete tStage) { tBring 3 with service := { (tBring 3).service with served := false } }
     u.service.bringUp = 3 ∧ u.service.served = true ∧ u.host.linkWidth = 16) := by decide +kernel
theorem witness_BringUpGoesThroughItsStates_limits :
    (∀ n ∈ [1, 2, 4], overLimit ((tBring n).lodgeTime 1000000001) = true) ∧ overLimit ((tBring 1).lodgeTime 200000000) = false ∧
    tCame (.bringUpStateLimitExpiry 200000001) (tBring 1) = (1, 1) ∧ tCame (.bringUpStateLimitExpiry 100000001) (tBring 2) = (2, 3) ∧
    tCame (.bringUpStateLimitExpiry 1000000001) (tBring 4) = (4, 4) ∧ tCame (.bringUpStateLimitExpiry 300000001) (tBring 3) = (4, 0) := by decide +kernel
/-- A cluster's loader that expects this chunk, or any other. -/
def tLoading (expect : BitVec 384) (n : Nat) : State :=
  { tBring 4 with service := { (tBring 4).service with loaders := [(3, { expect := expect, mismatches := n, done := false })] } }
theorem witness_BringUpGoesThroughItsStates_microcode (chunk : List Byte) :
    (mget (tLoading (Config.sha384 chunk) 0).service.loaders 3).map Loader.expect = some (Config.sha384 chunk) ∧
    (∀ n, (mget (tLoading (Config.sha384 chunk + 1) n).service.loaders 3).map Loader.mismatches = some n) ∧
    Config.sha384 chunk ≠ Config.sha384 chunk + 1 ∧ bringingUp (tLoading 0 2) = true := by
  refine ⟨rfl, fun _ => rfl, ?_, by decide⟩
  intro h
  have := congrArg (fun x => x - Config.sha384 chunk) h
  simp at this
theorem witness_MapBacksGoodTiles :
    let s := { tBring 4 with service := { (tBring 4).service with mapBuilt := false, fusedBad := [0, 320] } }
    bringingUp s = true ∧ s.service.mapBuilt = false ∧
    slotVerifies s 2 (fwOf s 2).active = true ∧ tCame (.bistComplete { failed := [], manifestOk := false }) s = (4, 5) ∧
    (let u := after (.bistComplete { failed := [321], manifestOk := true }) s
     mget u.service.backing 0 = some 322 ∧ mget u.service.backing 1 = some 1 ∧ nominalOf 0 = 0 ∧ nominalOf 1 = 1) := by decide +kernel
theorem witness_ResetsClearTheirScope :
    let s := { tTiles with tiles := [(0, { blocks := [(0, tBlock tParams [tGroup])], lm := [(3, 7)] })] }
    scopeOf 0 = some (.tile 0) ∧ scopeOf 0x40000003 = some (.spring 3) ∧ scopeOf 0x50000000 = none ∧ scopeValid s (.tile 0) = true ∧ scopeValid s (.tile 2) = false ∧
    scopeResetting (after (.resetRequest .pf0 1 0) s) (.tile 0) = true ∧ tStatus (.resetRequest .pf0 1 2) s = some 7 ∧
    tStatus (.resetRequest .pf0 1 0x50000000) s = some 7 ∧ tStatus (.resetRequest .pf0 1 0x800) s = some 7 ∧
    faultScope s (.tile 0) none = false ∧ faultScope s (.cluster 0) (some 0) = true ∧
    ((after (.hardwareFatalFault (.cluster 0) (some 0)) s).log.pending.map Report.cls) = [3] ∧
    (let t := after (.resetRequest .pf0 1 0) s
     let u := after (.resetDrainEnd (.tile 0)) t
     (tileAt u 0).blocks = [] ∧ lmByte u 0 3 = 0 ∧ u.globals.reseedPending = [] ∧ ownerOf u 0 = some 5 ∧
     (after (.resetScopeBack (.tile 0) false) u).service.resets = [] ∧ (after (.resetScopeBack (.tile 0) false) u).dict.acks = []) ∧
    (let c := { s with service := { s.service with springState := [(3, 3)], resets := [{ scope := .spring 3, clearing := true, faulty := none }] } }
     chipState c 3 = 3 ∧ chipState (after (.resetScopeBack (.spring 3) false) c) 3 = 2) := by decide +kernel
/-- PF 0 with a role, and a service job. -/
def tRole (role : Nat) (j : Job) : State :=
  { tOp0 with dict := { tOp0.dict with pf0Role := role }, service := { tOp0.service with job := j } }
/-- The job after a command. -/
def tJob (c : Instr) (s : State) : Job := (after c s).service.job
theorem witness_JobsRunToTheirEnd_start :
    tStatus (.installStagedImage .pf0 1 3) (tRole 3 {}) = some 3 ∧ tStatus (.moveLayerSlot .pf0 1 1 2 3 4) (tRole 4 {}) = some 3 ∧
    tStatus (.prepareCartridge .pf0 1 6) (tRole 5 { phase := 1 }) = some 9 ∧
    tJob (.installStagedImage .pf0 1 3) (tRole 4 {}) = { kind := 1, phase := 1, image := 3 } ∧
    activateCode (tRole 4 {}) 3 = 2 ∧ (tJob (.activate .pf0 1 3 false) (tRole 4 {})).reason = 1 ∧
    (let fw := fun c => { tRole 5 {} with service := { (tRole 5 {}).service with firmware :=
        [(3, { a := shippedImage, b := { shippedImage with compat := c }, activeB := false, pending := false, deferred := false, lastResult := 0 })] } }
     activateCode (fw 0) 3 = 0 ∧ (tJob (.activate .pf0 1 3 true) (fw 0)).phase = 2 ∧ (tJob (.activate .pf0 1 3 false) (fw 1)).reason = 2 ∧
     (tJob (.activate .pf0 1 3 false) (fw 0)).phase = 1) ∧
    (tJob (.moveLayerSlot .pf0 1 1 2 3 4) (tRole 3 {})).reason = 3 ∧ (tJob (.prepareCartridge .pf0 1 6) (tRole 3 {})).phase = 1 ∧
    (tJob (.returnCartridge .pf0 1 6) (tRole 3 {})).reason = 5 := by decide +kernel
theorem witness_JobsRunToTheirEnd_units :
    (tJob (.serviceJobUnitComplete (.notVerified 2)) (tRole 5 { kind := 1, phase := 1, image := 3 })).reason = 1 ∧
    (verifyStaged (tRole 5 {}) 3).1 ≠ 0 ∧ (tJob (.serviceJobUnitComplete .done) (tRole 5 { kind := 1, phase := 1, image := 3 })).reason = 1 ∧
    clusterEmpty tOp0 0 = true ∧ clusterEmpty tAdd 0 = false ∧
    (tJob (.serviceJobUnitComplete .done) (tRole 5 { kind := 2, phase := 1, image := 2 })).progress = 1 ∧
    (fwOf (after (.serviceJobUnitComplete .done) (tRole 5 { kind := 2, phase := 1, image := 2, progress := 79 })) 2).activeB = true ∧
    (let r := after (.serviceJobUnitComplete .done) (tRole 5 { kind := 2, phase := 1, image := 1 })
     r.service.handing = true ∧ (after .lodgeReturns r).service.activeLodge = 1 ∧ (tJob .lodgeReturns r).phase = 2) ∧
    (let j : Job := { kind := 3, phase := 1, srcChip := 0, srcSlot := 3, dstChip := 1, dstSlot := 4 }
     let s := { tRole 3 j with globals := { (tRole 3 j).globals with layerSlots := [(3, BitVec.ofNat 64 (2 ^ 63 + 5 * 2 ^ 53 + 2 ^ 17))] } }
     0 < bits (moveSlots s).1 33 17 ∧ (tJob (.serviceJobUnitComplete .uncorrectable) s).phase = 3) ∧
    mgetD (after (.serviceJobUnitComplete .done) (tRole 3 { kind := 4, phase := 1, cartridge := 6 })).service.cartridges 6 0 = 1 ∧
    (let r := tRole 3 { kind := 5, phase := 1, cartridge := 6 }
     (tJob (.serviceJobUnitComplete .done) { r with service := { r.service with cartridges := [(6, 5)] } }).phase = 2) ∧
    cartridgeAt (after (.cartridgePulled 6) tOp0) 6 = 2 ∧ cartridgeAt (after (.cartridgeInserted 6 true) (after (.cartridgePulled 6) tOp0)) 6 = 3 ∧
    (let w := { tOp0 with service := { tOp0.service with cartridges := [(6, 3)] } }
     cartridgeAt (after (.cartridgeWarmUpEnd 6 false) w) 6 = 4) := by decide +kernel
/-- A layer slot of 2 pages to move to an empty slot of another chip. -/
def tMoveSlot : State :=
  let j : Job := { kind := 3, phase := 1, srcChip := 0, srcSlot := 3, dstChip := 1, dstSlot := 4 }
  let e : W64 := BitVec.ofNat 64 (2 ^ 63 + 5 * 2 ^ 53 + 2 * 2 ^ 17)
  { tRole 3 j with globals := { (tRole 3 j).globals with layerSlots := [(3, e), (1028, e)] } }
theorem witness_JobsRunToTheirEnd_move : tMoveSlot.service.job.progress + 1 < bits (moveSlots tMoveSlot).1 33 17 ∧ tMoveSlot.mem.slowBad = [] ∧
    moveBad tMoveSlot = false := by decide +kernel

/-! ### Heartwood, islands and power -/

/-- PF 0 of the Foundry with Heartwood in a state. -/
def tWood (h : HeartwoodState) : State := { tRole 5 {} with heartwood := h }
theorem witness_HeartwoodGuardsItsKeys :
    let s := tWood { state := 1, keysHeld := true }
    pathRole s .pf0 = some (5, none) ∧ pathBusy s .pf0 = false ∧ (fwOf s 3).pending = false ∧ (fwOf s 3).active.keySlot = 0 ∧
    tStatus (.rollbackCommit .pf0 1 0) s = some 7 ∧ tStatus (.rollbackCommit .pf0 1 3) s = some 0 ∧
    tStatus (.keySlotRevoke .pf0 1 0) s = some 7 ∧ (after (.keySlotRevoke .pf0 1 3) s).heartwood.revoked = 8 ∧
    (after (.selfTestRun .pf0 1 1 2) s).heartwood.state = 3 ∧ (after (.selfTestRun .pf0 1 1 0) s).heartwood.state = 1 ∧
    (after (.zeroiseVolatile .pf0 1) s).heartwood.state = 4 ∧ (after (.zeroisePermanent .pf0 1) s).heartwood.state = 5 ∧
    (after .noiseHealthFailure s).heartwood.state = 2 ∧
    (after (.entropyStartupRetest true) (tWood { state := 2 })).heartwood.state = 1 ∧
    (after (.entropyStartupRetest false) (tWood { state := 2 })).heartwood.entropyFailures = 1 ∧
    (after (.envelopeViolation 719999 25 10001) s).heartwood.state = 4 ∧ (after (.envelopeViolation 800000 126 0) s).heartwood.keysHeld = false ∧
    (after (.envelopeViolation 880000 125 20000) s).heartwood.state = 1 := by decide +kernel
theorem witness_HeartwoodGuardsItsKeys_attestation :
    let s := tWood { state := 1, keysHeld := true }
    let n : List Byte := List.replicate 32 7
    s.heartwood.next ≤ reservedTo s.heartwood ∧ s.heartwood.next < lmsPool ∧ mayAttest (s.heartwoodTime 0) = true ∧ n.length = 32 ∧
    (let again := tWood { state := 1, keysHeld := true, reported := true }
     tStatus (.attestationRequest .pf0 1 n 9999) again = some 7 ∧ mayAttest (again.heartwoodTime 10000) = true) := by decide +kernel
/-- An SPDM request with these parameters, of this size. -/
def tSpdm (version code : Nat) (p1 p2 : Byte) (n : Nat) : List Byte := [BitVec.ofNat 8 version, BitVec.ofNat 8 code, p1, p2] ++ List.replicate (n - 4) 0
/-- A connection at a stage. -/
def tConnected (x : SpdmState) : State := tWood { state := 1, keysHeld := true, spdm := x }
/-- Code of the response to a request. -/
def tAnswer (c : Instr) (x : SpdmState) : Option Byte := ((after c (tConnected x)).heartwood.spdm.responses.getLast?).map fun r => r.getD 1 0
theorem witness_SpdmAnswersInTurn :
    (tConnected {}).host.linkWidth ≠ 0 ∧ (tConnected {}).power.powered = true ∧
    tAnswer (.spdmGetVersion (tSpdm 0x10 0x84 0 0 4)) {} = some 4 ∧ tAnswer (.spdmGetVersion (tSpdm 0x12 0x84 0 0 4)) {} = some 0x7F ∧
    tAnswer (.spdmGetVersion (tSpdm 0x10 0x84 0 0 4 |>.take 3)) {} = some 0x7F ∧ tAnswer (.spdmGetCapabilities (tSpdm 0x12 0xE1 0 0 20)) {} = some 0x7F ∧
    tAnswer (.spdmGetCapabilities (tSpdm 0x12 0xE1 0 0 20)) { stage := 1 } = some 0x61 ∧
    tAnswer (.spdmNegotiateAlgorithms (tSpdm 0x12 0xE3 0 0 32)) { stage := 2 } = some 0x7F ∧
    tAnswer (.spdmNegotiateAlgorithms ([0x12, 0xE3, 0, 0, 0, 0, 0, 0, 0x80, 0, 0, 0, 2] ++ List.replicate 19 0)) { stage := 2 } = some 0x63 ∧
    tAnswer (.spdmGetDigests (tSpdm 0x12 0x81 0 0 4)) { stage := 3 } = some 1 ∧ tAnswer (.spdmChallenge (tSpdm 0x12 0x83 0 0 36)) { stage := 3 } = some 3 ∧
    tAnswer (.spdmGetMeasurements (tSpdm 0x12 0xE0 0 6 4) 0) { stage := 3 } = some 0x60 ∧
    tAnswer (.spdmKeyExchange (tSpdm 0x12 0xE4 0 0 138)) { stage := 3 } = some 0x64 ∧
    tAnswer (.spdmKeyUpdate (tSpdm 0x12 0xE9 1 9 4)) { stage := 3, session := some 1, sessionOpen := true } = some 0x69 ∧
    tAnswer (.spdmEndSession (tSpdm 0x12 0xEC 0 0 4)) { stage := 3, session := some 1, sessionOpen := true } = some 0x6C := by decide +kernel
theorem witness_SpdmAnswersInTurn_more : 0 < spdmChain.length ∧ leNat (reqField (tSpdm 0x12 0x82 0 0 8) 4 2) = 0 ∧
    (tSpdm 0x12 0xE5 0 0 52).length = 52 ∧ mayAttest ((tConnected { stage := 3 }).heartwoodTime 0) = true ∧
    mayAttest (tWood { state := 1, reported := true }) = false := by
  refine ⟨?_, by decide +kernel⟩
  simp [spdmChain, leBytes]
theorem witness_IslandsThrottleAndStop_throttle :
    let on := { tTiles with power := { powered := true, islands := [(0, { temp := 110, freq := 600, state := 2, throttles := 3, since := 0 })] } }
    throttleStep 0 = some (25, 100) ∧ throttleStep 1447 = some (50, 200) ∧ islandOn on 0 = true ∧
    (islandAt (after (.islandThrottleDown 0 4096 110) on) 0).freq = 575 ∧ (islandAt (after (.islandThrottleDown 0 4095 110) on) 0).freq = 600 ∧
    (islandAt (after (.islandThrottleUp 0 65536 100) on) 0).freq = 625 ∧ after (.islandThrottleUp 0 65536 101) on = on ∧ after (.islandThrottleDown 0 4096 104) on = on := by
  decide +kernel
theorem witness_IslandsThrottleAndStop_stop :
    let s := { tTiles with service := { tTiles.service with springState := [(0, 2), (1, 2), (2, 2), (3, 2)] } }
    islandOn s 0 = true ∧ backedBy s 0 = some 0 ∧ scopeResetting s (.cluster 0) = false ∧ mgetD (after (.islandShutoff 0 115) s).service.yield_ 0 0 = 5 ∧
    islandOn s 1474 = true ∧ chipState (after (.islandShutoff 1474 115) s) 2 = 3 ∧
    (∀ i ∈ [1344, 1471, 1476, 1480], islandOn s i = true) ∧ (after (.islandShutoff 1480 115) s).power.packageOff = true ∧
    (after (.pwrCycleN 100) s).service.bringUp = 0 ∧ after (.pwrCycleN 99) s = s ∧ (after (.inputOutOfRange 60001) s).tileOwner = [] ∧
    after (.inputOutOfRange 38000) s = s ∧ after (.inputOutOfRange 60000) s = s := by decide +kernel

/-! ### The whole module -/

/-- A module whose leaves and memory meet the invariants, with a command to run. -/
def tWaiting (c : Instr) : State := { tWood { state := 1, next := 3, recordA := { reservedTo := 64, recordSeq := 1, valid := true } } with pending := [c, .trafficHeld] }
theorem witness_invariants : LeavesReserved (tWaiting .trafficHeld) ∧ Memory.wf (tWaiting .trafficHeld).mem = true ∧
    (match step (tWaiting .trafficHeld) with
      | .next u => u.pending
      | _ => []) = [.trafficHeld] := by
  refine ⟨?_, by decide +kernel, by decide +kernel⟩
  unfold LeavesReserved
  decide +kernel

end Sys2Proof.Machine
end

section
/-!
PROOF. O49: what RELEASE_DISCARD_ALL does (R363, R372), and why it can leave a master frozen.

The job of a set that is released contributes to its open attempt first (R246; log 46). An attempt that ends abandoned
writes the set's scale page (R137), and where that page lies over the attempt block of a second set of the tenant, the
write counts there as a report of parts (R235). A report of a part outside `part_mask` freezes the second set's job
(R253), which has no record among those being released.
-/

namespace Sys2Proof.Machine

/-! ### Responses leave the tenants alone (R334, R339, R344) -/

@[simp] theorem State.mailboxAnswer_tenants (s : State) (k : Nat) (bs : List Byte) :
    (s.mailboxAnswer k bs).tenants = s.tenants := by
  unfold State.mailboxAnswer
  split <;> rfl

@[simp] theorem State.sendFrame_tenants (s : State) (line : Nat) (mac : BitVec 48) (ty sid seq : Nat) (payload : List Byte) :
    (s.sendFrame line mac ty sid seq payload).tenants = s.tenants := by
  unfold State.sendFrame
  dsimp only
  split
  · exact State.mailboxAnswer_tenants ..
  · rfl

@[simp] theorem State.sessionSend_tenants (s : State) (id ty : Nat) (plain : List Byte) :
    (s.sessionSend id ty plain).tenants = s.tenants := by
  unfold State.sessionSend
  split
  · exact State.sendFrame_tenants ..
  · rfl

@[simp] theorem State.respond_tenants (s : State) (path : Path) (m : DictMsg) : (s.respond path m).tenants = s.tenants := by
  cases path with
  | vf k => exact State.mailboxAnswer_tenants ..
  | pf0 => exact State.mailboxAnswer_tenants ..
  | session id =>
    unfold State.respond
    dsimp only
    split
    · exact State.sessionSend_tenants ..
    · rfl

@[simp] theorem isFrozen_reply (s : State) (path : Path) (m : DictMsg) (status t : Nat) (w : W32) :
    isFrozen (s.reply path m status) t w = isFrozen s t w := by
  simp [isFrozen, tenantAt, State.reply]

/-! ### The bytes of a number (R5) -/

theorem length_leBytes (n : Nat) : ∀ v, (leBytes n v).length = n := by
  induction n with
  | zero => intro v; rfl
  | succ n ih => intro v; simp [leBytes, ih]

theorem leNat_leBytes (n : Nat) : ∀ v, v < 256 ^ n → leNat (leBytes n v) = v := by
  induction n with
  | zero => intro v h; simp only [pow_zero] at h; simp only [leBytes, leNat]; omega
  | succ n ih =>
    intro v h
    rw [pow_succ] at h
    simp only [leBytes, leNat, BitVec.toNat_ofNat]
    rw [ih _ (by omega)]
    omega

/-! ### RELEASE_DISCARD_ALL as a write of `ReleaseRequest` (R372) -/

/-- The request that discards every frozen master of a tenant. -/
def discardAllMsg (tag : BitVec 16) (t : Nat) : DictMsg := writeMsg tag none 0x6400 2 (leBytes 8 (65536 * t + 3))

theorem writeRelease_discardAll (s : State) {t : Nat} (ht : t < 1024) :
    writeRelease s (65536 * t + 3) = .ok (s.releaseAll t true) := by
  have hm : bits (65536 * t + 3) 63 32 = 0 := by unfold bits; omega
  have hr : bits (65536 * t + 3) 31 26 = 0 := by unfold bits; omega
  have hl : bits (65536 * t + 3) 15 3 = 0 := by unfold bits; omega
  have ha : bits (65536 * t + 3) 2 0 = 3 := by unfold bits; omega
  have hT : bits (65536 * t + 3) 25 16 = t := by unfold bits; omega
  simp [writeRelease, hm, hr, hl, ha, hT]

theorem checkRequest_discardAll {role : Nat} (hr : role = 3 ∨ role = 5) (own : Option Nat) (tag : BitVec 16) (t : Nat) :
    checkRequest role own (discardAllMsg tag t) = 0 := by
  have ho : objectAt 0x6400 2 = some (opObj 5 8 3) := rfl
  have hw : mayWrite .op role = true := by simpa [mayWrite] using hr
  cases own <;> simp [checkRequest, discardAllMsg, writeMsg, ho, opObj, tenantIndex, writesObject, hw]

/-- The Operator's command, on a served path, discards every frozen master and is answered OK (R363, R372). -/
theorem exec_releaseDiscardAll {s : State} {path : Path} {role t : Nat} {own : Option Nat} (hs : Served s path role own)
    (hr : role = 3 ∨ role = 5) (ht : t < 1024) (tag : BitVec 16) :
    exec (.releaseDiscardAll path tag t) s =
      .next ((s.redraw.releaseAll t true).reply path (discardAllMsg tag t) 0) := by
  obtain ⟨hopen, hfree⟩ := hs
  have hx : exec (.releaseDiscardAll path tag t) s = .next (serveOn s path (discardAllMsg tag t) none) := by
    simp [exec, execReleaseDiscardAll, releaseRow, ht, writeRow, discardAllMsg, fieldAt]
  have hv : leNat (discardAllMsg tag t).data = 65536 * t + 3 := leNat_leBytes 8 _ (by omega)
  have hd : (discardAllMsg tag t).data.length = 8 := length_leBytes 8 _
  have hl : lengthOk (discardAllMsg tag t) = true := by simp [lengthOk, discardAllMsg, writeMsg, length_leBytes]
  have hw : writeModule s.redraw role 0x6400 2 (discardAllMsg tag t).data none = .ok (s.redraw.releaseAll t true) := by
    rw [← writeRelease_discardAll _ ht, ← hv]
    rfl
  rw [hx, serveOn_open hopen hfree,
    serveMsg_ok _ _ _ _ _ _ (opObj 5 8 3) (checkRequest_discardAll hr own tag t) rfl]
  have hc : serveChecked s.redraw path role (discardAllMsg tag t) (opObj 5 8 3) none =
      serveWrite s.redraw path role (discardAllMsg tag t) (opObj 5 8 3) none := rfl
  have hi : (discardAllMsg tag t).index.toNat = 0x6400 := rfl
  have hb : (discardAllMsg tag t).sub.toNat = 2 := rfl
  rw [hc]
  simp [serveWrite, hi, hb, hl, hd, hw, opObj, tenantIndex, State.finishWrite]

/-! ### What a release leaves frozen (R363) -/

theorem isFrozen_unfreeze (s : State) (t : Nat) (m w : W32) :
    isFrozen (s.unfreeze t m) t w = (isFrozen s t w && decide (w ≠ m)) := by
  rw [Bool.eq_iff_iff]
  simp only [isFrozen, State.unfreeze, tenantAt_updTenant_self, List.any_eq_true, List.mem_filter, Bool.and_eq_true, decide_eq_true_eq]
  constructor
  · rintro ⟨r, ⟨hr, hm⟩, rfl⟩
    exact ⟨⟨r, hr, rfl⟩, hm⟩
  · rintro ⟨⟨r, hr, rfl⟩, hm⟩
    exact ⟨r, ⟨hr, hm⟩, rfl⟩

@[simp] theorem isFrozen_updSet (s : State) (t p : Nat) (f : SetState → SetState) (u : Nat) (w : W32) :
    isFrozen (s.updSet t p f) u w = isFrozen s u w := by
  simp only [isFrozen, State.updSet, tenantAt_updTenant]
  split <;> simp_all

@[simp] theorem isFrozen_updRun (s : State) (t p : Nat) (f : SetRun → SetRun) (u : Nat) (w : W32) :
    isFrozen (s.updRun t p f) u w = isFrozen s u w := by
  simp only [isFrozen, State.updRun, tenantAt_updTenant]
  split <;> simp_all

@[simp] theorem isFrozen_leaveOpens (s : State) (t p u : Nat) (w : W32) :
    isFrozen (s.leaveOpens t p) u w = isFrozen s u w := rfl

/-- The release of a job ends the freeze of that job alone: what its contribution has frozen stays frozen. -/
theorem isFrozen_releaseJob (s : State) (t p cause : Nat) (discard : Bool) (w : W32) :
    isFrozen (s.releaseJob t p cause discard) t w = (isFrozen (s.endFrozenAttempt t p) t w && decide (w ≠ jobMaster p)) := by
  simp only [State.releaseJob]
  split <;> split <;> simp [isFrozen_unfreeze]

/-- The count a discard makes. -/
def State.countDiscard (s : State) (t : Nat) : State :=
  s.updTenant t fun x => { x with nDiscarded := satAdd 32 x.nDiscarded 1 }

/-- To discard every master of a tenant of which one job alone is frozen is to discard that job. -/
theorem releaseAll_discard_job {s : State} {t : Nat} {r : FreezeRec} (hf : (tenantAt s t).freezes = [r])
    (hk : masterKind r.master = 7) :
    s.releaseAll t true = (s.countDiscard t).releaseJob t (masterIndex r.master) r.cause true := by
  simp [State.releaseAll, State.releaseOne, State.countDiscard, hf, hk]

/-! ### A scale page over an attempt block -/

/-- A tenant whose sets 0 and 1 each run an attempt, the job of set 0 frozen by a report outside its `part_mask` (0x80). Its
attempt blocks lie at 0x80 and 0x100, and the scale page of set 0 at 0x140: on `arrivals` of set 1, which awaits part 0. -/
def overlappedTenant : Tenant :=
  { ptRoot := 0x1000
    freezes := [freezeRec (jobMaster 0) 0x80 0]
    watch :=
      { quota := 2
        entries := [(0, .tensor { histState := 1, histFirst := 1, histLen := 1, scale := 2, targetFormat := 1 }),
                    (1, .history 0 (List.replicate 15 0))]
        scalePage := [(0, 0x140)] }
    sets := [(0, { mode := 1, state := 1, attempts := 1, attBlock := 0x80, partMask := 1, arrivals := 3, jobFroze := true }),
             (1, { mode := 1, state := 1, attempts := 1, attBlock := 0x100, partMask := 1 })]
    runs := [(0, { everOpened := true }), (1, { everOpened := true })] }

/-- The module in service with that tenant as number 5, whose page 0 is page 2048 of the fast tier, and the Operator on PF 0. -/
def overlapped : State :=
  { State.reset with
    service := { State.reset.service with bringUp := 7, served := true }
    power := { powered := true }
    heartwood := { state := 1, keysHeld := true }
    host := { linkWidth := 16, linkRate := 32 }
    tenants := [(5, overlappedTenant)]
    mem :=
      { fast := [(2 ^ 36, 1), (2 ^ 36 + 1, 0x20), (2 * 2 ^ 36, 1), (2 * 2 ^ 36 + 1, 0x30), (3 * 2 ^ 36, 0x1F), (3 * 2 ^ 36 + 4, 1)]
        pageOwner := [(2048, 0x8005)] } }

theorem overlapped_served : Served overlapped .pf0 3 none := by
  unfold Served
  decide +kernel

theorem overlapped_freezes : (tenantAt overlapped 5).freezes = [freezeRec (jobMaster 0) 0x80 0] := rfl

/-- The abandoned attempt of set 0 writes scale 2 where set 1 reads the parts that have reported, and part 1 is none of
its own. -/
theorem overlapped_endFrozenAttempt :
    isFrozen ((overlapped.redraw.countDiscard 5).endFrozenAttempt 5 0) 5 (jobMaster 1) = true := by decide +kernel

/-- After every frozen master of the tenant has been discarded, the job of set 1 is frozen. -/
theorem overlapped_releaseAll : isFrozen (overlapped.redraw.releaseAll 5 true) 5 (jobMaster 1) = true := by
  have hi : masterIndex (jobMaster 0) = 0 := by decide
  have hne : jobMaster 1 ≠ jobMaster 0 := by decide
  have h := releaseAll_discard_job (s := overlapped.redraw) (t := 5) overlapped_freezes (by decide)
  simp only [freezeRec, hi] at h
  rw [h, isFrozen_releaseJob, overlapped_endFrozenAttempt]
  simp [hne]

theorem freezes_ne_nil_of_isFrozen {s : State} {t : Nat} {m : W32} (h : isFrozen s t m = true) : (tenantAt s t).freezes ≠ [] := by
  intro hnil
  simp [isFrozen, hnil] at h

/-- Refutes O49: RELEASE_DISCARD_ALL leaves a freeze record behind where the job it discards contributes to its open
attempt, and the scale page that the attempt's end writes lies over the attempt block of another set of the tenant. -/
theorem not_releasesEndFreezes : ¬ Obligations.ReleasesEndFreezes := by
  unfold Obligations.ReleasesEndFreezes
  rintro ⟨-, hall, -⟩
  have hmasters : ∀ r ∈ (tenantAt overlapped 5).freezes, masterKind r.master ≠ 7 ∨ r.master = jobMaster (masterIndex r.master) := by
    rw [overlapped_freezes]
    decide
  obtain ⟨⟨u, hu, hnone, -⟩, -⟩ := hall overlapped .pf0 1 5 3 none (by omega) overlapped_served (.inl rfl) hmasters
  rw [exec_releaseDiscardAll overlapped_served (.inl rfl) (by omega)] at hu
  injection hu with hu
  subst hu
  exact freezes_ne_nil_of_isFrozen ((isFrozen_reply ..).trans overlapped_releaseAll) hnone

end Sys2Proof.Machine
end

section
/-!
PROOF. O3: reset leaves the module off (R19, R23, R340, R374).
-/

namespace Sys2Proof.Machine

/-- No path is served while the dictionary is not (R328, R375). -/
theorem pathRole_of_not_dictServed {s : State} (h : dictServed s = false) (path : Path) : pathRole s path = none := by
  simp [pathRole, h]

/-- Settles O3: no path is served because the dictionary is not; every other clause is a field of `State.reset`, or what
an unlisted tile, byte, link, tenant or set reads as. -/
theorem resetLeavesTheModuleOff : Obligations.ResetLeavesTheModuleOff := by
  unfold Obligations.ResetLeavesTheModuleOff
  refine ⟨rfl, rfl, pathRole_of_not_dictServed rfl, fun l => ⟨rfl, rfl, rfl, fun a => rfl⟩, fun k => ⟨rfl, rfl⟩, Memory.wf_reset,
    fun l => ⟨rfl, rfl⟩, rfl, rfl, fun t => ⟨rfl, rfl, rfl⟩, fun t p => ⟨rfl, rfl⟩, rfl, rfl, rfl, rfl, rfl, rfl⟩

end Sys2Proof.Machine
end

section
/-!
PROOF. O53: what RESET_DRAIN_END of a spring chip does (R364, R380; log 121), and why it can leave a job of the chip frozen.

The frozen jobs of the chip are released in the order of their sets. A released job contributes to its open attempt first
(R246; log 46), and the end of that attempt writes the set's scale page (R137). Where the page lies over the attempt block of
a set of the tenant whose turn is past, that set's job freezes (R235, R253) behind the reset.
-/

namespace Sys2Proof.Machine

/-- The tenant of `overlappedTenant` with the two sets' parts exchanged: the job of set 1 is frozen, and the scale page of
set 1 lies over the attempt block of set 0. Both sets have a layer on chip 0. -/
def crossedTenant : Tenant :=
  { overlappedTenant with
    freezes := [freezeRec (jobMaster 1) 0x80 0]
    watch :=
      { quota := 2
        entries := [(0, .tensor { histState := 1, histFirst := 1, histLen := 1, scale := 2, targetFormat := 1, paramSet := 1 }),
                    (1, .history 0 (List.replicate 15 0))]
        scalePage := [(1, 0x140)] }
    sets := [(0, { mode := 1, state := 1, attempts := 1, attBlock := 0x100, partMask := 1, layerMap := [(0, 0x80000000)] }),
             (1, { mode := 1, state := 1, attempts := 1, attBlock := 0x80, partMask := 1, arrivals := 3, jobFroze := true,
                   layerMap := [(0, 0x80000000)] })] }

/-- The module of `overlapped` with that tenant, while chip 0 drains for its reset. -/
def crossed : State :=
  { overlapped with
    tenants := [(5, crossedTenant)]
    service := { overlapped.service with
      springState := [(0, 3)]
      resets := [{ scope := .spring 0, clearing := false, faulty := none }] } }

@[simp] theorem jobFrozen_updService (s : State) (f : ServiceState → ServiceState) (t p : Nat) :
    jobFrozen (s.updService f) t p = jobFrozen s t p := rfl

/-- A reset's drain ends: the scope is cleared, and of the rest the list of resets alone changes (R380). -/
theorem exec_resetDrainEnd {s : State} {sc : Scope} (h : (s.service.resets.any fun r => r.scope = sc && !r.clearing) = true) :
    ∃ f, exec (.resetDrainEnd sc) s = .next ((s.redraw.clearScope sc).updService f) := by
  have hx : exec (.resetDrainEnd sc) s = execResetDrainEnd sc s := rfl
  simp only [hx, execResetDrainEnd, h, Bool.not_true, Bool.false_eq_true, if_false]
  exact ⟨_, rfl⟩

theorem crossed_setsOnChip : setsOnChip crossed 0 = [(5, 0), (5, 1)] := by decide +kernel

/-- The abandoned attempt of set 1 writes scale 2 where set 0 reads the parts that have reported, and part 1 is none of
its own. -/
theorem crossed_endFrozenAttempt : isFrozen (crossed.redraw.endFrozenAttempt 5 1) 5 (jobMaster 0) = true := by decide +kernel

/-- Set 0 has no frozen job when its turn comes, so the reset releases the job of set 1 alone. -/
theorem crossed_clearJobs : crossed.redraw.clearJobs 0 = crossed.redraw.releaseJob 5 1 0x80 false := by
  have hon : setsOnChip crossed.redraw 0 = [(5, 0), (5, 1)] := crossed_setsOnChip
  have h0 : (tenantAt crossed.redraw 5).freezes.find? (fun r => r.master = jobMaster 0) = none := by decide
  have h1 : (tenantAt crossed.redraw 5).freezes.find? (fun r => r.master = jobMaster 1) = some (freezeRec (jobMaster 1) 0x80 0) := by
    decide
  simp [State.clearJobs, hon, h0, h1, freezeRec]

theorem crossed_clearScope : jobFrozen (crossed.redraw.clearScope (.spring 0)) 5 0 = true := by
  have hne : jobMaster 0 ≠ jobMaster 1 := by decide
  have hc : crossed.redraw.clearScope (.spring 0) = crossed.redraw.clearJobs 0 := rfl
  rw [jobFrozen, hc, crossed_clearJobs, isFrozen_releaseJob, crossed_endFrozenAttempt]
  simp [hne]

/-- Refutes O53: RESET_DRAIN_END of a spring chip leaves the job of a set on it frozen where the attempt that a later set's
job ends writes that set's scale page over the first set's attempt block. -/
theorem not_resetsClearTheirScope : ¬ Obligations.ResetsClearTheirScope := by
  unfold Obligations.ResetsClearTheirScope
  rintro ⟨-, -, -, hdrain, -⟩
  obtain ⟨u, hu, -, -, hjobs, -⟩ := hdrain crossed (.spring 0) ⟨_, List.mem_singleton.2 rfl, rfl, rfl⟩
  have hon : (5, 0) ∈ setsOnChip crossed 0 := crossed_setsOnChip ▸ List.mem_cons_self
  have hclear := hjobs 0 5 0 rfl hon
  obtain ⟨f, hx⟩ := exec_resetDrainEnd (s := crossed) (sc := .spring 0) (by decide)
  rw [hx] at hu
  injection hu with hu
  subst hu
  rw [jobFrozen_updService, crossed_clearScope] at hclear
  exact absurd hclear (by decide)

end Sys2Proof.Machine
end

section
/-!
SUPPORT. Folds that come to each element of a list, and what sparse tables and rising lists hold after a map or a write.
-/

namespace Sys2Proof.Machine

variable {α β : Type}

/-- A fold brings about what its step at one element brings about and every step keeps; `I` is what holds until then. -/
theorem foldl_reaches {I P : β → Prop} (f : β → α → β) {x : α} (hI : ∀ t y, I t → I (f t y)) (hx : ∀ t, I t → P (f t x))
    (hP : ∀ t y, P t → P (f t y)) : ∀ (xs : List α) (t : β), x ∈ xs → I t → P (xs.foldl f t)
  | y :: ys, t, hmem, ht => by
    rcases List.mem_cons.1 hmem with rfl | hys
    · exact foldl_keeps f hP ys _ (hx t ht)
    · exact foldl_reaches f hI hx hP ys _ hys (hI t y ht)

theorem mget_map {g : Nat × β → Nat × β} (hg : ∀ e, (g e).1 = e.1) (k : Nat) :
    ∀ m : SMap β, mget (m.map g) k = (mget m k).map fun v => (g (k, v)).2
  | [] => rfl
  | (a, v) :: rest => by
    have ha : g (a, v) = (a, (g (a, v)).2) := Prod.ext (hg _) rfl
    rw [List.map_cons, ha]
    by_cases h : a = k
    · subst h; simp [mget]
    · simp [mget, h, mget_map hg k rest]

theorem mem_of_mget {k : Nat} {v : β} : ∀ {m : SMap β}, mget m k = some v → (k, v) ∈ m
  | (a, w) :: rest, h => by
    by_cases ha : a = k
    · simp_all [mget]
    · exact List.mem_cons_of_mem _ (mem_of_mget (by simpa [mget, ha] using h))

/-- A write keeps every key of the table. -/
theorem mem_keys_mset {j : Nat} (k : Nat) (v : β) : ∀ {m : SMap β}, j ∈ m.map Prod.fst → j ∈ (mset m k v).map Prod.fst
  | (a, w) :: rest, h => by
    unfold mset
    split
    · exact List.mem_cons_of_mem _ h
    · split
      · simp_all
      · rcases List.mem_cons.1 h with rfl | h
        · exact List.mem_cons_self
        · exact List.mem_cons_of_mem _ (mem_keys_mset k v h)

theorem mem_ninsert {l : List Nat} {k j : Nat} : j ∈ ninsert l k ↔ j = k ∨ j ∈ l := by
  induction l with
  | nil => simp [ninsert]
  | cons a rest ih =>
    unfold ninsert
    split
    · simp
    · split
      · simp_all
      · simp only [List.mem_cons, ih]; tauto

theorem mem_distinct {l : List Nat} {x : Nat} (h : x ∈ l) : x ∈ distinct l := by
  refine foldl_reaches (I := fun _ => True) (P := fun a => x ∈ a) _ (fun _ _ _ => trivial) ?_ ?_ l [] h trivial
  · intro a _
    by_cases hx : x ∈ a <;> simp [hx]
  · intro a y hx
    by_cases hy : y ∈ a <;> simp [hx, hy]

end Sys2Proof.Machine
end

section
/-!
SUPPORT. What the end of a command leaves: its responses change the dictionary's state alone (R334, R339, R344), the
acknowledgements it settles no more than the bias of pages and their lines in the tiles' caches (R301, R302, R327), and its
health the bring-up state alone (R377).
-/

namespace Sys2Proof.Machine

/-! ### Responses -/

/-- Only the dictionary's state differs. -/
def OnlyDict (s u : State) : Prop := ∃ d, u = { s with dict := d }

theorem OnlyDict.trans {s t u : State} (h : OnlyDict s t) (h' : OnlyDict t u) : OnlyDict s u := by
  obtain ⟨d, rfl⟩ := h
  obtain ⟨e, rfl⟩ := h'
  exact ⟨e, rfl⟩

theorem mailboxAnswer_onlyDict (s : State) (k : Nat) (bs : List Byte) : OnlyDict s (s.mailboxAnswer k bs) := by
  unfold State.mailboxAnswer
  split <;> exact ⟨_, rfl⟩

theorem sendFrame_onlyDict (s : State) (line : Nat) (mac : BitVec 48) (ty sid seq : Nat) (payload : List Byte) :
    OnlyDict s (s.sendFrame line mac ty sid seq payload) := by
  unfold State.sendFrame
  dsimp only
  split
  · exact mailboxAnswer_onlyDict ..
  · exact ⟨_, rfl⟩

theorem sessionSend_onlyDict (s : State) (id ty : Nat) (plain : List Byte) : OnlyDict s (s.sessionSend id ty plain) := by
  unfold State.sessionSend
  split
  · exact OnlyDict.trans ⟨_, rfl⟩ (sendFrame_onlyDict ..)
  · exact ⟨_, rfl⟩

theorem respond_onlyDict (s : State) (path : Path) (m : DictMsg) : OnlyDict s (s.respond path m) := by
  cases path with
  | vf k => exact OnlyDict.trans ⟨_, rfl⟩ (mailboxAnswer_onlyDict ..)
  | pf0 => exact OnlyDict.trans ⟨_, rfl⟩ (mailboxAnswer_onlyDict ..)
  | session id =>
    unfold State.respond
    dsimp only
    split
    · exact OnlyDict.trans ⟨_, rfl⟩ (sessionSend_onlyDict ..)
    · exact ⟨_, rfl⟩

/-! ### Tiles under a map of the table of tiles -/

theorem tileAt_map (s : State) {g : Nat × Tile → Nat × Tile} (hg : ∀ e, (g e).1 = e.1) {Q : Tile → Tile → Prop}
    (hrefl : ∀ x, Q x x) (hQ : ∀ e, Q e.2 (g e).2) (l : Nat) : Q (tileAt s l) (tileAt { s with tiles := s.tiles.map g } l) := by
  simp only [tileAt, mget_map hg]
  cases mget s.tiles l with
  | none => exact hrefl _
  | some x => exact hQ (l, x)

/-! ### Acknowledgements -/

/-- A tile is as before but for what its caches keep. -/
def SameButCaches (x y : Tile) : Prop := ∃ a c, y = { x with l1 := a, icache := c }

theorem SameButCaches.trans {x y z : Tile} (h : SameButCaches x y) (h' : SameButCaches y z) : SameButCaches x z := by
  obtain ⟨a, c, rfl⟩ := h
  obtain ⟨b, d, rfl⟩ := h'
  exact ⟨b, d, rfl⟩

/-- Only the dictionary's state, the host's and the tiles' caches differ. -/
def AcksGiven (s u : State) : Prop :=
  (∃ d h x, u = { s with dict := d, host := h, tiles := x }) ∧ ∀ l, SameButCaches (tileAt s l) (tileAt u l)

theorem AcksGiven.refl (s : State) : AcksGiven s s := ⟨⟨_, _, _, rfl⟩, fun _ => ⟨_, _, rfl⟩⟩

theorem AcksGiven.trans {s t u : State} (h : AcksGiven s t) (h' : AcksGiven t u) : AcksGiven s u := by
  obtain ⟨⟨d, k, x, rfl⟩, ht⟩ := h
  obtain ⟨⟨d', k', x', rfl⟩, ht'⟩ := h'
  exact ⟨⟨d', k', x', rfl⟩, fun l => (ht l).trans (ht' l)⟩

theorem OnlyDict.acksGiven {s u : State} (h : OnlyDict s u) : AcksGiven s u := by
  obtain ⟨d, rfl⟩ := h
  exact ⟨⟨d, _, _, rfl⟩, fun _ => ⟨_, _, rfl⟩⟩

theorem dropPageLines_acksGiven (s : State) (page : Nat) : AcksGiven s (s.dropPageLines page) := by
  unfold State.dropPageLines
  refine ⟨⟨_, _, _, rfl⟩, tileAt_map s (Q := SameButCaches) ?_ (fun _ => ⟨_, _, rfl⟩) ?_⟩
  · exact fun _ => rfl
  · exact fun _ => ⟨_, _, rfl⟩

theorem ackEffect_acksGiven (s : State) (k : AckKind) : AcksGiven s (s.ackEffect k) := by
  cases k with
  | bias page toHost =>
    have hh : AcksGiven s (s.updHost fun h => { h with bias := if toHost then ninsert h.bias page else h.bias.filter (· ≠ page) }) :=
      ⟨⟨_, _, _, rfl⟩, fun _ => ⟨_, _, rfl⟩⟩
    cases toHost with
    | true => exact hh.trans (dropPageLines_acksGiven ..)
    | false => exact hh
  | _ => exact .refl s

/-- No acknowledgement but that of a flip has an effect. -/
theorem ackEffect_of_not_bias (s : State) {k : AckKind} (h : ∀ page toHost, k ≠ .bias page toHost) : s.ackEffect k = s := by
  cases k with
  | bias page toHost => exact absurd rfl (h page toHost)
  | _ => rfl

/-- One acknowledgement that is given. -/
def State.giveAck (s : State) (a : Ack) : State :=
  ((s.updDict fun d => { d with acks := d.acks.erase a }).ackEffect a.kind).respond a.path (response a.request 0 [])

theorem settleAcks_eq (s : State) : s.settleAcks =
    if s.service.lodgeAway then s else (s.dict.acks.filter fun a => ackReady s a.kind).foldl State.giveAck s := rfl

theorem giveAck_acksGiven (s : State) (a : Ack) : AcksGiven s (s.giveAck a) :=
  (AcksGiven.trans (OnlyDict.acksGiven ⟨_, rfl⟩) (ackEffect_acksGiven _ _)).trans (respond_onlyDict ..).acksGiven

theorem giveAck_tiles (s : State) {a : Ack} (h : ∀ page toHost, a.kind ≠ .bias page toHost) : (s.giveAck a).tiles = s.tiles := by
  unfold State.giveAck
  rw [ackEffect_of_not_bias _ h]
  obtain ⟨d, hd⟩ := respond_onlyDict (s.updDict fun d => { d with acks := d.acks.erase a }) a.path (response a.request 0 [])
  rw [hd]
  rfl

theorem settleAcks_acksGiven (s : State) : AcksGiven s s.settleAcks := by
  rw [settleAcks_eq]
  split
  · exact .refl s
  · exact foldl_keeps _ (fun t a ht => ht.trans (giveAck_acksGiven t a)) _ _ (.refl s)

/-- Where no flip is due, settling the acknowledgements leaves the tiles alone. -/
theorem settleAcks_tiles {s : State} (h : NoFlipDue s) : s.settleAcks.tiles = s.tiles := by
  rw [settleAcks_eq]
  split
  · rfl
  · refine List.foldlRecOn (motive := fun t : State => t.tiles = s.tiles) _ _ rfl fun t ht a ha => ?_
    obtain ⟨hmem, hready⟩ := List.mem_filter.1 ha
    rw [giveAck_tiles, ht]
    intro page toHost hk
    simp [hk, ackReady, h a hmem page toHost hk] at hready

/-- Whether a flip is due depends on the acknowledgements that wait, the tiles, the board slot and the Pool's groups alone. -/
theorem NoFlipDue.congr {s u : State} (h : NoFlipDue s) (ha : u.dict.acks = s.dict.acks) (ht : u.tiles = s.tiles)
    (hb : u.service.boardSlot = s.service.boardSlot) (hg : setGroup u = setGroup s) : NoFlipDue u := by
  intro a hmem page toHost hk
  have hl : isLocal u = isLocal s := by funext b; simp only [isLocal, hb]
  have hs : slotAddress u = slotAddress s := by funext k; simp only [slotAddress, hg]
  rw [← h a (ha ▸ hmem) page toHost hk, pageInFlight, pageInFlight, ht, hl, hs]

/-! ### Health -/

/-- The module's health changes the bring-up state and the time of its entry alone. -/
theorem regrade_spec (s : State) :
    ∃ b ts, s.regrade = s.updService fun v => { v with bringUp := b, times := ts } := by
  unfold State.regrade
  generalize (if degradedReasons s = 0 then 7 else 8) = n
  dsimp only
  split
  · exact ⟨_, _, rfl⟩
  · exact ⟨s.service.bringUp, s.service.times, rfl⟩

/-- What health and acknowledgements change at the end of a command. -/
def WoundUp (s u : State) : Prop :=
  (∃ b ts d h x, u = { s with service := { s.service with bringUp := b, times := ts }, dict := d, host := h, tiles := x }) ∧
  (∀ l, SameButCaches (tileAt s l) (tileAt u l)) ∧ (NoFlipDue s → u.tiles = s.tiles)

theorem regrade_settleAcks_woundUp (s : State) : WoundUp s s.regrade.settleAcks := by
  obtain ⟨b, ts, hr⟩ := regrade_spec s
  obtain ⟨⟨d, h, x, hu⟩, ht⟩ := settleAcks_acksGiven s.regrade
  have htiles : s.regrade.tiles = s.tiles := by rw [hr]; rfl
  refine ⟨⟨b, ts, d, h, x, ?_⟩, fun l => ?_, fun hn => ?_⟩
  · rw [hu, hr]; rfl
  · have := ht l
    rwa [show tileAt s.regrade l = tileAt s l by rw [tileAt, tileAt, htiles]] at this
  · rw [settleAcks_tiles (hn.congr (by rw [hr]; rfl) htiles (by rw [hr]; rfl) (by rw [hr]; rfl)), htiles]

end Sys2Proof.Machine
end

section
/-!
SUPPORT. What ends with the work of a tile (R315, R364, R381), and what a tile that is withdrawn leaves: it belongs to no
one, and the `Shortfall` of the tenant that held it shows the loss (R358).
-/

namespace Sys2Proof.Machine

/-! ### `Shortfall` (R358) -/

/-- No bit of a `Shortfall` is cleared. -/
def MoreShort (s u : State) : Prop :=
  ∀ t i, (tenantAt s t).shortfall.getLsbD i = true → (tenantAt u t).shortfall.getLsbD i = true

theorem MoreShort.trans {s t u : State} (h : MoreShort s t) (h' : MoreShort t u) : MoreShort s u :=
  fun x i hx => h' x i (h x i hx)

theorem setShortfall_moreShort (s : State) (t b : Nat) : MoreShort s (s.setShortfall t b) := by
  intro x i hx
  simp only [State.setShortfall, tenantAt_updTenant]
  split
  · subst_vars; simp [hx]
  · exact hx

theorem setShortfall_sets (s : State) (t : Nat) {b : Nat} (hb : b < 32) :
    (tenantAt (s.setShortfall t b) t).shortfall.getLsbD b = true := by
  have : (BitVec.ofNat 32 (2 ^ b)).getLsbD b = true := by rw [BitVec.getLsbD_ofNat, Nat.testBit_two_pow_self]; simpa using hb
  rw [State.setShortfall, tenantAt_updTenant_self, BitVec.getLsbD_or, this, Bool.or_true]

/-- Marking a shortfall of several tenants touches the tenants alone, and marks each. -/
theorem foldl_setShortfall (b : Nat) (ts : List Nat) (s : State) :
    ∃ v, ts.foldl (fun s t => s.setShortfall t b) s = { s with tenants := v } :=
  foldl_keeps (P := fun u => ∃ v, u = { s with tenants := v }) _ (by rintro _ t ⟨v, rfl⟩; exact ⟨_, rfl⟩) ts s ⟨_, rfl⟩

theorem foldl_setShortfall_sets {b t : Nat} (hb : b < 32) {ts : List Nat} (ht : t ∈ ts) (s : State) :
    (tenantAt (ts.foldl (fun s t => s.setShortfall t b) s) t).shortfall.getLsbD b = true :=
  foldl_reaches (I := fun _ => True) (P := fun u : State => (tenantAt u t).shortfall.getLsbD b = true) 
    (fun (u : State) x => u.setShortfall x b) (fun _ _ _ => trivial) (fun u _ => setShortfall_sets u t hb)
    (fun u x hu => setShortfall_moreShort u x b t b hu) ts s ht trivial

/-! ### What the end of work leaves alone -/

/-- The module's service, the owners of its tiles and every `Shortfall` are as before. -/
structure KeepsHoldings (s u : State) : Prop where
  service : u.service = s.service
  tileOwner : u.tileOwner = s.tileOwner
  shortfall : ∀ t, (tenantAt u t).shortfall = (tenantAt s t).shortfall

theorem KeepsHoldings.refl (s : State) : KeepsHoldings s s := ⟨rfl, rfl, fun _ => rfl⟩

theorem KeepsHoldings.trans {s t u : State} (h : KeepsHoldings s t) (h' : KeepsHoldings t u) : KeepsHoldings s u :=
  ⟨h'.service.trans h.service, h'.tileOwner.trans h.tileOwner, fun x => (h'.shortfall x).trans (h.shortfall x)⟩

theorem KeepsHoldings.moreShort {s u : State} (h : KeepsHoldings s u) : MoreShort s u := by
  intro t i hi
  rwa [h.shortfall]

theorem KeepsHoldings.ownerOf {s u : State} (h : KeepsHoldings s u) (l : Nat) : ownerOf u l = ownerOf s l := by
  unfold Machine.ownerOf
  rw [h.tileOwner]

theorem updTenant_keepsHoldings (s : State) (t : Nat) {f : Tenant → Tenant} (hf : ∀ x, (f x).shortfall = x.shortfall) :
    KeepsHoldings s (s.updTenant t f) := by
  refine ⟨rfl, rfl, fun x => ?_⟩
  rw [tenantAt_updTenant]
  split
  · subst_vars; exact hf _
  · rfl

theorem updQueue_keepsHoldings (s : State) (t q : Nat) (f : Queue → Queue) : KeepsHoldings s (s.updQueue t q f) := by
  unfold State.updQueue
  exact updTenant_keepsHoldings s t (by exact fun _ => rfl)

theorem updWatch_keepsHoldings (s : State) (t : Nat) (f : WatchState → WatchState) : KeepsHoldings s (s.updWatch t f) := by
  unfold State.updWatch
  exact updTenant_keepsHoldings s t (by exact fun _ => rfl)

theorem forgetMasters_keepsHoldings (s : State) (t l : Nat) : KeepsHoldings s (s.forgetMasters t l) := by
  unfold State.forgetMasters
  exact updTenant_keepsHoldings s t (by exact fun _ => rfl)

theorem foldl_keepsHoldings {α : Type} {f : State → α → State} (hf : ∀ t x, KeepsHoldings t (f t x)) (xs : List α) (s : State) :
    KeepsHoldings s (xs.foldl f s) :=
  foldl_keeps (P := KeepsHoldings s) f (fun t x ht => ht.trans (hf t x)) xs s (.refl s)

theorem setRoute_keepsHoldings (s : State) (l tag i : Nat) (r : Route) : KeepsHoldings s (s.setRoute l tag i r) := by
  unfold State.setRoute
  split <;> exact ⟨rfl, rfl, fun _ => rfl⟩

theorem passOn_keepsHoldings (s : State) (l tag i : Nat) (r : Route) : KeepsHoldings s (s.passOn l tag i r) := by
  unfold State.passOn
  split
  · exact .refl s
  · rename_i w rest _
    have hw := setRoute_keepsHoldings s w.1 w.2.1 w.2.2 r
    exact (hw.trans (foldl_keepsHoldings (fun _ _ => setRoute_keepsHoldings ..) rest _)).trans ⟨rfl, rfl, fun _ => rfl⟩

theorem dropReads_keepsHoldings (s : State) (l tag : Nat) : KeepsHoldings s (s.dropReads l tag) := by
  unfold State.dropReads
  split
  · rename_i st _
    have hs : KeepsHoldings s (s.setStream l tag { st with routes := [], got := [] }) := ⟨rfl, rfl, fun _ => rfl⟩
    exact (hs.trans (foldl_keepsHoldings (fun _ _ => passOn_keepsHoldings ..) _ _)).trans ⟨rfl, rfl, fun _ => rfl⟩
  · exact .refl s

/-- A completion record goes to the fast tier and to the host. -/
theorem putRecord_spec (s : State) (t q seq status cause detail moved : Nat) :
    ∃ m h, s.putRecord t q seq status cause detail moved = { s with mem := m, host := h } := by
  have hb : ∀ a n, ∃ h, s.touchBias a n = { s with host := h } := by
    intro a n
    unfold State.touchBias
    dsimp only
    split <;> exact ⟨_, rfl⟩
  have hw : ∀ (u : State) a bs, ∃ h, u.writeHost a bs = { u with host := h } := by
    intro u a bs
    unfold State.writeHost
    split <;> exact ⟨_, rfl⟩
  unfold State.putRecord
  dsimp only
  obtain ⟨h, he⟩ := hb (recordAddress s t q seq) 32
  obtain ⟨fast, bad, hd, -⟩ := writeDpa_spec (s.touchBias (recordAddress s t q seq) 32) (recordAddress s t q seq)
    (recordBytes seq q status cause detail moved)
  rw [hd, he]
  split
  · exact ⟨_, _, rfl⟩
  · rename_i a
    generalize windowBase _ + _ + _ = w
    generalize recordBytes seq q status cause detail moved = bs
    obtain ⟨h1, e1⟩ := hw { s with host := h, mem := { s.mem with fast := fast, fastBad := bad } } w (bs.take 24)
    obtain ⟨h2, e2⟩ := hw { s with host := h1, mem := { s.mem with fast := fast, fastBad := bad } } (w + 24) (bs.drop 24)
    exact ⟨_, _, (congrArg (fun u : State => u.writeHost (w + 24) (bs.drop 24)) e1).trans e2⟩

/-- A completion leaves the tiles alone, and every holding. -/
theorem completeDesc_keeps (s : State) (t q seq epoch status cause detail moved : Nat) :
    KeepsHoldings s (s.completeDesc t q seq epoch status cause detail moved) ∧
      (s.completeDesc t q seq epoch status cause detail moved).tiles = s.tiles := by
  unfold State.completeDesc
  split
  · exact ⟨.refl s, rfl⟩
  · obtain ⟨m, h, hp⟩ := putRecord_spec s t q seq status cause detail moved
    have hk : KeepsHoldings s (s.putRecord t q seq status cause detail moved) := by rw [hp]; exact ⟨rfl, rfl, fun _ => rfl⟩
    have ht : (s.putRecord t q seq status cause detail moved).tiles = s.tiles := by rw [hp]
    exact ⟨hk.trans (updQueue_keepsHoldings ..), ht⟩

theorem foldl_keepsTiles {α : Type} {f : State → α → State} (hf : ∀ t x, KeepsHoldings t (f t x) ∧ (f t x).tiles = t.tiles)
    (xs : List α) (s : State) : KeepsHoldings s (xs.foldl f s) ∧ (xs.foldl f s).tiles = s.tiles :=
  ⟨foldl_keepsHoldings (fun t x => (hf t x).1) xs s,
    foldl_keeps (P := fun t : State => t.tiles = s.tiles) f (fun t x ht => (hf t x).2.trans ht) xs s rfl⟩

/-- The state in which the work of a tile has ended, before its blocks complete. -/
def State.quietTile (s : State) (l : Nat) : State :=
  let s1 := (tileAt s l).streams.foldl (fun s (e : Nat × Stream) => s.dropReads l e.1) s
  let s2 := match ownerOf s l with
    | some t => s1.forgetMasters t l
    | none => s1
  (s2.orphanTile l).setTile l { tileAt s2 l with blocks := [], streams := [], accesses := [], ops := [] }

/-- A block that ends: its census stays unattributed, and its descriptor completes with status 2. -/
def State.endBlock (l : Nat) (s : State) (e : Nat × Block) : State :=
  (if e.2.census.isEmpty then s else s.unattribute e.2.launch.tenant e.2.census).completeDesc e.2.launch.tenant e.2.launch.queue
    e.2.launch.seq e.2.launch.epoch 2 0 l 0

theorem endTileWork_eq (s : State) (l : Nat) :
    s.endTileWork l = (tileAt s l).blocks.foldl (State.endBlock l) (s.quietTile l) := rfl

theorem quietTile_keepsHoldings (s : State) (l : Nat) : KeepsHoldings s (s.quietTile l) := by
  have h1 : KeepsHoldings s ((tileAt s l).streams.foldl (fun s (e : Nat × Stream) => s.dropReads l e.1) s) :=
    foldl_keepsHoldings (fun _ _ => dropReads_keepsHoldings ..) _ s
  unfold State.quietTile
  cases Machine.ownerOf s l with
  | none => exact h1.trans ⟨rfl, rfl, fun _ => rfl⟩
  | some t => exact (h1.trans (forgetMasters_keepsHoldings ..)).trans ⟨rfl, rfl, fun _ => rfl⟩

theorem endBlock_keeps (l : Nat) (s : State) (e : Nat × Block) :
    KeepsHoldings s (State.endBlock l s e) ∧ (State.endBlock l s e).tiles = s.tiles := by
  unfold State.endBlock
  split
  · exact completeDesc_keeps ..
  · obtain ⟨hk, ht⟩ := completeDesc_keeps (s.unattribute e.2.launch.tenant e.2.census) e.2.launch.tenant e.2.launch.queue
      e.2.launch.seq e.2.launch.epoch 2 0 l 0
    exact ⟨(updWatch_keepsHoldings ..).trans hk, ht⟩

theorem endTileWork_keepsHoldings (s : State) (l : Nat) : KeepsHoldings s (s.endTileWork l) := by
  rw [endTileWork_eq]
  exact (quietTile_keepsHoldings s l).trans (foldl_keepsTiles (endBlock_keeps l) _ _).1

/-- A tile whose work has ended runs no block and holds no stream. -/
theorem tileAt_endTileWork (s : State) (l : Nat) :
    (tileAt (s.endTileWork l) l).blocks = [] ∧ (tileAt (s.endTileWork l) l).streams = [] := by
  have ht : tileAt (s.endTileWork l) l = tileAt (s.quietTile l) l := by
    rw [endTileWork_eq, tileAt, (foldl_keepsTiles (endBlock_keeps l) _ _).2, ← tileAt]
  rw [ht, State.quietTile, tileAt_setTile_self]
  exact ⟨rfl, rfl⟩

/-! ### A tile that is withdrawn (R357, R358) -/

/-- A scrub leaves every holding. -/
theorem scrubTile_keepsHoldings (s : State) (l : Nat) : KeepsHoldings s (s.scrubTile l) := by
  unfold State.scrubTile
  dsimp only
  split <;> exact ⟨rfl, rfl, fun _ => rfl⟩

theorem tileAt_scrubTile_blocks (s : State) (l : Nat) : (tileAt (s.scrubTile l) l).blocks = [] := by
  unfold State.scrubTile
  dsimp only
  split
  · simp [State.reseedTile]
  · simp

theorem tileAt_loseMulticast_blocks (s : State) (l j : Nat) :
    (tileAt (s.loseMulticast l) j).blocks = (tileAt s j).blocks := by
  unfold State.loseMulticast
  refine (tileAt_map s (Q := fun x y => x.blocks = y.blocks) ?_ (fun _ => rfl) ?_ j).symm
  · intro e; dsimp only; split <;> rfl
  · intro e; dsimp only; split <;> rfl

/-- A tile taken from its tenant: scrubbed, and of no one. -/
def State.takeTile (s : State) (l : Nat) : State := (s.giveTile l none).loseMulticast l

theorem takeTile_spec (s : State) (l : Nat) :
    (s.takeTile l).service = s.service ∧ (s.takeTile l).tileOwner = merase s.tileOwner l ∧
      (s.takeTile l).tenants = s.tenants ∧ (tileAt (s.takeTile l) l).blocks = [] := by
  have hw : (s.scrubTile l).countWait.service = s.service ∧ (s.scrubTile l).countWait.tenants = s.tenants ∧
      (s.scrubTile l).countWait.tiles = (s.scrubTile l).tiles := by
    unfold State.countWait State.scrubTile State.reseedTile
    dsimp only
    split <;> split <;> exact ⟨rfl, rfl, rfl⟩
  obtain ⟨hs, ht, hx⟩ := hw
  refine ⟨hs, rfl, ht, ?_⟩
  rw [State.takeTile, tileAt_loseMulticast_blocks, ← tileAt_scrubTile_blocks s l, State.giveTile]
  simp only [tileAt, State.updGlobals_tiles, hx]

/-- The waiting launches of a tile have completed, and it is still its owner's. -/
def State.emptyTile (s : State) (l : Nat) : State :=
  let s1 := s.endTileWork l
  (tileAt s1 l).waiting.foldl (fun s la => s.completeDesc la.tenant la.queue la.seq la.epoch 5 0 l 0)
    (s1.setTile l { tileAt s1 l with waiting := [] })

theorem emptyTile_spec (s : State) (l : Nat) : KeepsHoldings s (s.emptyTile l) ∧ (tileAt (s.emptyTile l) l).blocks = [] := by
  obtain ⟨hk, ht⟩ := foldl_keepsTiles (f := fun s (la : Launch) => s.completeDesc la.tenant la.queue la.seq la.epoch 5 0 l 0)
    (fun _ _ => completeDesc_keeps ..) (tileAt (s.endTileWork l) l).waiting
    ((s.endTileWork l).setTile l { tileAt (s.endTileWork l) l with waiting := [] })
  have hw : KeepsHoldings (s.endTileWork l) ((s.endTileWork l).setTile l { tileAt (s.endTileWork l) l with waiting := [] }) :=
    ⟨rfl, rfl, fun _ => rfl⟩
  refine ⟨((endTileWork_keepsHoldings s l).trans hw).trans hk, ?_⟩
  rw [State.emptyTile, tileAt, ht, ← tileAt, tileAt_setTile_self]
  exact (tileAt_endTileWork s l).1

theorem withdrawTile_eq (s : State) (l b : Nat) : s.withdrawTile l b =
    match ownerOf s l, mget s.globals.heldOwner l with
    | some t, _ => ((s.emptyTile l).takeTile l).setShortfall t b
    | none, some t => ((s.emptyTile l).takeTile l).setShortfall t b
    | none, none => s.emptyTile l := rfl

/-- A withdrawn tile belongs to no one and runs no block, the loss is on the `Shortfall` of its owner, and every other
tile's owner and the module's service are as before. -/
structure TileLeft (s : State) (l b : Nat) (u : State) : Prop where
  service : u.service = s.service
  owner : ∀ j, ownerOf u j = if j = l then none else ownerOf s j
  blocks : (tileAt u l).blocks = []
  moreShort : MoreShort s u
  short : ∀ t, ownerOf s l = some t → (tenantAt u t).shortfall.getLsbD b = true

theorem takeTile_tileLeft (s : State) (l : Nat) {b : Nat} (hb : b < 32) (t : Nat) (ht : ∀ x, ownerOf s l = some x → x = t) :
    TileLeft s l b (((s.emptyTile l).takeTile l).setShortfall t b) := by
  obtain ⟨hk, -⟩ := emptyTile_spec s l
  obtain ⟨hs, ho, hn, hbl⟩ := takeTile_spec (s.emptyTile l) l
  refine ⟨hs.trans hk.service, fun j => ?_, hbl, ?_, ?_⟩
  · have : ownerOf (((s.emptyTile l).takeTile l).setShortfall t b) j = mget (merase (s.emptyTile l).tileOwner l) j := by rw [← ho]; rfl
    rw [this, mget_merase, hk.tileOwner]
    rfl
  · refine MoreShort.trans (fun x i hx => ?_) (setShortfall_moreShort _ t b)
    rw [tenantAt, hn, ← tenantAt]
    exact hk.moreShort x i hx
  · intro x hx
    rw [ht x hx]
    exact setShortfall_sets _ _ hb

theorem withdrawTile_tileLeft (s : State) (l : Nat) {b : Nat} (hb : b < 32) : TileLeft s l b (s.withdrawTile l b) := by
  rw [withdrawTile_eq]
  cases ho : ownerOf s l with
  | some t => exact takeTile_tileLeft s l hb t fun x hx => by simpa [ho, eq_comm] using hx
  | none =>
    cases mget s.globals.heldOwner l with
    | some t => exact takeTile_tileLeft s l hb t fun x hx => by simp [ho] at hx
    | none =>
      obtain ⟨hk, hbl⟩ := emptyTile_spec s l
      refine ⟨hk.service, fun j => ?_, hbl, hk.moreShort, fun t ht => by simp [ho] at ht⟩
      rw [hk.ownerOf]
      split
      · subst_vars; exact ho
      · rfl

end Sys2Proof.Machine
end

section
/-!
PROOF. O48: what MODULE_WITHDRAWAL takes from its clearings and from service (R29, R184, R258, R358, R391; log 78).
-/

namespace Sys2Proof.Machine

/-! ### The command -/

/-- After bring-up, the part goes, and then health and acknowledgements follow. -/
theorem exec_moduleWithdrawal {s : State} (h : 7 ≤ s.service.bringUp) (w : Withdrawal) :
    ∃ u, exec (.moduleWithdrawal w) s = .next u ∧ WoundUp (s.redraw.withdraw w) u := by
  refine ⟨(s.redraw.withdraw w).regrade.settleAcks, ?_, regrade_settleAcks_woundUp _⟩
  have hx : exec (.moduleWithdrawal w) s = execModuleWithdrawal w s := rfl
  rw [hx, execModuleWithdrawal, if_neg (by omega)]

theorem degrade_onlyLog (s : State) (source : W32) (now : Nat) : ∃ l, s.degrade source now = { s with log := l } :=
  report_onlyLog ..

/-! ### A tile without a spare (R391) -/

/-- Whether a physical tile is a free spare depends on the module's service alone. -/
theorem physState_congr {s u : State} (h : u.service = s.service) : physState u = physState s := by
  funext p
  simp only [physState, backedBy, h]

/-- A tile that fails where its die has no free spare leaves the map and its clearing. -/
theorem replaceTile_lost {s : State} {l x : Nat} (hx : mget s.service.backing l = some x)
    (hfree : ((List.range 16).filter fun k => physState s (336 * dieOf l + 320 + k) = 1) = []) :
    tilePresent (s.replaceTile l) l = false ∧ ownerOf (s.replaceTile l) l = none ∧ (tileAt (s.replaceTile l) l).blocks = [] ∧
      ∀ t, ownerOf s l = some t → (tenantAt (s.replaceTile l) t).shortfall.getLsbD 0 = true := by
  let m := (s.updService fun v => { v with yield_ := mset v.yield_ x 5 }).remap fun m => merase m l
  obtain ⟨hservice, howner, hblocks, -, hshort⟩ := withdrawTile_tileLeft m l (b := 0) (by omega)
  obtain ⟨g, hg⟩ := degrade_onlyLog (m.withdrawTile l 0) (sourcePath 0 l 0 0) (logicalTiles (m.withdrawTile l 0))
  obtain ⟨b, ts, hb⟩ := regrade_spec { m.withdrawTile l 0 with log := g }
  have hr : s.replaceTile l = ({ m.withdrawTile l 0 with log := g } : State).updService fun v => { v with bringUp := b, times := ts } := by
    rw [← hb, ← hg]
    simp only [State.replaceTile, hx, hfree, nearestSpare, List.foldl_nil, m]
  have hpresent : tilePresent (m.withdrawTile l 0) l = false := by
    have hb : m.service.backing = merase s.service.backing l := rfl
    rw [tilePresent, hservice, hb, mget_merase_self, Option.isSome_none]
  rw [hr]
  exact ⟨hpresent, (howner l).trans (if_pos rfl), hblocks, hshort⟩

/-- The tile of a withdrawal that no spare replaces (R358, R391). -/
theorem tile_withdrawn {s : State} {l x : Nat} (h : 7 ≤ s.service.bringUp) (hx : mget s.service.backing l = some x)
    (hfree : (List.range 16).all (fun k => physState s (336 * dieOf l + 320 + k) ≠ 1) = true) :
    ∃ u, exec (.moduleWithdrawal (.tile l)) s = .next u ∧ tilePresent u l = false ∧ ownerOf u l = none ∧ (tileAt u l).blocks = [] ∧
      ∀ t, ownerOf s l = some t → (tenantAt u t).shortfall.getLsbD 0 = true := by
  obtain ⟨u, hu, hw⟩ := exec_moduleWithdrawal h (.tile l)
  have hk := endTileWork_keepsHoldings s.redraw l
  have hpresent : tilePresent s.redraw l = true := by simp [tilePresent, hx]
  have hgone : s.redraw.withdraw (.tile l) = (s.redraw.endTileWork l).replaceTile l := by simp [State.withdraw, hpresent]
  have hnone : ((List.range 16).filter fun k => physState (s.redraw.endTileWork l) (336 * dieOf l + 320 + k) = 1) = [] := by
    rw [physState_congr (u := s.redraw.endTileWork l) (s := s) (hk.service.trans rfl)]
    simpa [List.filter_eq_nil_iff] using hfree
  obtain ⟨hp, ho, hb, hs⟩ := replaceTile_lost (s := s.redraw.endTileWork l) (x := x) (by rw [hk.service]; exact hx) hnone
  rw [hgone] at hw
  obtain ⟨⟨b, ts, d, k, y, rfl⟩, hcaches, -⟩ := hw
  obtain ⟨a, c, ht⟩ := hcaches l
  exact ⟨_, hu, hp, ho, by rw [ht]; exact hb, fun t hown => hs t (by rw [hk.ownerOf]; exact hown)⟩

/-! ### A channel, and the stack of a second one (R184) -/

/-- Pages that leave their clearings change the page map and the tenants. -/
theorem withdrawPages_spec (s : State) :
    ∃ o v, s.withdrawPages = { s with mem := { s.mem with pageOwner := o }, tenants := v } := by
  unfold State.withdrawPages
  dsimp only
  obtain ⟨v, hv⟩ := foldl_setShortfall 1 _ (s.updMem _)
  exact ⟨_, v, hv⟩

/-- The first channel a stack loses is retired; memory's bytes and the stacks in service stay. -/
theorem retireChannel_first {s : State} {st : Nat} (h : mget s.mem.retired st = none) (ch : Nat) :
    ∃ q r o v, s.retireChannel st ch =
      { s with mem := { s.mem with retired := mset s.mem.retired st ch, retrainQueue := q, retraining := r, pageOwner := o },
               tenants := v } := by
  unfold State.retireChannel
  simp only [State.updMem, h]
  obtain ⟨o, v, hv⟩ := withdrawPages_spec { s with mem := { s.mem with
    retrainQueue := s.mem.retrainQueue.filter fun c => !(decide (c / 32 = st) && (none.isSome || decide (c % 32 = ch)))
    retraining := s.mem.retraining.filter fun e => !(decide ((32 * e.1 + e.2) / 32 = st) && (none.isSome || decide ((32 * e.1 + e.2) % 32 = ch)))
    retired := mset s.mem.retired st ch } }
  exact ⟨_, _, o, v, hv⟩

/-- The second channel a stack loses takes it out of service. -/
theorem retireChannel_second {s : State} {st k : Nat} (h : mget s.mem.retired st = some k) (ch : Nat) :
    st ∈ (s.retireChannel st ch).service.stacksOut := by
  unfold State.retireChannel
  simp only [State.updMem, h]
  obtain ⟨o, v, hv⟩ := withdrawPages_spec _
  rw [hv]
  exact mem_ninsert.2 (.inl rfl)

theorem withdraw_channel {s : State} {st ch : Nat} (hst : st < 20) (hch : ch < 32) (hin : st ∉ s.service.stacksOut)
    (hne : mget s.mem.retired st ≠ some ch) : ∃ l, s.withdraw (.channel st ch) = { s.retireChannel st ch with log := l } := by
  have hg : (decide (st ≥ 20) || decide (ch ≥ 32) || s.service.stacksOut.contains st || decide (mget s.mem.retired st = some ch)) = false := by
    simp [hin, hne]; omega
  simp only [State.withdraw, hg]
  exact degrade_onlyLog ..

/-- The first channel of a stack that fails in service. -/
theorem firstChannel_withdrawn {s : State} {st ch : Nat} (h : 7 ≤ s.service.bringUp) (hst : st < 20) (hch : ch < 32)
    (hin : st ∉ s.service.stacksOut) (hret : mget s.mem.retired st = none) :
    ∃ u, exec (.moduleWithdrawal (.channel st ch)) s = .next u ∧ mget u.mem.retired st = some ch ∧
      u.service.stacksOut = s.service.stacksOut ∧ u.mem.fast = s.mem.fast ∧ (NoFlipDue s → u.tiles = s.tiles) := by
  obtain ⟨u, hu, hw⟩ := exec_moduleWithdrawal h (.channel st ch)
  obtain ⟨g, hg⟩ := withdraw_channel (s := s.redraw) (ch := ch) hst hch hin (by simp [hret])
  obtain ⟨q, r, o, v, hr⟩ := retireChannel_first (s := s.redraw) hret ch
  rw [hg, hr] at hw
  obtain ⟨⟨b, ts, d, k, y, rfl⟩, -, ht⟩ := hw
  exact ⟨_, hu, mget_mset_self .., rfl, rfl, fun hn => ht (hn.congr rfl rfl rfl rfl)⟩

/-- With a stack out of service no queue is read (R391). -/
theorem queueReady_of_stackOut {s : State} {st : Nat} (h : st ∈ s.service.stacksOut) (t q : Nat) : queueReady s t q = false := by
  have : s.service.stacksOut.isEmpty = false := by
    cases hs : s.service.stacksOut with
    | nil => simp [hs] at h
    | cons => rfl
  simp [queueReady, this]

/-- The second channel of a stack that fails in service. -/
theorem secondChannel_withdrawn {s : State} {st ch k : Nat} (h : 7 ≤ s.service.bringUp) (hst : st < 20) (hch : ch < 32)
    (hin : st ∉ s.service.stacksOut) (hret : mget s.mem.retired st = some k) (hne : k ≠ ch) :
    ∃ u, exec (.moduleWithdrawal (.channel st ch)) s = .next u ∧ st ∈ u.service.stacksOut ∧ ∀ t q, queueReady u t q = false := by
  obtain ⟨u, hu, hw⟩ := exec_moduleWithdrawal h (.channel st ch)
  obtain ⟨g, hg⟩ := withdraw_channel (s := s.redraw) (ch := ch) hst hch hin (by simp [hret, hne])
  have hout := retireChannel_second (s := s.redraw) hret ch
  rw [hg] at hw
  obtain ⟨⟨b, ts, d, k, y, rfl⟩, -, -⟩ := hw
  exact ⟨_, hu, hout, queueReady_of_stackOut hout⟩

/-! ### A set group (R358) -/

/-- A way that is dropped leaves the directory; of the rest only the streams of the reads that joined it change. -/
theorem dropWay_spec (s : State) (key : Nat) :
    ∃ x, s.dropWay key = { s with mem := { s.mem with dir := merase s.mem.dir key }, tiles := x } := by
  have hr : ∀ (u : State) ws, ∃ x, u.reroute ws = { u with tiles := x } := by
    intro u ws
    refine foldl_keeps (P := fun v => ∃ x, v = { u with tiles := x }) _ ?_ ws u ⟨_, rfl⟩
    rintro _ w ⟨x, rfl⟩
    unfold State.setRoute
    repeat' split
    all_goals exact ⟨_, rfl⟩
  exact hr (s.setWay key noWay) _

/-- No way of a group that is dropped is left. -/
theorem dropGroup_spec (s : State) (g : Nat) :
    ∃ m x, s.dropGroup g = { s with mem := { s.mem with dir := m }, tiles := x } ∧ ∀ k, k / 4096 = g → mget m k = none := by
  have hframe : ∃ m x, s.dropGroup g = { s with mem := { s.mem with dir := m }, tiles := x } := by
    refine foldl_keeps (P := fun u => ∃ m x, u = { s with mem := { s.mem with dir := m }, tiles := x }) _ ?_ _ s ⟨_, _, rfl⟩
    rintro _ e ⟨m, x, rfl⟩
    obtain ⟨y, hy⟩ := dropWay_spec { s with mem := { s.mem with dir := m }, tiles := x } e.1
    exact ⟨_, _, hy⟩
  have hkeeps : ∀ (k : Nat) (t : State) (e : Nat × Way), mget t.mem.dir k = none → mget (t.dropWay e.1).mem.dir k = none := by
    intro k t e h
    obtain ⟨y, hy⟩ := dropWay_spec t e.1
    rw [hy, mget_merase]
    split
    · rfl
    · exact h
  have hnone : ∀ k, k / 4096 = g → mget (s.dropGroup g).mem.dir k = none := by
    intro k hk
    cases hv : mget s.mem.dir k with
    | none => exact foldl_keeps (P := fun t : State => mget t.mem.dir k = none) _ (hkeeps k) _ s hv
    | some v =>
      refine foldl_reaches (I := fun _ => True) (P := fun t : State => mget t.mem.dir k = none)
        (fun s (e : Nat × Way) => s.dropWay e.1) (x := (k, v)) (fun _ _ _ => trivial) ?_ (hkeeps k) _ s ?_ trivial
      · intro t _
        obtain ⟨y, hy⟩ := dropWay_spec t k
        rw [hy]
        exact mget_merase_self ..
      · exact List.mem_filter.2 ⟨mem_of_mget hv, by simpa using hk⟩
  obtain ⟨m, x, h⟩ := hframe
  exact ⟨m, x, h, fun k hk => by simpa [h] using hnone k hk⟩

/-- A set group that leaves service has no entry and no way, and its tenant's `Shortfall` shows the loss. -/
theorem withdrawGroup_spec (s : State) (g : Nat) :
    mget (s.withdrawGroup g).mem.setGroups g = none ∧ g ∈ (s.withdrawGroup g).mem.groupsOut ∧
      (∀ k, k / 4096 = g → wayAt (s.withdrawGroup g) k = noWay) ∧
      ∀ t, groupTenant (mgetD s.mem.setGroups g 0).toNat = some t → (tenantAt (s.withdrawGroup g) t).shortfall.getLsbD 2 = true := by
  obtain ⟨m, x, hd, hnone⟩ := dropGroup_spec s g
  have hset : ∃ v, s.withdrawGroup g = { s with
      mem := { s.mem with dir := m, setGroups := merase s.mem.setGroups g, groupsOut := ninsert s.mem.groupsOut g }
      tiles := x, tenants := v } := by
    unfold State.withdrawGroup
    dsimp only
    rw [hd]
    split <;> exact ⟨_, rfl⟩
  refine ⟨?_, ?_, ?_, ?_⟩
  · obtain ⟨v, hv⟩ := hset
    rw [hv]
    exact mget_merase_self ..
  · obtain ⟨v, hv⟩ := hset
    rw [hv]
    exact mem_ninsert.2 (.inl rfl)
  · obtain ⟨v, hv⟩ := hset
    intro k hk
    simp [hv, wayAt, hnone k hk]
  · intro t ht
    simp only [State.withdrawGroup, ht]
    exact setShortfall_sets _ _ (by omega)

/-- The set group of a withdrawal. -/
theorem setGroup_withdrawn {s : State} {g : Nat} (h : 7 ≤ s.service.bringUp) (hg : g < 4096) (hin : g ∉ s.mem.groupsOut) :
    ∃ u, exec (.moduleWithdrawal (.setGroup g)) s = .next u ∧ mget u.mem.setGroups g = none ∧ g ∈ u.mem.groupsOut ∧
      (∀ k, k / 4096 = g → wayAt u k = noWay) ∧
      ∀ t, groupTenant (mgetD s.mem.setGroups g 0).toNat = some t → (tenantAt u t).shortfall.getLsbD 2 = true := by
  obtain ⟨u, hu, hw⟩ := exec_moduleWithdrawal h (.setGroup g)
  have hgone : ∃ l, s.redraw.withdraw (.setGroup g) = { s.redraw.withdrawGroup g with log := l } := by
    have hc : (decide (g ≥ 4096) || s.redraw.mem.groupsOut.contains g) = false := by simp [hin]; omega
    simp only [State.withdraw, hc]
    exact degrade_onlyLog ..
  obtain ⟨l, hl⟩ := hgone
  rw [hl] at hw
  obtain ⟨⟨b, ts, d, k, y, rfl⟩, -, -⟩ := hw
  exact ⟨_, hu, withdrawGroup_spec s.redraw g⟩

/-! ### A spring chip, and a package of one (R29, R391) -/

/-- A lost chip changes its state and the `Shortfall` of the tenants with a layer on it. -/
theorem loseChip_spec (s : State) (n : Nat) :
    ∃ v, s.loseChip n = { s with service := { s.service with springState := mset s.service.springState n 4 }, tenants := v } := by
  unfold State.loseChip
  dsimp only
  obtain ⟨v, hv⟩ := foldl_setShortfall 3 _ (s.updService _)
  exact ⟨v, hv⟩

theorem loseChip_short (s : State) {n t : Nat} {e : Nat × W64} (he : e ∈ s.globals.layerSlots) (hn : e.1 / 1024 = n)
    (ht : slotTenant e.2.toNat = some t) : (tenantAt (s.loseChip n) t).shortfall.getLsbD 3 = true := by
  refine foldl_setShortfall_sets (by omega) (mem_distinct ?_) _
  exact List.mem_filterMap.2 ⟨e, List.mem_filter.2 ⟨he, by simpa using hn⟩, ht⟩

/-- The spring chip of a withdrawal. -/
theorem spring_withdrawn {s : State} {n : Nat} (h : 7 ≤ s.service.bringUp) (hn : n < 4) (hin : chipState s n ≠ 4) :
    ∃ u, exec (.moduleWithdrawal (.spring n)) s = .next u ∧ chipState u n = 4 ∧ u.mem = s.mem ∧ (NoFlipDue s → u.tiles = s.tiles) ∧
      ∀ e ∈ s.globals.layerSlots, e.1 / 1024 = n → ∀ t, slotTenant e.2.toNat = some t → (tenantAt u t).shortfall.getLsbD 3 = true := by
  obtain ⟨u, hu, hw⟩ := exec_moduleWithdrawal h (.spring n)
  have hgone : ∃ l, s.redraw.withdraw (.spring n) = { s.redraw.loseChip n with log := l } := by
    have hc : (decide (n ≥ 4) || decide (chipState s.redraw n = 4)) = false := by
      have : chipState s.redraw n ≠ 4 := hin
      simp [this]; omega
    simp only [State.withdraw, hc]
    exact degrade_onlyLog ..
  obtain ⟨l, hl⟩ := hgone
  have hshort := fun e he hen t ht => loseChip_short s.redraw (n := n) (t := t) (e := e) he hen ht
  obtain ⟨v, hv⟩ := loseChip_spec s.redraw n
  rw [hl, hv] at hw
  simp only [hv] at hshort
  obtain ⟨⟨b, ts, d, k, y, rfl⟩, -, ht⟩ := hw
  exact ⟨_, hu, mgetD_mset_self .., rfl, fun hf => ht (hf.congr rfl rfl rfl rfl), hshort⟩

theorem mem_setsOnChip {s : State} {n t p : Nat} :
    (t, p) ∈ setsOnChip s n ↔ t ∈ s.tenants.map Prod.fst ∧ p ∈ [0, 1, 2, 3] ∧ n ∈ owningChips s t p := by
  simp only [setsOnChip, List.mem_flatMap, List.mem_map, List.mem_filter, List.contains_iff_mem]
  constructor
  · rintro ⟨e, he, q, ⟨hq, hc⟩, heq⟩
    obtain ⟨rfl, rfl⟩ := Prod.mk.inj heq
    exact ⟨⟨e, he, rfl⟩, hq, hc⟩
  · rintro ⟨⟨e, he, rfl⟩, hp, hc⟩
    exact ⟨e, he, p, ⟨hp, hc⟩, rfl⟩

/-- A mark on a `Shortfall` takes no set off a chip. -/
theorem setsOnChip_setShortfall {s : State} {n t p : Nat} (x b : Nat) (h : (t, p) ∈ setsOnChip s n) :
    (t, p) ∈ setsOnChip (s.setShortfall x b) n := by
  rw [mem_setsOnChip] at h ⊢
  obtain ⟨ht, hp, hn⟩ := h
  refine ⟨mem_keys_mset _ _ ht, hp, ?_⟩
  have hs : setAt (s.setShortfall x b) t p = setAt s t p := by
    simp only [setAt, State.setShortfall, tenantAt_updTenant]
    split
    · subst_vars; rfl
    · rfl
  have hl : (s.setShortfall x b).links = s.links := rfl
  rwa [owningChips, ownedLayers, hs, hl]

theorem setsOnChip_loseChip {s : State} {n t p : Nat} (h : (t, p) ∈ setsOnChip s n) : (t, p) ∈ setsOnChip (s.loseChip n) n :=
  foldl_keeps (P := fun u : State => (t, p) ∈ setsOnChip u n) (fun u x => u.setShortfall x 3)
    (fun _ x hu => setsOnChip_setShortfall x 3 hu) _ _ h

theorem isFrozen_freeze_mono (s : State) (t : Nat) (r : FreezeRec) {u : Nat} {w : W32} (h : isFrozen s u w = true) :
    isFrozen (s.freeze t r) u w = true := by
  obtain ⟨l, v, hf, hv⟩ := freeze_spec s t r
  rw [hf]
  simp only [isFrozen, tenantAt, mget_mset] at h ⊢
  split
  · subst_vars
    simp only [Option.getD_some, List.any_append, Bool.or_eq_true]
    exact .inl h
  · exact h

/-- Freezing a job changes the tenants and the log. -/
theorem freezeJob_spec (s : State) (t p cause address : Nat) (layer : Option (Nat × List Byte)) :
    ∃ v l, s.freezeJob t p cause address layer = { s with tenants := v, log := l } := by
  unfold State.freezeJob
  split
  · exact ⟨_, _, rfl⟩
  · exact ⟨_, _, rfl⟩

theorem jobFrozen_freezeJob (s : State) (t p cause address : Nat) (layer : Option (Nat × List Byte)) :
    jobFrozen (s.freezeJob t p cause address layer) t p = true := by
  unfold State.freezeJob
  split
  · assumption
  · exact isFrozen_freeze _ t { freezeRec (jobMaster p) cause address with
      blockId := BitVec.ofNat 32 (setAt s t p).attempts, layer := layer.map Prod.fst, desc := (layer.map Prod.snd).getD [] }

theorem jobFrozen_freezeJob_mono {s : State} {u q : Nat} (t p cause address : Nat) (layer : Option (Nat × List Byte))
    (h : jobFrozen s u q = true) : jobFrozen (s.freezeJob t p cause address layer) u q = true := by
  unfold State.freezeJob
  split
  · exact h
  · exact isFrozen_freeze_mono _ _ _ ((isFrozen_updSet ..).trans h)

/-- The sets of a list whose jobs are lost with their package. -/
def State.freezeSets (s : State) (ps : List (Nat × Nat)) : State := ps.foldl (fun s e => s.freezeJob e.1 e.2 0x22 0 none) s

theorem freezeSets_spec (s : State) (ps : List (Nat × Nat)) :
    (∃ v l, s.freezeSets ps = { s with tenants := v, log := l }) ∧ ∀ t p, (t, p) ∈ ps → jobFrozen (s.freezeSets ps) t p = true := by
  constructor
  · refine foldl_keeps (P := fun u => ∃ v l, u = { s with tenants := v, log := l }) _ ?_ ps s ⟨_, _, rfl⟩
    rintro _ e ⟨v, l, rfl⟩
    obtain ⟨v', l', h⟩ := freezeJob_spec { s with tenants := v, log := l } e.1 e.2 0x22 0 none
    exact ⟨v', l', h⟩
  · intro t p hp
    exact foldl_reaches (I := fun _ => True) (P := fun u : State => jobFrozen u t p = true)
      (fun u (e : Nat × Nat) => u.freezeJob e.1 e.2 0x22 0 none) (fun _ _ _ => trivial) (fun u _ => jobFrozen_freezeJob u t p 0x22 0 none)
      (fun u e hu => jobFrozen_freezeJob_mono e.1 e.2 0x22 0 none hu) ps s hp trivial

/-- The package of a withdrawal. -/
theorem package_withdrawn {s : State} {n k : Nat} (h : 7 ≤ s.service.bringUp) (hn : n < 4) (hk : k < 8)
    (hin : 8 * n + k ∉ s.service.packagesOut) :
    ∃ u, exec (.moduleWithdrawal (.package n k)) s = .next u ∧ chipState u n = 4 ∧ 8 * n + k ∈ u.service.packagesOut ∧
      u.mem = s.mem ∧ ∀ t p, (t, p) ∈ setsOnChip s n → jobFrozen u t p = true := by
  obtain ⟨u, hu, hw⟩ := exec_moduleWithdrawal h (.package n k)
  let m := (s.redraw.loseChip n).updService fun v => { v with packagesOut := ninsert v.packagesOut (8 * n + k) }
  have hgone : ∃ l, s.redraw.withdraw (.package n k) = { m.freezeSets (setsOnChip m n) with log := l } := by
    have hc : (decide (n ≥ 4) || decide (k ≥ 8) || s.redraw.service.packagesOut.contains (8 * n + k)) = false := by
      simp [hin]; omega
    simp only [State.withdraw, hc]
    exact degrade_onlyLog ..
  obtain ⟨l, hl⟩ := hgone
  have hon : ∀ t p, (t, p) ∈ setsOnChip s n → (t, p) ∈ setsOnChip m n := fun t p hp => setsOnChip_loseChip (s := s.redraw) hp
  obtain ⟨⟨v, g, hv⟩, hfrozen⟩ := freezeSets_spec m (setsOnChip m n)
  obtain ⟨v', hv'⟩ := loseChip_spec s.redraw n
  rw [hl] at hw
  obtain ⟨⟨b, ts, d, j, y, rfl⟩, -, -⟩ := hw
  have hservice : (m.freezeSets (setsOnChip m n)).service = m.service ∧ (m.freezeSets (setsOnChip m n)).mem = m.mem := by
    rw [hv]; exact ⟨rfl, rfl⟩
  obtain ⟨hs, hm⟩ := hservice
  have hms : m.service = { s.service with springState := mset s.service.springState n 4,
                                          packagesOut := ninsert s.service.packagesOut (8 * n + k) } := by
    simp only [m, hv']; rfl
  have hmm : m.mem = s.mem := by simp only [m, hv']; rfl
  refine ⟨_, hu, ?_, ?_, hm.trans hmm, fun t p hp => hfrozen t p (hon t p hp)⟩
  · simp [chipState, hs, hms]
  · simp [hs, hms, mem_ninsert]

/-! ### A region (R391) -/

/-- No clearing holds the region exclusively: the tenants alone change, and no `Shortfall` loses a bit. -/
theorem loseExclusive_spec (s : State) (r : Nat) :
    (∃ v, s.loseExclusive r = { s with tenants := v }) ∧ MoreShort s (s.loseExclusive r) := by
  refine foldl_keeps (P := fun u => (∃ v, u = { s with tenants := v }) ∧ MoreShort s u) _ ?_ _ s ⟨⟨_, rfl⟩, fun _ _ h => h⟩
  rintro u e ⟨⟨v, rfl⟩, hm⟩
  split
  · refine ⟨⟨_, rfl⟩, hm.trans (MoreShort.trans ?_ (setShortfall_moreShort _ e.1 5))⟩
    exact (updTenant_keepsHoldings _ e.1 (by exact fun _ => rfl)).moreShort
  · exact ⟨⟨_, rfl⟩, hm⟩

/-- Every tile of a list is withdrawn from its clearing. -/
def State.withdrawTiles (s : State) (ls : List Nat) (b : Nat) : State := ls.foldl (fun s l => s.withdrawTile l b) s

theorem withdrawTiles_service (s : State) (ls : List Nat) {b : Nat} (hb : b < 32) : (s.withdrawTiles ls b).service = s.service :=
  foldl_keeps (P := fun u : State => u.service = s.service) (fun u l => u.withdrawTile l b)
    (fun u l hu => (withdrawTile_tileLeft u l hb).service.trans hu) ls s rfl

/-- A tile of the list ends as no one's, and the `Shortfall` of its tenant shows the loss. -/
theorem withdrawTiles_left (s : State) {ls : List Nat} {l b : Nat} (hb : b < 32) (hl : l ∈ ls) :
    ownerOf (s.withdrawTiles ls b) l = none ∧
      ∀ t, ownerOf s l = some t → (tenantAt (s.withdrawTiles ls b) t).shortfall.getLsbD b = true := by
  have hkeep : ∀ (u : State) j, (ownerOf u l = none ∧ ∀ t, ownerOf s l = some t → (tenantAt u t).shortfall.getLsbD b = true) →
      (ownerOf (u.withdrawTile j b) l = none ∧
        ∀ t, ownerOf s l = some t → (tenantAt (u.withdrawTile j b) t).shortfall.getLsbD b = true) := by
    rintro u j ⟨hn, hs⟩
    have hj := withdrawTile_tileLeft u j hb
    exact ⟨by rw [hj.owner, hn, ite_self], fun t ht => hj.moreShort t b (hs t ht)⟩
  have hself : ∀ u : State, ownerOf u l = ownerOf s l → (ownerOf (u.withdrawTile l b) l = none ∧
      ∀ t, ownerOf s l = some t → (tenantAt (u.withdrawTile l b) t).shortfall.getLsbD b = true) := by
    intro u hu
    have hj := withdrawTile_tileLeft u l hb
    exact ⟨by rw [hj.owner, if_pos rfl], fun t ht => hj.short t (hu.trans ht)⟩
  refine foldl_reaches (I := fun u : State => ownerOf u l = ownerOf s l ∨
      (ownerOf u l = none ∧ ∀ t, ownerOf s l = some t → (tenantAt u t).shortfall.getLsbD b = true))
    (fun u j => u.withdrawTile j b) ?_ ?_ hkeep ls s hl (.inl rfl)
  · rintro u j (hu | hu)
    · by_cases hj : l = j
      · subst hj; exact .inr (hself u hu)
      · exact .inl (((withdrawTile_tileLeft u j hb).owner l).trans ((if_neg hj).trans hu))
    · exact .inr (hkeep u j hu)
  · rintro u (hu | hu)
    · exact hself u hu
    · exact hkeep u l hu

/-- The region of a withdrawal. -/
theorem region_withdrawn {s : State} {r : Nat} (h : 7 ≤ s.service.bringUp) (hr : r < 20) (hin : r ∉ s.service.translationOut) :
    ∃ u, exec (.moduleWithdrawal (.region r)) s = .next u ∧ r ∈ u.service.translationOut ∧ (∀ e ∈ u.mem.tlb, e.region ≠ r) ∧
      ∀ i, i < 64 → ownerOf u (64 * r + i) = none ∧
        ∀ t, ownerOf s (64 * r + i) = some t → (tenantAt u t).shortfall.getLsbD 4 = true := by
  obtain ⟨u, hu, hw⟩ := exec_moduleWithdrawal h (.region r)
  let m := s.redraw.updService fun v =>
    { v with translationOut := ninsert v.translationOut r, gatherOut := ninsert v.gatherOut r, mapGeneration := v.mapGeneration + 2 }
  obtain ⟨n, hn⟩ : ∃ n, n = m.withdrawTiles ((List.range 64).map (64 * r + ·)) 4 := ⟨_, rfl⟩
  have hgone : ∃ l, s.redraw.withdraw (.region r) = { (n.loseExclusive r).dropTlb fun e => e.region = r with log := l } := by
    have hc : (decide (r ≥ 20) || s.redraw.service.translationOut.contains r) = false := by simp [hin]; omega
    simp only [State.withdraw, hc, hn]
    exact degrade_onlyLog ..
  obtain ⟨l, hl⟩ := hgone
  have hservice : n.service = m.service := hn ▸ withdrawTiles_service m _ (by omega)
  have hleft : ∀ i, i < 64 → ownerOf n (64 * r + i) = none ∧
      ∀ t, ownerOf s (64 * r + i) = some t → (tenantAt n t).shortfall.getLsbD 4 = true := fun i hi =>
    hn ▸ withdrawTiles_left m (b := 4) (by omega) (List.mem_map.2 ⟨i, List.mem_range.2 hi, rfl⟩)
  obtain ⟨⟨v, hv⟩, hmore⟩ := loseExclusive_spec n r
  rw [hl, hv] at hw
  rw [hv] at hmore
  obtain ⟨⟨b, ts, d, k, y, rfl⟩, -, -⟩ := hw
  refine ⟨_, hu, ?_, ?_, fun i hi => ?_⟩
  · have hout : r ∈ n.service.translationOut := by rw [hservice]; exact mem_ninsert.2 (.inl rfl)
    exact hout
  · intro e he
    simpa using (List.mem_filter.1 he).2
  · obtain ⟨hnone, hshort⟩ := hleft i hi
    exact ⟨hnone, fun t ht => hmore t 4 (hshort t ht)⟩

/-! ### An optical engine (R258) -/

/-- A link that leaves ready takes its new state and keeps its dimension; every other link, and all but the links, stay. -/
theorem leaveReady_spec (s : State) (l st : Nat) :
    (∃ x, s.leaveReady l st = { s with links := x }) ∧ (linkAt (s.leaveReady l st) l).state = st ∧
      (linkAt (s.leaveReady l st) l).dimension = (linkAt s l).dimension ∧ ∀ j, j ≠ l → linkAt (s.leaveReady l st) j = linkAt s j := by
  unfold State.leaveReady
  dsimp only
  split <;> refine ⟨⟨_, rfl⟩, ?_, ?_, fun j hj => ?_⟩
  all_goals simp_all [linkAt, State.updLink, mget_mset]

/-- One link of an engine that fails. -/
def State.linkDown (st : Nat) (s : State) (l : Nat) : State :=
  if (linkAt s l).dimension ≤ 11 && (linkAt s l).state ≠ 0 then s.leaveReady l st else s

theorem linkDown_other (st : Nat) (s : State) {l j : Nat} (h : j ≠ l) : linkAt (s.linkDown st l) j = linkAt s j := by
  unfold State.linkDown
  split
  · exact (leaveReady_spec s l st).2.2.2 j h
  · rfl

/-- A link in use takes the state. -/
theorem linkDown_self {st : Nat} {s : State} {l : Nat} (hd : (linkAt s l).dimension ≤ 11) (hs : (linkAt s l).state ≠ 0) :
    (linkAt (s.linkDown st l) l).state = st ∧ (linkAt (s.linkDown st l) l).dimension ≤ 11 := by
  obtain ⟨-, hst, hdim, -⟩ := leaveReady_spec s l st
  have : s.linkDown st l = s.leaveReady l st := by simp [State.linkDown, hd, hs]
  exact ⟨by rw [this, hst], by rw [this, hdim]; exact hd⟩

/-- Of an engine that fails, every link in use goes into the state, and the rest of the module stays. -/
theorem engineDown_spec (s : State) (k : Nat) {st : Nat} (hst : st ≠ 0) :
    (∃ x, s.engineDown k st = { s with links := x }) ∧
      (∀ l ∈ engineLinks k, (linkAt s l).dimension ≤ 11 → (linkAt s l).state ≠ 0 → (linkAt (s.engineDown k st) l).state = st) ∧
      ∀ l, l ∉ engineLinks k → linkAt (s.engineDown k st) l = linkAt s l := by
  refine ⟨?_, ?_, ?_⟩
  · refine foldl_keeps (P := fun u => ∃ x, u = { s with links := x }) _ ?_ _ s ⟨_, rfl⟩
    rintro _ l ⟨x, rfl⟩
    split
    · obtain ⟨⟨y, hy⟩, -⟩ := leaveReady_spec { s with links := x } l st
      exact ⟨y, hy⟩
    · exact ⟨x, rfl⟩
  · intro l hl hd hs
    have hkeep : ∀ (u : State) j, (linkAt u l).dimension ≤ 11 ∧ (linkAt u l).state ≠ 0 →
        (linkAt (u.linkDown st j) l).dimension ≤ 11 ∧ (linkAt (u.linkDown st j) l).state ≠ 0 := by
      rintro u j ⟨hd, hs⟩
      by_cases hj : l = j
      · subst hj
        obtain ⟨h1, h2⟩ := linkDown_self (st := st) hd hs
        exact ⟨h2, by rw [h1]; exact hst⟩
      · rw [linkDown_other st u hj]
        exact ⟨hd, hs⟩
    have hreach : (linkAt (s.engineDown k st) l).state = st ∧ (linkAt (s.engineDown k st) l).dimension ≤ 11 := by
      refine foldl_reaches (I := fun u : State => (linkAt u l).dimension ≤ 11 ∧ (linkAt u l).state ≠ 0)
        (P := fun u : State => (linkAt u l).state = st ∧ (linkAt u l).dimension ≤ 11) (State.linkDown st) hkeep
        (fun u hu => linkDown_self hu.1 hu.2) ?_ _ s hl ⟨hd, hs⟩
      rintro u j ⟨hs, hd⟩
      by_cases hj : l = j
      · subst hj; exact linkDown_self hd (by rw [hs]; exact hst)
      · rw [linkDown_other st u hj]; exact ⟨hs, hd⟩
    exact hreach.1
  · intro l hl
    refine List.foldlRecOn (motive := fun u : State => linkAt u l = linkAt s l) _ _ rfl fun u hu j hj => ?_
    have hne : l ≠ j := by rintro rfl; exact hl hj
    exact (linkDown_other st u hne).trans hu

/-- The engine of a withdrawal. -/
theorem engine_withdrawn {s : State} {k : Nat} (h : 7 ≤ s.service.bringUp) (hk : k < 7) (hin : k ∉ s.service.enginesFailed) :
    ∃ u, exec (.moduleWithdrawal (.engine k)) s = .next u ∧ k ∈ u.service.enginesFailed ∧ u.mem = s.mem ∧
      (NoFlipDue s → u.tiles = s.tiles) ∧
      (∀ l ∈ engineLinks k, (linkAt s l).dimension ≤ 11 → (linkAt s l).state ≠ 0 → (linkAt u l).state = 8) ∧
      ∀ l, l ∉ engineLinks k → linkAt u l = linkAt s l := by
  obtain ⟨u, hu, hw⟩ := exec_moduleWithdrawal h (.engine k)
  let m := s.redraw.updService fun v => { v with enginesFailed := ninsert v.enginesFailed k }
  have hgone : ∃ l, s.redraw.withdraw (.engine k) = { m.engineDown k 8 with log := l } := by
    have hc : (decide (k ≥ 7) || s.redraw.service.enginesFailed.contains k) = false := by simp [hin]; omega
    simp only [State.withdraw, hc]
    exact degrade_onlyLog ..
  obtain ⟨l, hl⟩ := hgone
  obtain ⟨⟨x, hx⟩, hdown, hother⟩ := engineDown_spec m k (st := 8) (by omega)
  rw [hx] at hdown hother
  rw [hl, hx] at hw
  obtain ⟨⟨b, ts, d, j, y, rfl⟩, -, ht⟩ := hw
  exact ⟨_, hu, mem_ninsert.2 (.inl rfl), rfl, fun hf => ht (hf.congr rfl rfl rfl rfl), hdown, hother⟩

/-- Settles O48, part by part. -/
theorem withdrawalsTakeTheirResource : Obligations.WithdrawalsTakeTheirResource := by
  unfold Obligations.WithdrawalsTakeTheirResource
  intro s h
  exact ⟨fun _ _ => tile_withdrawn h, fun _ _ => firstChannel_withdrawn h, fun _ _ _ => secondChannel_withdrawn h,
    fun _ => setGroup_withdrawn h, fun _ => spring_withdrawn h, fun _ _ => package_withdrawn h, fun _ => region_withdrawn h,
    fun _ => engine_withdrawn h⟩

end Sys2Proof.Machine
end

section
/-!
SUPPORT. An issuing group: where it stands when its instruction runs, with an access to local memory before it or
without, what the end of an instruction leaves, and what a freeze of the group does (R41, R62, R149, R365).
-/

namespace Sys2Proof.Machine

/-- An issuing group stands in its tile as `groupCtx` found it: resident, running, and waiting for nothing (R41). -/
structure Ctx.Stands (c : Ctx) : Prop where
  tile : c.tile = tileAt c.s c.l
  owner : ownerOf c.s c.l = some c.tenant
  block : mget c.tile.blocks c.slot = some c.block
  group : c.block.groups[c.gi]? = some c.group
  path : lowestPath c.group.paths = some c.path
  wait : c.group.wait = .none
  ended : c.group.ended = false

theorem ctxOf_stands {s : State} {i : Issue} {c : Ctx} (h : ctxOf s i = some c) : c.Stands := by
  obtain ⟨-, -, -, -, -, ht, ho, hb, hg, hp⟩ := ctxOf_spec h
  have hrun : c.group.wait = .none ∧ c.group.ended = false := by
    have h := ctxOf_groupCtx h
    unfold groupCtx at h
    simp only at h
    split at h
    · split at h
      · split at h
        · split at h
          · rename_i hc
            cases h
            simp only [Bool.and_eq_true, decide_eq_true_eq, Bool.not_eq_true'] at hc
            tauto
          · cases h
        · cases h
      · cases h
    · cases h
  exact ⟨ht, ho, hb, hg, hp, hrun.1, hrun.2⟩

/-- What an access to local memory found marks words of the issuing tile, and reports: its contents stay (R149, R368). -/
theorem ecc_spec (c : Ctx) (e : Ecc) :
    ∃ log t, c.ecc e = { c with tile := t, s := { c.s with tiles := mset c.s.tiles c.l t, log := log } } ∧
      t = { c.tile with lmBad := t.lmBad } := by
  obtain ⟨log, hlog⟩ : ∃ log, e.corrected.foldl
      (fun s a => s.report (lmSource c.l) 0 0 (some c.tenant) (BitVec.ofNat 32 (a / 2 ^ 13))) c.s = { c.s with log := log } := by
    refine foldl_keeps (P := fun u => ∃ log, u = { c.s with log := log }) _ ?_ _ _ ⟨c.s.log, rfl⟩
    rintro _ a ⟨log, rfl⟩
    exact (report_onlyLog ..).imp fun _ h => h
  refine ⟨log, { c.tile with lmBad := markBad c.tile.lmBad e.bad }, ?_, rfl⟩
  unfold Ctx.ecc
  rw [hlog]
  rfl

theorem Ctx.Stands.ecc {c : Ctx} (h : c.Stands) (e : Ecc) : (c.ecc e).Stands := by
  obtain ⟨log, t, he, ht⟩ := ecc_spec c e
  rw [he]
  refine ⟨by simp [tileAt], h.owner, ?_, h.group, h.path, h.wait, h.ended⟩
  rw [ht]; exact h.block


/-! ### What the end of an instruction leaves -/

/-- The issuing group after an instruction leaves it as `g`: it is the one that issued last (R41). -/
theorem groupIn_keep {c : Ctx} {b : Block} {g0 : Group} (hb : b.groups[c.gi]? = some g0) (t : Tile) (g : Group) :
    groupIn (c.keep t b g) c.l c.slot c.gi = some { g with lastIssue := t.cycle.toNat } := by
  simp [Ctx.keep, Ctx.markTile, groupIn, Block.setGroup, updateAt_getElem?, hb]

theorem groupIn_finish {c : Ctx} {b : Block} {g0 : Group} (hb : b.groups[c.gi]? = some g0) (t : Tile) (g : Group) :
    groupIn (c.finish t b g) c.l c.slot c.gi = some { g.advance c.path with lastIssue := t.cycle.toNat } :=
  groupIn_keep hb t _

theorem tileAt_keep (c : Ctx) (t : Tile) (b : Block) (g : Group) : tileAt (c.keep t b g) c.l = c.markTile t b g :=
  tileAt_setTile_self ..

theorem tileAt_finish (c : Ctx) (t : Tile) (b : Block) (g : Group) :
    tileAt (c.finish t b g) c.l = c.markTile t b (g.advance c.path) := tileAt_setTile_self ..

/-- A tile whose local memory stays leaves every memory as it was. -/
theorem sameMemory_setTile {s : State} {l : Nat} {t : Tile} (h : t.lm = (tileAt s l).lm) : SameMemory s (s.setTile l t) := by
  refine ⟨fun _ => rfl, fun _ => rfl, fun j a => ?_⟩
  unfold lmByte
  rw [tileAt_setTile]
  split
  · subst_vars; rw [h]
  · rfl

theorem SameMemory.refl (s : State) : SameMemory s s := ⟨fun _ => rfl, fun _ => rfl, fun _ _ => rfl⟩

theorem SameMemory.trans {s t u : State} (h : SameMemory s t) (h' : SameMemory t u) : SameMemory s u :=
  ⟨fun k => (h'.1 k).trans (h.1 k), fun k => (h'.2.1 k).trans (h.2.1 k), fun l a => (h'.2.2 l a).trans (h.2.2 l a)⟩

/-- What neither the tiles nor the memories differ in reads the same bytes. -/
theorem SameMemory.of_eq {s t : State} (hm : t.mem = s.mem) (ht : t.tiles = s.tiles) : SameMemory s t :=
  ⟨fun k => by unfold fastByte; rw [hm], fun k => by unfold slowByte; rw [hm],
    fun l a => by unfold lmByte tileAt; rw [ht]⟩

theorem Ctx.Stands.sameMemory_keep {c : Ctx} (h : c.Stands) {t : Tile} (ht : t.lm = c.tile.lm) (b : Block) (g : Group) :
    SameMemory c.s (c.keep t b g) := sameMemory_setTile (by rw [← h.tile]; exact ht)

/-- Putting the issuing group back changes that group and the use of its issue port alone. -/
theorem onlyGroup_keep (c : Ctx) (g : Group) : OnlyGroup c (c.keep c.tile c.block g) := by
  have ht : tileAt (c.keep c.tile c.block g) c.l = c.markTile c.tile c.block g := tileAt_keep ..
  refine ⟨rfl, fun l hl => mget_mset_ne _ _ hl, by rw [ht]; rfl, fun k hk => ?_, ?_⟩
  · rw [ht]; exact mget_mset_ne _ _ hk
  · refine ⟨_, by rw [ht]; exact mget_mset_self .., rfl, updateAt_length .., fun j hj => ?_⟩
    simp [Block.setGroup, updateAt_getElem?, hj]

theorem onlyGroup_done (c : Ctx) (g : Group) : OnlyGroup c (c.done g) := onlyGroup_keep c _

theorem Ctx.Stands.sameMemory_done {c : Ctx} (h : c.Stands) (g : Group) : SameMemory c.s (c.done g) :=
  h.sameMemory_keep rfl ..

theorem Ctx.Stands.groupIn_done {c : Ctx} (h : c.Stands) (g : Group) :
    groupIn (c.done g) c.l c.slot c.gi = some { g.advance c.path with lastIssue := c.tile.cycle.toNat } :=
  groupIn_finish h.group ..

/-! ### Precise freezes -/

/-- The record of a freeze of the issuing group. -/
def Ctx.record (c : Ctx) (cause address : Nat) : FreezeRec :=
  { freezeRec (groupMaster c.l c.slot c.gi) cause address with
    pc := c.path.pc, blockId := c.block.launch.params.blockId, live := c.group.live, parked := c.group.parkedMask }

theorem Ctx.freeze_eq (c : Ctx) (cause address : Nat) :
    c.freeze cause address = (c.s.setTile c.l { c.tile with issued := (c.port, c.slot, c.gi) :: c.tile.issued }).freeze c.tenant
      (c.record cause address) := rfl

/-- A freeze of the issuing group is precise, whatever the module has looked up before it (R62, R365). -/
theorem frozeGroup_freeze {c : Ctx} (hb : mget c.tile.blocks c.slot = some c.block) (hg : c.block.groups[c.gi]? = some c.group)
    (cause address : Nat) : FrozeGroup c cause address (c.freeze cause address) := by
  rw [Ctx.freeze_eq]
  refine ⟨⟨{ c.record cause address with seq := (tenantAt c.s c.tenant).freezeSeq % 2 ^ 16 }, by simp [tenantAt_freeze],
    rfl, rfl, rfl, rfl, rfl, rfl, rfl⟩, by simp [tenantAt_freeze], ?_, rfl, ?_, fun l hl => mget_mset_ne _ _ hl, isFrozen_freeze ..⟩
  · simp [groupIn, hb, hg]
  · rw [tileAt_freeze, tileAt_setTile_self]

theorem Ctx.Stands.frozeGroup {c : Ctx} (h : c.Stands) (cause address : Nat) : FrozeGroup c cause address (c.freeze cause address) :=
  frozeGroup_freeze h.block h.group cause address

/-- A freeze after an access to local memory is one of the group as it issued. -/
theorem FrozeGroup.of_ecc {c : Ctx} {e : Ecc} {cause address : Nat} {t : State} (h : FrozeGroup (c.ecc e) cause address t) :
    FrozeGroup c cause address t := by
  obtain ⟨log, x, he, hx⟩ := ecc_spec c e
  rw [he] at h
  obtain ⟨hr, hn, hg, hm, hl, ht, hf⟩ := h
  refine ⟨hr, hn, hg, hm, hl.trans (by rw [hx]), fun l hne => ?_, hf⟩
  rw [ht l hne]
  exact mget_mset_ne _ _ hne

end Sys2Proof.Machine
end

section
/-!
PROOF. O4, O8 and O5: the instructions that write lanes, predicates and uniform registers, and their bad fields (R34, R43,
R45, R57 to R62).
-/

namespace Sys2Proof.Machine

theorem laneOp_ok {s : State} {i : Issue} {c : Ctx} (h : ctxOf s i = some c) (u : Use) (f : Fields) (value : Ctx → Nat → W32) :
    laneOp s i u f value = c.checked u f (c.done (writeLanes c.group f.dst (c.lanes f) (value c))) := issue_ok h _

/-- A lane instruction checks its fields, and then writes what it computes to its executing lanes (R34, R58, R61). -/
theorem exec_laneWork {x : Instr} {i : Issue} {f : Fields} {u : Use} {v : Nat → W32} {s : State} {c : Ctx}
    (h : ctxOf s i = some c) (hx : laneWork c x = some (i, f, u, v)) :
    exec x s = .next (c.checked u f (c.done (writeLanes c.group f.dst (c.lanes f) v))) := by
  unfold laneWork at hx
  split at hx
  case h_6 i' f' =>
    -- MOV: an immediate takes the place of the register
    cases hx
    refine congrArg Host.Outcome.next ((laneOp_ok h ..).trans ?_)
    cases f.imm <;> rfl
  case h_8 i' f' =>
    -- MOV.SR: the special registers that exist
    split at hx
    · rename_i hr
      cases hx
      refine congrArg Host.Outcome.next ((issue_ok h _).trans (if_neg ?_))
      omega
    · cases hx
  case h_11 => cases hx
  all_goals
    cases hx
    exact congrArg Host.Outcome.next (laneOp_ok h ..)

/-- Settles O4: the fields pass their checks, and the lanes take their results. -/
theorem laneInstructionsWriteTheirLanes : Obligations.LaneInstructionsWriteTheirLanes := by
  unfold Obligations.LaneInstructionsWriteTheirLanes
  intro x i f u v s c h hx hlegal hbounds
  obtain ⟨g, hg⟩ := lane_ok (f := f) v h
  exact ⟨_, g, (exec_laneWork h hx).trans (congrArg _ (checked_ok _ hlegal hbounds)), hg⟩

/-! ### The instruction word (R57) -/

section
open BitVec (extractLsb'_append_eq_of_le extractLsb'_append_eq_of_add_le extractLsb'_eq_self getLsbD_append)

/-- The fields that both forms of an instruction word share stand in its upper 28 bits (R57). -/
theorem wordHead_fields (op : Byte) (f : Fields) (tail : BitVec 36) :
    let w : W64 := wordHead op f ++ tail
    wordOpcode w = op ∧ w.getLsbD 55 = f.guardNeg ∧ w.extractLsb' 52 3 = f.guard ∧ w.extractLsb' 44 8 = f.dst ∧
      w.extractLsb' 36 8 = f.srcA := by
  simp only [wordOpcode, wordHead]
  refine ⟨?_, ?_, ?_, ?_, ?_⟩
  · rw [extractLsb'_append_eq_of_le (by decide), extractLsb'_append_eq_of_le (by decide)]
    exact extractLsb'_eq_self
  · rw [getLsbD_append, if_neg (by decide), getLsbD_append, if_pos (by decide), getLsbD_append, if_neg (by decide)]
    simp
  · rw [extractLsb'_append_eq_of_le (by decide), extractLsb'_append_eq_of_add_le (by decide),
      extractLsb'_append_eq_of_add_le (by decide), extractLsb'_append_eq_of_le (by decide)]
    exact extractLsb'_eq_self
  · rw [extractLsb'_append_eq_of_le (by decide), extractLsb'_append_eq_of_add_le (by decide),
      extractLsb'_append_eq_of_add_le (by decide), extractLsb'_append_eq_of_add_le (by decide),
      extractLsb'_append_eq_of_le (by decide)]
    exact extractLsb'_eq_self
  · rw [extractLsb'_append_eq_of_le (by decide), extractLsb'_append_eq_of_add_le (by decide),
      extractLsb'_append_eq_of_add_le (by decide), extractLsb'_append_eq_of_add_le (by decide),
      extractLsb'_append_eq_of_add_le (by decide)]
    exact extractLsb'_eq_self

/-- The tail of form I: an immediate and a type (R57). -/
theorem wordTail_imm (head : BitVec 28) (v : W32) (ty : BitVec 4) :
    let w : W64 := head ++ (v ++ ty)
    w.extractLsb' 0 4 = ty ∧ w.extractLsb' 4 32 = v := by
  refine ⟨?_, ?_⟩
  · rw [extractLsb'_append_eq_of_add_le (by decide), extractLsb'_append_eq_of_add_le (by decide)]
    exact extractLsb'_eq_self
  · rw [extractLsb'_append_eq_of_add_le (by decide), extractLsb'_append_eq_of_le (by decide)]
    exact extractLsb'_eq_self

/-- The tail of form R: two source registers, a type and a modifier (R57). -/
theorem wordTail_regs (head : BitVec 28) (b c : Byte) (ty : BitVec 4) (mod : BitVec 16) :
    let w : W64 := head ++ (b ++ (c ++ (ty ++ mod)))
    w.extractLsb' 28 8 = b ∧ w.extractLsb' 20 8 = c ∧ w.extractLsb' 16 4 = ty ∧ w.extractLsb' 0 16 = mod := by
  refine ⟨?_, ?_, ?_, ?_⟩
  · rw [extractLsb'_append_eq_of_add_le (by decide), extractLsb'_append_eq_of_le (by decide)]
    exact extractLsb'_eq_self
  · rw [extractLsb'_append_eq_of_add_le (by decide), extractLsb'_append_eq_of_add_le (by decide),
      extractLsb'_append_eq_of_le (by decide)]
    exact extractLsb'_eq_self
  · rw [extractLsb'_append_eq_of_add_le (by decide), extractLsb'_append_eq_of_add_le (by decide),
      extractLsb'_append_eq_of_add_le (by decide), extractLsb'_append_eq_of_le (by decide)]
    exact extractLsb'_eq_self
  · rw [extractLsb'_append_eq_of_add_le (by decide), extractLsb'_append_eq_of_add_le (by decide),
      extractLsb'_append_eq_of_add_le (by decide), extractLsb'_append_eq_of_add_le (by decide)]
    exact extractLsb'_eq_self

end

theorem wordFields_formI {w : W64} {f : Fields} {v : W32} (hform : formI (wordOpcode w) = true) (hi : f.imm = some v)
    (hz : f.srcB = 0 ∧ f.srcC = 0 ∧ f.mod = 0) (hn : w.getLsbD 55 = f.guardNeg) (hg : w.extractLsb' 52 3 = f.guard)
    (hd : w.extractLsb' 44 8 = f.dst) (ha : w.extractLsb' 36 8 = f.srcA) (ht : w.extractLsb' 0 4 = f.ty)
    (hv : w.extractLsb' 4 32 = v) : wordFields w = f := by
  obtain ⟨hb, hc, hm⟩ := hz
  rw [wordFields, if_pos hform, hn, hg, hd, ha, ht, hv]
  cases f
  simp_all

theorem wordFields_formR {w : W64} {f : Fields} (hform : formI (wordOpcode w) = false) (hi : f.imm = none)
    (hn : w.getLsbD 55 = f.guardNeg) (hg : w.extractLsb' 52 3 = f.guard) (hd : w.extractLsb' 44 8 = f.dst)
    (ha : w.extractLsb' 36 8 = f.srcA) (hb : w.extractLsb' 28 8 = f.srcB) (hc : w.extractLsb' 20 8 = f.srcC)
    (ht : w.extractLsb' 16 4 = f.ty) (hm : w.extractLsb' 0 16 = f.mod) : wordFields w = f := by
  rw [wordFields, if_neg (by simp [hform]), hn, hg, hd, ha, hb, hc, ht, hm, ← hi]

/-- The word of an opcode with fields of its form spells them again (R57). -/
theorem instrWord_spells {op : Byte} {f : Fields} (h : fieldsFit op f = true) :
    wordOpcode (instrWord op f) = op ∧ wordFields (instrWord op f) = f := by
  unfold fieldsFit at h
  unfold instrWord
  cases hi : f.imm with
  | some v =>
    obtain ⟨ho, hn, hg, hd, ha⟩ := wordHead_fields op f (v ++ f.ty)
    obtain ⟨ht, hv⟩ := wordTail_imm (wordHead op f) v f.ty
    simp only [hi, Bool.and_eq_true, decide_eq_true_eq] at h
    obtain ⟨⟨⟨hform, hb⟩, hc⟩, hm⟩ := h
    exact ⟨ho, wordFields_formI ((congrArg formI ho).trans hform) hi ⟨hb, hc, hm⟩ hn hg hd ha ht hv⟩
  | none =>
    obtain ⟨ho, hn, hg, hd, ha⟩ := wordHead_fields op f (f.srcB ++ (f.srcC ++ (f.ty ++ f.mod)))
    obtain ⟨hb, hc, ht, hm⟩ := wordTail_regs (wordHead op f) f.srcB f.srcC f.ty f.mod
    have hform : formI op = false := by simpa [hi] using h
    exact ⟨ho, wordFields_formR ((congrArg formI ho).trans hform) hi hn hg hd ha hb hc ht hm⟩

theorem not_opcodeAssigned_classF {op : Byte} (h : 0xF0 ≤ op.toNat) : opcodeAssigned op = false := by
  have hlt := op.isLt
  have hclass : classOf op = 0xF := by unfold classOf; omega
  simp [opcodeAssigned, hclass]

/-- Settles O8: an instruction of lanes freezes at the check that fails; the words and the illegal ones by R57 and R59. -/
theorem badFieldsFreezeTheGroup : Obligations.BadFieldsFreezeTheGroup := by
  unfold Obligations.BadFieldsFreezeTheGroup
  refine ⟨fun x i f u v s c h hx => ⟨fun hill => ?_, fun hlegal hout => ?_⟩, fun op f => instrWord_spells,
    fun op => not_opcodeAssigned_classF, fun i op s c h hop => ?_⟩
  · exact ⟨_, (exec_laneWork h hx).trans (congrArg _ (checked_illegal _ _ _ _ hill)), (ctxOf_stands h).frozeGroup ..⟩
  · exact ⟨_, (exec_laneWork h hx).trans (congrArg _ (checked_bounds _ _ _ _ hlegal hout)), (ctxOf_stands h).frozeGroup ..⟩
  · refine ⟨_, congrArg Host.Outcome.next ((if_neg (by simp [hop])).trans (issue_ok h _)), (ctxOf_stands h).frozeGroup ..⟩

/-! ### Predicates and votes (R34, R45) -/

@[simp] theorem inMask_zero (n : Nat) : inMask 0#32 n = false := by simp [inMask]

theorem inMask_all {n : Nat} (h : n < 32) : inMask 0xFFFFFFFF n = true := by
  have hones : (0xFFFFFFFF : W32) = BitVec.allOnes 32 := rfl
  rw [inMask, hones, BitVec.getLsbD_allOnes, decide_eq_true h]

theorem inMask_and (a b : W32) (n : Nat) : inMask (a &&& b) n = (inMask a n && inMask b n) := by simp [inMask]

theorem inMask_or (a b : W32) (n : Nat) : inMask (a ||| b) n = (inMask a n || inMask b n) := by simp [inMask]

theorem inMask_not (a : W32) {n : Nat} (h : n < 32) : inMask (~~~a) n = !inMask a n := by simp [inMask, h]

/-- The mask of one thread. -/
theorem inMask_single {m : Nat} (hm : m < 32) (n : Nat) : inMask ((1 <<< m : Nat) : W32) n = decide (n = m) := by
  rw [inMask, BitVec.natCast_eq_ofNat, BitVec.getLsbD_ofNat, Nat.one_shiftLeft, Nat.testBit_two_pow, Bool.eq_iff_iff]
  simp
  omega

theorem inMask_eq {a b : W32} (h : ∀ n, n < 32 → inMask a n = inMask b n) : a = b := BitVec.eq_of_getLsbD_eq fun i hi => h i hi

theorem eq_zero_iff_lanes (a : W32) : a = 0#32 ↔ ∀ n, n < 32 → inMask a n = false :=
  ⟨fun h n _ => by rw [h, inMask_zero], fun h => inMask_eq fun n hn => by rw [h n hn, inMask_zero]⟩

theorem inMask_maskWhere (p : Nat → Bool) {n : Nat} (hn : n < 32) : inMask (maskWhere p) n = p n := by
  have hfold : ∀ k, k ≤ 32 → inMask ((List.range k).foldl (fun (m : W32) i => if p i then m ||| (1 <<< i) else m) 0) n =
      (decide (n < k) && p n) := by
    intro k
    induction k with
    | zero => intro _; simp [inMask]
    | succ k ih =>
      intro hk
      rw [List.range_succ, List.foldl_append, List.foldl_cons, List.foldl_nil]
      have hlast : n < k + 1 ↔ n < k ∨ n = k := by omega
      split
      · rename_i hp
        rw [inMask_or, ih (by omega), inMask_single (by omega)]
        by_cases h : n = k <;> simp [hlast, h, hp]
      · rename_i hp
        rw [ih (by omega)]
        by_cases h : n = k <;> simp [hlast, h, hp]
  simpa [maskWhere, hn] using hfold 32 (Nat.le_refl _)

/-- The lanes of a predicate after a write: p7 takes nothing (R34). -/
theorem predMask_setPred (g : Group) (p q : Nat) (mask value : W32) {n : Nat} (hn : n < 32) :
    inMask (predMask (g.setPred p mask value) q) n =
      if q = p ∧ q ≠ 7 ∧ inMask mask n = true then inMask value n else inMask (predMask g q) n := by
  unfold Group.setPred
  by_cases hp : p = 7
  · rw [if_pos hp, if_neg (by rintro ⟨rfl, hq, -⟩; exact hq hp)]
  · rw [if_neg hp]
    by_cases hq : q = 7
    · rw [if_neg (by tauto)]
      simp [predMask, hq]
    · simp only [predMask, hp, hq, if_false, mgetD_mput]
      by_cases hqp : q = p
      · subst hqp
        cases hm : inMask mask n <;> simp [inMask_or, inMask_and, inMask_not _ hn, hm, hq]
      · simp [hqp]

/-- A predicate that an instruction writes is all of the group that it changes. -/
theorem setPred_frame (g : Group) (p : Nat) (mask value : W32) :
    g.setPred p mask value = { g with preds := (g.setPred p mask value).preds } := by
  unfold Group.setPred
  split <;> rfl

/-- An instruction that sets a predicate completes: the predicate takes its value on the executing lanes, and the rest of the
group stays (R34, R45, R58). -/
theorem pred_ok {s : State} {i : Issue} {c : Ctx} (h : ctxOf s i = some c) (f : Fields) (value : W32) :
    ∃ g, groupIn (c.done (c.group.setPred f.dst.toNat (c.lanes f) value)) c.l c.slot c.gi = some g ∧
      (∀ p n, n < 32 → inMask (predMask g p) n =
        if p = f.dst.toNat ∧ p ≠ 7 ∧ inMask (c.lanes f) n = true then inMask value n else inMask (predMask c.group p) n) ∧
      g.regs = c.group.regs ∧ g.uregs = c.group.uregs ∧ SameRest c.group g ∧ Advanced c g ∧
      OnlyGroup c (c.done (c.group.setPred f.dst.toNat (c.lanes f) value)) := by
  refine ⟨_, (ctxOf_stands h).groupIn_done _, fun p n hn => predMask_setPred _ _ _ _ _ hn, ?_, ?_, ?_, ?_, onlyGroup_done ..⟩
  all_goals rw [setPred_frame]
  · rfl
  · rfl
  · exact ⟨rfl, rfl, rfl, rfl⟩
  · exact advance_Advanced c { c.group with preds := _ } rfl c.tile.cycle.toNat

/-- Every active thread meets a predicate where the vote over it finds no other (R45). -/
theorem vote_all_iff (p m : W32) : p &&& m = m ↔ ((List.range 32).all fun k => !inMask m k || inMask p k) = true := by
  simp only [List.all_eq_true, List.mem_range]
  constructor
  · intro h k hk
    rw [← h, inMask_and]
    cases inMask p k <;> simp
  · intro h
    refine inMask_eq fun n hn => ?_
    have := h n hn
    rw [inMask_and]
    cases hm : inMask m n <;> simp_all

/-- Some active thread meets a predicate (R45). -/
theorem vote_any_iff (p m : W32) : p &&& m = 0 ↔ ((List.range 32).any fun k => inMask m k && inMask p k) = false := by
  refine (eq_zero_iff_lanes _).trans ?_
  simp only [inMask_and, List.any_eq_false, List.mem_range, Bool.and_comm (inMask p _), Bool.not_eq_true]

theorem lanesOf_zero : lanesOf 0 = [] := by simp [lanesOf]

theorem lanesOf_ne_nil {m : W32} (h : m ≠ 0) : lanesOf m ≠ [] := by
  intro hnil
  refine h ((eq_zero_iff_lanes m).2 fun n hn => ?_)
  by_contra hin
  have := (mem_lanesOf m n).2 ⟨hn, by simpa using hin⟩
  simp [hnil] at this

/-- What MOV.U moves: nothing where every thread skips, else the immediate or the value its lanes agree on (R44; log 17). -/
theorem uniformValue_spec (c : Ctx) (f : Fields) :
    (c.lanes f = 0 → uniformValue c f = readU c.group f.dst) ∧
    (∀ v, f.imm = some v → c.lanes f ≠ 0 → uniformValue c f = v) ∧
    (∀ v, f.imm = none → c.lanes f ≠ 0 → (∀ n, n < 32 → inMask (c.lanes f) n = true → readReg c.group f.srcA n = v) →
      uniformValue c f = v) := by
  unfold uniformValue
  refine ⟨fun h => by rw [h, lanesOf_zero], fun v hv hne => ?_, fun v hv hne hall => ?_⟩
  · split
    · rename_i hnil; exact absurd hnil (lanesOf_ne_nil hne)
    · rw [hv]
  · split
    · rename_i hnil; exact absurd hnil (lanesOf_ne_nil hne)
    · rename_i lane rest hl
      have hread : ∀ n ∈ lane :: rest, readReg c.group f.srcA n = v := by
        rw [← hl]
        intro n hn
        obtain ⟨hlt, hin⟩ := (mem_lanesOf _ _).1 hn
        exact hall n hlt hin
      rw [hv]
      simp only [hread lane List.mem_cons_self]
      rw [if_pos]
      simpa using fun n hn => hread n (List.mem_cons_of_mem _ hn)

theorem comparison_completes {s : State} {i : Issue} {c : Ctx} (h : ctxOf s i = some c) (op : CmpOp) {f : Fields}
    (hlegal : fieldsIllegal useCmp f = false) (hbounds : fieldsOutOfBounds useCmp c.block.launch.params.regs f = false) :
    exec (.comparePredicateSet i op f) s = .next (c.done (c.group.setPred f.dst.toNat (c.lanes f) (maskWhere fun lane =>
      cmpResult op f.ty.toNat (readReg c.group f.srcA lane) (operandB c.group f lane) (free c.s lane)))) :=
  congrArg Host.Outcome.next ((issue_ok h _).trans (checked_ok _ hlegal hbounds))

/-- What a vote over a predicate finds (R45). -/
def voteHolds (c : Ctx) (f : Fields) (m : VoteMode) : Bool :=
  if m = .all then (List.range 32).all fun k => !inMask c.path.mask k || inMask (predMask c.group f.srcA.toNat) k
  else (List.range 32).any fun k => inMask c.path.mask k && inMask (predMask c.group f.srcA.toNat) k

theorem vote_completes {s : State} {i : Issue} {c : Ctx} (h : ctxOf s i = some c) {m : VoteMode} (hm : m ≠ .ballot) {f : Fields}
    (hlegal : fieldsIllegal { dst := 3, a := 3 } f = false)
    (hbounds : fieldsOutOfBounds { dst := 3, a := 3 } c.block.launch.params.regs f = false) :
    exec (.vote i m f) s = .next (c.done (c.group.setPred f.dst.toNat (c.lanes f) (if voteHolds c f m then 0xFFFFFFFF else 0))) := by
  cases m with
  | all =>
    refine congrArg Host.Outcome.next ((issue_ok h _).trans ((checked_ok _ hlegal hbounds).trans ?_))
    simp only [voteHolds, if_true, vote_all_iff]
  | any =>
    refine congrArg Host.Outcome.next ((issue_ok h _).trans ((checked_ok _ hlegal hbounds).trans ?_))
    have hnone : (predMask c.group f.srcA.toNat &&& c.path.mask = 0) ↔ voteHolds c f .any = false := vote_any_iff ..
    simp only [hnone]
    cases voteHolds c f .any <;> rfl
  | ballot => exact absurd rfl hm

theorem inMask_ite (b : Bool) {n : Nat} (hn : n < 32) : inMask (if b then 0xFFFFFFFF else 0) n = b := by
  cases b
  · exact inMask_zero n
  · exact inMask_all hn

/-- Settles O5, instruction by instruction. -/
theorem predicateInstructionsComplete : Obligations.PredicateInstructionsComplete := by
  unfold Obligations.PredicateInstructionsComplete
  intro i f s c h
  refine ⟨fun op hlegal hbounds => ?_, fun hlegal hbounds m hm => ?_, fun hlegal hbounds => ?_, ?_⟩
  · obtain ⟨g, hg, hp, hrest⟩ := pred_ok h f (maskWhere fun lane =>
      cmpResult op f.ty.toNat (readReg c.group f.srcA lane) (operandB c.group f lane) (free c.s lane))
    refine ⟨_, g, comparison_completes h op hlegal hbounds, hg, fun p n hn => ?_, hrest⟩
    rw [hp p n hn, inMask_maskWhere _ hn]
  · obtain ⟨g, hg, hp, hrest⟩ := pred_ok h f (if voteHolds c f m then 0xFFFFFFFF else 0)
    refine ⟨_, g, vote_completes h hm hlegal hbounds, hg, fun p n hn => ?_, hrest⟩
    rw [hp p n hn, inMask_ite _ hn]
    unfold voteHolds
    split_ifs <;> rfl
  · obtain ⟨g, hg, hd, hregs, hrest, hadv, honly, -⟩ := lane_ok (f := f) (fun _ => predMask c.group f.srcA.toNat &&& c.path.mask) h
    exact ⟨_, g, congrArg Host.Outcome.next ((issue_ok h _).trans (checked_ok _ hlegal hbounds)), hg, hd, hregs, hrest, hadv, honly⟩
  · rintro _ rfl hlegal hbounds
    obtain ⟨hskip, himm, hagree⟩ := uniformValue_spec c f
    have hread : ∀ x, readU (writeU c.group f.dst (uniformValue c f)) x =
        if x = f.dst then uniformValue c f else readU c.group x := fun x => readU_writeU _ _ x _
    have hself := (hread f.dst).trans (if_pos rfl)
    refine ⟨_, _, congrArg Host.Outcome.next ((issue_ok h _).trans (checked_ok _ hlegal hbounds)),
      (ctxOf_stands h).groupIn_done _, fun hz => hself.trans (hskip hz), fun v hv hne => hself.trans (himm v hv hne),
      fun v hv hne hall => hself.trans (hagree v hv hne hall), fun x hx => (hread x).trans (if_neg hx), rfl, rfl,
      ⟨rfl, rfl, rfl, rfl⟩, advance_Advanced c (writeU c.group f.dst _) rfl c.tile.cycle.toNat, onlyGroup_done ..⟩

end Sys2Proof.Machine
end

section
/-!
PROOF. O6: the conversions (R61, R107, R111, R113, R119).
-/

namespace Sys2Proof.Machine

/-- Some executing lane meets a condition where as many as do are not none. -/
theorem decide_filter_lanesOf_pos (m : W32) (p : Nat → Bool) :
    decide (((lanesOf m).filter p).length > 0) = (List.range 32).any fun n => inMask m n && p n := by
  rw [Bool.eq_iff_iff, decide_eq_true_eq, gt_iff_lt, List.length_pos_iff_exists_mem, List.any_eq_true]
  simp only [List.mem_filter, mem_lanesOf, List.mem_range, Bool.and_eq_true, and_assoc]

/-- A conversion writes its lanes, flags the tile, counts in its block's census, and completes (R111, R131). -/
theorem convertLanes_eq (c : Ctx) (f : Fields) (conv : Nat → Num → Conv) :
    ∃ census, convertLanes c f conv =
      (c.finish
        (c.tile.flag ((List.range 32).any fun n => inMask (c.lanes f) n && (conv n (cvtSource c.group f n)).sat)
          ((List.range 32).any fun n => inMask (c.lanes f) n && (conv n (cvtSource c.group f n)).nonfinite))
        { c.block with census := census }
        (writeLanes c.group f.dst (c.lanes f) fun n => BitVec.ofNat 32 (conv n (cvtSource c.group f n)).bits)).countConversions
        ((lanesOf (c.lanes f)).filter fun n => (conv n (cvtSource c.group f n)).sat).length
        ((lanesOf (c.lanes f)).filter fun n => (conv n (cvtSource c.group f n)).nonfinite).length := by
  simp only [convertLanes, List.foldl_map, List.filter_map, List.length_map, Function.comp_def, ← decide_filter_lanesOf_pos]
  exact ⟨_, rfl⟩

theorem convert_ok {s : State} {i : Issue} {c : Ctx} (h : ctxOf s i = some c) {f : Fields} (hlegal : fieldsIllegal useCvt f = false)
    (hbounds : fieldsOutOfBounds useCvt c.block.launch.params.regs f = false) (hsrc : cvtSrc f ≤ 3) (hdst : cvtDst f ≤ 3)
    (conv : Ctx → Nat → Num → Conv) : convert s i f conv = convertLanes c f (conv c) := by
  refine (issue_ok h _).trans ((if_neg ?_).trans (checked_ok _ hlegal hbounds))
  simp [Nat.not_lt.2 hsrc, Nat.not_lt.2 hdst]

/-- Settles O6: both conversions write, flag and count what `conv` gives for the scaled source of each executing lane. -/
theorem conversionsComplete : Obligations.ConversionsComplete := by
  unfold Obligations.ConversionsComplete
  intro i f s c h hlegal hbounds hsrc hdst x conv hx
  have hst := ctxOf_stands h
  obtain ⟨cv, hexec, hconv⟩ : ∃ cv : Nat → Num → Conv, exec x s = .next (convertLanes c f cv) ∧
      conv = fun n => cv n (cvtSource c.group f n) := by
    rcases hx with ⟨rfl, hc⟩ | ⟨rfl, hc⟩
    · exact ⟨_, congrArg Host.Outcome.next (convert_ok h hlegal hbounds hsrc hdst _), funext hc⟩
    · exact ⟨_, congrArg Host.Outcome.next (convert_ok h hlegal hbounds hsrc hdst _), funext hc⟩
  subst hconv
  obtain ⟨census, he⟩ := convertLanes_eq c f cv
  rw [hexec, he]
  refine ⟨_, _, rfl, groupIn_finish (b := { c.block with census := census }) hst.group _ _, fun n hn => ?_,
    ⟨fun r n hn hr => ?_, ?_, ?_⟩, ?_, ?_, ?_, ?_, ?_, rfl, rfl, rfl⟩
  · refine (readReg_writeLanes c.group f.dst f.dst (c.lanes f) _ n hn).trans ?_
    by_cases hd : f.dst = 255
    · rw [if_neg fun hc => hc.1 hd, if_pos hd, hd, readReg_zero]
    · rw [if_neg hd]
      exact if_congr ⟨fun hc => hc.2.2, fun hin => ⟨hd, rfl, hin⟩⟩ rfl rfl
  · refine (readReg_writeLanes c.group f.dst r (c.lanes f) _ n hn).trans (if_neg ?_)
    tauto
  · rw [writeLanes_frame]; rfl
  · rw [writeLanes_frame]; rfl
  · rw [writeLanes_frame]; exact ⟨rfl, rfl, rfl, rfl⟩
  · rw [writeLanes_frame]
    exact advance_Advanced c { c.group with regs := _ } rfl c.tile.cycle.toNat
  · exact (hst.sameMemory_keep (t := c.tile.flag _ _) rfl _ _).trans (SameMemory.of_eq rfl rfl)
  · exact congrArg Tile.sat (tileAt_finish ..)
  · exact congrArg Tile.nonfinite (tileAt_finish ..)

end Sys2Proof.Machine
end

section
/-!
PROOF. O7: branches, calls and returns (R43, R44, R58, R59).
-/

namespace Sys2Proof.Machine

/-- Where the threads of a mask stand once each has a path of its own (R43). -/
theorem mem_threadPaths (mask : W32) (target : Nat → Nat) {n : Nat} (hn : n < 32) (pc : Nat) :
    (∃ q ∈ (lanesOf mask).map fun m => ({ pc := target m, mask := ((1 <<< m : Nat) : W32) } : ThreadPath),
      q.pc = pc ∧ inMask q.mask n = true) ↔ inMask mask n = true ∧ pc = target n := by
  simp only [List.mem_map, mem_lanesOf]
  constructor
  · rintro ⟨_, ⟨m, ⟨hm, hin⟩, rfl⟩, hpc, hq⟩
    rw [inMask_single hm, decide_eq_true_eq] at hq
    subst hq
    exact ⟨hin, hpc.symm⟩
  · rintro ⟨hin, rfl⟩
    exact ⟨_, ⟨n, ⟨hn, hin⟩, rfl⟩, rfl, by rw [inMask_single hn, decide_eq_true_eq]⟩

/-- Threads of a group that branch: each executing one stands at its target, the path's others after the instruction (R43). -/
theorem jumped_jump (c : Ctx) (f : Fields) (target : Nat → Nat) {g : Group} (hg : g.paths = c.group.paths) (k : Nat) :
    Jumped c f target { g.jump c.path (c.lanes f) target with lastIssue := k } := by
  intro n pc hn
  refine (mem_replacePath g c.path _ n pc).trans ?_
  rw [List.exists_mem_cons_iff, mem_threadPaths _ _ hn, inMask_and, inMask_not _ hn, hg, Bool.and_eq_true, Bool.not_eq_true']
  constructor
  · rintro (helse | ⟨hpc, hin, hout⟩ | hmoved)
    · exact .inr (.inr helse)
    · exact .inr (.inl ⟨hin, hout, hpc.symm⟩)
    · exact .inl hmoved
  · rintro (hmoved | ⟨hin, hout, hpc⟩ | helse)
    · exact .inr (.inr hmoved)
    · exact .inr (.inl ⟨hpc.symm, hin, hout⟩)
    · exact .inl helse

/-- A branch goes on where the targets of its executing lanes, and an immediate one, are multiples of 8 (R59). -/
theorem targetBad_false {c : Ctx} {f : Fields} {target : Nat → Nat} (himm : ∀ v, f.imm = some v → v.toNat % 8 = 0)
    (ht : ∀ n, n < 32 → inMask (c.lanes f) n = true → target n % 8 = 0) :
    targetBad f (lanesOf (c.lanes f)) target = false := by
  have hany : ((lanesOf (c.lanes f)).any fun n => decide (target n % 8 ≠ 0)) = false := by
    rw [List.any_eq_false]
    intro n hn
    obtain ⟨hlt, hin⟩ := (mem_lanesOf _ _).1 hn
    simp [ht n hlt hin]
  unfold targetBad
  rw [hany]
  cases hi : f.imm with
  | none => rfl
  | some v => simp [himm v hi]

/-- A target that is no multiple of 8 stops a branch (R59). -/
theorem targetBad_true {c : Ctx} {f : Fields} {target : Nat → Nat}
    (h : (∃ n, n < 32 ∧ inMask (c.lanes f) n = true ∧ target n % 8 ≠ 0) ∨ ∃ v, f.imm = some v ∧ v.toNat % 8 ≠ 0) :
    targetBad f (lanesOf (c.lanes f)) target = true := by
  unfold targetBad
  rcases h with ⟨n, hn, hin, hbad⟩ | ⟨v, hv, hbad⟩
  · rw [Bool.or_eq_true, List.any_eq_true]
    exact .inr ⟨n, (mem_lanesOf _ _).2 ⟨hn, hin⟩, by simpa using hbad⟩
  · simp [hv, hbad]

/-- An instruction without an immediate form has none. -/
theorem imm_none_of_legal {u : Use} {f : Fields} (hu : u.imm = false) (h : fieldsIllegal u f = false) : f.imm = none := by
  unfold fieldsIllegal at h
  cases hi : f.imm with
  | none => rfl
  | some v => simp [hi, hu] at h

/-- An instruction without registers names none out of bounds (R60). -/
theorem fieldsOutOfBounds_none (regs : Nat) (f : Fields) : fieldsOutOfBounds {} regs f = false := by
  simp [fieldsOutOfBounds, bSpace, regBad]

/-- Settles O7, form by form. -/
theorem branchesMoveTheThreads : Obligations.BranchesMoveTheThreads := by
  unfold Obligations.BranchesMoveTheThreads
  intro i f s c h
  have hst := ctxOf_stands h
  refine ⟨fun hlegal hbounds himm ht => ?_, fun hlegal hbounds himm ht => ?_, fun hlegal hbounds ht => ?_, fun hlegal => ?_,
    fun hlegal hbounds hbad => ?_⟩
  · refine ⟨_, _, congrArg Host.Outcome.next ((issue_ok h _).trans ((checked_ok _ hlegal hbounds).trans
      (if_neg (by simp [targetBad_false himm ht])))), groupIn_keep hst.group _ _, jumped_jump c f _ rfl _, rfl, rfl, rfl,
      ⟨rfl, rfl, rfl, rfl⟩, onlyGroup_keep ..⟩
  · refine ⟨_, _, congrArg Host.Outcome.next ((issue_ok h _).trans ((checked_ok _ hlegal hbounds).trans
      (if_neg (by simp [targetBad_false himm ht])))), groupIn_keep hst.group _ _, jumped_jump c f _ ?_ _, fun n hn hin hd => ?_,
      ⟨fun x n hn hx => ?_, ?_, ?_⟩, ?_, onlyGroup_keep ..⟩
    · rw [writeLanes_frame]
    · exact (readReg_writeLanes c.group f.dst f.dst (c.lanes f) _ n hn).trans (if_pos ⟨hd, rfl, hin⟩)
    · exact (readReg_writeLanes c.group f.dst x (c.lanes f) _ n hn).trans (if_neg fun hc => hx hc.2.1)
    all_goals rw [writeLanes_frame]
    · rfl
    · rfl
    · exact ⟨rfl, rfl, rfl, rfl⟩
  · have himm : ∀ v, f.imm = some v → v.toNat % 8 = 0 := by simp [imm_none_of_legal rfl hlegal]
    refine ⟨_, _, congrArg Host.Outcome.next ((issue_ok h _).trans ((checked_ok _ hlegal hbounds).trans
      (if_neg (by simp [targetBad_false himm ht])))), groupIn_keep hst.group _ _, jumped_jump c f _ rfl _, rfl, rfl, rfl,
      ⟨rfl, rfl, rfl, rfl⟩, onlyGroup_keep ..⟩
  · exact ⟨_, _, congrArg Host.Outcome.next ((issue_ok h _).trans (checked_ok _ hlegal (fieldsOutOfBounds_none ..))), hst.groupIn_done _,
      advance_Advanced c c.group rfl c.tile.cycle.toNat, rfl, rfl, rfl, ⟨rfl, rfl, rfl, rfl⟩, onlyGroup_done ..⟩
  · exact ⟨_, congrArg Host.Outcome.next ((issue_ok h _).trans ((checked_ok _ hlegal hbounds).trans
      (if_pos (targetBad_true hbad)))), hst.frozeGroup ..⟩

end Sys2Proof.Machine
end

section
/-!
PROOF. O9: the block barrier, its fields, what it parks and what it releases (R47 to R49).
-/

namespace Sys2Proof.Machine

/-- Threads in one mask and not in another. -/
theorem inMask_and_not (a b : W32) (n : Nat) : inMask (a &&& ~~~b) n = (inMask a n && !inMask b n) := by
  by_cases hn : n < 32
  · rw [inMask_and, inMask_not b hn]
  · have : inMask a n = false := BitVec.getLsbD_of_ge a n (by omega)
    rw [inMask_and, this, Bool.false_and, Bool.false_and]

/-! ### Parked threads (R47, R48) -/

/-- Where threads are parked after some park to resume at `r` (R47). -/
theorem mem_parkAt (ps : List Parked) (r : Nat) (m : W32) (n q : Nat) :
    (∃ p ∈ parkAt ps r m, p.resume = q ∧ inMask p.mask n = true) ↔
      (∃ p ∈ ps, p.resume = q ∧ inMask p.mask n = true) ∨ (q = r ∧ inMask m n = true) := by
  induction ps with
  | nil =>
    simp only [parkAt, List.exists_mem_cons_iff, List.not_mem_nil, false_and, exists_false, or_false, false_or]
    rw [eq_comm]
  | cons p rest ih =>
    by_cases hp : p.resume = r
    · rw [parkAt, if_pos hp]
      simp only [List.exists_mem_cons_iff, inMask_or, Bool.or_eq_true, hp, eq_comm (a := r), and_or_left]
      rw [or_right_comm]
    · rw [parkAt, if_neg hp]
      simp only [List.exists_mem_cons_iff, ih, or_assoc]

/-- The threads of several entries of a barrier, and some before them. -/
theorem foldl_parked_or (ps : List Parked) (m : W32) :
    ps.foldl (fun m p => m ||| p.mask) m = m ||| ps.foldl (fun m p => m ||| p.mask) 0 := by
  induction ps generalizing m with
  | nil => simp
  | cons p rest ih =>
    have hp : (0 : W32) ||| p.mask = p.mask := BitVec.zero_or
    rw [List.foldl_cons, List.foldl_cons, ih, ih (0 ||| p.mask), hp, BitVec.or_assoc]

theorem foldl_parkAt_or (ps : List Parked) (r : Nat) (m k : W32) :
    (parkAt ps r m).foldl (fun m p => m ||| p.mask) k = ps.foldl (fun m p => m ||| p.mask) k ||| m := by
  induction ps generalizing k with
  | nil => rfl
  | cons p rest ih =>
    rw [parkAt]
    split
    · rw [List.foldl_cons, List.foldl_cons, foldl_parked_or, foldl_parked_or rest (k ||| p.mask)]
      rw [BitVec.or_assoc, BitVec.or_assoc, BitVec.or_assoc, BitVec.or_comm m, BitVec.or_assoc]
    · exact ih _

/-- The threads parked in a group after its issuing path parks (R47). -/
theorem parkedMask_park (g : Group) (p : ThreadPath) : (g.park p).parkedMask = g.parkedMask ||| p.mask :=
  foldl_parkAt_or ..

/-- A path that parks leaves the group's other paths (R47). -/
theorem runsAt_park (g : Group) (p : ThreadPath) (n pc : Nat) :
    (g.park p).runsAt n pc ↔ ∃ q ∈ g.paths, q.pc ≠ p.pc ∧ q.pc = pc ∧ inMask q.mask n = true := by
  refine (mem_replacePath g p [] n pc).trans ?_
  simp

/-- Where the threads of a released group stand (R48). -/
theorem runsAt_release (g : Group) (n pc : Nat) :
    g.release.runsAt n pc ↔ g.runsAt n pc ∨ ∃ p ∈ g.parked, p.resume = pc ∧ inMask p.mask n = true := by
  refine (mem_foldl_mergePath _ n pc g.paths).trans (or_congr Iff.rfl ?_)
  simp only [List.mem_map]
  constructor
  · rintro ⟨_, ⟨p, hp, rfl⟩, hpc, hin⟩
    exact ⟨p, hp, hpc, hin⟩
  · rintro ⟨p, hp, hpc, hin⟩
    exact ⟨_, ⟨p, hp, rfl⟩, hpc, hin⟩

/-! ### The barrier -/

/-- The block of the issuing group after a barrier: the group is back, and the barrier released where it may (R48). -/
theorem mget_barrier (c : Ctx) (b : Block) (g : Group) :
    mget (tileAt (c.barrier b g) c.l).blocks c.slot =
      some (b.setGroup c.gi { g with lastIssue := c.tile.cycle.toNat }).tryRelease := by
  simp [Ctx.barrier, Ctx.markTile]

/-- Where a barrier releases (R47, R48). -/
theorem tryRelease_eq (b : Block) :
    b.tryRelease =
      if (b.groups.all fun g => decide (g.live = 0 ∨ g.parkedMask = g.live)) && b.groups.any fun g => decide (g.parkedMask ≠ 0)
      then { b with groups := b.groups.map Group.release, watchRunning := false } else b := by
  have harr : Group.arrived = fun g : Group => decide (g.live = 0 ∨ g.parkedMask = g.live) := by
    funext g
    rw [Bool.decide_or]
    rfl
  unfold Block.tryRelease
  rw [harr]

theorem Ctx.Stands.sameMemory_barrier {c : Ctx} (h : c.Stands) (b : Block) (g : Group) : SameMemory c.s (c.barrier b g) := by
  refine sameMemory_setTile ?_
  rw [← h.tile]
  rfl

/-- BAR.BLOCK uses no operand field: each of them has to be zero (R49). -/
theorem fieldsIllegal_none (f : Fields) : fieldsIllegal {} f = false ↔
    f.dst = 0 ∧ f.srcA = 0 ∧ f.srcB = 0 ∧ f.srcC = 0 ∧ f.ty = 0 ∧ f.mod = 0 ∧ f.imm = none := by
  have hmod : ∀ m : BitVec 16, m &&& ~~~(BitVec.ofNat 16 (0 + 0)) = m := fun m =>
    BitVec.and_allOnes
  simp only [fieldsIllegal, if_true, Bool.false_eq_true, if_false, hmod]
  cases f.imm <;> simp [and_assoc]

theorem barBlock_completes {s : State} {i : Issue} {c : Ctx} (h : ctxOf s i = some c) {f : Fields} (hg : guardAlways f = true)
    (hlegal : fieldsIllegal {} f = false) :
    exec (.barBlock i f) s = .next (c.barrier c.block.startWatch (c.group.park c.path)) :=
  congrArg Host.Outcome.next ((issue_ok h _).trans ((if_neg (by simp [hg])).trans (checked_ok _ hlegal (fieldsOutOfBounds_none ..))))

theorem barBlock_guard {s : State} {i : Issue} {c : Ctx} (h : ctxOf s i = some c) {f : Fields} (hg : guardAlways f = false) :
    exec (.barBlock i f) s = .next (c.freeze 0x04 0) :=
  congrArg Host.Outcome.next ((issue_ok h _).trans (if_pos (by simp [hg])))

theorem guardAlways_iff (f : Fields) : guardAlways f = true ↔ f.guard = 7 ∧ f.guardNeg = false := by
  simp [guardAlways]

/-- The barrier of a block with one group releases when that group's live threads are all parked (R48, R49). -/
theorem tryRelease_lone {b : Block} {g : Group} (hb : b.groups = [g]) (hlive : g.parkedMask = g.live) (hpark : g.parkedMask ≠ 0) :
    b.tryRelease = { b with groups := [g.release], watchRunning := false } := by
  have hsome : g.live ≠ 0#32 := hlive ▸ hpark
  rw [tryRelease_eq, hb, if_pos (by simp [hlive, hsome])]
  rfl

/-- The only group of a block is the one that issues. -/
theorem updateAt_lone {bs : List Group} {gi : Nat} {g0 : Group} (hlen : bs.length = 1) (hg : bs[gi]? = some g0) (g : Group) :
    gi = 0 ∧ updateAt bs gi (fun _ => g) = [g] := by
  obtain ⟨g1, rfl⟩ := List.length_eq_one_iff.1 hlen
  obtain ⟨hlt, -⟩ := List.getElem?_eq_some_iff.1 hg
  obtain rfl : gi = 0 := by simpa using hlt
  exact ⟨rfl, rfl⟩

/-- Settles O9: a lone group that parks its last live threads is released at once. -/
theorem barBlockFieldsAndLoneGroups : Obligations.BarBlockFieldsAndLoneGroups := by
  unfold Obligations.BarBlockFieldsAndLoneGroups
  intro i f s c h zero
  have hst := ctxOf_stands h
  refine ⟨fun hbad => ?_, fun hgd hneg hzero hlone hmask hlive => ?_⟩
  · by_cases hg : guardAlways f = true
    · have hill : fieldsIllegal {} f = true := by
        by_contra hl
        obtain ⟨hgd, hneg⟩ := (guardAlways_iff f).1 hg
        exact hbad ⟨hgd, hneg, (fieldsIllegal_none f).1 (by simpa using hl)⟩
      exact ⟨_, congrArg Host.Outcome.next ((issue_ok h _).trans ((if_neg (by simp [hg])).trans (checked_illegal _ _ _ _ hill))),
        hst.frozeGroup ..⟩
    · exact ⟨_, barBlock_guard h (by simpa using hg), hst.frozeGroup ..⟩
  · let g1 : Group := { c.group.park c.path with lastIssue := c.tile.cycle.toNat }
    have hparked : g1.parkedMask = c.group.parkedMask ||| c.path.mask := parkedMask_park ..
    have hall : g1.parkedMask = g1.live := inMask_eq fun n hn => by
      rw [hparked, inMask_or]
      exact (hlive n hn).symm
    have hany : g1.parkedMask ≠ 0 := by
      rw [hparked]
      exact fun hz => hmask (BitVec.or_eq_zero_iff.1 hz).2
    obtain ⟨hgi, hgroups⟩ := updateAt_lone hlone hst.group g1
    have hstart : c.block.startWatch.groups = c.block.groups := by
      unfold Block.startWatch; split <;> rfl
    have hrel := tryRelease_lone (b := c.block.startWatch.setGroup c.gi g1) ((congrArg (updateAt · c.gi _) hstart).trans hgroups)
      hall hany
    refine ⟨_, g1.release, barBlock_completes h ((guardAlways_iff f).2 ⟨hgd, hneg⟩) ((fieldsIllegal_none f).2 hzero), ?_, rfl, rfl,
      fun n hn hin => ?_, fun n p hn hp hin => ?_, rfl, rfl, hst.sameMemory_barrier ..⟩
    · rw [groupIn, mget_barrier, hrel, hgi]
      rfl
    · exact (runsAt_release g1 n _).2 (.inr ((mem_parkAt ..).2 (.inr ⟨rfl, hin⟩)))
    · exact (runsAt_release g1 n _).2 (.inr ((mem_parkAt ..).2 (.inl ⟨p, hp, rfl, hin⟩)))

end Sys2Proof.Machine
end

section
/-!
PROOF. O10: the guard of the instructions that execute once per issue, and the turn of the issue ports (R54, R55, R76).
-/

namespace Sys2Proof.Machine

/-- An instruction of the array issues in its port's turn (R76). -/
theorem issueArray_inTurn {s : State} {i : Issue} {c : Ctx} (h : ctxOf s i = some c) (hp : PortInTurn c) (k : Ctx → State) :
    issueArray s i k = k c := by
  refine (issue_ok h _).trans (if_neg ?_)
  simp only [Bool.and_eq_true, decide_eq_true_eq, List.any_eq_true, not_and, not_exists]
  exact hp

/-- An instruction of the array on port 0 does not issue after one on port 1 (R76; log 67). -/
theorem issueArray_early {s : State} {i : Issue} {c : Ctx} (h : ctxOf s i = some c) (hp : ¬ PortInTurn c) (k : Ctx → State) :
    issueArray s i k = s := by
  refine (issue_ok h _).trans (if_pos ?_)
  unfold PortInTurn at hp
  push Not at hp
  simpa using hp

/-- An instruction whose guard is not p7 unnegated freezes before its other checks. -/
theorem checkedOnce_froze {c : Ctx} (h : c.Stands) {f : Fields} (hg : guardAlways f = false) (u : Use) (k : State) :
    FrozeGroup c 0x04 0 (c.checkedOnce u f k) := by
  rw [checkedOnce_guard _ _ _ _ hg]
  exact h.frozeGroup ..

/-- One that stops at a check of its own freezes with the same cause. -/
theorem checkedOnce_froze_of_ite {c : Ctx} (h : c.Stands) {f : Fields} (hg : guardAlways f = false) (p : Prop) [Decidable p]
    (u : Use) (k : State) : FrozeGroup c 0x04 0 (if p then c.freeze 0x04 0 else c.checkedOnce u f k) := by
  split
  · exact h.frozeGroup ..
  · exact checkedOnce_froze h hg ..

/-- Settles O10: the guard is checked first, or beside a check with the same cause. -/
theorem onceInstructionsNeedGuardP7 : Obligations.OnceInstructionsNeedGuardP7 := by
  unfold Obligations.OnceInstructionsNeedGuardP7
  intro i f ecc s c h
  have hst := ctxOf_stands h
  have hecc := hst.ecc ecc
  refine ⟨fun hguard => ?_, fun hturn x hx => ?_⟩
  · have hg : guardAlways f = false := by
      rw [← Bool.not_eq_true]
      exact fun hg => hguard ((guardAlways_iff f).1 hg)
    refine ⟨fun x hx => ?_, fun hturn x hx => ?_⟩ <;> simp only [List.mem_cons, List.not_mem_nil, or_false] at hx
    · rcases hx with rfl | rfl | rfl | rfl | rfl | rfl | rfl | rfl
      · exact ⟨_, congrArg Host.Outcome.next (issue_ok h _), (checkedOnce_froze hecc hg ..).of_ecc⟩
      · exact ⟨_, congrArg Host.Outcome.next (issue_ok h _), checkedOnce_froze hst hg ..⟩
      · exact ⟨_, congrArg Host.Outcome.next (issue_ok h _), (checkedOnce_froze hecc hg ..).of_ecc⟩
      · exact ⟨_, congrArg Host.Outcome.next (issue_ok h _), (checkedOnce_froze hecc hg ..).of_ecc⟩
      · exact ⟨_, congrArg Host.Outcome.next (issue_ok h _), (checkedOnce_froze hecc hg ..).of_ecc⟩
      · exact ⟨_, congrArg Host.Outcome.next (issue_ok h _), checkedOnce_froze hst hg ..⟩
      · exact ⟨_, congrArg Host.Outcome.next (issue_ok h _), checkedOnce_froze hst hg ..⟩
      · exact ⟨_, congrArg Host.Outcome.next (issue_ok h _), checkedOnce_froze hst hg ..⟩
    · rcases hx with rfl | rfl | rfl | rfl | rfl
      · exact ⟨_, congrArg Host.Outcome.next ((issueArray_inTurn h hturn _).trans (if_pos (by simp [hg]))), hst.frozeGroup ..⟩
      · exact ⟨_, congrArg Host.Outcome.next (issueArray_inTurn h hturn _), checkedOnce_froze_of_ite hst hg ..⟩
      · exact ⟨_, congrArg Host.Outcome.next (issueArray_inTurn h hturn _), checkedOnce_froze_of_ite hst hg ..⟩
      · exact ⟨_, congrArg Host.Outcome.next (issueArray_inTurn h hturn _), checkedOnce_froze_of_ite hst hg ..⟩
      · exact ⟨_, congrArg Host.Outcome.next (issueArray_inTurn h hturn _), checkedOnce_froze hst hg ..⟩
  · simp only [List.mem_cons, List.not_mem_nil, or_false] at hx
    rcases hx with rfl | rfl | rfl | rfl | rfl <;> exact congrArg Host.Outcome.next (issueArray_early h hturn _)

end Sys2Proof.Machine
end

section
/-!
PROOF. O11: EXIT, BAR.BLOCK, the release of a barrier, and its watchdog (R45, R47, R48, R50, R115).
-/

namespace Sys2Proof.Machine

/-- What a barrier leaves of the state beside its block (R48). -/
theorem barrier_after {c : Ctx} (hst : c.Stands) (b : Block) (g : Group) :
    c.barrier b g = { c.s with tiles := (c.barrier b g).tiles } ∧
    (∀ l, l ≠ c.l → mget (c.barrier b g).tiles l = mget c.s.tiles l) ∧ SameMemory c.s (c.barrier b g) :=
  ⟨rfl, fun _ hl => mget_mset_ne _ _ hl, hst.sameMemory_barrier ..⟩

theorem exit_completes {s : State} {i : Issue} {c : Ctx} (h : ctxOf s i = some c) {f : Fields}
    (hlegal : fieldsIllegal {} f = false) :
    exec (.exit i f) s = .next (c.barrier c.block
      ({ c.group.replacePath c.path [{ pc := c.path.pc + 8, mask := c.path.mask &&& ~~~c.lanes f }] with
          live := c.group.live &&& ~~~c.lanes f }.settle)) :=
  congrArg Host.Outcome.next ((issue_ok h _).trans (checked_ok _ hlegal (fieldsOutOfBounds_none ..)))

/-- A group ends with its last live thread (R39). -/
theorem settle_of_none {g : Group} (h : g.live = 0) : g.settle = { live := 0, ended := true, lastIssue := g.lastIssue } := if_pos h

theorem settle_of_live {g : Group} (h : g.live ≠ 0) : g.settle = g := if_neg h

theorem settle_live (g : Group) : g.settle.live = g.live := by
  by_cases h : g.live = 0
  · rw [settle_of_none h, h]
  · rw [settle_of_live h]

/-- The watchdog runs from zero where it did not run before (R50). -/
theorem startWatch_eq (b : Block) :
    b.startWatch = { b with watchRunning := true, watchCount := if b.watchRunning then b.watchCount else 0 } := by
  unfold Block.startWatch
  split
  · rename_i h; rw [← h]
  · rfl

/-! ### A cycle of the array -/

/-- What a cycle of a tile's array leaves: every memory outside, the other tiles, the cycle count and the generators, the
tenants' freezes, and of the tile's blocks all but what they count (R68, R73, R131). -/
structure ArrayKeeps (l : Nat) (s t : State) : Prop where
  mem : t.mem = s.mem
  tiles : ∀ j, j ≠ l → mget t.tiles j = mget s.tiles j
  cycle : (tileAt t l).cycle = (tileAt s l).cycle
  gens : (tileAt t l).gens = (tileAt s l).gens
  freezes : ∀ n, (tenantAt t n).freezes = (tenantAt s n).freezes
  blocks : ∃ f : Nat × Block → Census, (tileAt t l).blocks = (tileAt s l).blocks.map fun e => (e.1, { e.2 with census := f e })

theorem ArrayKeeps.refl (l : Nat) (s : State) : ArrayKeeps l s s :=
  ⟨rfl, fun _ _ => rfl, rfl, rfl, fun _ => rfl, fun e => e.2.census, (List.map_id _).symm⟩

theorem ArrayKeeps.trans {l : Nat} {s t u : State} (h : ArrayKeeps l s t) (h' : ArrayKeeps l t u) : ArrayKeeps l s u := by
  obtain ⟨f, hf⟩ := h.blocks
  obtain ⟨f', hf'⟩ := h'.blocks
  refine ⟨h'.mem.trans h.mem, fun j hj => (h'.tiles j hj).trans (h.tiles j hj), h'.cycle.trans h.cycle, h'.gens.trans h.gens,
    fun n => (h'.freezes n).trans (h.freezes n), fun e => f' (e.1, { e.2 with census := f e }), ?_⟩
  rw [hf', hf, List.map_map]
  rfl

/-- A change of the tile alone, that keeps its cycle count and its generators. -/
theorem ArrayKeeps.setTile {l : Nat} {s : State} {t : Tile} (hc : t.cycle = (tileAt s l).cycle) (hg : t.gens = (tileAt s l).gens)
    (f : Nat × Block → Census) (hb : t.blocks = (tileAt s l).blocks.map fun e => (e.1, { e.2 with census := f e })) :
    ArrayKeeps l s (s.setTile l t) :=
  ⟨rfl, fun _ hj => mget_mset_ne _ _ hj, by rwa [tileAt_setTile_self], by rwa [tileAt_setTile_self], fun _ => rfl, f,
    by rwa [tileAt_setTile_self]⟩

/-- One that keeps the blocks too. -/
theorem ArrayKeeps.setTile_same {l : Nat} {s : State} {t : Tile} (hc : t.cycle = (tileAt s l).cycle)
    (hg : t.gens = (tileAt s l).gens) (hb : t.blocks = (tileAt s l).blocks) : ArrayKeeps l s (s.setTile l t) :=
  .setTile hc hg (fun e => e.2.census) (hb.trans (List.map_id _).symm)

/-- A change outside the tiles and the memories that freezes nobody. -/
theorem ArrayKeeps.of_tiles {l : Nat} {s t : State} (hm : t.mem = s.mem) (ht : t.tiles = s.tiles)
    (hf : ∀ n, (tenantAt t n).freezes = (tenantAt s n).freezes) : ArrayKeeps l s t := by
  have htile : tileAt t l = tileAt s l := by unfold tileAt; rw [ht]
  exact ⟨hm, fun _ _ => by rw [ht], by rw [htile], by rw [htile], hf, fun e => e.2.census, by rw [htile]; exact (List.map_id _).symm⟩

theorem arrayKeeps_updOp (l : Nat) (s : State) (serial : Nat) (f : ArrayOp → ArrayOp) :
    ArrayKeeps l s (s.setTile l ((tileAt s l).updOp serial f)) := .setTile_same rfl rfl rfl

theorem arrayKeeps_arrayBad (l : Nat) (s : State) (tenant : Nat) (words : List Nat) : ArrayKeeps l s (s.arrayBad l tenant words) := by
  refine foldl_keeps (P := ArrayKeeps l s) _ (fun t w ht => ht.trans ?_) _ _ (.refl ..)
  obtain ⟨log, hlog⟩ := report_onlyLog t (lmSource l) 1 0 (some tenant) (BitVec.ofNat 32 (16 * w / 2 ^ 13))
  rw [hlog]
  refine .of_tiles rfl rfl fun n => ?_
  rw [State.updTenant, tenantAt_setTenant]
  split
  · subst_vars; rfl
  · rfl

theorem arrayKeeps_countConversions (l : Nat) (s : State) (sats nonfinite : Nat) :
    ArrayKeeps l s (s.countConversions sats nonfinite) := .of_tiles rfl rfl fun _ => rfl

theorem arrayKeeps_drainRow (s : State) (l : Nat) (o : ArrayOp) (u dst : Nat) (gradient half pair : Bool) (n r : Nat) :
    ArrayKeeps l s (drainRow s l o u dst gradient half pair n r) := by
  unfold drainRow
  simp only
  generalize (List.range (unitSide o.large)).map _ = cs
  let count : Block → Census := fun b => cs.foldl (fun k e =>
    k.count (decodeNum fp32 e.1) (if half then fp16 else fp32) e.2.bits e.2.sat) b.census
  refine ArrayKeeps.trans ?_ (arrayKeeps_countConversions ..)
  refine .setTile rfl rfl (fun e => if e.1 = o.slot then count e.2 else e.2.census) ?_
  refine List.map_congr_left fun e _ => ?_
  split <;> rfl

theorem arrayKeeps_advanceOp (l tenant : Nat) (ops : List ArrayOp) (s : State) (o : ArrayOp) :
    ArrayKeeps l s (advanceOp l tenant ops s o) := by
  have hput := fun u f => arrayKeeps_updOp l u o.serial f
  unfold advanceOp
  simp only
  refine (hput s fun o => { o with age := o.age + 1 }).trans ?_
  generalize s.setTile l ((tileAt s l).updOp o.serial fun o => { o with age := o.age + 1 }) = s
  split
  · split
    · exact hput ..
    · exact .refl ..
  · exact .refl ..
  · split
    · refine ArrayKeeps.trans ?_ (hput ..)
      split
      · split
        · exact arrayKeeps_drainRow ..
        · exact .refl ..
      · exact .refl ..
    · split
      · exact ArrayKeeps.trans (.setTile_same (t := setShadow (tileAt s l) ..) rfl rfl rfl) (hput ..)
      · exact .refl ..
  · split
    · split
      · exact (arrayKeeps_arrayBad ..).trans (hput ..)
      · exact hput ..
    · exact .refl ..

/-- A cycle of the array keeps what no drain writes (R68, R73). -/
theorem arrayKeeps_arrayCycle (s : State) (l tenant : Nat) : ArrayKeeps l s (arrayCycle s l tenant) := by
  unfold arrayCycle
  simp only
  split
  · exact .refl ..
  · split
    · exact .setTile_same rfl rfl rfl
    · exact (foldl_keeps (P := ArrayKeeps l s) _ (fun t o ht => ht.trans (arrayKeeps_advanceOp ..)) _ _ (.refl ..)).trans
        (.setTile_same rfl rfl rfl)

/-- An array without operations has nothing to do. -/
theorem arrayCycle_idle {s : State} {l : Nat} (h : (tileAt s l).ops = []) (tenant : Nat) : arrayCycle s l tenant = s := if_pos h

/-! ### The barrier's watchdog (R50) -/

theorem blockMaster_inj {l a b : Nat} (ha : a < 8) (hb : b < 8) (h : blockMaster l a = blockMaster l b) : a = b := by
  have h := congrArg BitVec.toNat h
  simp only [blockMaster, fieldAt, BitVec.toNat_ofNat] at h
  omega

theorem mget_of_mem {β : Type} {k : Nat} {v : β} : ∀ {m : SMap β}, mwf m = true → (k, v) ∈ m → mget m k = some v
  | (a, w) :: rest, hw, h => by
    obtain ⟨hlt, hrest⟩ := List.pairwise_cons.1 ((mwf_iff _).1 hw)
    rcases List.mem_cons.1 h with heq | hin
    · cases heq; simp [mget]
    · have hne : a ≠ k := (hlt _ hin).ne
      simpa [mget, hne] using mget_of_mem ((mwf_iff _).2 hrest) hin

theorem mget_map_values {β : Type} (g : Nat × β → β) (k : Nat) (m : SMap β) :
    mget (m.map fun e => (e.1, g e)) k = (mget m k).map fun v => g (k, v) := mget_map (g := fun e => (e.1, g e)) (fun _ => rfl) k m

/-- A table whose values change keeps its keys in order. -/
theorem mwf_map {β : Type} {m : SMap β} (g : Nat × β → β) (h : mwf m = true) : mwf (m.map fun e => (e.1, g e)) = true := by
  rw [mwf_iff, List.pairwise_map]
  exact (mwf_iff m).1 h

/-- A tile at the start of a cycle: its count and its generators advance (R115). -/
def cycleStart (s : State) (l : Nat) : State :=
  s.setTile l { tileAt s l with cycle := (tileAt s l).cycle + 1, gens := (tileAt s l).gens.map genStep, issued := [] }

/-- The blocks of a tile after their watchdogs have counted a cycle (R50). -/
def watched (s : State) (tenant l : Nat) : SMap Block :=
  (tileAt s l).blocks.map fun e => (e.1, tickBlock (blockFrozen s tenant l e.1) e.2)

/-- A tile whose watchdogs have counted. -/
def countWatchdogs (s : State) (tenant l : Nat) : State := s.setTile l { tileAt s l with blocks := watched s tenant l }

/-- Freezes of several blocks of a tile. -/
def freezeBlocks (s : State) (tenant l : Nat) (es : List (Nat × Block)) : State :=
  es.foldl (fun s e => s.freeze tenant (blockFreeze l e.1 e.2)) s

/-- A cycle of an owned tile: the array's, then that of the watchdogs, then the freezes of the blocks whose limit is reached
(R50, R68). -/
theorem tick_one {s : State} {l tenant : Nat} (ho : ownerOf s l = some tenant) :
    tick s l 1 = freezeBlocks (countWatchdogs (arrayCycle (cycleStart s l) l tenant) tenant l) tenant l
      (expired (countWatchdogs (arrayCycle (cycleStart s l) l tenant) tenant l) tenant l
        (watched (arrayCycle (cycleStart s l) l tenant) tenant l)) := by
  have ho' : ownerOf (cycleStart s l) l = some tenant := ho
  have htick : tick s l 1 = cycleWith arrayCycle s l := rfl
  rw [htick, cycleWith]
  simp only
  split
  · rename_i hnone; exact absurd (hnone.symm.trans ho') (by simp)
  · rename_i t ht
    obtain rfl : t = tenant := Option.some.inj (ht.symm.trans ho')
    rfl

theorem freezeBlocks_frame (s : State) (tenant l : Nat) (es : List (Nat × Block)) :
    (freezeBlocks s tenant l es).tiles = s.tiles ∧ (freezeBlocks s tenant l es).mem = s.mem := by
  refine foldl_keeps (P := fun t : State => t.tiles = s.tiles ∧ t.mem = s.mem) _ (fun t e ht => ?_) _ _ ⟨rfl, rfl⟩
  exact ht

theorem isFrozen_freeze_iff (s : State) (t : Nat) (r : FreezeRec) (m : W32) :
    isFrozen (s.freeze t r) t m = true ↔ isFrozen s t m = true ∨ r.master = m := by
  simp [isFrozen, tenantAt_freeze]

/-- The masters that freezes of blocks freeze. -/
theorem isFrozen_freezeBlocks (tenant l : Nat) (m : W32) (es : List (Nat × Block)) : ∀ s : State,
    isFrozen (freezeBlocks s tenant l es) tenant m = true ↔ isFrozen s tenant m = true ∨ ∃ e ∈ es, blockMaster l e.1 = m := by
  induction es with
  | nil => intro s; simp [freezeBlocks]
  | cons e rest ih =>
    intro s
    refine (ih (s.freeze tenant (blockFreeze l e.1 e.2))).trans ?_
    rw [isFrozen_freeze_iff, List.exists_mem_cons_iff, or_assoc]
    rfl

/-- The record of a block that froze at the barrier (R50). -/
theorem freezeBlocks_record (s : State) (tenant l : Nat) {es : List (Nat × Block)} {e : Nat × Block} (he : e ∈ es) :
    ∃ r ∈ (tenantAt (freezeBlocks s tenant l es) tenant).freezes, r.master = blockMaster l e.1 ∧ r.cause = 0x02 ∧
      r.blockId = e.2.launch.params.blockId := by
  refine foldl_reaches (I := fun _ => True) (P := fun t : State => ∃ r ∈ (tenantAt t tenant).freezes,
    r.master = blockMaster l e.1 ∧ r.cause = 0x02 ∧ r.blockId = e.2.launch.params.blockId) _ (fun _ _ _ => trivial)
    (fun t _ => ?_) (fun t y ⟨r, hr, hrest⟩ => ?_) _ _ he trivial
  · rw [tenantAt_freeze]
    exact ⟨_, List.mem_append_right _ List.mem_cons_self, rfl, rfl, rfl⟩
  · rw [tenantAt_freeze]
    exact ⟨r, List.mem_append_left _ hr, hrest⟩

theorem ArrayKeeps.isFrozen {l : Nat} {s t : State} (h : ArrayKeeps l s t) (tenant : Nat) (m : W32) :
    isFrozen t tenant m = isFrozen s tenant m := by
  unfold Machine.isFrozen
  rw [h.freezes]

/-- A running block as one cycle leaves it (R50). -/
def Block.watchedCycle (b : Block) : Block := { b with watchCount := if b.watchRunning then b.watchCount + 1 else b.watchCount }

theorem tickBlock_running (b : Block) : tickBlock false b = b.watchedCycle := by
  obtain ⟨launch, groups, dregs, running, count, census, discard⟩ := b
  cases running <;> rfl

/-- A block that no record names counts, and the cycle of the array leaves all of it but its census. -/
theorem mget_watched {s : State} {l slot tenant : Nat} {b : Block} (hb : mget (tileAt s l).blocks slot = some b)
    (hrun : isFrozen s tenant (blockMaster l slot) = false) :
    ∃ n, mget (watched (arrayCycle (cycleStart s l) l tenant) tenant l) slot = some { b.watchedCycle with census := n } ∧
      ((tileAt s l).ops = [] → n = b.census) := by
  have hk := arrayKeeps_arrayCycle (cycleStart s l) l tenant
  have hstart : mget (tileAt (cycleStart s l) l).blocks slot = some b := by
    rw [cycleStart, tileAt_setTile_self]; exact hb
  have hfree : blockFrozen (arrayCycle (cycleStart s l) l tenant) tenant l slot = false := (hk.isFrozen ..).trans hrun
  obtain ⟨n, hn, hidle⟩ : ∃ n, mget (tileAt (arrayCycle (cycleStart s l) l tenant) l).blocks slot = some { b with census := n } ∧
      ((tileAt s l).ops = [] → n = b.census) := by
    by_cases hops : (tileAt s l).ops = []
    · have hops' : (tileAt (cycleStart s l) l).ops = [] := by rw [cycleStart, tileAt_setTile_self]; exact hops
      rw [arrayCycle_idle hops']
      exact ⟨b.census, hstart, fun _ => rfl⟩
    · obtain ⟨f, hf⟩ := hk.blocks
      refine ⟨f (slot, b), ?_, fun h => absurd h hops⟩
      rw [hf, mget_map_values, hstart]
      rfl
  refine ⟨n, ?_, hidle⟩
  rw [watched, mget_map_values, hn, Option.map_some, hfree, tickBlock_running]
  rfl

theorem mem_expired {s : State} {l slot tenant : Nat} {bs : SMap Block} {b : Block} (hb : mget bs slot = some b)
    (hrun : blockFrozen s tenant l slot = false) (hon : b.watchRunning = true) (hlim : b.launch.params.watchdog ≤ b.watchCount) :
    (slot, b) ∈ expired s tenant l bs := by
  simp only [expired, List.mem_filter, Bool.and_eq_true, decide_eq_true_eq, Bool.not_eq_true', ge_iff_le]
  exact ⟨mem_of_mget hb, ⟨hon, hlim⟩, hrun⟩

/-- The watchdog of a block that no record names has reached its limit exactly where the block expires (R50). -/
theorem expired_iff {s : State} {l slot tenant : Nat} {bs : SMap Block} {b : Block} (hb : mget bs slot = some b)
    (hw : mwf bs = true) (hkeys : ∀ e ∈ bs, e.1 < 8) (hslot : slot < 8)
    (hrun : blockFrozen s tenant l slot = false) :
    (∃ e ∈ expired s tenant l bs, blockMaster l e.1 = blockMaster l slot) ↔
      b.watchRunning = true ∧ b.launch.params.watchdog ≤ b.watchCount := by
  constructor
  · rintro ⟨e, he, hm⟩
    simp only [expired, List.mem_filter, Bool.and_eq_true, decide_eq_true_eq, Bool.not_eq_true', ge_iff_le] at he
    obtain ⟨he, ⟨hon, hlim⟩, -⟩ := he
    obtain ⟨k, v⟩ := e
    obtain rfl : k = slot := blockMaster_inj (hkeys _ he) hslot hm
    obtain rfl : v = b := Option.some.inj ((mget_of_mem hw he).symm.trans hb)
    exact ⟨hon, hlim⟩
  · rintro ⟨hon, hlim⟩
    exact ⟨_, mem_expired hb hrun hon hlim, rfl⟩

/-- The blocks of a tile after a cycle stand in its slots as before. -/
theorem watched_keys {s : State} {l tenant : Nat} (hw : mwf (tileAt s l).blocks = true) (hkeys : ∀ e ∈ (tileAt s l).blocks, e.1 < 8) :
    mwf (watched (arrayCycle (cycleStart s l) l tenant) tenant l) = true ∧
      ∀ e ∈ watched (arrayCycle (cycleStart s l) l tenant) tenant l, e.1 < 8 := by
  obtain ⟨f, hf⟩ := (arrayKeeps_arrayCycle (cycleStart s l) l tenant).blocks
  have hstart : (tileAt (cycleStart s l) l).blocks = (tileAt s l).blocks := by rw [cycleStart, tileAt_setTile_self]
  rw [watched, hf, hstart]
  refine ⟨mwf_map _ (mwf_map _ hw), fun e he => ?_⟩
  simp only [List.map_map, List.mem_map] at he
  obtain ⟨x, hx, rfl⟩ := he
  exact hkeys x hx

/-- What a cycle of an owned tile leaves beside its blocks (R68, R115). -/
theorem tick_one_frame {s : State} {l tenant : Nat} (ho : ownerOf s l = some tenant) :
    (tileAt (tick s l 1) l).cycle = (tileAt s l).cycle + 1 ∧ (tileAt (tick s l 1) l).gens = (tileAt s l).gens.map genStep ∧
    (tileAt (tick s l 1) l).blocks = watched (arrayCycle (cycleStart s l) l tenant) tenant l ∧ (tick s l 1).mem = s.mem ∧
    ((tileAt s l).ops = [] → (tileAt (tick s l 1) l).lm = (tileAt s l).lm) ∧
    ∀ j, j ≠ l → mget (tick s l 1).tiles j = mget s.tiles j := by
  have hk := arrayKeeps_arrayCycle (cycleStart s l) l tenant
  have hs : tileAt (cycleStart s l) l = { tileAt s l with
      cycle := (tileAt s l).cycle + 1, gens := (tileAt s l).gens.map genStep, issued := [] } := tileAt_setTile_self ..
  obtain ⟨htiles, hmem⟩ := freezeBlocks_frame (countWatchdogs (arrayCycle (cycleStart s l) l tenant) tenant l) tenant l
    (expired (countWatchdogs (arrayCycle (cycleStart s l) l tenant) tenant l) tenant l
      (watched (arrayCycle (cycleStart s l) l tenant) tenant l))
  have ht : tileAt (tick s l 1) l = { tileAt (arrayCycle (cycleStart s l) l tenant) l with
      blocks := watched (arrayCycle (cycleStart s l) l tenant) tenant l } := by
    rw [tick_one ho, tileAt, htiles]
    exact tileAt_setTile_self ..
  refine ⟨?_, ?_, by rw [ht], ?_, fun hops => ?_, fun j hj => ?_⟩
  · rw [ht]; exact hk.cycle.trans (by rw [hs])
  · rw [ht]; exact hk.gens.trans (by rw [hs])
  · rw [tick_one ho, hmem]; exact hk.mem
  · rw [ht, arrayCycle_idle (by rw [hs]; exact hops)]
    exact (congrArg Tile.lm hs :)
  · rw [tick_one ho, htiles]
    exact (mget_mset_ne _ _ hj).trans ((hk.tiles j hj).trans (mget_mset_ne _ _ hj))

/-- Settles O11: EXIT and BAR.BLOCK by what they leave of their group, the watchdogs by one cycle of the tile. -/
theorem barrierReleasesOrTimesOut : Obligations.BarrierReleasesOrTimesOut := by
  unfold Obligations.BarrierReleasesOrTimesOut
  refine ⟨⟨?_, fun g => ⟨rfl, rfl, rfl, runsAt_release g⟩⟩,
    fun s l slot tenant b ho hb hrun hw hslot hkeys _ => ?_⟩
  · intro i f s c h hlegal after
    have hst := ctxOf_stands h
    refine ⟨?_, fun hg => ?_, fun hg => ⟨_, barBlock_guard h hg, hst.frozeGroup ..⟩⟩
    · intro gone live
      obtain ⟨hs, htiles, hmem⟩ := barrier_after hst c.block
        ({ c.group.replacePath c.path [{ pc := c.path.pc + 8, mask := c.path.mask &&& ~~~gone }] with live := live }.settle)
      refine ⟨_, _, exit_completes h hlegal, ⟨hs, htiles, hmem, (mget_barrier ..).trans (congrArg some (tryRelease_eq _))⟩,
        settle_live _, fun hz => ?_, fun hne => ?_⟩
      · rw [settle_of_none hz]
        exact ⟨rfl, rfl, rfl⟩
      · rw [settle_of_live hne]
        refine ⟨hst.ended, rfl, rfl, fun n pc => (mem_replacePath c.group c.path _ n pc).trans ?_⟩
        rw [List.exists_mem_cons_iff, inMask_and_not, Bool.and_eq_true, Bool.not_eq_true', or_comm]
        refine or_congr ?_ Iff.rfl
        constructor
        · rintro (⟨hpc, hin, hout⟩ | ⟨q, hq, -⟩)
          · exact ⟨hin, hout, hpc.symm⟩
          · cases hq
        · rintro ⟨hin, hout, hpc⟩
          exact .inl ⟨hpc.symm, hin, hout⟩
    · obtain ⟨hs, htiles, hmem⟩ := barrier_after hst c.block.startWatch (c.group.park c.path)
      refine ⟨_, { c.group.park c.path with lastIssue := c.tile.cycle.toNat }, barBlock_completes h hg hlegal,
        ⟨hs, htiles, hmem, ?_⟩, rfl, rfl, fun n r => mem_parkAt .., fun n pc => runsAt_park ..⟩
      rw [mget_barrier, startWatch_eq]
      exact congrArg some (tryRelease_eq _)
  · obtain ⟨n, hn, hidle⟩ := mget_watched hb hrun
    obtain ⟨hwat, hkat⟩ := watched_keys (tenant := tenant) hw hkeys
    obtain ⟨hcycle, hgens, hblocks, hmem, hlm, htiles⟩ := tick_one_frame ho
    have hfree : isFrozen (countWatchdogs (arrayCycle (cycleStart s l) l tenant) tenant l) tenant (blockMaster l slot) = false :=
      ((arrayKeeps_arrayCycle (cycleStart s l) l tenant).isFrozen tenant _).trans hrun
    have hexp := expired_iff (tenant := tenant) hn hwat hkat hslot hfree
    have hlimit : (b.watchRunning = true ∧ b.launch.params.watchdog ≤ b.watchedCycle.watchCount) ↔
        b.watchRunning = true ∧ b.launch.params.watchdog ≤ b.watchCount + 1 := by
      unfold Block.watchedCycle
      refine and_congr_right fun hon => ?_
      rw [if_pos hon]
    refine ⟨_, rfl, hcycle, hgens, ⟨_, hblocks ▸ hn, rfl, hidle⟩, ?_, fun hon hlim => ?_, hmem, hlm, htiles⟩
    · rw [tick_one ho, isFrozen_freezeBlocks, hfree]
      simpa using hexp.trans hlimit
    · rw [tick_one ho]
      exact freezeBlocks_record _ _ _ (mem_expired (tenant := tenant) hn hfree hon (hlimit.2 ⟨hon, hlim⟩).2)

end Sys2Proof.Machine
end

section
/-!
PROOF. O13: integer, logic and atomic results as numbers, and the order of floating comparisons (R57, R58, R175).
-/

namespace Sys2Proof.Machine

/-! ### Integer results (R58) -/

theorem toInt_min_ite (a b : W32) : (if b.slt a then b else a).toInt = min a.toInt b.toInt := by
  rw [BitVec.slt_eq_decide]
  split <;> simp only [decide_eq_true_eq] at * <;> omega

theorem toInt_max_ite (a b : W32) : (if a.slt b then b else a).toInt = max a.toInt b.toInt := by
  rw [BitVec.slt_eq_decide]
  split <;> simp only [decide_eq_true_eq] at * <;> omega

theorem toNat_min_ite (a b : W32) : (if b < a then b else a).toNat = min a.toNat b.toNat := by
  split <;> rename_i h <;> rw [BitVec.lt_def] at h <;> omega

theorem toNat_max_ite (a b : W32) : (if a < b then b else a).toNat = max a.toNat b.toNat := by
  split <;> rename_i h <;> rw [BitVec.lt_def] at h <;> omega

theorem intResult_toNat (sg : Bool) (a b c : W32) :
    (intResult .add sg a b c).toNat = (a.toNat + b.toNat) % 2 ^ 32 ∧
    (intResult .sub sg a b c).toNat = (a.toNat + 2 ^ 32 - b.toNat) % 2 ^ 32 ∧
    (intResult .mul sg a b c).toNat = a.toNat * b.toNat % 2 ^ 32 ∧
    (intResult .mad sg a b c).toNat = (a.toNat * b.toNat + c.toNat) % 2 ^ 32 := by
  refine ⟨BitVec.toNat_add .., ?_, BitVec.toNat_mul .., ?_⟩
  · refine (BitVec.toNat_sub ..).trans ?_
    have := b.isLt
    congr 1
    omega
  · refine (BitVec.toNat_add ..).trans ?_
    rw [BitVec.toNat_mul, Nat.mod_add_mod]

/-! ### Shifts and bit fields (R58) -/

theorem toNat_shiftAmount {n : Nat} (h : n < 32) : (BitVec.ofNat 32 n).toNat = n := by
  rw [BitVec.toNat_ofNat]; omega

theorem logicResult_shl {n : Nat} (h : n < 32) (sg : Bool) (a : W32) (free_ : Nat) :
    (logicResult .shl sg a (BitVec.ofNat 32 n) free_).toNat = a.toNat * 2 ^ n % 2 ^ 32 := by
  simp only [logicResult, toNat_shiftAmount h, if_pos h, BitVec.toNat_shiftLeft, Nat.shiftLeft_eq]

theorem logicResult_shr {n : Nat} (h : n < 32) (a : W32) (free_ : Nat) :
    (logicResult .shr false a (BitVec.ofNat 32 n) free_).toNat = a.toNat / 2 ^ n := by
  simp only [logicResult, toNat_shiftAmount h, if_pos h, Bool.false_eq_true, if_false, BitVec.toNat_ushiftRight,
    Nat.shiftRight_eq_div_pow]

theorem logicResult_sshr {n : Nat} (h : n < 32) (a : W32) (free_ : Nat) :
    (logicResult .shr true a (BitVec.ofNat 32 n) free_).toInt = a.toInt / 2 ^ n := by
  simp only [logicResult, toNat_shiftAmount h, if_pos h, if_true, BitVec.toInt_sshiftRight, Int.shiftRight_eq_div_pow]
  norm_cast

theorem logicResult_bfe {pos len : Nat} (h0 : 0 < len) (h : pos + len ≤ 32) (a b : W32) (free_ : Nat) :
    (logicResult (.bfe pos len) false a b free_).toNat = a.toNat / 2 ^ pos % 2 ^ len := by
  have hlen : pos + len - 1 + 1 - pos = len := by omega
  have hlt : a.toNat / 2 ^ pos % 2 ^ len < 2 ^ 32 :=
    (Nat.mod_lt _ (by positivity)).trans_le (Nat.pow_le_pow_right (by decide) (by omega))
  simp only [logicResult, h0, h, decide_true, Bool.and_self, if_true, Bool.false_eq_true, if_false, bits, hlen, BitVec.toNat_ofNat]
  exact Nat.mod_eq_of_lt hlt

/-- The mask of a bit field. -/
theorem getLsbD_fieldMask (pos len : Nat) {k : Nat} (hk : k < 32) :
    (BitVec.ofNat 32 ((2 ^ len - 1) * 2 ^ pos)).getLsbD k = decide (pos ≤ k ∧ k < pos + len) := by
  rw [BitVec.getLsbD_ofNat, Nat.testBit_mul_two_pow, Nat.testBit_two_pow_sub_one, Bool.eq_iff_iff]
  simp only [Bool.and_eq_true, decide_eq_true_eq]
  omega

theorem logicResult_bfi {pos len : Nat} (h0 : 0 < len) (h : pos + len ≤ 32) (sg : Bool) (a b : W32) (free_ : Nat) {k : Nat}
    (hk : k < 32) :
    (logicResult (.bfi pos len) sg a b free_).getLsbD k =
      if pos ≤ k ∧ k < pos + len then b.getLsbD (k - pos) else a.getLsbD k := by
  simp only [logicResult, h0, h, decide_true, Bool.and_self, if_true, BitVec.getLsbD_or, BitVec.getLsbD_and, BitVec.getLsbD_not,
    BitVec.getLsbD_shiftLeft, getLsbD_fieldMask _ _ hk, hk]
  by_cases hin : pos ≤ k ∧ k < pos + len
  · have : ¬ k < pos := by omega
    simp [hin, this]
  · simp [hin]

/-! ### Floating comparisons (R57) -/

/-- The difference of two finite numbers, in units of the smaller exponent. -/
def finDiff (n1 : Bool) (m1 : Nat) (e1 : Int) (n2 : Bool) (m2 : Nat) (e2 : Int) : Int :=
  let a : Int := (m1 * 2 ^ (e1 - min e1 e2).toNat : Nat)
  let b : Int := (m2 * 2 ^ (e2 - min e1 e2).toNat : Nat)
  (if n1 then -a else a) - (if n2 then -b else b)

theorem finDiff_neg (n1 : Bool) (m1 : Nat) (e1 : Int) (n2 : Bool) (m2 : Nat) (e2 : Int) :
    finDiff n2 m2 e2 n1 m1 e1 = -finDiff n1 m1 e1 n2 m2 e2 := by
  simp only [finDiff, min_comm e2 e1]
  ring

/-- The model subtracts by adding the negated number. -/
theorem finAdd_not (n1 : Bool) (m1 : Nat) (e1 : Int) (n2 : Bool) (m2 : Nat) (e2 : Int) :
    finAdd n1 m1 e1 (!n2) m2 e2 =
      if finDiff n1 m1 e1 n2 m2 e2 = 0 then .fin (n1 && !n2) 0 (min e1 e2)
      else .fin (finDiff n1 m1 e1 n2 m2 e2 < 0) (finDiff n1 m1 e1 n2 m2 e2).natAbs (min e1 e2) := by
  unfold finAdd finDiff
  cases n2 <;> simp [sub_eq_add_neg]

theorem eqv_fin (n1 : Bool) (m1 : Nat) (e1 : Int) (n2 : Bool) (m2 : Nat) (e2 : Int) :
    (Num.fin n1 m1 e1).eqv (.fin n2 m2 e2) = decide (finDiff n1 m1 e1 n2 m2 e2 = 0) := by
  unfold Num.eqv
  simp only [finAdd_not]
  by_cases h : finDiff n1 m1 e1 n2 m2 e2 = 0 <;> simp [h]

/-- Strictly less, as the comparisons take it. -/
def Num.before (x y : Num) : Bool := x.lt y && !x.eqv y

theorem before_fin (n1 : Bool) (m1 : Nat) (e1 : Int) (n2 : Bool) (m2 : Nat) (e2 : Int) :
    (Num.fin n1 m1 e1).before (.fin n2 m2 e2) = decide (finDiff n1 m1 e1 n2 m2 e2 < 0) := by
  unfold Num.before
  rw [eqv_fin]
  unfold Num.lt
  simp only [finAdd_not]
  by_cases h : finDiff n1 m1 e1 n2 m2 e2 = 0 <;> simp [h]

/-- Of two numbers one is before the other or they are equal, and not two of these. -/
theorem before_or_eqv (x y : Num) (hx : x.isNan = false) (hy : y.isNan = false) : (y.before x || x.eqv y) = !x.before y := by
  cases x with
  | nan => cases hx
  | inf a =>
    cases y with
    | nan => cases hy
    | inf b => cases a <;> cases b <;> rfl
    | fin => cases a <;> rfl
  | fin n1 m1 e1 =>
    cases y with
    | nan => cases hy
    | inf b => cases b <;> rfl
    | fin n2 m2 e2 =>
      rw [before_fin, before_fin, eqv_fin, finDiff_neg, Bool.eq_iff_iff]
      simp only [Bool.or_eq_true, decide_eq_true_eq, Bool.not_eq_true', decide_eq_false_iff_not]
      omega

theorem eqv_comm (x y : Num) : x.eqv y = y.eqv x := by
  cases x <;> cases y
  case inf.inf a b => cases a <;> cases b <;> rfl
  case fin.fin => rw [eqv_fin, eqv_fin, finDiff_neg, Bool.eq_iff_iff]; simp
  all_goals rfl

/-- A comparison of numbers that are not NaN, by what it asks (R57, R58). -/
theorem cmpResult_float {a b : W32} (ha : (decodeNum fp32 a.toNat).isNan = false) (hb : (decodeNum fp32 b.toNat).isNan = false)
    (op : CmpOp) (free_ : Nat) :
    cmpResult op 2 a b free_ =
      let x := decodeNum fp32 a.toNat
      let y := decodeNum fp32 b.toNat
      match op with
      | .eq => x.eqv y | .ne => !x.eqv y | .lt => x.before y | .le => x.before y || x.eqv y
      | .gt => y.before x | .ge => y.before x || x.eqv y := by
  have hopen : cmpOpen 2 a b = false := by simp [cmpOpen, ha, hb]
  cases op <;> simp [cmpResult, hopen, cmpLt, cmpEq, Num.before]

/-- An integer comparison, by the order and the equality of its operand type (R57, R58). -/
theorem cmpResult_integer {ty : Nat} (hty : ty ≠ 2) (op : CmpOp) (a b : W32) (free_ : Nat) :
    cmpResult op ty a b free_ = match op with
      | .eq => cmpEq ty a b | .ne => !cmpEq ty a b | .lt => cmpLt ty a b | .le => cmpLt ty a b || cmpEq ty a b
      | .gt => cmpLt ty b a | .ge => cmpLt ty b a || cmpEq ty a b := if_neg (by simp [cmpOpen, hty])

theorem cmpEq_unsigned (a b : W32) : cmpEq 0 a b = decide (a.toNat = b.toNat) := by simp [cmpEq, ← BitVec.toNat_inj]

theorem cmpEq_signed (a b : W32) : cmpEq 1 a b = decide (a.toInt = b.toInt) := by simp [cmpEq, ← BitVec.toInt_inj]

theorem cmpLt_unsigned (a b : W32) : cmpLt 0 a b = decide (a.toNat < b.toNat) := by simp [cmpLt, BitVec.lt_def]

theorem cmpLt_signed (a b : W32) : cmpLt 1 a b = decide (a.toInt < b.toInt) := BitVec.slt_eq_decide

theorem cmpResult_unsigned (op : CmpOp) (a b : W32) (free_ : Nat) :
    cmpResult op 0 a b free_ = match op with
      | .eq => decide (a.toNat = b.toNat) | .ne => decide (a.toNat ≠ b.toNat) | .lt => decide (a.toNat < b.toNat)
      | .le => decide (a.toNat ≤ b.toNat) | .gt => decide (b.toNat < a.toNat) | .ge => decide (b.toNat ≤ a.toNat) := by
  rw [cmpResult_integer (by decide), cmpEq_unsigned, cmpLt_unsigned, cmpLt_unsigned]
  cases op <;> simp [Nat.le_iff_lt_or_eq, eq_comm (a := b.toNat)]

theorem cmpResult_signed (op : CmpOp) (a b : W32) (free_ : Nat) :
    cmpResult op 1 a b free_ = match op with
      | .eq => decide (a.toInt = b.toInt) | .ne => decide (a.toInt ≠ b.toInt) | .lt => decide (a.toInt < b.toInt)
      | .le => decide (a.toInt ≤ b.toInt) | .gt => decide (b.toInt < a.toInt) | .ge => decide (b.toInt ≤ a.toInt) := by
  rw [cmpResult_integer (by decide), cmpEq_signed, cmpLt_signed, cmpLt_signed]
  cases op <;> simp [Int.le_iff_lt_or_eq, eq_comm (a := b.toInt)]

/-! ### Atomics (R175) -/

theorem signed_ite_min (w a b : Nat) : signed w (if signed w b < signed w a then b else a) = min (signed w a) (signed w b) := by
  split <;> omega

theorem signed_ite_max (w a b : Nat) : signed w (if signed w a < signed w b then b else a) = max (signed w a) (signed w b) := by
  split <;> omega

/-- Settles O13: integers and logic by their bit vectors, floating comparisons by the sign of a difference. -/
theorem resultsAreArithmetic : Obligations.ResultsAreArithmetic := by
  unfold Obligations.ResultsAreArithmetic
  refine ⟨fun a b c sg n pos len free_ => ?_, fun op a b free_ => ⟨cmpResult_unsigned .., cmpResult_signed .., fun ha hb => ?_⟩,
    fun w old v cmp hw hold hv => ?_⟩
  · obtain ⟨hadd, hsub, hmul, hmad⟩ := intResult_toNat sg a b c
    exact ⟨hadd, hsub, hmul, hmad, toInt_min_ite a b, toInt_max_ite a b, toNat_min_ite a b, toNat_max_ite a b,
      fun h => logicResult_shl h .., fun h => logicResult_shr h .., fun h => logicResult_sshr h ..,
      fun h0 h => ⟨logicResult_bfe h0 h .., fun k hk => logicResult_bfi h0 h sg a b free_ hk⟩⟩
  · simp only [cmpResult_float ha hb, cmpResult_float hb ha]
    refine ⟨trivial, trivial, before_or_eqv _ _ ha hb, ?_, trivial⟩
    rw [eqv_comm]
    exact before_or_eqv _ _ hb ha
  · exact ⟨rfl, rfl, rfl, rfl, signed_ite_min w old v, signed_ite_max w old v, fun k => Nat.testBit_and ..,
      fun k => Nat.testBit_or .., fun k => Nat.testBit_xor .., rfl, rfl⟩

end Sys2Proof.Machine
end

section
/-!
PROOF. O14: a MEMORY_RESPONSE of an atomic that the scoreboard lists twice performs it twice (R62, R175).
-/

namespace Sys2Proof.Machine

/-- An atomic addition of 1 by thread 3, whose answer is due, to the first word of page 0 of a tenant (R175). -/
def addOne : Access :=
  { serial := 70, slot := 0, group := 0, thread := 3, kind := .atomic .add false, pc := 16, va := 0x40, target := 0x100000040,
    size := 4, dst := 4, data := 1, cmp := 0 }

/-- The group of that thread, which waits for the addition. -/
def addingGroup : Group := { live := 8, paths := [{ pc := 16, mask := 8 }], wait := .accesses [70] }

/-- A module in service whose tile 0 lists the addition twice, with one serial number. -/
def addingTwice : State :=
  { overlapped with
    tenants := [(5, { ptRoot := 0x1000 })]
    tileOwner := [(0, 5)]
    tiles := [(0, {
      blocks := [(0, {
        launch := { params := { tile := 0, entry := 0, blockId := 7, groups := 1, regs := 16, lmBase := 0, lmSize := 4096,
                                large := false, accMask := 0x0F, watchdog := 1000, uniformInit := [] },
                    tenant := 5, queue := 0, seq := 0, epoch := 0 }
        groups := [addingGroup] })]
      accesses := [addOne, addOne] })] }

/-- The key of the word it addresses. -/
def addedKey : Nat := 68934221888

/-- A response that finds no bad word. -/
def goodWords : Ecc := { bad := [], corrected := [] }

theorem addingTwice_performs : mayPerform addingTwice.redraw 0 addOne = true ∧ tileResetting addingTwice.redraw 0 = false ∧
    dpaResetting addingTwice.redraw (boardDpa addOne.target) = false ∧
    backedKey addingTwice.redraw (boardDpa addOne.target) = some addedKey ∧
    (addingTwice.redraw.fastEcc goodWords).mem.fastBad.contains (addedKey / 16) = false := by decide +kernel

theorem addingTwice_listed : ∀ x ∈ (tileAt addingTwice.redraw 0).accesses, x = addOne := by decide +kernel

/-- The word reads 2 after the response, though one addition of 1 was outstanding on a word of 0. -/
theorem addingTwice_adds :
    exec (.memoryResponse 0 70 0 goodWords) addingTwice = .next (memoryResponseRow 0 70 0 goodWords addingTwice) ∧
    (fastByte (memoryResponseRow 0 70 0 goodWords addingTwice) addedKey).toNat = 2 ∧
    leNat ((List.range 4).map fun j => fastByte addingTwice.redraw (addedKey + j)) = 0 := by
  refine ⟨rfl, ?_, ?_⟩ <;> decide +kernel

/-- Refutes O14: an atomic that is listed twice under its serial number performs twice, and memory holds the sum of both. -/
theorem not_globalAccessesIssueAndPerform : ¬ Obligations.GlobalAccessesIssueAndPerform := by
  unfold Obligations.GlobalAccessesIssueAndPerform
  rintro ⟨-, hperform⟩
  obtain ⟨hmay, htile, hdpa, hkey, hgood⟩ := addingTwice_performs
  obtain ⟨hexec, htwo, hzero⟩ := addingTwice_adds
  obtain ⟨-, -, hatomic⟩ := hperform 0 70 0 5 addedKey goodWords addingTwice addingTwice.redraw addOne rfl rfl htile rfl hmay hdpa
    (fun x hx _ => addingTwice_listed x hx) (by decide) (by decide) hkey hgood
  obtain ⟨t, ht, hbyte, -⟩ := hatomic .add false addingGroup [70] rfl rfl rfl
    ⟨List.mem_singleton.2 rfl, fun x hx _ hne => absurd (addingTwice_listed x hx) hne⟩
  rw [hexec] at ht
  injection ht with ht
  subst ht
  have hone := hbyte 0 (by decide)
  have hold : leNat ((List.range addOne.size).map fun j => fastByte addingTwice.redraw (addedKey + j)) = 0 := hzero
  rw [Nat.add_zero, htwo, hold] at hone
  exact absurd hone (by decide)

end Sys2Proof.Machine
end

section
/-!
PROOF. O16: FRAG.LD and FRAG.ST move the rows of a 32 × 32 block (R53, R61).
-/

namespace Sys2Proof.Machine

/-- A fold brings about what its step at one element brings about, where its steps at the others of the list keep it. -/
theorem foldl_reaches_mem {α β : Type} {P : β → Prop} (f : β → α → β) {xs : List α} {x : α} (hmem : x ∈ xs) (hx : ∀ t, P (f t x))
    (hP : ∀ t, ∀ y ∈ xs, P t → P (f t y)) (t : β) : P (xs.foldl f t) := by
  obtain ⟨before, after, rfl⟩ := List.append_of_mem hmem
  rw [List.foldl_append, List.foldl_cons]
  exact List.foldlRecOn after f (hx _) fun t ht y hy => hP t y (List.mem_append_right _ (List.mem_cons_of_mem _ hy)) ht

/-! ### Writes that meet no bad word (R149) -/

theorem foldl_put_eq_writeBytes (a : Nat) (bs : List Byte) : ∀ (k : Nat) (m : SMap Byte),
    ((List.range' k bs.length).zip bs).foldl (fun m e => mput 0 m (a + e.1) e.2) m = writeBytes m (a + k) bs := by
  induction bs with
  | nil => intro k m; rfl
  | cons b rest ih =>
    intro k m
    rw [List.length_cons, List.range'_succ, List.zip_cons_cons, List.foldl_cons, ih]
    rfl

/-- A checked write that meets no bad word writes every byte. -/
theorem writeWords_of_good {bad : List Nat} {a : Nat} {bs : List Byte} (h : readBad bad a bs.length = false) (m : SMap Byte) :
    (writeWords m bad a bs).1 = writeBytes m a bs := by
  have hlost : ((wordsOf a bs.length).filter fun w => bad.contains w && partialWord a bs.length w) = [] := by
    rw [List.filter_eq_nil_iff]
    intro w hw
    rw [Bool.and_eq_true]
    exact fun hin => List.any_eq_false.1 h w hw hin.1
  rw [writeWords]
  simp only [hlost, List.contains_nil, Bool.not_false, if_true, List.range_eq_range']
  exact foldl_put_eq_writeBytes a bs 0 m

theorem readBad_filter (p : Nat → Bool) {bad : List Nat} {a n : Nat} (h : readBad bad a n = false) :
    readBad (bad.filter p) a n = false := by
  rw [readBad, List.any_eq_false] at h ⊢
  intro w hw hin
  refine h w hw ?_
  rw [List.contains_iff_mem] at hin ⊢
  exact (List.mem_filter.1 hin).1

/-- Rows written one after another. -/
def writeRows (addr : Nat → Nat) (row : Nat → List Byte) (rs : List Nat) (m : SMap Byte) : SMap Byte :=
  rs.foldl (fun m r => writeBytes m (addr r) (row r)) m

/-- Checked writes of rows one after another: the bytes and the bad words they leave. -/
def checkedRows (addr : Nat → Nat) (row : Nat → List Byte) (rs : List Nat) (m : SMap Byte × List Nat) : SMap Byte × List Nat :=
  rs.foldl (fun m r => ((writeWords m.1 m.2 (addr r) (row r)).1, (writeWords m.1 m.2 (addr r) (row r)).2.1)) m

theorem checkedRows_of_good {addr : Nat → Nat} {row : Nat → List Byte} {n : Nat} (hlen : ∀ r, (row r).length = n) :
    ∀ (rs : List Nat) (m : SMap Byte) (bad : List Nat), (∀ r ∈ rs, readBad bad (addr r) n = false) →
      (checkedRows addr row rs (m, bad)).1 = writeRows addr row rs m := by
  intro rs
  induction rs with
  | nil => intro m bad _; rfl
  | cons r rest ih =>
    intro m bad h
    refine (ih _ _ fun x hx => readBad_filter _ (h x (List.mem_cons_of_mem _ hx))).trans ?_
    rw [writeWords_of_good (by rw [hlen]; exact h r List.mem_cons_self)]
    rfl

theorem mgetD_writeRows_outside {addr : Nat → Nat} {row : Nat → List Byte} {rs : List Nat} (m : SMap Byte) {x : Nat}
    (h : ∀ r ∈ rs, x < addr r ∨ addr r + (row r).length ≤ x) : mgetD (writeRows addr row rs m) x 0 = mgetD m x 0 := by
  induction rs generalizing m with
  | nil => rfl
  | cons r rest ih =>
    exact (ih _ fun y hy => h y (List.mem_cons_of_mem _ hy)).trans (mgetD_writeBytes_outside _ _ _ _ (h r List.mem_cons_self))

/-- A byte of one of several rows that do not overlap. -/
theorem mgetD_writeRows_inside {addr : Nat → Nat} {row : Nat → List Byte} {rs : List Nat} (m : SMap Byte) {r k : Nat} {v : Byte}
    (hr : r ∈ rs) (hv : (row r)[k]? = some v)
    (hdis : ∀ y, y ≠ r → addr r + k < addr y ∨ addr y + (row y).length ≤ addr r + k) :
    mgetD (writeRows addr row rs m) (addr r + k) 0 = v := by
  obtain ⟨hk, hv⟩ := List.getElem?_eq_some_iff.1 hv
  have hrow : ∀ m, mgetD (writeBytes m (addr r) (row r)) (addr r + k) 0 = v := fun m =>
    (mgetD_writeBytes_inside _ _ _ _ hk).trans hv
  refine foldl_reaches_mem (P := fun m : SMap Byte => mgetD m (addr r + k) 0 = v) (fun m r => writeBytes m (addr r) (row r)) hr
    hrow (fun m y _ hm => ?_) m
  by_cases hy : y = r
  · subst hy; exact hrow m
  · exact (mgetD_writeBytes_outside _ _ _ _ (hdis y hy)).trans hm

/-! ### Halves of a row (R61) -/

/-- Two bytes per element stand at twice its number. -/
theorem getElem?_flatMap_pairs (x y : Nat → Byte) (n : Nat) :
    ((List.range n).flatMap fun k => [x k, y k]).length = 2 * n ∧
    ∀ c, c < n → ((List.range n).flatMap fun k => [x k, y k])[2 * c]? = some (x c) ∧
      ((List.range n).flatMap fun k => [x k, y k])[2 * c + 1]? = some (y c) := by
  induction n with
  | zero => exact ⟨rfl, fun c hc => absurd hc (by omega)⟩
  | succ n ih =>
    obtain ⟨hlen, hget⟩ := ih
    rw [List.range_succ, List.flatMap_append]
    refine ⟨by rw [List.length_append, hlen]; rfl, fun c hc => ?_⟩
    by_cases hlast : c = n
    · subst hlast
      rw [List.getElem?_append_right (by omega), List.getElem?_append_right (by omega), hlen]
      simp
    · rw [List.getElem?_append_left (by omega), List.getElem?_append_left (by omega)]
      exact hget c (by omega)

theorem fragElement_lt (g : Group) (base : Byte) (n k : Nat) : fragElement g base n k < 2 ^ 16 := by
  have := (readReg g (base + BitVec.ofNat 8 (k / 2)) n).isLt
  unfold fragElement
  simp only
  split <;> omega

/-- A fragment's value (row, column), or (column, row) when it is transposed (R61). -/
def fragCell (g : Group) (base : Byte) (tr : Bool) (r c : Nat) : Nat :=
  if tr then fragElement g base c r else fragElement g base r c

theorem fragCell_lt (g : Group) (base : Byte) (tr : Bool) (r c : Nat) : fragCell g base tr r c < 2 ^ 16 := by
  unfold fragCell
  split <;> exact fragElement_lt ..

/-- A row of a fragment as FRAG.ST writes it. -/
def fragRow (g : Group) (base : Byte) (tr : Bool) (r : Nat) : List Byte :=
  (List.range 32).flatMap fun k => leBytes 2 (fragCell g base tr r k)

theorem fragRow_spec (g : Group) (base : Byte) (tr : Bool) (r : Nat) :
    (fragRow g base tr r).length = 64 ∧ ∀ c, c < 32 →
      (fragRow g base tr r)[2 * c]? = some (BitVec.ofNat 8 (fragCell g base tr r c)) ∧
      (fragRow g base tr r)[2 * c + 1]? = some (BitVec.ofNat 8 (fragCell g base tr r c / 256)) :=
  getElem?_flatMap_pairs (fun c => BitVec.ofNat 8 (fragCell g base tr r c)) (fun c => BitVec.ofNat 8 (fragCell g base tr r c / 256)) 32

/-! ### The checks of a fragment (R53) -/

section
variable {c : Ctx} {f : Fields} (hsmall : c.block.launch.params.large = false) (hbase : f.dst.toNat % 8 = 0)
  (hlegal : fieldsIllegal { dst := 5, a := 2, b := 2, mod := 1 } f = false)
  (hbounds : fieldsOutOfBounds { dst := 5, a := 2, b := 2, mod := 1 } c.block.launch.params.regs f = false)
include hsmall hbase hlegal hbounds

theorem classB_ok (k : State) : c.classB [f.dst] { dst := 5, a := 2, b := 2, mod := 1 } f k = k :=
  (if_neg (by simp [hsmall, hbase])).trans (checked_ok _ hlegal hbounds)

theorem fragment_ok (hconv : c.converged f = true) (hst : (readU c.group f.srcB).toNat % 64 = 0)
    (hwin : inWindow c.block.launch.params (readU c.group f.srcA).toNat (31 * (readU c.group f.srcB).toNat + 64) = true)
    (k : Nat → Nat → State) : c.fragment f k = k (readU c.group f.srcA).toNat (readU c.group f.srcB).toNat :=
  (classB_ok hsmall hbase hlegal hbounds _).trans ((if_neg (by simp [hconv])).trans (if_neg (by simp [hst, fragExtent, hwin])))

theorem fragment_diverged (hconv : c.converged f = false) (k : Nat → Nat → State) : c.fragment f k = c.freeze 0x01 0 :=
  (classB_ok hsmall hbase hlegal hbounds _).trans (if_pos (by simp [hconv]))

end

/-- A fragment's registers exist (R60). -/
theorem fragment_bounds {f : Fields} {regs : Nat}
    (h : fieldsOutOfBounds { dst := 5, a := 2, b := 2, mod := 1 } regs f = false) : f.dst.toNat + 16 ≤ regs := by
  simp only [fieldsOutOfBounds, regBad, Bool.or_eq_false_iff] at h
  obtain ⟨⟨⟨h, -⟩, -⟩, -⟩ := h
  simpa using h

/-! ### FRAG.LD -/

/-- Register `j` of thread `n` of a fragment in local memory: two halves, the low one first (R61). -/
def fragWord (lm : SMap Byte) (off stride : Nat) (tr : Bool) (n j : Nat) : Nat :=
  let el (k : Nat) : Nat := leNat (readBytes lm (if tr then fragOffset off stride k n else fragOffset off stride n k) 2)
  el (2 * j) + 2 ^ 16 * el (2 * j + 1)

/-- One register of a fragment is loaded. -/
def fragLoad (dst : Byte) (word : Nat → Nat → Nat) (g : Group) (nr : Nat × Nat) : Group :=
  if nr.2 < 16 then writeReg g (dst + BitVec.ofNat 8 nr.2) nr.1 (BitVec.ofNat 32 (word nr.1 nr.2)) else g

theorem mem_cellsOf {n r c : Nat} : (r, c) ∈ cellsOf n ↔ r < n ∧ c < n := by
  simp [cellsOf]

section
variable {dst : Byte} (hd : dst.toNat + 16 ≤ 255)
include hd

theorem toNat_fragReg {j : Nat} (hj : j < 16) : (dst + BitVec.ofNat 8 j).toNat = dst.toNat + j := by
  rw [BitVec.toNat_add, BitVec.toNat_ofNat]
  omega

theorem fragReg_ne {j : Nat} (hj : j < 16) : dst + BitVec.ofNat 8 j ≠ 255 := by
  intro h
  have := congrArg BitVec.toNat h
  rw [toNat_fragReg hd hj] at this
  have h255 : (255 : Byte).toNat = 255 := rfl
  omega

theorem readReg_fragLoad (g : Group) (word : Nat → Nat → Nat) {e : Nat × Nat} (he : e.1 < 32) (x : Byte) {n : Nat} (hn : n < 32) :
    readReg (fragLoad dst word g e) x n =
      if e.2 < 16 ∧ x = dst + BitVec.ofNat 8 e.2 ∧ n = e.1 then BitVec.ofNat 32 (word e.1 e.2) else readReg g x n := by
  unfold fragLoad
  by_cases hj : e.2 < 16
  · rw [if_pos hj, readReg_writeReg _ _ _ _ _ _ he hn, if_neg (fragReg_ne hd hj)]
    exact if_congr ⟨fun h => ⟨hj, h⟩, fun h => h.2⟩ rfl rfl
  · rw [if_neg hj, if_neg fun h => hj h.1]

/-- Every register of the fragment takes its word. -/
theorem readReg_fragLoaded (g : Group) (word : Nat → Nat → Nat) {n j : Nat} (hn : n < 32) (hj : j < 16) :
    readReg ((cellsOf 32).foldl (fragLoad dst word) g) (dst + BitVec.ofNat 8 j) n = BitVec.ofNat 32 (word n j) := by
  have hcell : (n, j) ∈ cellsOf 32 := mem_cellsOf.2 ⟨hn, by omega⟩
  refine foldl_reaches_mem (P := fun h : Group => readReg h (dst + BitVec.ofNat 8 j) n = BitVec.ofNat 32 (word n j)) _ hcell
    (fun h => ?_) (fun h e he hh => ?_) g
  · rw [readReg_fragLoad hd _ _ hn _ hn, if_pos ⟨hj, rfl, rfl⟩]
  · rw [readReg_fragLoad hd _ _ (mem_cellsOf.1 he).1 _ hn]
    split
    · rename_i hc
      obtain ⟨hj', hreg, hlane⟩ := hc
      have hnum := congrArg BitVec.toNat hreg
      rw [toNat_fragReg hd hj, toNat_fragReg hd hj'] at hnum
      have : j = e.2 := by omega
      rw [this, hlane]
    · exact hh

/-- Every other register keeps its content. -/
theorem readReg_fragLoaded_outside (g : Group) (word : Nat → Nat → Nat) {x : Byte}
    (hx : x.toNat < dst.toNat ∨ dst.toNat + 16 ≤ x.toNat) {n : Nat} (hn : n < 32) :
    readReg ((cellsOf 32).foldl (fragLoad dst word) g) x n = readReg g x n := by
  refine List.foldlRecOn (motive := fun h : Group => readReg h x n = readReg g x n) _ _ rfl fun h hh e he => ?_
  rw [readReg_fragLoad hd _ _ (mem_cellsOf.1 he).1 _ hn, if_neg, hh]
  rintro ⟨hj, rfl, -⟩
  rw [toNat_fragReg hd hj] at hx
  omega

end

theorem fragLoaded_frame (g : Group) (dst : Byte) (word : Nat → Nat → Nat) (es : List (Nat × Nat)) :
    ∃ regs, es.foldl (fragLoad dst word) g = { g with regs := regs } := by
  refine List.foldlRecOn (motive := fun h : Group => ∃ regs, h = { g with regs := regs }) _ _ ⟨g.regs, rfl⟩ fun h hh e _ => ?_
  obtain ⟨regs, rfl⟩ := hh
  unfold fragLoad
  split
  · rw [writeReg_frame]
    exact ⟨_, rfl⟩
  · exact ⟨regs, rfl⟩

theorem leNat_pair (x y : Byte) : leNat [x, y] = x.toNat + 2 ^ 8 * y.toNat := by
  simp [leNat]

/-- A register of a fragment holds two values of its block, the low half first (R61). -/
theorem toNat_fragWord {c : Ctx} (hst : c.Stands) (off stride : Nat) (tr : Bool) (n j : Nat) :
    (BitVec.ofNat 32 (fragWord c.tile.lm off stride tr n j)).toNat =
      blockValue c.s c.l off stride tr n (2 * j) + 2 ^ 16 * blockValue c.s c.l off stride tr n (2 * j + 1) := by
  have hel : ∀ k, leNat (readBytes c.tile.lm (if tr then fragOffset off stride k n else fragOffset off stride n k) 2) =
      blockValue c.s c.l off stride tr n k := fun k => by
    rw [hst.tile]
    exact leNat_pair ..
  have hlt : ∀ k, blockValue c.s c.l off stride tr n k < 2 ^ 16 := fun k => by
    unfold blockValue
    have := fun a => (lmByte c.s c.l a).isLt
    simp only
    have h0 := this (if tr then off + k * stride + 2 * n else off + n * stride + 2 * k)
    have h1 := this ((if tr then off + k * stride + 2 * n else off + n * stride + 2 * k) + 1)
    omega
  rw [fragWord, BitVec.toNat_ofNat]
  simp only [hel]
  have h0 := hlt (2 * j)
  have h1 := hlt (2 * j + 1)
  omega

/-- A converged group loads a fragment whose words are good. -/
theorem fragLd_completes {s : State} {i : Issue} {c0 : Ctx} (h : ctxOf s i = some c0) {f : Fields} {ecc : Ecc} {c : Ctx}
    (hc : c = c0.ecc ecc) {off st : Nat} (hfrag : ∀ k, c.fragment f k = k off st)
    (hgood : ∀ r, r < 32 → readBad c.tile.lmBad (off + r * st) 64 = false) :
    exec (.fragLd i f ecc) s =
      .next (c.done ((cellsOf 32).foldl (fragLoad f.dst (fragWord c.tile.lm off st (f.mod.getLsbD 0))) c.group)) := by
  subst hc
  refine congrArg Host.Outcome.next ((issue_ok h _).trans ((hfrag _).trans ?_))
  have hnone : (List.range 32).find? (fun r => readBad (c0.ecc ecc).tile.lmBad (off + r * st) 64) = none := by
    rw [List.find?_eq_none]
    intro r hr
    simp [hgood r (List.mem_range.1 hr)]
  simp only [hnone]
  rfl

/-! ### FRAG.ST -/

/-- A converged group stores a fragment on good words. -/
theorem fragSt_completes {s : State} {i : Issue} {c0 : Ctx} (h : ctxOf s i = some c0) {f : Fields} {ecc : Ecc} {c : Ctx}
    (hc : c = c0.ecc ecc) {off st : Nat} (hfrag : ∀ k, c.fragment f k = k off st)
    (hgood : ∀ r, r < 32 → readBad c.tile.lmBad (off + r * st) 64 = false) :
    ∃ bad, exec (.fragSt i f ecc) s = .next (c.finish (c.tile.setLm
      (writeRows (fun r => off + r * st) (fragRow c.group f.dst (f.mod.getLsbD 0)) (List.range 32) c.tile.lm) bad) c.block c.group) := by
  subst hc
  have hnone : (List.range 32).find? (fun r => (wordsOf (off + r * st) 64).any fun w =>
      (c0.ecc ecc).tile.lmBad.contains w && partialWord (off + r * st) 64 w) = none := by
    rw [List.find?_eq_none]
    intro r hr
    rw [List.any_eq_true]
    rintro ⟨w, hw, hbad⟩
    rw [Bool.and_eq_true] at hbad
    exact List.any_eq_false.1 (hgood r (List.mem_range.1 hr)) w hw hbad.1
  have hrows := checkedRows_of_good (addr := fun r => off + r * st) (row := fragRow (c0.ecc ecc).group f.dst (f.mod.getLsbD 0))
    (fun r => (fragRow_spec ..).1) (List.range 32) (c0.ecc ecc).tile.lm (c0.ecc ecc).tile.lmBad
    fun r hr => hgood r (List.mem_range.1 hr)
  rw [← hrows]
  refine ⟨(checkedRows (fun r => off + r * st) (fragRow (c0.ecc ecc).group f.dst (f.mod.getLsbD 0)) (List.range 32)
    ((c0.ecc ecc).tile.lm, (c0.ecc ecc).tile.lmBad)).2, congrArg Host.Outcome.next ((issue_ok h _).trans ((hfrag _).trans ?_))⟩
  simp only [hnone]
  rfl

/-- Rows that stand apart do not overlap. -/
theorem rows_apart {off st r y k : Nat} (hst : 64 ≤ st) (hk : k < 64) (hy : y ≠ r) :
    off + r * st + k < off + y * st ∨ off + y * st + 64 ≤ off + r * st + k := by
  rcases Nat.lt_or_gt_of_ne hy with hlt | hgt
  · have := Nat.mul_le_mul_right st (Nat.succ_le_of_lt hlt)
    rw [Nat.succ_mul] at this
    omega
  · have := Nat.mul_le_mul_right st (Nat.succ_le_of_lt hgt)
    rw [Nat.succ_mul] at this
    omega

/-- A value of a stored fragment stands in its row. -/
theorem fragment_stored (g : Group) (base : Byte) (tr : Bool) (lm : SMap Byte) {off st r c : Nat} (hst : 64 ≤ st) (hr : r < 32)
    (hc : c < 32) :
    (mgetD (writeRows (fun r => off + r * st) (fragRow g base tr) (List.range 32) lm) (off + r * st + 2 * c) 0).toNat +
      2 ^ 8 * (mgetD (writeRows (fun r => off + r * st) (fragRow g base tr) (List.range 32) lm) (off + r * st + 2 * c + 1) 0).toNat =
      fragCell g base tr r c := by
  obtain ⟨-, hget⟩ := fragRow_spec g base tr r
  obtain ⟨hlow, hhigh⟩ := hget c hc
  have hdis : ∀ k, k < 64 → ∀ y, y ≠ r → off + r * st + k < off + y * st ∨
      off + y * st + (fragRow g base tr y).length ≤ off + r * st + k :=
    fun k hk y hy => by rw [(fragRow_spec ..).1]; exact rows_apart hst hk hy
  rw [mgetD_writeRows_inside (addr := fun r => off + r * st) lm (List.mem_range.2 hr) hlow (hdis _ (by omega)),
    Nat.add_assoc (off + r * st),
    mgetD_writeRows_inside (addr := fun r => off + r * st) lm (List.mem_range.2 hr) hhigh (hdis _ (by omega)),
    BitVec.toNat_ofNat, BitVec.toNat_ofNat]
  have := fragCell_lt g base tr r c
  omega

/-- Settles O16: the checks of a fragment, then what its rows leave in the registers or in local memory. -/
theorem fragmentsMoveWholeBlocks : Obligations.FragmentsMoveWholeBlocks := by
  unfold Obligations.FragmentsMoveWholeBlocks
  intro i f ecc s c0 c h hc p off st u tr hsmall hbase hlegal hbounds hregs
  have hst0 := ctxOf_stands h
  have hst : c.Stands := hc ▸ hst0.ecc ecc
  have hd : f.dst.toNat + 16 ≤ 255 := (fragment_bounds hbounds).trans hregs
  refine ⟨fun hconv hstride hwin => ?_, fun hconv => ?_⟩
  · have hfrag := fragment_ok hsmall hbase hlegal hbounds hconv hstride hwin
    refine ⟨fun hgood => ?_, fun hgood => ?_⟩
    · obtain ⟨regs, hframe⟩ := fragLoaded_frame c.group f.dst (fragWord c.tile.lm off st tr) (cellsOf 32)
      have hexec := (fragLd_completes h hc hfrag hgood).trans (congrArg (fun g => Host.Outcome.next (c.done g)) hframe)
      have hin := fun n j (hn : n < 32) (hj : j < 16) =>
        (congrArg BitVec.toNat (readReg_fragLoaded hd c.group (fragWord c.tile.lm off st tr) hn hj)).trans (toNat_fragWord hst ..)
      have hout := fun x n (hn : n < 32) hx => readReg_fragLoaded_outside hd c.group (fragWord c.tile.lm off st tr) (x := x) hx hn
      rw [hframe] at hin hout
      exact ⟨_, _, hexec, hst.groupIn_done _, hin, hout, ⟨rfl, rfl, rfl, rfl⟩,
        advance_Advanced c { c.group with regs := regs } rfl c.tile.cycle.toNat, hst.sameMemory_done _⟩
    · obtain ⟨bad, hexec⟩ := fragSt_completes h hc hfrag hgood
      have hin := fun (hwide : 64 ≤ st) r k (hr : r < 32) (hk : k < 32) =>
        fragment_stored c.group f.dst tr c.tile.lm (off := off) hwide hr hk
      have hout := fun a (ha : ∀ r ∈ List.range 32, a < off + r * st ∨ off + r * st + (fragRow c.group f.dst tr r).length ≤ a) =>
        mgetD_writeRows_outside (addr := fun r => off + r * st) c.tile.lm ha
      generalize writeRows (fun r => off + r * st) (fragRow c.group f.dst tr) (List.range 32) c.tile.lm = lm at hin hout hexec
      have hlm : ∀ a, lmByte (c.finish (c.tile.setLm lm bad) c.block c.group) c.l a = mgetD lm a 0 := fun a => by
        rw [lmByte, tileAt_finish]
        rfl
      refine ⟨_, _, hexec, groupIn_finish hst.group _ _, fun hpos n k hn hk => ?_, fun a ha => ?_, fun l a hl => ?_, rfl, rfl,
        ⟨rfl, rfl, rfl, rfl⟩, advance_Advanced c c.group rfl c.tile.cycle.toNat⟩
      · have hwide : 64 ≤ st := Nat.le_of_dvd hpos (Nat.dvd_of_mod_eq_zero hstride)
        rw [blockValue, hlm, hlm]
        cases htr : tr with
        | true => exact (hin hwide k n hk hn).trans (by rw [fragCell, if_pos htr])
        | false => exact (hin hwide n k hn hk).trans (by rw [fragCell, if_neg (by simp [htr])])
      · rw [hlm, lmByte, ← hst.tile]
        refine hout a fun r hr => ?_
        rw [(fragRow_spec ..).1]
        have := ha r (List.mem_range.1 hr)
        omega
      · exact congrArg (fun t : Tile => mgetD t.lm a 0) (tileAt_setTile_ne _ _ hl)
  · have hfreeze := fragment_diverged hsmall hbase hlegal hbounds hconv
    subst hc
    exact ⟨⟨_, congrArg Host.Outcome.next ((issue_ok h _).trans (hfreeze _)), hst.frozeGroup ..⟩,
      ⟨_, congrArg Host.Outcome.next ((issue_ok h _).trans (hfreeze _)), hst.frozeGroup ..⟩⟩

end Sys2Proof.Machine
end

section
/-!
PROOF. O17: the instructions of the array start their operations, and ACC.WAIT waits for them (R56, R73, R75, R76, R78, R83, R89).
-/

namespace Sys2Proof.Machine

theorem bits_1_0 (v : Nat) : bits v 1 0 = v % 4 := by unfold bits; omega
theorem bits_0_0 (v : Nat) : bits v 0 0 = v % 2 := by unfold bits; omega
theorem bits_2_2 (v : Nat) : bits v 2 2 = v / 4 % 2 := by unfold bits; omega
theorem bits_7_4 (v : Nat) : bits v 7 4 = v / 16 % 16 := by unfold bits; omega

theorem Ctx.Stands.sameMemory_finish {c : Ctx} (h : c.Stands) {t : Tile} (ht : t.lm = c.tile.lm) (b : Block) (g : Group) :
    SameMemory c.s (c.finish t b g) := h.sameMemory_keep ht ..

/-- An operation that an instruction adds to the scoreboard has started (R76). -/
theorem Ctx.Stands.started {c : Ctx} (h : c.Stands) (pair : Option Nat) (large : Bool) (kind : ArrayKind) :
    Started c (· = c.slot) (· = kind) (c.finish ({ c.tile with pairSlot := pair }.addOp c.slot large kind) c.block c.group) := by
  have ht := tileAt_finish c ({ c.tile with pairSlot := pair }.addOp c.slot large kind) c.block c.group
  refine ⟨_, { serial := c.tile.serial, slot := c.slot, large := large, kind := kind }, groupIn_finish h.group _ _,
    advance_Advanced c c.group rfl c.tile.cycle.toNat, rfl, rfl, ?_, rfl, rfl, rfl, ?_, ?_,
    h.sameMemory_finish (t := { c.tile with pairSlot := pair }.addOp ..) rfl _ _⟩
  all_goals rw [ht]
  · exact List.mem_append_right _ List.mem_cons_self
  · rfl
  · rfl

theorem aligned_inWindow {p : BlockParams} {a n : Nat} (ha : a % 16 = 0) (hw : inWindow p a n = true) :
    ¬ ((decide (a % 16 ≠ 0) || !inWindow p a n) = true) := by
  rw [ha, hw]
  decide

section
variable {s : State} {i : Issue} {c : Ctx} {f : Fields} (h : ctxOf s i = some c) (hg : guardAlways f = true) (hp : PortInTurn c)
include h hg hp

theorem mmaReg_completes (hsmall : c.block.launch.params.large = false) (ha : f.srcA.toNat % 8 = 0) (hb : f.srcB.toNat % 8 = 0)
    (hlegal : fieldsIllegal { a := 5, b := 5, mod := 0xF } f = false)
    (hbounds : fieldsOutOfBounds { a := 5, b := 5, mod := 0xF } c.block.launch.params.regs f = false) :
    exec (.mmaReg i f) s = .next (
      if foreignUnit c.block.launch.params (2 * (f.mod.toNat % 4) + f.mod.toNat / 4 % 2) then c.freeze 0x03 0
      else if quadrantFull c.tile (f.mod.toNat % 4) then s
      else c.finish ({ c.tile with pairSlot := none }.addOp c.slot false (.mmaReg (f.mod.toNat % 4) (f.mod.toNat / 4 % 2)
        (f.mod.getLsbD 3) (fragmentOf c.group f.srcA) (fragmentOf c.group f.srcB))) c.block c.group) := by
  rw [← bits_1_0, ← bits_2_2]
  exact congrArg Host.Outcome.next ((issueArray_inTurn h hp _).trans ((if_neg (by simp [hg])).trans
    ((if_neg (by simp [hsmall, ha, hb])).trans (checked_ok _ hlegal hbounds))))

theorem mmaDesc_completes (hlarge : c.block.launch.params.large = true)
    (hlegal : fieldsIllegal { a := 4, mod := 3 } f = false)
    (hbounds : fieldsOutOfBounds { a := 4, mod := 3 } c.block.launch.params.regs f = false) :
    (mget c.block.dregs f.srcA.toNat = none → exec (.mmaDesc i f) s = .next (c.freeze 0x06 0)) ∧
    (∀ d, mget c.block.dregs f.srcA.toNat = some d → arrayDescBad d (personalityOf c.s c.l) = false →
      arrayExtentBad c.block.launch.params d = false →
      (descUnits d (f.mod.toNat % 2)).any (foreignUnit c.block.launch.params) = false →
      ∃ pair, exec (.mmaDesc i f) s = .next (c.finish ({ c.tile with pairSlot := pair }.addOp c.slot true
        (.mmaDesc (f.mod.toNat % 2) (f.mod.getLsbD 1) d [])) c.block c.group)) := by
  rw [← bits_0_0]
  have hchecks := fun k : State => (checkedOnce_ok c _ f k hg).trans (checked_ok k hlegal hbounds)
  refine ⟨fun hd => ?_, fun d hd hdesc hext hunits => ?_⟩
  · refine congrArg Host.Outcome.next ((issueArray_inTurn h hp _).trans ((if_neg (by simp [hlarge])).trans ((hchecks _).trans ?_)))
    rw [hd]
  · refine ⟨if chMode d = some 3 then some (bits f.mod.toNat 0 0) else none, congrArg Host.Outcome.next
      ((issueArray_inTurn h hp _).trans ((if_neg (by simp [hlarge])).trans ((hchecks _).trans ?_)))⟩
    rw [hd]
    exact (if_neg (by simp [hdesc])).trans ((if_neg (by simp [hext])).trans (if_neg (by simp [hunits])))

theorem accDrain_completes {u off : Nat} {half pair : Bool}
    (hu : u = modUnit c.block.launch.params.large f) (hoff : off = (readU c.group f.srcA).toNat)
    (hhalf : half = decide (bits f.mod.toNat 7 4 = 1))
    (hpair : pair = (c.block.launch.params.large && decide (c.tile.pairSlot = some u)))
    (hlegal : fieldsIllegal { a := 2, mod := 0xFF } f = false)
    (hbounds : fieldsOutOfBounds { a := 2, mod := 0xFF } c.block.launch.params.regs f = false)
    (hq : quadrantBad c.block.launch.params.large f = false) (hfmt : bits f.mod.toNat 7 4 ≤ 1) (halign : off % 16 = 0)
    (hwin : inWindow c.block.launch.params off (unitSide c.block.launch.params.large * rowBytes c.block.launch.params.large half *
      (if pair && !half then 2 else 1)) = true) (hown : foreignUnit c.block.launch.params u = false) :
    exec (.accDrain i f) s = .next (c.finish (c.tile.addOp c.slot c.block.launch.params.large
      (.drain u off (f.mod.getLsbD 3) half pair)) c.block c.group) := by
  subst hu hoff hhalf hpair
  exact congrArg Host.Outcome.next ((issueArray_inTurn h hp _).trans ((if_neg (by simp [hq, Nat.not_lt.2 hfmt])).trans
    ((checkedOnce_ok _ _ _ _ hg).trans ((checked_ok _ hlegal hbounds).trans ((if_neg (aligned_inWindow halign hwin)).trans
      (if_neg (by simp [hown])))))))

theorem accFill_completes {u off : Nat} (hu : u = modUnit c.block.launch.params.large f) (hoff : off = (readU c.group f.srcA).toNat)
    (hlegal : fieldsIllegal { a := 2, mod := 7 } f = false)
    (hbounds : fieldsOutOfBounds { a := 2, mod := 7 } c.block.launch.params.regs f = false)
    (hq : quadrantBad c.block.launch.params.large f = false) (halign : off % 16 = 0)
    (hwin : inWindow c.block.launch.params off (unitSide c.block.launch.params.large *
      rowBytes c.block.launch.params.large false) = true) (hown : foreignUnit c.block.launch.params u = false) :
    exec (.accFill i f) s = .next (c.finish ({ c.tile with pairSlot := none }.addOp c.slot c.block.launch.params.large (.fill u off))
      c.block c.group) := by
  subst hu hoff
  exact congrArg Host.Outcome.next ((issueArray_inTurn h hp _).trans ((if_neg (by simp [hq])).trans
    ((checkedOnce_ok _ _ _ _ hg).trans ((checked_ok _ hlegal hbounds).trans ((if_neg (aligned_inWindow halign hwin)).trans
      (if_neg (by simp [hown])))))))

/-- ACC.WAIT goes on where its units have no operation, and else waits for those they have (R78). -/
theorem accWait_completes (hlegal : fieldsIllegal { mod := 0xFF } f = false)
    (hmask : f.mod.setWidth 8 &&& ~~~c.block.launch.params.accMask = (0 : BitVec 8))
    (hquad : c.block.launch.params.large = true → f.mod.setWidth 8 &&& 0xFC = (0 : BitVec 8)) :
    exec (.accWait i f) s = .next (c.done { c.group with
      wait := if opsOnMask c.tile (f.mod.setWidth 8) = [] then .none else .arrayOps (opsOnMask c.tile (f.mod.setWidth 8)) }) := by
  have hnone : c.group.wait = .none := (ctxOf_stands h).wait
  refine congrArg Host.Outcome.next ((issueArray_inTurn h hp _).trans ((checkedOnce_ok _ _ _ _ hg).trans
    ((checked_ok _ hlegal (fieldsOutOfBounds_none ..)).trans ((if_neg ?_).trans ((if_neg ?_).trans ?_)))))
  · cases hl : c.block.launch.params.large with
    | true => rw [hquad hl]; decide
    | false => simp
  · exact not_not.2 hmask
  · cases opsOnMask c.tile (f.mod.setWidth 8) with
    | nil => rw [if_pos rfl, ← hnone]
    | cons id ids => rfl

end

/-- Where the quadrant of an instruction is one its configuration has (R56). -/
theorem quadrantBad_false {large : Bool} {f : Fields} (h : large = true → f.mod.toNat % 4 = 0) : quadrantBad large f = false := by
  unfold quadrantBad
  rw [bits_1_0]
  cases large with
  | true => simp [h rfl]
  | false => rfl

theorem modUnit_eq (large : Bool) (f : Fields) :
    (if large then f.mod.toNat / 4 % 2 else 2 * (f.mod.toNat % 4) + f.mod.toNat / 4 % 2) = modUnit large f := by
  unfold modUnit
  rw [bits_1_0, bits_2_2]

/-- The operations that a wait finds (R78). -/
theorem opsOnMask_setWidth (t : Tile) (m : BitVec 16) :
    opsOnMask t (m.setWidth 8) =
      (t.ops.filter fun o => !o.done && (opUnits o).any fun u => m.getLsbD u && decide (u < 8)).map ArrayOp.serial := by
  unfold opsOnMask
  simp only [BitVec.getLsbD_setWidth, Bool.and_comm]

/-- Settles O17: every start adds its operation to the scoreboard, and a wait names what it finds there. -/
theorem arrayOperationsStart : Obligations.ArrayOperationsStart := by
  unfold Obligations.ArrayOperationsStart
  refine ⟨fun i f s c h hg hp => ?_, fun i f s c h hg hp hlegal hmask hquad => ?_⟩
  · have hst := ctxOf_stands h
    intro p q sl u off half pair
    have hu : u = modUnit p.large f := modUnit_eq ..
    refine ⟨fun hsmall ha hb hlegal hbounds => ?_, fun hlarge hlegal hbounds => ?_, fun hlegal hbounds hq hfmt halign hwin hown => ?_,
      fun hlegal hbounds hq halign hwin hown => ?_⟩
    · have hexec := mmaReg_completes h hg hp hsmall ha hb hlegal hbounds
      refine ⟨fun hown hfree => ?_, fun hown hfull => ?_, fun hforeign => ?_⟩
      · rw [if_neg (by simpa [foreignUnit] using hown), if_neg (by simpa using hfree)] at hexec
        exact ⟨_, hexec, hst.started ..⟩
      · rwa [if_neg (by simpa [foreignUnit] using hown), if_pos hfull] at hexec
      · rw [if_pos (by simpa [foreignUnit] using hforeign)] at hexec
        exact ⟨_, hexec, hst.frozeGroup ..⟩
    · obtain ⟨hnone, hsome⟩ := mmaDesc_completes h hg hp hlarge hlegal hbounds
      refine ⟨fun d hd hdesc hext hunits => ?_, fun hd => ⟨_, hnone hd, hst.frozeGroup ..⟩⟩
      obtain ⟨pair, hexec⟩ := hsome d hd hdesc hext hunits
      exact ⟨_, hexec, hst.started ..⟩
    · have hhalf : decide half = decide (bits f.mod.toNat 7 4 = 1) := by rw [bits_7_4]
      have hrow : rowBytes p.large (decide half) = (if p.large then 64 else 32) * (if half then 2 else 4) := by
        simp only [rowBytes, unitSide, decide_eq_true_eq]
      refine ⟨_, accDrain_completes h hg hp hu rfl hhalf rfl hlegal hbounds (quadrantBad_false hq) (by rw [bits_7_4]; exact hfmt)
        halign ?_ (by simpa [foreignUnit] using hown), hst.started c.tile.pairSlot ..⟩
      rw [hrow]
      exact hwin
    · exact ⟨_, accFill_completes h hg hp hu rfl hlegal hbounds (quadrantBad_false hq) halign hwin
        (by simpa [foreignUnit] using hown), hst.started ..⟩
  · have hst := ctxOf_stands h
    intro held
    have hops : opsOnMask c.tile (f.mod.setWidth 8) = held.map ArrayOp.serial := opsOnMask_setWidth ..
    have hexec := accWait_completes h hg hp hlegal hmask hquad
    simp only [hops, List.map_eq_nil_iff] at hexec
    exact ⟨_, _, hexec, hst.groupIn_done _, advance_Advanced c { c.group with wait := _ } rfl c.tile.cycle.toNat, rfl, rfl,
      onlyGroup_done .., hst.sameMemory_done _⟩

end Sys2Proof.Machine
end

section
/-!
PROOF. O21: blocks launch into the lowest free slot and end with their record, and a personality reload ends (R33, R34, R38, R39,
R92, R315).
-/

namespace Sys2Proof.Machine

/-! ### The lowest free place of a table -/

/-- A table with fewer entries than places leaves one free. -/
theorem exists_free_of_length_lt {β : Type} {m : SMap β} {n : Nat} (h : m.length < n) : ∃ k, k < n ∧ mget m k = none := by
  by_contra hall
  push Not at hall
  have hsub : List.range n ⊆ m.map Prod.fst := fun k hk => by
    obtain ⟨v, hv⟩ := Option.ne_none_iff_exists'.1 (hall k (List.mem_range.1 hk))
    exact List.mem_map_of_mem (mem_of_mget hv)
  have hlen := (List.subperm_of_subset List.nodup_range hsub).length_le
  rw [List.length_range, List.length_map] at hlen
  omega

/-- The first free place of a table is free, and every one below it is taken. -/
theorem find?_free {β : Type} {m : SMap β} {n k : Nat} (h : (List.range n).find? (fun i => (mget m i).isNone) = some k) :
    k < n ∧ mget m k = none ∧ ∀ j, j < k → mget m j ≠ none := by
  rw [List.find?_range_eq_some] at h
  obtain ⟨hk, hlt, hbelow⟩ := h
  refine ⟨List.mem_range.1 hlt, Option.isNone_iff_eq_none.1 hk, fun j hj hnone => ?_⟩
  simpa [hnone] using hbelow j hj

theorem find?_free_isSome {β : Type} {m : SMap β} {n : Nat} (h : ∃ k, k < n ∧ mget m k = none) :
    ∃ k, (List.range n).find? (fun i => (mget m i).isNone) = some k := by
  obtain ⟨k, hk, hnone⟩ := h
  rw [← Option.isSome_iff_exists, List.find?_isSome]
  exact ⟨k, List.mem_range.2 hk, by simp [hnone]⟩

/-- A block that fits finds a free slot, and takes the lowest (R38, R360). -/
theorem freeSlot_spec {t : Tile} {p : BlockParams} (h : fitsTile t p = true) :
    freeSlot t < 8 ∧ mget t.blocks (freeSlot t) = none ∧ ∀ j, j < freeSlot t → mget t.blocks j ≠ none := by
  have hlen : t.blocks.length < 8 := by
    unfold fitsTile at h
    simp only [Bool.and_eq_true, decide_eq_true_eq] at h
    exact h.1.1.1
  obtain ⟨k, hk⟩ := find?_free_isSome (exists_free_of_length_lt hlen)
  rw [freeSlot, hk]
  exact find?_free hk

/-! ### A launched block (R34) -/

/-- What the uniform registers of a group hold at its start. -/
theorem readU_startGroup (init : List W32) (x : Byte) :
    readU (startGroup init) x = if x.toNat < 8 then init.getD x.toNat 0 else 0 := by
  have hfold : ∀ n, mgetD ((List.range n).foldl (fun m i => mput 0 m i (init.getD i 0)) ([] : SMap W32)) x.toNat 0 =
      if x.toNat < n then init.getD x.toNat 0 else 0 := by
    intro n
    induction n with
    | zero => rfl
    | succ n ih =>
      rw [List.range_succ, List.foldl_append, List.foldl_cons, List.foldl_nil, mgetD_mput, ih]
      by_cases hn : x.toNat = n
      · rw [if_pos hn, if_pos (by omega), hn]
      · rw [if_neg hn]
        exact if_congr (by omega) rfl rfl
  exact hfold 8

theorem blockLaunch_completes {l e : Nat} {s s1 : State} (hs : s1 = (tick s l e).redraw) {la : Launch} {rest : List Launch}
    (hwait : (tileAt s1 l).waiting = la :: rest) (hin : inService s1 = true) (hload : (tileAt s1 l).reloading = false)
    (hreset : tileResetting s1 l = false) (hown : ownerOf s1 l = some la.tenant) (hfits : fitsTile (tileAt s1 l) la.params = true)
    (hcode : microcodeJob s1 = false) :
    exec (.blockLaunch l e) s = .next (s1.setTile l { tileAt s1 l with
      waiting := rest, blocks := mset (tileAt s1 l).blocks (freeSlot (tileAt s1 l)) (startBlock la s1.globals.barrierDefault) }) := by
  subst hs
  refine congrArg Host.Outcome.next ?_
  simp only [hwait]
  exact if_pos (by simp only [hin, hload, hreset, hown, hfits, hcode, decide_true, Bool.false_and, Bool.not_false, Bool.and_self])

/-! ### The record of a block that ends (R315, R316) -/

/-- Where a write at a device address lands depends on the memory and on the stacks in service alone. -/
theorem writeDpa_mem_congr {s u : State} (hm : u.mem = s.mem) (hs : u.service = s.service) (a : Nat) (bs : List Byte) :
    (u.writeDpa a bs).1.mem = (s.writeDpa a bs).1.mem := by
  have hkey : ∀ {s u : State}, u.mem = s.mem → u.service = s.service → ∀ d, backedKey u d = backedKey s d := by
    intro s u hm hs d
    unfold backedKey keyBacked
    rw [hm, hs]
  unfold State.writeDpa
  generalize piecesOf (bs.length + 1) a bs = ps
  suffices ∀ x y : State × Bool, x.1.mem = y.1.mem → x.1.service = y.1.service →
      (ps.foldl _ x).1.mem = (ps.foldl _ y).1.mem from this (u, false) (s, false) hm hs
  induction ps with
  | nil => exact fun x y hm _ => hm
  | cons p rest ih =>
    intro x y hm hs
    rw [List.foldl_cons, List.foldl_cons]
    refine ih _ _ ?_ ?_ <;> rw [hkey hm hs p.1] <;> split
    · exact hm
    · simp only [State.updMem, hm]
    · exact hs
    · exact hs

/-- A record in the ring, whatever goes to the mirror (R316, R317). -/
theorem putRecord_mem (s : State) (t q seq status cause detail moved : Nat) :
    (s.putRecord t q seq status cause detail moved).mem =
      (s.writeDpa (recordAddress s t q seq) (recordBytes seq q status cause detail moved)).1.mem := by
  have hhost : ∀ (u : State) a bs, (u.writeHost a bs).mem = u.mem := by
    intro u a bs
    unfold State.writeHost
    split <;> rfl
  have htouch : ∀ a n, (s.touchBias a n).mem = s.mem ∧ (s.touchBias a n).service = s.service := by
    intro a n
    unfold State.touchBias
    dsimp only
    split <;> exact ⟨rfl, rfl⟩
  obtain ⟨hm, hs⟩ := htouch (recordAddress s t q seq) 32
  unfold State.putRecord
  dsimp only
  split
  · exact writeDpa_mem_congr hm hs ..
  · rw [hhost, hhost]
    exact writeDpa_mem_congr hm hs ..

/-- A descriptor that completes in its epoch, on a queue in use: it is counted, and its record written (R316, R318, R320). -/
theorem completeDesc_completes {s : State} {t q seq epoch : Nat} (he : (queueAt s t q).epoch = epoch) (hu : queueInUse s t q = true)
    (status cause detail moved : Nat) :
    queueAt (s.completeDesc t q seq epoch status cause detail moved) t q = (queueAt s t q).finish seq ∧
    (s.completeDesc t q seq epoch status cause detail moved).mem =
      (s.writeDpa (recordAddress s t q seq) (recordBytes seq q status cause detail moved)).1.mem := by
  have heq : s.completeDesc t q seq epoch status cause detail moved =
      (s.putRecord t q seq status cause detail moved).updQueue t q fun x => x.finish seq := if_neg (by simp [he, hu])
  rw [heq]
  obtain ⟨m, h, hp⟩ := putRecord_spec s t q seq status cause detail moved
  refine ⟨?_, putRecord_mem ..⟩
  rw [queueAt_updQueue, if_pos ⟨rfl, rfl⟩, hp]
  rfl

/-- A block that ends has left its slot before its descriptor completes, and its census stays unattributed (R39, R131). -/
def endedBlock (s : State) (l slot : Nat) (b : Block) : State :=
  let s1 := s.setTile l { tileAt s l with
    blocks := merase (tileAt s l).blocks slot, accesses := orphanStores (tileAt s l).accesses slot }
  if b.census.isEmpty then s1 else s1.unattribute b.launch.tenant b.census

theorem endBlock_eq (s : State) (l slot : Nat) (b : Block) (status cause : Nat) :
    endBlock s l slot b status cause = (endedBlock s l slot b).completeDesc b.launch.tenant b.launch.queue b.launch.seq b.launch.epoch
      status cause (if status = 0 then 0 else l) 0 := rfl

/-- An unattributed census changes no queue (R131). -/
theorem unattribute_queues (s : State) (t : Nat) (c : Census) (u q : Nat) :
    queueAt (s.unattribute t c) u q = queueAt s u q ∧ queueAssigned (s.unattribute t c) u q = queueAssigned s u q := by
  simp only [queueAt, queueAssigned, State.unattribute, State.updWatch, tenantAt_updTenant]
  split
  · subst_vars; exact ⟨rfl, rfl⟩
  · exact ⟨rfl, rfl⟩

/-- What the end of a block leaves before its descriptor completes. -/
theorem endedBlock_frame (s : State) (l slot : Nat) (b : Block) :
    tileAt (endedBlock s l slot b) l = { tileAt s l with
      blocks := merase (tileAt s l).blocks slot, accesses := orphanStores (tileAt s l).accesses slot } ∧
    (endedBlock s l slot b).mem = s.mem ∧ (endedBlock s l slot b).service = s.service ∧ (endedBlock s l slot b).host = s.host ∧
    ∀ t q, queueAt (endedBlock s l slot b) t q = queueAt s t q ∧ queueInUse (endedBlock s l slot b) t q = queueInUse s t q := by
  unfold endedBlock
  simp only
  split
  · exact ⟨tileAt_setTile_self .., rfl, rfl, rfl, fun _ _ => ⟨rfl, rfl⟩⟩
  · refine ⟨tileAt_setTile_self .., rfl, rfl, rfl, fun t q => ?_⟩
    obtain ⟨hq, ha⟩ := unattribute_queues (s.setTile l { tileAt s l with
      blocks := merase (tileAt s l).blocks slot, accesses := orphanStores (tileAt s l).accesses slot }) b.launch.tenant b.census t q
    refine ⟨hq, ?_⟩
    unfold queueInUse
    rw [hq, ha]
    rfl

/-- The record and the count of a block that ends (R39, R315). -/
theorem endBlock_completes {s : State} {l slot : Nat} {b : Block}
    (he : (queueAt s b.launch.tenant b.launch.queue).epoch = b.launch.epoch)
    (hu : queueInUse s b.launch.tenant b.launch.queue = true) (status cause : Nat) :
    queueAt (endBlock s l slot b status cause) b.launch.tenant b.launch.queue =
      (queueAt s b.launch.tenant b.launch.queue).finish b.launch.seq ∧
    (endBlock s l slot b status cause).mem = (s.writeDpa (recordAddress s b.launch.tenant b.launch.queue b.launch.seq)
      (recordBytes b.launch.seq b.launch.queue status cause (if status = 0 then 0 else l) 0)).1.mem := by
  obtain ⟨-, hmem, hserv, hhost, hqueue⟩ := endedBlock_frame s l slot b
  obtain ⟨hq, huse⟩ := hqueue b.launch.tenant b.launch.queue
  obtain ⟨hfin, hrec⟩ := completeDesc_completes (s := endedBlock s l slot b) (seq := b.launch.seq) ((congrArg Queue.epoch hq).trans he)
    (huse.trans hu) status cause (if status = 0 then 0 else l) 0
  have haddr : recordAddress (endedBlock s l slot b) b.launch.tenant b.launch.queue b.launch.seq =
      recordAddress s b.launch.tenant b.launch.queue b.launch.seq := by
    unfold recordAddress sliceBase
    rw [hq, hhost]
  rw [endBlock_eq]
  exact ⟨hfin.trans (by rw [hq]), hrec.trans (by rw [haddr]; exact writeDpa_mem_congr hmem hserv ..)⟩

theorem tileAt_endBlock (s : State) (l slot : Nat) (b : Block) (status cause : Nat) :
    tileAt (endBlock s l slot b status cause) l = { tileAt s l with
      blocks := merase (tileAt s l).blocks slot, accesses := orphanStores (tileAt s l).accesses slot } := by
  obtain ⟨-, htiles⟩ := completeDesc_keeps (endedBlock s l slot b) b.launch.tenant b.launch.queue b.launch.seq b.launch.epoch
    status cause (if status = 0 then 0 else l) 0
  rw [endBlock_eq, tileAt, htiles]
  exact (endedBlock_frame ..).1

theorem blockEnd_completes {l slot e : Nat} {s s1 : State} (hs : s1 = (tick s l e).redraw) {b : Block}
    (hb : mget (tileAt s1 l).blocks slot = some b) (hend : ∀ g ∈ b.groups, g.ended = true) (hasync : asyncDone (tileAt s1 l) slot = true) :
    exec (.blockEnd l slot e) s = .next (match b.discard with
      | none => endBlock s1 l slot b 0 0
      | some cause => endBlock s1 l slot b 1 cause) := by
  subst hs
  refine congrArg Host.Outcome.next ?_
  have hall : (b.groups.all fun g => g.ended) = true := List.all_eq_true.2 hend
  simp only [hb]
  exact if_pos (by simp only [hall, hasync, Bool.and_self])

/-- Settles O21: the slot a launch takes, the record an end writes, and the end of a reload. -/
theorem blocksComeAndGo : Obligations.BlocksComeAndGo := by
  unfold Obligations.BlocksComeAndGo
  intro l slot e s s1 hs t1
  refine ⟨fun la rest hwait hin hload hreset hown hfits hcode => ?_, fun b hb hend hasync => ?_, fun hload => ?_⟩
  · obtain ⟨hslot, hfree, hbelow⟩ := freeSlot_spec hfits
    refine ⟨_, freeSlot t1, startBlock la s1.globals.barrierDefault, blockLaunch_completes hs hwait hin hload hreset hown hfits hcode,
      hslot, hfree, hbelow, tileAt_setTile_self .., List.length_replicate, fun g hg => ?_, rfl, rfl, rfl,
      fun j hj => mget_mset_ne _ _ hj⟩
    rw [List.eq_of_mem_replicate hg]
    exact ⟨rfl, rfl, rfl, rfl, rfl, rfl, rfl, readU_startGroup _⟩
  · intro la
    have hexec := blockEnd_completes hs hb hend hasync
    have htile : ∀ status cause, tileAt (endBlock s1 l slot b status cause) l = { t1 with
        blocks := merase t1.blocks slot, accesses := orphanStores t1.accesses slot } := tileAt_endBlock s1 l slot b
    have hframe : ∀ status cause, mget (tileAt (endBlock s1 l slot b status cause) l).blocks slot = none ∧
        (∀ k, k ≠ slot → mget (tileAt (endBlock s1 l slot b status cause) l).blocks k = mget t1.blocks k) ∧
        (tileAt (endBlock s1 l slot b status cause) l).acc = t1.acc ∧ (tileAt (endBlock s1 l slot b status cause) l).lm = t1.lm := by
      intro status cause
      rw [htile]
      exact ⟨mget_merase_self .., fun k hk => (mget_merase ..).trans (if_neg hk), rfl, rfl⟩
    cases hd : b.discard with
    | none =>
      rw [hd] at hexec
      obtain ⟨hslot, hother, hacc, hlm⟩ := hframe 0 0
      refine ⟨_, hexec, hslot, hother, hacc, hlm, fun he hu => ?_⟩
      obtain ⟨hq, hmem⟩ := endBlock_completes (l := l) (slot := slot) he hu 0 0
      exact ⟨hq, fun _ h => (by cases h), fun _ => congrArg MemState.fast hmem⟩
    | some cause =>
      rw [hd] at hexec
      obtain ⟨hslot, hother, hacc, hlm⟩ := hframe 1 cause
      refine ⟨_, hexec, hslot, hother, hacc, hlm, fun he hu => ?_⟩
      obtain ⟨hq, hmem⟩ := endBlock_completes (l := l) (slot := slot) he hu 1 cause
      exact ⟨hq, fun _ h => (by cases h; exact congrArg MemState.fast hmem), fun h => (by cases h)⟩
  · exact congrArg Host.Outcome.next (if_pos hload)

end Sys2Proof.Machine
end

section
/-!
SUPPORT. What the work of one stream leaves of its tile and of the memories: the reads of an exchange, its packets, and the
requests of a copy (R155, R162, R166, R181, R279).
-/

namespace Sys2Proof.Machine

/-! ### What a stream's own work leaves -/

/-- The work of the stream with a tag changes no memory, no group and no other stream, and of its own stream neither what it
is nor whose it is (R162). -/
structure StreamKeeps (l tag : Nat) (s t : State) : Prop where
  memory : SameMemory s t
  blocks : (tileAt t l).blocks = (tileAt s l).blocks
  others : ∀ k, k ≠ tag → mget (tileAt t l).streams k = mget (tileAt s l).streams k
  stream : ∀ st, streamAt s l tag = some st → ∃ st', streamAt t l tag = some st' ∧ st'.kind = st.kind ∧ st'.desc = st.desc ∧
    st'.slot = st.slot ∧ st'.group = st.group ∧ st'.serial = st.serial

theorem StreamKeeps.refl (l tag : Nat) (s : State) : StreamKeeps l tag s s :=
  ⟨.refl s, rfl, fun _ _ => rfl, fun st h => ⟨st, h, rfl, rfl, rfl, rfl, rfl⟩⟩

theorem StreamKeeps.trans {l tag : Nat} {s t u : State} (h : StreamKeeps l tag s t) (h' : StreamKeeps l tag t u) :
    StreamKeeps l tag s u := by
  refine ⟨h.memory.trans h'.memory, h'.blocks.trans h.blocks, fun k hk => (h'.others k hk).trans (h.others k hk), fun st hs => ?_⟩
  obtain ⟨st1, hs1, hk, hd, hl, hg, hn⟩ := h.stream st hs
  obtain ⟨st2, hs2, hk', hd', hl', hg', hn'⟩ := h'.stream st1 hs1
  exact ⟨st2, hs2, hk'.trans hk, hd'.trans hd, hl'.trans hl, hg'.trans hg, hn'.trans hn⟩

/-- Nothing of the tiles and no byte of a tier differs. -/
structure KeepsBytes (s t : State) : Prop where
  tiles : t.tiles = s.tiles
  fast : t.mem.fast = s.mem.fast
  slow : t.mem.slow = s.mem.slow

theorem KeepsBytes.refl (s : State) : KeepsBytes s s := ⟨rfl, rfl, rfl⟩

theorem KeepsBytes.trans {s t u : State} (h : KeepsBytes s t) (h' : KeepsBytes t u) : KeepsBytes s u :=
  ⟨h'.tiles.trans h.tiles, h'.fast.trans h.fast, h'.slow.trans h.slow⟩

theorem KeepsBytes.stream {s t : State} (h : KeepsBytes s t) (l tag : Nat) : StreamKeeps l tag s t := by
  have htile : ∀ j, tileAt t j = tileAt s j := fun j => by unfold tileAt; rw [h.tiles]
  refine ⟨⟨fun k => by unfold fastByte; rw [h.fast], fun k => by unfold slowByte; rw [h.slow], fun j a => by unfold lmByte; rw [htile]⟩,
    by rw [htile], fun k _ => by rw [htile], fun st hst => ⟨st, ?_, rfl, rfl, rfl, rfl, rfl⟩⟩
  unfold streamAt at hst ⊢
  rw [htile]
  exact hst

/-- A stream goes on: its place in the tile holds its next state. -/
theorem StreamKeeps.putStream {l tag : Nat} {s : State} {t : Tile} {st st' : Stream} (hs : streamAt s l tag = some st)
    (hlm : t.lm = (tileAt s l).lm) (hb : t.blocks = (tileAt s l).blocks) (ht : t.streams = mset (tileAt s l).streams tag st')
    (hsame : st' = { st' with kind := st.kind, desc := st.desc, slot := st.slot, group := st.group, serial := st.serial }) :
    StreamKeeps l tag s (s.setTile l t) := by
  refine ⟨sameMemory_setTile hlm, by rw [tileAt_setTile_self, hb], fun k hk => ?_, fun x hx => ⟨st', ?_, ?_⟩⟩
  · rw [tileAt_setTile_self, ht]
    exact mget_mset_ne _ _ hk
  · rw [streamAt, tileAt_setTile_self, ht]
    exact mget_mset_self ..
  · obtain rfl := Option.some.inj (hs.symm.trans hx)
    rw [hsame]
    exact ⟨rfl, rfl, rfl, rfl, rfl⟩

/-! ### Reads for a stream (R155, R166) -/

theorem keepsBytes_report (s : State) (source : W32) (cls cause : Nat) (tenant : Option Nat) (detail : W32) :
    KeepsBytes s (s.report source cls cause tenant detail) := by
  obtain ⟨log, h⟩ := report_onlyLog s source cls cause tenant detail
  rw [h]
  exact ⟨rfl, rfl, rfl⟩

theorem keepsBytes_fastUncorrectable (s : State) (d : Nat) : KeepsBytes s (s.fastUncorrectable d) := by
  obtain ⟨hf, hs⟩ := fastUncorrectable_bytes s d
  refine ⟨?_, hf, hs⟩
  unfold State.fastUncorrectable
  split <;> rfl

theorem keepsBytes_noteWalk (s : State) (w : Walk) : KeepsBytes s (s.noteWalk w) := by
  unfold State.noteWalk
  simp only
  split
  · refine KeepsBytes.trans ?_ (keepsBytes_fastUncorrectable ..)
    exact ⟨rfl, rfl, rfl⟩
  · exact ⟨rfl, rfl, rfl⟩

theorem keepsBytes_translate (s : State) (region tenant va : Nat) (need : Need) :
    KeepsBytes s (s.translate region tenant va need).1 := by
  unfold State.translate
  simp only
  split
  · split
    · exact .refl s
    · split
      · exact .refl s
      · split
        · exact .refl s
        · exact keepsBytes_noteWalk ..
  · split
    · exact .refl s
    · split
      · exact ⟨rfl, rfl, rfl⟩
      · exact keepsBytes_noteWalk ..

theorem keepsBytes_touchBias (s : State) (a n : Nat) : KeepsBytes s (s.touchBias a n) := by
  unfold State.touchBias
  simp only
  split
  · exact ⟨rfl, rfl, rfl⟩
  · exact .refl s

theorem keepsBytes_streamTranslate (s : State) (l tenant va : Nat) (need : Need) :
    KeepsBytes s (streamTranslate s l tenant va need).1 := by
  unfold streamTranslate
  split
  · exact .refl s
  · exact keepsBytes_translate ..

theorem keepsBytes_readTenant (s : State) (l tenant va n : Nat) : KeepsBytes s (readTenant s l tenant va n).1 := by
  have htrans := keepsBytes_streamTranslate s l tenant va .r
  unfold readTenant
  generalize streamTranslate s l tenant va .r = r at htrans
  obtain ⟨s1, tr⟩ := r
  cases tr with
  | fail cause => exact htrans
  | wait => exact .refl s
  | ok b =>
    simp only
    split
    · exact htrans
    · split
      · exact .refl s
      · split
        · exact (htrans.trans (keepsBytes_touchBias ..)).trans (keepsBytes_fastUncorrectable ..)
        · exact htrans.trans (keepsBytes_touchBias ..)

theorem keepsBytes_readRange (l tenant : Nat) : ∀ (fuel : Nat) (s : State) (va n : Nat),
    KeepsBytes s (readRange fuel s l tenant va n).1 := by
  intro fuel
  induction fuel with
  | zero => intro s va n; exact .refl s
  | succ k ih =>
    intro s va n
    unfold readRange
    split
    · exact .refl s
    · simp only
      have hread := keepsBytes_readTenant s l tenant va (pieceLen va n false)
      generalize readTenant s l tenant va (pieceLen va n false) = r at hread
      split
      · rename_i s1 bs
        have hrest := ih s1 (va + pieceLen va n false) (n - pieceLen va n false)
        generalize readRange k s1 l tenant (va + pieceLen va n false) (n - pieceLen va n false) = r at hrest
        split <;> exact hread.trans hrest
      · exact hread

theorem keepsBytes_exchangeSource (s : State) (l tenant : Nat) (d : List Byte) (k : Nat) :
    KeepsBytes s (exchangeSource s l tenant d k).1 := by
  unfold exchangeSource
  simp only
  split
  · have hread := keepsBytes_readRange l tenant 8 s (dbits d 111 64 + 4096 * k) (xPartLen d k)
    generalize readRange 8 s l tenant (dbits d 111 64 + 4096 * k) (xPartLen d k) = r at hread
    split <;> exact hread
  · unfold readLocal
    simp only
    split
    · exact keepsBytes_report ..
    · exact .refl s

theorem keepsBytes_freezeStream (s : State) (l tenant tag : Nat) (st : Stream) (cause address : Nat) :
    KeepsBytes s (s.freezeStream l tenant tag st cause address) := by
  obtain ⟨log, v, h, -⟩ := freeze_spec s tenant
    { freezeRec (streamMaster st.kind l tag) cause address with blockId := streamBlockId s l st, desc := st.desc }
  rw [State.freezeStream, h]
  exact ⟨rfl, rfl, rfl⟩

/-- A packet that a stream sends waits in the outbox (R274). -/
theorem keepsBytes_sendRequest (s : State) (who : Requester) (p : Packet) : KeepsBytes s (s.sendRequest who p) := ⟨rfl, rfl, rfl⟩

/-- A stream's next state takes the place of the one it had. -/
theorem streamKeeps_setStream {l tag : Nat} {s : State} {st st' : Stream} (hs : streamAt s l tag = some st)
    (hsame : st' = { st' with kind := st.kind, desc := st.desc, slot := st.slot, group := st.group, serial := st.serial }) :
    StreamKeeps l tag s (s.setStream l tag st') := .putStream hs rfl rfl rfl hsame

/-- The next packet of an exchange (R279). -/
theorem streamKeeps_pumpExchangeOnce {s t : State} {l tenant tag : Nat} (h : pumpExchangeOnce s l tenant tag = some t) :
    StreamKeeps l tag s t := by
  unfold pumpExchangeOnce at h
  split at h
  · rename_i st hst
    split at h
    · cases h
    · split at h
      · have hsrc := keepsBytes_exchangeSource s l tenant st.desc st.next
        generalize exchangeSource s l tenant st.desc st.next = r at hsrc h
        split at h
        · rename_i s1 bs
          cases h
          have hst1 : streamAt s1 l tag = some st := by
            rw [← hst]
            unfold streamAt tileAt
            rw [hsrc.tiles]
          exact ((hsrc.stream l tag).trans (streamKeeps_setStream hst1 rfl)).trans ((keepsBytes_sendRequest ..).stream l tag)
        · cases h
          exact (hsrc.trans (keepsBytes_freezeStream ..)).stream l tag
        · cases h
      · split at h
        · cases h
          exact (streamKeeps_setStream hst rfl).trans ((keepsBytes_sendRequest ..).stream l tag)
        · cases h
  · cases h

theorem streamKeeps_pumpExchange (l tenant tag : Nat) : ∀ (fuel : Nat) (s : State),
    StreamKeeps l tag s (pumpExchange fuel s l tenant tag) := by
  intro fuel
  induction fuel with
  | zero => exact fun s => .refl l tag s
  | succ k ih =>
    intro s
    unfold pumpExchange
    split
    · rename_i s1 hs1
      exact (streamKeeps_pumpExchangeOnce hs1).trans (ih s1)
    · exact .refl l tag s

/-- A copy's next request goes to the end of its address stream (R181). -/
theorem streamKeeps_aimCopy (s : State) (l tenant tag : Nat) (old : Option Stream) :
    StreamKeeps l tag s (s.aimCopy l tenant tag old) := by
  unfold State.aimCopy
  split
  · rename_i st hst
    split
    · exact .refl l tag s
    · exact .putStream hst rfl rfl rfl rfl
  · exact .refl l tag s

end Sys2Proof.Machine
end

section
/-!
PROOF. O19: streams take the lowest free tag, and COPY.WAIT and the fences wait for what they name (R61, R141, R162, R164,
R174, R195, R278).
-/

namespace Sys2Proof.Machine

/-! ### Tags (R162) -/

theorem freeTag_spec {t : Tile} (h : ∃ k, k < 64 ∧ mget t.streams k = none) :
    ∃ tag, freeTag t = some tag ∧ tag < 64 ∧ mget t.streams tag = none ∧ ∀ k, k < tag → mget t.streams k ≠ none := by
  obtain ⟨tag, htag⟩ := find?_free_isSome h
  exact ⟨tag, htag, find?_free htag⟩

/-- The stream that an issuing group starts. -/
def newStream (c : Ctx) (kind : StreamKind) (d : List Byte) : Stream :=
  { kind := kind, serial := c.tile.serial, slot := c.slot, group := c.gi, desc := d }

/-- The tile with a stream that holds a tag. -/
def takenTile (c : Ctx) (kind : StreamKind) (d : List Byte) (tag : Nat) : Tile :=
  { c.tile with streams := mset c.tile.streams tag (newStream c kind d), serial := c.tile.serial + 1 }

/-- The issuing group has a tag, and a stream holds it (R61, R162). -/
def taken (c : Ctx) (dst : Byte) (kind : StreamKind) (d : List Byte) (tag : Nat) : State :=
  c.finish (takenTile c kind d tag) c.block (writeU c.group dst (BitVec.ofNat 32 tag))

theorem takeTag_eq {c : Ctx} {tag : Nat} (h : freeTag c.tile = some tag) (s : State) (dst : Byte) (kind : StreamKind) (d : List Byte)
    (k : State → Nat → State) : c.takeTag s dst kind d k = k (taken c dst kind d tag) tag := by
  unfold Ctx.takeTag
  rw [h]
  rfl

theorem streams_taken (c : Ctx) (dst : Byte) (kind : StreamKind) (d : List Byte) (tag : Nat) :
    (tileAt (taken c dst kind d tag) c.l).streams = mset c.tile.streams tag (newStream c kind d) := by
  rw [taken, tileAt_finish]
  rfl

theorem streamAt_taken (c : Ctx) (dst : Byte) (kind : StreamKind) (d : List Byte) (tag : Nat) :
    streamAt (taken c dst kind d tag) c.l tag = some (newStream c kind d) := by
  rw [streamAt, streams_taken]
  exact mget_mset_self ..

theorem Ctx.Stands.sameMemory_taken {c : Ctx} (h : c.Stands) (dst : Byte) (kind : StreamKind) (d : List Byte) (tag : Nat) :
    SameMemory c.s (taken c dst kind d tag) := h.sameMemory_finish (t := takenTile c kind d tag) rfl _ _

/-- A stream that has taken the lowest free tag still holds it after its first own work. -/
theorem tookTag_of_keeps {c : Ctx} (hst : c.Stands) {f : Fields} {kind : StreamKind} {d : List Byte} {tag : Nat} {t : State}
    (hlt : tag < 64) (hfree : mget c.tile.streams tag = none) (hbelow : ∀ k, k < tag → mget c.tile.streams k ≠ none)
    (hk : StreamKeeps c.l tag (taken c f.dst kind d tag) t) : TookTag c f kind d t := by
  obtain ⟨st, hs, hkind, hdesc, hslot, hgroup, hserial⟩ := hk.stream _ (streamAt_taken ..)
  have hg : groupIn t c.l c.slot c.gi = some { (writeU c.group f.dst (BitVec.ofNat 32 tag)).advance c.path with
      lastIssue := c.tile.cycle.toNat } := by
    rw [groupIn, hk.blocks]
    exact groupIn_finish hst.group (takenTile c kind d tag) _
  have hread := fun x => readU_writeU c.group f.dst x (BitVec.ofNat 32 tag)
  refine ⟨tag, st, _, hlt, hfree, hbelow, hs, hkind, hdesc, hslot, hgroup, hserial, hg, (hread _).trans (if_pos rfl),
    fun x hx => (hread x).trans (if_neg hx), rfl,
    advance_Advanced c (writeU c.group f.dst (BitVec.ofNat 32 tag)) rfl c.tile.cycle.toNat, fun k hk' => ?_,
    (hst.sameMemory_taken ..).trans hk.memory⟩
  rw [hk.others k hk', streams_taken]
  exact mget_mset_ne _ _ hk'

/-! ### The descriptor of an issue (R61, R63) -/

section
variable {c : Ctx} {f : Fields} (hg : guardAlways f = true) (hlegal : fieldsIllegal { dst := 2, a := 2 } f = false)
  (hbounds : fieldsOutOfBounds { dst := 2, a := 2 } c.block.launch.params.regs f = false)
include hg hlegal hbounds

theorem withDescriptor_outside (hwin : inWindow c.block.launch.params (readU c.group f.srcA).toNat 64 = false)
    (k : List Byte → State) : c.withDescriptor f k = c.freeze 0x07 (readU c.group f.srcA).toNat :=
  (checkedOnce_ok _ _ _ _ hg).trans ((checked_ok _ hlegal hbounds).trans (if_pos (by simp [hwin])))

theorem withDescriptor_ok (hst : c.Stands) (hwin : inWindow c.block.launch.params (readU c.group f.srcA).toNat 64 = true)
    (hgood : readBad c.tile.lmBad (readU c.group f.srcA).toNat 64 = false) (k : List Byte → State) :
    c.withDescriptor f k = k ((List.range 64).map fun n => lmByte c.s c.l ((readU c.group f.srcA).toNat + n)) := by
  refine (checkedOnce_ok _ _ _ _ hg).trans ((checked_ok _ hlegal hbounds).trans ((if_neg (by simp [hwin])).trans
    ((if_neg (by simp [hgood])).trans (congrArg k ?_))))
  rw [hst.tile]
  rfl

end

/-! ### The three issues -/

/-- A stream that retires leaves its tag free again (R166). -/
theorem streams_retireTag (s : State) (l tag k : Nat) :
    mget (tileAt (s.retireTag l tag) l).streams k = if k = tag then none else mget (tileAt s l).streams k := by
  rw [State.retireTag, tileAt_setTile_self]
  exact mget_merase ..

theorem sameMemory_retireTag (s : State) (l tag : Nat) : SameMemory s (s.retireTag l tag) := sameMemory_setTile rfl

theorem keepsBytes_updWatch (s : State) (t : Nat) (f : WatchState → WatchState) : KeepsBytes s (s.updWatch t f) := ⟨rfl, rfl, rfl⟩

theorem keepsBytes_updGlobals (s : State) (f : Globals → Globals) : KeepsBytes s (s.updGlobals f) := ⟨rfl, rfl, rfl⟩

/-- A refused copy retires at once and is counted (R141). -/
theorem refused_spec {c : Ctx} (hst : c.Stands) (dst : Byte) (d : List Byte) {tag : Nat} (hfree : mget c.tile.streams tag = none) :
    let t := ((taken c dst .copy d tag).retireTag c.l tag).updWatch c.tenant fun w =>
      { w with refusedStores := satAdd 32 w.refusedStores 1 }
    SameMemory c.s t ∧ (tileAt t c.l).serial = c.tile.serial + 1 ∧
      (∀ k, mget (tileAt t c.l).streams k = mget c.tile.streams k) ∧
      (tenantAt t c.tenant).watch.refusedStores = satAdd 32 (tenantAt c.s c.tenant).watch.refusedStores 1 := by
  intro t
  have htile : tileAt t c.l = tileAt ((taken c dst .copy d tag).retireTag c.l tag) c.l := rfl
  refine ⟨((hst.sameMemory_taken dst .copy d tag).trans (sameMemory_retireTag ..)).trans
    ((keepsBytes_updWatch ..).stream c.l tag).memory, ?_, fun k => ?_, ?_⟩
  · rw [htile, State.retireTag, tileAt_setTile_self, taken, tileAt_finish]
    rfl
  · rw [htile, streams_retireTag, streams_taken, mget_mset]
    split
    · subst_vars; exact hfree.symm
    · rfl
  · exact congrArg (fun v : Tenant => v.watch.refusedStores) ((tenantAt_updTenant ..).trans (if_pos rfl))

/-- A gather's lists may be read from its issue on (R199). -/
theorem gather_keeps (c : Ctx) (dst : Byte) (d : List Byte) (tag : Nat) (out : List Byte) (turn : Nat) (g : Globals → Globals) :
    StreamKeeps c.l tag (taken c dst .gather d tag)
      (((taken c dst .gather d tag).setStream c.l tag { newStream c .gather d with out := out, turn := turn }).updGlobals g) :=
  (streamKeeps_setStream (streamAt_taken ..) rfl).trans ((keepsBytes_updGlobals ..).stream ..)

section
variable {s : State} {i : Issue} {c0 c : Ctx} {f : Fields} {ecc : Ecc} (h : ctxOf s i = some c0) (hc : c = c0.ecc ecc)
  (hg : guardAlways f = true) (hlegal : fieldsIllegal { dst := 2, a := 2 } f = false)
  (hbounds : fieldsOutOfBounds { dst := 2, a := 2 } c.block.launch.params.regs f = false)
include h hc hg hlegal hbounds

/-- A descriptor outside the window stops each of the three issues. -/
theorem issues_outside (hwin : inWindow c.block.launch.params (readU c.group f.srcA).toNat 64 = false) {x : Instr}
    (hx : x = .copyIssue i f ecc ∨ x = .gatherIssue i f ecc ∨ x = .xchgIssue i f ecc) :
    exec x s = .next (c.freeze 0x07 (readU c.group f.srcA).toNat) := by
  subst hc
  rcases hx with rfl | rfl | rfl <;>
    exact congrArg Host.Outcome.next ((issue_ok h _).trans (withDescriptor_outside hg hlegal hbounds hwin _))

variable (hst : c.Stands) (hwin : inWindow c.block.launch.params (readU c.group f.srcA).toNat 64 = true)
  (hgood : readBad c.tile.lmBad (readU c.group f.srcA).toNat 64 = false) {d : List Byte}
  (hd : d = (List.range 64).map fun n => lmByte c.s c.l ((readU c.group f.srcA).toNat + n))
include hst hwin hgood hd

theorem copyIssue_malformed (hbad : copyDescBad d c.l (tenantAt c.s c.tenant).watch.quota = true) :
    exec (.copyIssue i f ecc) s = .next (c.freeze 0x06 0) := by
  subst hc hd
  exact congrArg Host.Outcome.next ((issue_ok h _).trans ((withDescriptor_ok hg hlegal hbounds hst hwin hgood _).trans
    (if_pos (by simp only [hbad, Bool.true_or]))))

theorem gatherIssue_malformed (hbad : gatherDescBad d (tableDesc c.s c.tenant (dbits d 11 4)) = true) :
    exec (.gatherIssue i f ecc) s = .next (c.freeze 0x06 0) := by
  subst hc hd
  exact congrArg Host.Outcome.next ((issue_ok h _).trans ((withDescriptor_ok hg hlegal hbounds hst hwin hgood _).trans
    (if_pos hbad)))

theorem xchgIssue_malformed (hbad : exchangeDescBad c.s d = true) : exec (.xchgIssue i f ecc) s = .next (c.freeze 0x06 0) := by
  subst hc hd
  exact congrArg Host.Outcome.next ((issue_ok h _).trans ((withDescriptor_ok hg hlegal hbounds hst hwin hgood _).trans
    (if_pos hbad)))

variable {tag : Nat} (htag : freeTag c.tile = some tag)
include htag

theorem copyIssue_completes (hdesc : copyDescBad d c.l (tenantAt c.s c.tenant).watch.quota = false)
    (hext : copyExtentBad c.block.launch.params d c.l = false)
    (hmulti : cDstSpace d = 2 → ∀ m ∈ multicastTiles c.l d, tilePresent c.s m = true ∧ ownerOf c.s m = some c.tenant) :
    exec (.copyIssue i f ecc) s = .next (if copyRefused c.s c.tenant d then
        ((taken c f.dst .copy d tag).retireTag c.l tag).updWatch c.tenant fun w =>
          { w with refusedStores := satAdd 32 w.refusedStores 1 }
      else (taken c f.dst .copy d tag).aimCopy c.l c.tenant tag none) := by
  have hpresent : (decide (cDstSpace d = 2) && (multicastTiles c.l d).any fun m => !tilePresent c.s m) = false := by
    rw [← Bool.not_eq_true, Bool.and_eq_true, decide_eq_true_eq, List.any_eq_true]
    rintro ⟨hsp, m, hm, habsent⟩
    simp [(hmulti hsp m hm).1] at habsent
  have hforeign : (decide (cDstSpace d = 2) && multicastForeign c.s c.tenant (multicastTiles c.l d)) = false := by
    rw [← Bool.not_eq_true, Bool.and_eq_true, decide_eq_true_eq, multicastForeign, List.any_eq_true]
    rintro ⟨hsp, m, hm, hother⟩
    simp [(hmulti hsp m hm).2] at hother
  subst hc hd
  exact congrArg Host.Outcome.next ((issue_ok h _).trans ((withDescriptor_ok hg hlegal hbounds hst hwin hgood _).trans
    ((if_neg (by simp only [hdesc, hpresent, Bool.or_self]; decide)).trans ((if_neg (by simp only [hext]; decide)).trans
      ((if_neg (by simp only [hforeign]; decide)).trans (takeTag_eq htag ..))))))

theorem gatherIssue_completes (hdesc : gatherDescBad d (tableDesc c.s c.tenant (dbits d 11 4)) = false)
    (hext : gatherExtentBad c.block.launch.params d (tableDesc c.s c.tenant (dbits d 11 4)) = false) :
    exec (.gatherIssue i f ecc) s = .next (((taken c f.dst .gather d tag).setStream c.l tag
      { newStream c .gather d with out := gatherLists c.tile.lm d, turn := (taken c f.dst .gather d tag).globals.gatherClock }).updGlobals
        fun g => { g with gatherClock := g.gatherClock + 1 }) := by
  subst hc hd
  refine congrArg Host.Outcome.next ((issue_ok h _).trans ((withDescriptor_ok hg hlegal hbounds hst hwin hgood _).trans
    ((if_neg (by simp only [hdesc]; decide)).trans ((if_neg (by simp only [hext]; decide)).trans ((takeTag_eq htag ..).trans ?_)))))
  rw [streamAt_taken]

theorem xchgIssue_completes (hdesc : exchangeDescBad c.s d = false)
    (hext : xSrcTenant d = false → inWindow c.block.launch.params (dbits d 111 64) (xLen d) = true) :
    exec (.xchgIssue i f ecc) s = .next (pumpExchange (exchangeFuel (taken c f.dst .exchange d tag) c.l tag)
      (taken c f.dst .exchange d tag) c.l c.tenant tag) := by
  have hin : (!xSrcTenant d && !inWindow c.block.launch.params (dbits d 111 64) (xLen d)) = false := by
    cases hs : xSrcTenant d with
    | true => rfl
    | false => rw [hext hs]; rfl
  subst hc hd
  exact congrArg Host.Outcome.next ((issue_ok h _).trans ((withDescriptor_ok hg hlegal hbounds hst hwin hgood _).trans
    ((if_neg (by simp only [hdesc]; decide)).trans ((if_neg (by simp only [hin]; decide)).trans (takeTag_eq htag ..)))))

end

/-! ### COPY.WAIT and the fences (R61, R174) -/

/-- A group that has nothing to wait for waits for nothing. -/
theorem Ctx.Stands.wait_eq {c : Ctx} (h : c.Stands) : c.group = { c.group with wait := .none } := by
  rw [← h.wait]

theorem copyWait_completes {s : State} {i : Issue} {c : Ctx} (h : ctxOf s i = some c) {f : Fields} (hg : guardAlways f = true)
    (hlegal : fieldsIllegal { a := 2, mod := 1 } f = false)
    (hbounds : fieldsOutOfBounds { a := 2, mod := 1 } c.block.launch.params.regs f = false) {mine : SMap Stream}
    (hm : mine = c.tile.streams.filter fun e =>
      decide (e.2.slot = c.slot) && (f.mod.getLsbD 0 || decide (e.1 = (readU c.group f.srcA).toNat))) :
    exec (.copyWait i f) s = .next (c.done { c.group with
      wait := if mine = [] then .none else .tags (mine.map fun e => e.2.serial) }) := by
  refine congrArg Host.Outcome.next ((issue_ok h _).trans ((checkedOnce_ok _ _ _ _ hg).trans ((checked_ok _ hlegal hbounds).trans ?_)))
  simp only [← hm]
  cases mine with
  | nil => rw [if_pos rfl, ← (ctxOf_stands h).wait_eq]
  | cons e rest => rw [if_neg (List.cons_ne_nil e rest)]

/-- What a fence over stores waits for. -/
def fenceWait (ids : List Nat) (drop : Bool) : Wait := if ids = [] then .none else .fence ids drop

/-- The lines of the L1 that a fence over stores leaves: none where it drops them and waits for nothing. -/
def fenceLines (ids : List Nat) (drop : Bool) (l1 : SMap (List Byte)) : SMap (List Byte) := if ids = [] ∧ drop = true then [] else l1

theorem fence_completes {s : State} {i : Issue} {c : Ctx} (h : ctxOf s i = some c) {f : Fields} (hg : guardAlways f = true)
    (hlegal : fieldsIllegal {} f = false) {board : Bool} {ids : List Nat} (hids : fenceStores c.s c.tile c.slot c.gi board = ids)
    (drop : Bool) :
    fence s i f board drop = c.finish { c.tile with l1 := fenceLines ids drop c.tile.l1 } c.block
      { c.group with wait := fenceWait ids drop } := by
  refine (issue_ok h _).trans ((checkedOnce_ok _ _ _ _ hg).trans ((checked_ok _ hlegal (fieldsOutOfBounds_none ..)).trans ?_))
  rw [hids]
  cases ids with
  | nil =>
    have hwait : { c.group with wait := fenceWait [] drop } = c.group := (ctxOf_stands h).wait_eq.symm
    rw [hwait]
    cases drop <;> rfl
  | cons e rest => rfl

/-- A fence that drops nothing leaves all of its tile but its group. -/
theorem fence_keeps_lines {s : State} {i : Issue} {c : Ctx} (h : ctxOf s i = some c) {f : Fields} (hg : guardAlways f = true)
    (hlegal : fieldsIllegal {} f = false) {board : Bool} {ids : List Nat} (hids : fenceStores c.s c.tile c.slot c.gi board = ids) :
    fence s i f board false = c.done { c.group with wait := fenceWait ids false } := by
  have hlines : fenceLines ids false c.tile.l1 = c.tile.l1 := if_neg fun hc => Bool.false_ne_true hc.2
  rw [fence_completes h hg hlegal hids, hlines]
  rfl

/-- Settles O19: the issues by the state in which the tag is taken, the waits by what they find. -/
theorem streamsStartAndGroupsWait : Obligations.StreamsStartAndGroupsWait := by
  unfold Obligations.StreamsStartAndGroupsWait
  refine ⟨fun i f ecc s c0 c h hc hg hlegal hbounds => ?_, fun i f s c h hg => ?_⟩
  · intro p a d td
    have hst : c.Stands := hc ▸ (ctxOf_stands h).ecc ecc
    refine ⟨fun hwin x hx => ⟨_, issues_outside h hc hg hlegal hbounds hwin hx, hst.frozeGroup ..⟩, fun hwin hgood hfree => ?_⟩
    obtain ⟨tag, htag, hlt, hnone, hbelow⟩ := freeTag_spec hfree
    refine ⟨fun hdesc hext hmulti => ?_, fun hdesc hext => ?_, fun hdesc hext => ?_, fun hbad => ?_, fun hbad => ?_, fun hbad => ?_⟩
    · have hexec := copyIssue_completes h hc hg hlegal hbounds hst hwin hgood rfl htag hdesc hext hmulti
      refine ⟨fun hkept => ?_, fun hrefused => ?_⟩
      · rw [if_neg (by rw [hkept]; decide)] at hexec
        exact ⟨_, hexec, tookTag_of_keeps hst hlt hnone hbelow (streamKeeps_aimCopy ..)⟩
      · rw [if_pos hrefused] at hexec
        exact ⟨_, hexec, refused_spec hst f.dst d hnone⟩
    · exact ⟨_, gatherIssue_completes h hc hg hlegal hbounds hst hwin hgood rfl htag hdesc hext,
        tookTag_of_keeps hst hlt hnone hbelow (gather_keeps ..)⟩
    · exact ⟨_, xchgIssue_completes h hc hg hlegal hbounds hst hwin hgood rfl htag hdesc hext,
        tookTag_of_keeps hst hlt hnone hbelow (streamKeeps_pumpExchange ..)⟩
    · exact ⟨_, gatherIssue_malformed h hc hg hlegal hbounds hst hwin hgood rfl hbad, hst.frozeGroup ..⟩
    · exact ⟨_, xchgIssue_malformed h hc hg hlegal hbounds hst hwin hgood rfl hbad, hst.frozeGroup ..⟩
    · exact ⟨_, copyIssue_malformed h hc hg hlegal hbounds hst hwin hgood rfl hbad, hst.frozeGroup ..⟩
  · intro stores
    have hst := ctxOf_stands h
    refine ⟨fun hlegal hbounds => ?_, fun hlegal => ?_⟩
    · intro mine
      exact ⟨_, _, copyWait_completes h hg hlegal hbounds rfl, hst.groupIn_done _,
        advance_Advanced c { c.group with wait := _ } rfl c.tile.cycle.toNat, rfl, rfl, onlyGroup_done .., hst.sameMemory_done _⟩
    · have hids : ∀ b, fenceStores c.s c.tile c.slot c.gi b = (stores b).map Access.serial := fun b => rfl
      have hwait : ∀ b drop, fenceWait ((stores b).map Access.serial) drop =
          if stores b = [] then .none else .fence ((stores b).map Access.serial) drop := fun b drop => by
        simp only [fenceWait, List.map_eq_nil_iff]
      have hadv : ∀ w, Advanced c { { c.group with wait := w }.advance c.path with lastIssue := c.tile.cycle.toNat } := fun w =>
        advance_Advanced c { c.group with wait := w } rfl c.tile.cycle.toNat
      refine ⟨⟨_, _, congrArg Host.Outcome.next (fence_keeps_lines h hg hlegal (hids false)), hst.groupIn_done _, hadv _,
        hwait false false, onlyGroup_done .., hst.sameMemory_done _⟩, fun b => ?_⟩
      have hexec : exec (if b then .fenceBoard i f else .fenceRegion i f) s = .next (fence s i f b true) := by cases b <;> rfl
      refine ⟨_, _, hexec.trans (congrArg Host.Outcome.next (fence_completes h hg hlegal (hids b) true)), groupIn_finish hst.group _ _,
        hadv _, rfl, hst.sameMemory_finish (t := { c.tile with l1 := fenceLines .. }) rfl _ _, hwait b true, ?_⟩
      rw [tileAt_finish]
      simp only [Ctx.markTile, fenceLines, List.map_eq_nil_iff, and_true]

end Sys2Proof.Machine
end

section
/-!
SUPPORT. A row that changes a range of a DOMAIN (R336): the request it is, the entries it touches, and its answer where the
write is declined or in force.
-/

namespace Sys2Proof.Machine

/-! ### The request -/

/-- The request that a change of a range is answered as: the commit of its transfer (R333, R336). -/
def rangeMsg (tag : BitVec 16) (t : Option Nat) (index sub off : Nat) (data : List Byte) : DictMsg :=
  { writeMsg tag t index sub data with command := 6, offset := BitVec.ofNat 32 off, length := 0 }

section
variable {t : Option Nat} {index sub off : Nat} (tag : BitVec 16) (data : List Byte)

theorem rangeMsg_tenant (h : t.getD 0 < 1024) : (rangeMsg tag t index sub off data).tenant.toNat = t.getD 0 :=
  (BitVec.toNat_ofNat ..).trans (Nat.mod_eq_of_lt h)

theorem rangeMsg_index (h : index < 65536) : (rangeMsg tag t index sub off data).index.toNat = index :=
  (BitVec.toNat_ofNat ..).trans (Nat.mod_eq_of_lt h)

theorem rangeMsg_sub (h : sub < 256) : (rangeMsg tag t index sub off data).sub.toNat = sub :=
  (BitVec.toNat_ofNat ..).trans (Nat.mod_eq_of_lt h)

theorem rangeMsg_offset (h : off < 2 ^ 32) : (rangeMsg tag t index sub off data).offset.toNat = off :=
  (BitVec.toNat_ofNat ..).trans (Nat.mod_eq_of_lt h)

/-- The first checks pass on a writable DOMAIN of the request's scope, for a role that writes it (R329, R330, R334). -/
theorem checkRequest_range {role : Nat} {own : Option Nat} {o : Obj} (ht : t.getD 0 < 1024) (hi : index < 65536)
    (hsub : sub < 256) (ho : objectAt index sub = some o) (hty : o.ty = 0x0D) (hacc : o.access = 4)
    (hw : mayWrite o.writers role = true) (hscope : tenantIndex index = t.isSome) (hown : t = none ∨ t = own) :
    checkRequest role own { rangeMsg tag t index sub off data with offset := 0 } = 0 := by
  have htenant := rangeMsg_tenant (index := index) (sub := sub) (off := off) tag data ht
  simp only [checkRequest, rangeMsg_index tag data hi, rangeMsg_sub tag data hsub, htenant, ho]
  obtain rfl | rfl := hown
  · cases own <;> simp_all [rangeMsg, writeMsg, writesObject]
  · cases t <;> simp_all [rangeMsg, writeMsg, writesObject]

end

section
variable {s : State} {path : Path} {role : Nat} {own : Option Nat} (hs : Served s path role own) {t : Option Nat} {off : Nat}
  (ht : t.getD 0 < 1024) (hoff : off < 2 ^ 32) {index sub : Nat} {tag : BitVec 16} {data : List Byte}
include hs ht hoff

theorem rangeRow_checked : rangeRow s path tag t index sub off data =
    if checkRequest role own { rangeMsg tag t index sub off data with offset := 0 } = 0 then
      serveRange s.redraw path (rangeMsg tag t index sub off data)
    else s.redraw.reply path (rangeMsg tag t index sub off data)
      (checkRequest role own { rangeMsg tag t index sub off data with offset := 0 }) := by
  obtain ⟨hopen, hfree⟩ := hs
  unfold rangeRow
  rw [if_pos (by rw [Bool.and_eq_true]; exact ⟨decide_eq_true ht, decide_eq_true hoff⟩), hopen]
  simp only [hfree]
  change (match checkRequest role own { rangeMsg tag t index sub off data with offset := 0 } with
    | 0 => _ | c => _) = _
  cases checkRequest role own { rangeMsg tag t index sub off data with offset := 0 } <;> rfl

end

/-! ### One entry of a DOMAIN -/

theorem leBytes_leNat (bs : List Byte) : leBytes bs.length (leNat bs) = bs := by
  induction bs with
  | nil => rfl
  | cons b bs ih =>
    have hb := b.isLt
    have hlow : BitVec.ofNat 8 (b.toNat + 256 * leNat bs) = b := BitVec.eq_of_toNat_eq (by rw [BitVec.toNat_ofNat]; omega)
    have hrest : (b.toNat + 256 * leNat bs) / 256 = leNat bs := by omega
    rw [List.length_cons, leBytes, leNat, hlow, hrest, ih]

/-- A range that is one entry leaves that entry as the data given. -/
theorem newEntries_entry {n i size : Nat} {f : Nat → List Byte} {bs : List Byte} (hn : 0 < n) (hbs : bs.length = n) :
    newEntries (size, n, f) (n * i) bs = [(i, leNat bs)] := by
  have htouched : entriesTouched n (n * i) n = [i] := by
    have hfirst : n * i / n = i := Nat.mul_div_cancel_left i hn
    have hlast : (n * i + n - 1) / n = i := by
      rw [show n * i + n - 1 = (n - 1) + n * i by omega, Nat.add_mul_div_left _ _ hn, Nat.div_eq_of_lt (by omega), Nat.zero_add]
    simp [entriesTouched, hfirst, hlast, hn.ne']
  have hafter : entryAfter (size, n, f) (n * i) bs i = bs :=
    List.ext_getElem (by simp [entryAfter, hbs]) fun j _ hj => by simp [entryAfter, Nat.mul_comm i n, hj]
  simp [newEntries, hbs, htouched, hafter]

/-- A DOMAIN of `size` bytes in entries of `n` that a role may write now: its own tenant's or the module's, with the scope that
owns it quiesced (R326, R329, R330). -/
structure WritableDomain (s : State) (role : Nat) (own t : Option Nat) (index sub size n : Nat) : Prop where
  index_lt : index < 65536
  sub_lt : sub < 256
  tenant_lt : t.getD 0 < 1024
  mine : t = none ∨ t = own
  scope : tenantIndex index = t.isSome
  object : ∃ o, objectAt index sub = some o ∧ o.ty = 0x0D ∧ o.access = 4 ∧ mayWrite o.writers role = true
  quiet : quiesced s.redraw (t.getD 0) index sub 0 = true
  domain : ∃ f, domainOf s.redraw (t.getD 0) index sub = (size, n, f)

/-- A served row that gives one entry of a DOMAIN is answered as the write of that entry demands (R336). -/
theorem rangeRow_entry {s : State} {path : Path} {role : Nat} {own t : Option Nat} {index sub size n i : Nat}
    (hs : Served s path role own) (h : WritableDomain s role own t index sub size n) (tag : BitVec 16) {bs : List Byte} (hn : 0 < n)
    (hbs : bs.length = n) (hsize : n * i + n ≤ size) (hoff : n * i < 2 ^ 32) :
    rangeRow s path tag t index sub (n * i) bs =
      s.redraw.finishWrite path (rangeMsg tag t index sub (n * i) bs) (writeEntries s.redraw (t.getD 0) index sub [(i, leNat bs)]) := by
  obtain ⟨hi, hsub, ht, hmine, hscope, ⟨o, ho, hty, hacc, hw⟩, hquiet, f, hdomain⟩ := h
  have hfit : ¬(bs.length < 1 ∨ n * i + bs.length > size) := by omega
  have hdata : (rangeMsg tag t index sub (n * i) bs).data = bs := rfl
  rw [rangeRow_checked hs ht hoff, if_pos (checkRequest_range tag bs ht hi hsub ho hty hacc hw hscope hmine)]
  simp only [serveRange, rangeMsg_tenant tag bs ht, rangeMsg_index tag bs hi, rangeMsg_sub tag bs hsub, rangeMsg_offset tag bs hoff,
    hdata, hquiet, hdomain, writeRange, newEntries_entry hn hbs]
  rw [if_neg (by decide), if_neg (by simpa only [Bool.or_eq_true, decide_eq_true_eq] using hfit)]

/-! ### What the answer leaves -/

/-- A write that is answered without effect (R334). -/
def Written.Declined (w : Written) : Prop := w = .refused ∨ w = .notQuiesced ∨ w = .unavailable

theorem finishWrite_declined {w : Written} (h : w.Declined) (s : State) (path : Path) (m : DictMsg) :
    OnlyDict s (s.finishWrite path m w) := by
  obtain rfl | rfl | rfl := h <;> exact respond_onlyDict ..

theorem finishWrite_ok (s u : State) (path : Path) (m : DictMsg) : OnlyDict u (s.finishWrite path m (.ok u)) := respond_onlyDict ..

end Sys2Proof.Machine
end

section
/-!
SUPPORT. The fast tier by device address: a key of the interleaved or the stack view gives its address back, what a page or a
byte reads depends on the tier's own state alone, and a range of addresses that is zeroed reads zero (R157, R158, R354, R358).
-/

namespace Sys2Proof.Machine

/-! ### Keys and addresses -/

theorem keyDpa_interleavedKey {m : MemState} (hspan : m.span ≤ 56) {d : Nat} (h : d < gib * (20 * m.span)) :
    keyDpa m (interleavedKey d) = d := by
  unfold keyDpa interleavedKey
  generalize hturn : (d / 4096 / 20 ^^^ d / 4096 / 20 / 32 ^^^ d / 4096 / 20 / 1024) % 20 = c
  have hc : c < 20 := hturn ▸ Nat.mod_lt _ (by decide)
  simp only [gib] at h
  have hstack : (2 ^ 36 * ((d / 4096 % 20 + c) % 20) + (4096 * (d / 4096 / 20) + d % 4096)) / 2 ^ 36 = (d / 4096 % 20 + c) % 20 := by
    omega
  have hoffset : (2 ^ 36 * ((d / 4096 % 20 + c) % 20) + (4096 * (d / 4096 / 20) + d % 4096)) % 2 ^ 36 =
      4096 * (d / 4096 / 20) + d % 4096 := by omega
  have hrow : (4096 * (d / 4096 / 20) + d % 4096) / 4096 = d / 4096 / 20 := by omega
  simp only [hturn, hstack, hoffset, hrow]
  rw [if_pos (by unfold gib; omega)]
  omega

theorem keyDpa_stackView {m : MemState} {d st o : Nat} (h : stackView m d = some (st, o)) : keyDpa m (2 ^ 36 * st + o) = d := by
  unfold stackView at h
  obtain ⟨hd, h⟩ := Option.ite_none_left_eq_some.1 h
  obtain ⟨hin, h⟩ := Option.ite_none_right_eq_some.1 h
  obtain ⟨rfl, rfl⟩ := Prod.mk.inj (Option.some.inj h)
  simp only [Bool.and_eq_true, decide_eq_true_eq] at hin
  obtain ⟨⟨-, hspan⟩, -⟩ := hin
  have hstack : (2 ^ 36 * (d / 2 ^ 36 - 64) + d % 2 ^ 36) / 2 ^ 36 = d / 2 ^ 36 - 64 := by omega
  have hoffset : (2 ^ 36 * (d / 2 ^ 36 - 64) + d % 2 ^ 36) % 2 ^ 36 = d % 2 ^ 36 := by omega
  unfold keyDpa
  simp only [hstack, hoffset]
  rw [if_neg (Nat.not_lt.2 hspan)]
  omega

/-- The key of a device address gives the address back (R158). -/
theorem keyDpa_fastKey {m : MemState} (hspan : m.span ≤ 56) {d k : Nat} (h : fastKey m d = some k) : keyDpa m k = d := by
  unfold fastKey at h
  split at h
  · rename_i hin
    obtain rfl := Option.some.inj h
    exact keyDpa_interleavedKey hspan (of_decide_eq_true hin)
  · obtain ⟨⟨st, o⟩, hv, rfl⟩ := Option.map_eq_some_iff.1 h
    exact keyDpa_stackView hv

theorem keyDpa_backedKey {s : State} (hspan : s.mem.span ≤ 56) {d k : Nat} (h : backedKey s d = some k) : keyDpa s.mem k = d := by
  unfold backedKey at h
  split at h
  · rename_i hk
    split at h
    · exact keyDpa_fastKey hspan (hk.trans h)
    · simp at h
  · simp at h

/-! ### What is backed -/

/-- The span of the views and what of the fast tier is in service are as before. -/
structure SameBacking (s u : State) : Prop where
  span : u.mem.span = s.mem.span
  retired : u.mem.retired = s.mem.retired
  service : u.service = s.service

theorem SameBacking.backedKey {s u : State} (h : SameBacking s u) (d : Nat) : backedKey u d = backedKey s d := by
  unfold Machine.backedKey fastKey keyBacked inInterleaved stackView
  rw [h.span, h.retired, h.service]

theorem SameBacking.pageBacked {s u : State} (h : SameBacking s u) (p : Nat) : pageBacked u p = pageBacked s p := by
  unfold Machine.pageBacked
  rw [h.backedKey, h.backedKey, h.service]

theorem SameBacking.pageEntry {s u : State} (h : SameBacking s u) (p : Nat) :
    pageEntry u p = if Machine.pageBacked s p then mgetD u.mem.pageOwner p 0 else 0 := by
  unfold Machine.pageEntry
  rw [h.pageBacked]

theorem sameBacking_redraw (s : State) : SameBacking s s.redraw := ⟨rfl, rfl, rfl⟩

theorem pageBacked_redraw (s : State) (p : Nat) : pageBacked s.redraw p = pageBacked s p := (sameBacking_redraw s).pageBacked p

theorem pageEntry_redraw (s : State) (p : Nat) : pageEntry s.redraw p = pageEntry s p := (sameBacking_redraw s).pageEntry p

theorem dpaBytes_one (s : State) (d : Nat) : dpaBytes s d 1 = [(backedKey s d).elim 0 (fastByte s)] := by
  simp only [dpaBytes, List.range_one, List.map_cons, List.map_nil, Nat.add_zero]
  cases backedKey s d <;> rfl

theorem SameBacking.dpaBytes {s u : State} (h : SameBacking s u) (hfast : u.mem.fast = s.mem.fast) (d : Nat) :
    dpaBytes u d 1 = dpaBytes s d 1 := by
  have hbyte : fastByte u = fastByte s := by
    funext k
    unfold fastByte
    rw [hfast]
  rw [dpaBytes_one, dpaBytes_one, h.backedKey, hbyte]

theorem dpaBytes_redraw (s : State) (d : Nat) : dpaBytes s.redraw d 1 = dpaBytes s d 1 := (sameBacking_redraw s).dpaBytes rfl d

/-! ### Bytes that are zeroed -/

theorem sameBacking_zeroFast (s : State) (p : Nat → Bool) : SameBacking s (s.zeroFast p) := ⟨rfl, rfl, rfl⟩

/-- Zeroing the bytes whose device address satisfies a test zeroes what is read there, and nothing else (R358). -/
theorem dpaBytes_zeroFast {s : State} (hspan : s.mem.span ≤ 56) (q : Nat → Bool) (d : Nat) :
    dpaBytes (s.zeroFast fun k => q (keyDpa s.mem k)) d 1 = if q d then [0] else dpaBytes s d 1 := by
  rw [dpaBytes_one, dpaBytes_one, (sameBacking_zeroFast ..).backedKey]
  cases hd : backedKey s d with
  | none => simp
  | some k =>
    simp only [Option.elim_some, fastByte_zeroFast, keyDpa_backedKey hspan hd]
    split <;> rfl

/-- The page of a device address is one of a list. -/
def onPages (m : MemState) (ps : List Nat) (d : Nat) : Bool := (pageOf m d).any ps.contains

theorem zeroPages_eq (s : State) (ps : List Nat) : s.zeroPages ps = s.zeroFast fun k => onPages s.mem ps (keyDpa s.mem k) := by
  unfold State.zeroPages
  congr 1
  funext k
  unfold onPages
  cases pageOf s.mem (keyDpa s.mem k) <;> rfl

theorem dpaBytes_zeroPages {s : State} (hspan : s.mem.span ≤ 56) (p d : Nat) :
    dpaBytes (s.zeroPages [p]) d 1 = if pageOf s.mem d = some p then [0] else dpaBytes s d 1 := by
  rw [zeroPages_eq, dpaBytes_zeroFast hspan]
  unfold onPages
  cases pageOf s.mem d <;> simp

theorem dpaBytes_zeroRange {s : State} (hspan : s.mem.span ≤ 56) (a n d : Nat) :
    dpaBytes (s.zeroRange a n) d 1 = if a ≤ d ∧ d < a + n then [0] else dpaBytes s d 1 := by
  exact (dpaBytes_zeroFast hspan (fun x => decide (a ≤ x) && decide (x < a + n)) d).trans (by simp)

end Sys2Proof.Machine
end

section
/-!
SUPPORT. What a tenant that is given a resource changes beside the resource: its `Shortfall`, and where it held none before, a
new clearing with its objects at their defaults and its tables dropped from the directory (R8, R192, R358).
-/

namespace Sys2Proof.Machine

/-- Nothing has changed but the tenants, the queue of attempts, ways that left the directory, the streams of the reads that
joined them, and the dictionary's own state. -/
def HandedOver (s u : State) : Prop :=
  (∃ x v m q d, u = { s with
      tiles := x, tenants := v, mem := { s.mem with dir := m }, globals := { s.globals with openQueue := q }, dict := d }) ∧
    ∀ k, mget s.mem.dir k = none → mget u.mem.dir k = none

theorem HandedOver.refl (s : State) : HandedOver s s := ⟨⟨_, _, _, _, _, rfl⟩, fun _ h => h⟩

theorem HandedOver.trans {s t u : State} (h : HandedOver s t) (h' : HandedOver t u) : HandedOver s u := by
  obtain ⟨⟨x, v, m, q, d, rfl⟩, hd⟩ := h
  obtain ⟨⟨x', v', m', q', d', rfl⟩, hd'⟩ := h'
  exact ⟨⟨x', v', m', q', d', rfl⟩, fun k hk => hd' k (hd k hk)⟩

theorem handedOver_tenants (s : State) (v : SMap Tenant) : HandedOver s { s with tenants := v } := ⟨⟨_, v, _, _, _, rfl⟩, fun _ h => h⟩

theorem OnlyDict.handedOver {s u : State} (h : OnlyDict s u) : HandedOver s u := by
  obtain ⟨d, rfl⟩ := h
  exact ⟨⟨_, _, _, _, d, rfl⟩, fun _ h => h⟩

theorem mget_dropWay (s : State) (key k : Nat) : mget (s.dropWay key).mem.dir k = if k = key then none else mget s.mem.dir k := by
  obtain ⟨x, h⟩ := dropWay_spec s key
  rw [h]
  exact mget_merase ..

/-- The tables of a tenant that are dropped leave the directory, and nothing else but streams changes. -/
theorem dropTables_spec (s : State) (t : Nat) (p : Nat → Bool) :
    (∃ m x, s.dropTables t p = { s with mem := { s.mem with dir := m }, tiles := x }) ∧
      (∀ k, mget s.mem.dir k = none → mget (s.dropTables t p).mem.dir k = none) ∧
      ∀ k w, mget s.mem.dir k = some w → w.tenant = t → p w.table = true → mget (s.dropTables t p).mem.dir k = none := by
  have hkeeps : ∀ (k : Nat) (u : State) (e : Nat × Way), mget u.mem.dir k = none → mget (u.dropWay e.1).mem.dir k = none := by
    intro k u e h
    rw [mget_dropWay, h, ite_self]
  refine ⟨?_, fun k hk => foldl_keeps (P := fun u : State => mget u.mem.dir k = none) _ (hkeeps k) _ s hk, fun k w hk ht hp => ?_⟩
  · refine foldl_keeps (P := fun u => ∃ m x, u = { s with mem := { s.mem with dir := m }, tiles := x }) _ ?_ _ s ⟨_, _, rfl⟩
    rintro _ e ⟨m, x, rfl⟩
    obtain ⟨y, hy⟩ := dropWay_spec { s with mem := { s.mem with dir := m }, tiles := x } e.1
    exact ⟨_, _, hy⟩
  · have hmem : (k, w) ∈ s.mem.dir.filter fun e : Nat × Way => e.2.tenant = t && p e.2.table :=
      List.mem_filter.2 ⟨mem_of_mget hk, by simp [ht, hp]⟩
    refine foldl_reaches_mem (P := fun u : State => mget u.mem.dir k = none) _ hmem (fun u => ?_) (fun u e _ => hkeeps k u e) s
    rw [mget_dropWay, if_pos rfl]

theorem enterClearing_handedOver (s : State) (t : Nat) : HandedOver s (s.enterClearing t) := by
  unfold State.enterClearing
  extract_lets s1
  obtain ⟨⟨m, x, h⟩, hdir, -⟩ := dropTables_spec s1 t fun _ => true
  refine ⟨⟨x, s1.tenants, m, _, s1.dict, by rw [h]; rfl⟩, fun k hk => hdir k hk⟩

theorem newClearings_handedOver (s old : State) (ts : List Nat) : HandedOver s (s.newClearings old ts) := by
  refine foldl_keeps (P := HandedOver s) _ (fun u t hu => ?_) ts s (.refl s)
  split
  · exact hu.trans (enterClearing_handedOver u t)
  · exact hu

/-- The tenants given a resource lose a bit of `Shortfall`, and those that held none start a new clearing (R8, R358). -/
theorem given_handedOver (s old : State) (ts : List Nat) (mask : W32) :
    HandedOver s ((ts.foldl (fun s t => s.clearShortfall t mask) s).newClearings old ts) := by
  refine HandedOver.trans ?_ (newClearings_handedOver ..)
  exact foldl_keeps (P := HandedOver s) _ (fun u t hu => hu.trans (handedOver_tenants u _)) ts s (.refl s)

theorem HandedOver.sameBacking {s u : State} (h : HandedOver s u) : SameBacking s u := by
  obtain ⟨⟨x, v, m, q, d, rfl⟩, -⟩ := h
  exact ⟨rfl, rfl, rfl⟩

/-- Of the memory system only the directory changes. -/
theorem HandedOver.mem {s u : State} (h : HandedOver s u) : ∃ m, u.mem = { s.mem with dir := m } := by
  obtain ⟨⟨x, v, m, q, d, rfl⟩, -⟩ := h
  exact ⟨m, rfl⟩

theorem HandedOver.pageEntry {s u : State} (h : HandedOver s u) (p : Nat) : Machine.pageEntry u p = Machine.pageEntry s p := by
  obtain ⟨m, hm⟩ := h.mem
  rw [h.sameBacking.pageEntry, hm, Machine.pageEntry]

theorem HandedOver.dpaBytes {s u : State} (h : HandedOver s u) (d : Nat) : dpaBytes u d 1 = dpaBytes s d 1 := by
  obtain ⟨m, hm⟩ := h.mem
  exact h.sameBacking.dpaBytes (by rw [hm]) d

theorem HandedOver.wayAt {s u : State} (h : HandedOver s u) {k : Nat} (hk : mget s.mem.dir k = none) : wayAt u k = noWay := by
  rw [Machine.wayAt, h.2 k hk, Option.getD_none]

end Sys2Proof.Machine
end

section
/-!
PROOF. O47: what one entry of each map leaves (R91, R92, R145, R192, R203, R204, R354, R358; logs 47, 48, 49, 117).
-/

namespace Sys2Proof.Machine

/-! ### The tenants an entry names (R203, R354) -/

theorem mem_of_mem_distinct {l : List Nat} {x : Nat} (h : x ∈ distinct l) : x ∈ l := by
  refine List.foldlRecOn (motive := fun a => x ∈ a → x ∈ l) l _ (fun h => by simp at h) (fun a ih y hy hx => ?_) h
  split at hx
  · exact ih hx
  · obtain hx | hx := List.mem_append.1 hx
    · exact ih hx
    · exact List.mem_singleton.1 hx ▸ hy

/-- Every tenant that an entry named, or would name, is quiesced (R355). -/
def OwnersQuiet (s : State) (own : Nat → Option Nat) (before after : Nat) : Prop :=
  ∀ x, own before = some x ∨ own after = some x → tenantQuiesced s x = true

theorem ownersQuiet_redraw (s : State) (own : Nat → Option Nat) (before after : Nat) :
    OwnersQuiet s.redraw own before after ↔ OwnersQuiet s own before after := Iff.rfl

theorem ownersOf_busy_iff (s : State) (own : Nat → Option Nat) (old : Nat → Nat) (i v : Nat) :
    ((ownersOf own old [(i, v)]).any fun t => !tenantQuiesced s t) = true ↔ ¬OwnersQuiet s own (old i) v := by
  have hmem : ∀ x, x ∈ ownersOf own old [(i, v)] ↔ own (old i) = some x ∨ own v = some x := fun x => by
    have hflat : x ∈ [(i, v)].flatMap (fun e => (own (old e.1)).toList ++ (own e.2).toList) ↔
        own (old i) = some x ∨ own v = some x := by simp
    exact ⟨fun h => hflat.1 (mem_of_mem_distinct h), fun h => mem_distinct (hflat.2 h)⟩
  simp [OwnersQuiet, List.any_eq_true, hmem]

/-- The one entry of a range counts as changed where its value does. -/
theorem filter_changed {old : Nat → Nat} {i v : Nat} (h : old i ≠ v) : [(i, v)].filter (fun e => old e.1 ≠ e.2) = [(i, v)] :=
  List.filter_cons_of_pos (decide_eq_true h)

/-! ### A page (R354, R358) -/

/-- The entry of a page as it may be written (R7, R354). -/
def PageEntryOk (s : State) (p : Nat) (e : BitVec 16) : Prop :=
  bits e.toNat 13 10 = 0 ∧ (bit e.toNat 15 = true → pageBacked s p = true ∧ reservedPage s p = false)

theorem pageEntryOk_redraw (s : State) (p : Nat) (e : BitVec 16) : PageEntryOk s.redraw p e ↔ PageEntryOk s p e := by
  unfold PageEntryOk
  rw [pageBacked_redraw]
  rfl

theorem pageEntryBad_iff (s : State) (p : Nat) (e : BitVec 16) :
    (decide (bits e.toNat 13 10 ≠ 0) || bit e.toNat 15 && (!pageBacked s p || reservedPage s p)) = true ↔ ¬PageEntryOk s p e := by
  unfold PageEntryOk
  cases bit e.toNat 15 <;> cases pageBacked s p <;> cases reservedPage s p <;> simp

/-- The page's entry is written. -/
def pageAssigned (s : State) (p : Nat) (e : BitVec 16) : State := s.updMem fun m => { m with pageOwner := mput 0 m.pageOwner p e }

/-- The page's entry is written and the page is zeroed. -/
def pageGiven (s : State) (p : Nat) (e : BitVec 16) : State := (pageAssigned s p e).zeroPages [p]

/-- A changed entry of the page map is checked for its tenants first, then for its own rules; then its page is given. -/
theorem writePages_entry {s : State} {p : Nat} {e : BitVec 16} (hne : (pageEntry s p).toNat ≠ e.toNat) :
    (¬OwnersQuiet s pageTenant (pageEntry s p).toNat e.toNat ∨ ¬PageEntryOk s p e → (writePages s [(p, e.toNat)]).Declined) ∧
      (OwnersQuiet s pageTenant (pageEntry s p).toNat e.toNat → PageEntryOk s p e →
        ∃ u, writePages s [(p, e.toNat)] = .ok u ∧ HandedOver (pageGiven s p e) u) := by
  have hch : [(p, e.toNat)].filter (fun e => (pageEntry s e.1).toNat ≠ e.2) = [(p, e.toNat)] :=
    filter_changed (old := fun p => (pageEntry s p).toNat) hne
  have hbusy := ownersOf_busy_iff s pageTenant (fun p => (pageEntry s p).toNat) p e.toNat
  have hbad := pageEntryBad_iff s p e
  unfold writePages
  dsimp only
  rw [hch]
  simp only [List.any_cons, List.any_nil, Bool.or_false, List.foldl_cons, List.foldl_nil, BitVec.ofNat_toNat, BitVec.setWidth_eq]
  refine ⟨fun h => ?_, fun hquiet hok => ?_⟩
  · split
    · exact .inr (.inl rfl)
    · rename_i hquiet
      rw [if_pos (hbad.2 (h.resolve_left fun hn => hquiet (hbusy.2 hn)))]
      exact .inl rfl
  · rw [if_neg (fun h => hbusy.1 h hquiet), if_neg (fun h => hbad.1 h hok)]
    exact ⟨_, rfl, given_handedOver (pageGiven s p e) ..⟩

/-- What a page that is given leaves: its own entry, and zero at its addresses (R354, R358). -/
theorem pageGiven_spec {s : State} (hspan : s.mem.span ≤ 56) (p : Nat) (e : BitVec 16) :
    pageEntry (pageGiven s p e) p = (if pageBacked s p then e else 0) ∧
      (∀ j, j ≠ p → pageEntry (pageGiven s p e) j = pageEntry s j) ∧
      ∀ d, dpaBytes (pageGiven s p e) d 1 = if pageOf s.mem d = some p then [0] else dpaBytes s d 1 := by
  have hback : SameBacking s (pageGiven s p e) := ⟨rfl, rfl, rfl⟩
  have hassigned : SameBacking s (pageAssigned s p e) := ⟨rfl, rfl, rfl⟩
  have howner : (pageGiven s p e).mem.pageOwner = mput 0 s.mem.pageOwner p e := rfl
  refine ⟨?_, fun j hj => ?_, fun d => ?_⟩
  · rw [hback.pageEntry, howner, mgetD_mput_self]
  · rw [hback.pageEntry, howner, mgetD_mput_ne _ _ _ hj, pageEntry]
  · rw [pageGiven, dpaBytes_zeroPages (s := pageAssigned s p e) hspan, hassigned.dpaBytes rfl]
    rfl

/-! ### A set group (R203, R204, R358) -/

/-- The entry of a set group as it may be written (R7, R203, R358). -/
def GroupEntryOk (s : State) (g : Nat) (e : W64) : Prop :=
  groupsBad s (mput 0 s.mem.setGroups g e) = false ∧ (bit e.toNat 63 = true → g ∉ s.mem.groupsOut)

theorem groupEntryOk_redraw (s : State) (g : Nat) (e : W64) : GroupEntryOk s.redraw g e ↔ GroupEntryOk s g e := by
  unfold GroupEntryOk groupsBad areaBad
  simp only [State.redraw_mem, pageEntry_redraw]

/-- The group is emptied, its entry is written, and its area is zeroed where it has one. -/
def groupGiven (s : State) (g : Nat) (e : W64) : State :=
  let u := (s.dropGroup g).updMem fun x => { x with setGroups := mput 0 s.mem.setGroups g e }
  if bit e.toNat 63 then u.zeroRange (groupArea e.toNat) (4096 * groupSlot e.toNat) else u

/-- A changed entry of the set-group map is checked for its tenants first, then for the rules of the whole map and for a group out
of service; then its group is given. -/
theorem writeGroups_entry {s : State} {g : Nat} {e : W64} (hne : (mgetD s.mem.setGroups g 0).toNat ≠ e.toNat) :
    (¬OwnersQuiet s groupTenant (mgetD s.mem.setGroups g 0).toNat e.toNat ∨ ¬GroupEntryOk s g e →
        (writeGroups s [(g, e.toNat)]).Declined) ∧
      (OwnersQuiet s groupTenant (mgetD s.mem.setGroups g 0).toNat e.toNat → GroupEntryOk s g e →
        ∃ u, writeGroups s [(g, e.toNat)] = .ok u ∧ HandedOver (groupGiven s g e) u) := by
  have hch : [(g, e.toNat)].filter (fun e => (mgetD s.mem.setGroups e.1 0).toNat ≠ e.2) = [(g, e.toNat)] :=
    filter_changed (old := fun i => (mgetD s.mem.setGroups i 0).toNat) hne
  have hbusy := ownersOf_busy_iff s groupTenant (fun g => (mgetD s.mem.setGroups g 0).toNat) g e.toNat
  unfold writeGroups
  dsimp only
  rw [hch]
  simp only [List.any_cons, List.any_nil, Bool.or_false, List.foldl_cons, List.foldl_nil, BitVec.ofNat_toNat, BitVec.setWidth_eq]
  refine ⟨fun h => ?_, fun hquiet hok => ?_⟩
  · split
    · exact .inr (.inl rfl)
    · rename_i hquiet
      have hbad := h.resolve_left fun hn => hquiet (hbusy.2 hn)
      split
      · exact .inl rfl
      · rename_i hmap
        rw [if_pos]
        · exact .inr (.inr rfl)
        · have hout : ¬(bit e.toNat 63 = true → g ∉ s.mem.groupsOut) := fun h => hbad ⟨Bool.not_eq_true _ ▸ hmap, h⟩
          simpa using hout
  · obtain ⟨hmap, hin⟩ := hok
    rw [if_neg (fun h => hbusy.1 h hquiet), if_neg (by rw [hmap]; decide), if_neg (by simpa using hin)]
    exact ⟨_, rfl, given_handedOver (groupGiven s g e) ..⟩

/-- What a group that is given leaves: its entry, no way of it in the directory, and zero in its area (R203, R204). -/
theorem groupGiven_spec {s : State} (hspan : s.mem.span ≤ 56) (g : Nat) (e : W64) :
    (groupGiven s g e).mem.setGroups = mput 0 s.mem.setGroups g e ∧ (groupGiven s g e).mem.slow = s.mem.slow ∧
      (∀ k, k / 4096 = g → mget (groupGiven s g e).mem.dir k = none) ∧
      ∀ a, bit e.toNat 63 = true → groupArea e.toNat ≤ a → a < groupArea e.toNat + 4096 * groupSlot e.toNat →
        dpaBytes (groupGiven s g e) a 1 = [0] := by
  obtain ⟨m, x, hdrop, hnone⟩ := dropGroup_spec s g
  unfold groupGiven
  rw [hdrop]
  dsimp only
  cases bit e.toNat 63 with
  | false => exact ⟨rfl, rfl, hnone, fun _ h => absurd h Bool.false_ne_true⟩
  | true => exact ⟨rfl, rfl, hnone, fun a _ hlo hhi => (dpaBytes_zeroRange hspan ..).trans (if_pos ⟨hlo, hhi⟩)⟩

/-! ### A tile's personality (R91, R92) -/

/-- The tile takes its personality and reloads. -/
def tileReloaded (s : State) (l : Nat) (v : Byte) : State :=
  (s.setTile l { tileAt s l with reloading := true }).updGlobals fun g => { g with personality := mput 0 g.personality l v }

theorem writePersonality_entry {s : State} {l : Nat} {v : Byte} (hne : (mgetD s.globals.personality l 0).toNat ≠ v.toNat) :
    ((tileAt s l).blocks ≠ [] ∨ 1 < v.toNat ∨ microcodeJob s = true → (writePersonality s [(l, v.toNat)]).Declined) ∧
      ((tileAt s l).blocks = [] → v.toNat ≤ 1 → microcodeJob s = false →
        writePersonality s [(l, v.toNat)] = .ok (tileReloaded s l v)) := by
  have hch : [(l, v.toNat)].filter (fun e => (mgetD s.globals.personality e.1 0).toNat ≠ e.2) = [(l, v.toNat)] :=
    filter_changed (old := fun i => (mgetD s.globals.personality i 0).toNat) hne
  unfold writePersonality
  dsimp only
  rw [hch]
  simp only [List.any_cons, List.any_nil, Bool.or_false, List.foldl_cons, List.foldl_nil, BitVec.ofNat_toNat, BitVec.setWidth_eq]
  refine ⟨fun h => ?_, fun hidle hv hjob => ?_⟩
  · split
    · exact .inr (.inl rfl)
    · rename_i hidle
      rw [if_pos]
      · exact .inl rfl
      · simpa using h.resolve_left fun hb => hidle (by simpa using hb)
  · rw [if_neg (by simp [hidle]), if_neg (by simp [hjob, hv])]
    rfl

/-! ### A table's descriptor (R191, R192) -/

/-- The tenant's descriptors with one of them written. -/
def tablesAfter (s : State) (t n : Nat) (d : List Byte) : SMap (List Byte) := mput (List.replicate 32 0) (tenantAt s t).tables n d

/-- A descriptor breaks a rule of R7 or R192. -/
def tablesBad (s : State) (t : Nat) (m : SMap (List Byte)) : Bool :=
  m.any fun e : Nat × List Byte => tableReserved e.2 || (tRows e.2 ≠ 0 && tableBad s t e.2)

/-- The directory and the statistics forget the table, and its descriptor is written. -/
def tableGiven (s : State) (t n : Nat) (d : List Byte) : State :=
  (s.dropTables t fun T => [n].contains T).updTenant t fun x =>
    { x with tables := tablesAfter s t n d, stats := x.stats.filter fun e : Nat × List Nat => !([n].contains e.1) }

theorem writeTables_entry {s : State} {t n : Nat} {d : List Byte} (hd : d.length = 32) (hne : d ≠ (tableDesc s t n).take 32) :
    writeTables s t [(n, leNat d)] = if tablesBad s t (tablesAfter s t n d) then .refused else .ok (tableGiven s t n d) := by
  have hbytes : leBytes 32 (leNat d) = d := hd ▸ leBytes_leNat d
  have hch : [(n, leNat d)].filter (fun e => leBytes 32 e.2 ≠ (tableDesc s t e.1).take 32) = [(n, leNat d)] := by simp [hbytes, hne]
  unfold writeTables
  dsimp only
  rw [hch]
  simp only [List.foldl_cons, List.foldl_nil, hbytes]
  rfl

theorem tableGiven_spec (s : State) (t n : Nat) (d : List Byte) :
    tableDesc (tableGiven s t n d) t n = d ∧ (∀ k, k ≠ n → tableDesc (tableGiven s t n d) t k = tableDesc s t k) ∧
      (∀ k, (wayAt s k).tenant = t → (wayAt s k).table = n → wayAt (tableGiven s t n d) k = noWay) ∧
      (tableGiven s t n d).mem.fast = s.mem.fast := by
  obtain ⟨⟨m, x, hdrop⟩, hkeeps, hdrops⟩ := dropTables_spec s t fun T => [n].contains T
  have hdesc : ∀ k, tableDesc (tableGiven s t n d) t k = mgetD (tablesAfter s t n d) k (List.replicate 32 0) := fun k => by
    rw [tableDesc, tableGiven, tenantAt_updTenant_self, mgetD]
  refine ⟨?_, fun k hk => ?_, fun k ht hn => ?_, ?_⟩
  · rw [hdesc, tablesAfter, mgetD_mput_self]
  · rw [hdesc, tablesAfter, mgetD_mput_ne _ _ _ hk]
    rfl
  · have hnone : mget (s.dropTables t fun T => [n].contains T).mem.dir k = none := by
      cases hw : mget s.mem.dir k with
      | none => exact hkeeps k hw
      | some w =>
        rw [wayAt, hw] at ht hn
        exact hdrops k w hw ht (by simpa using hn)
    rw [wayAt, tableGiven, State.updTenant_mem, hnone]
    rfl
  · rw [tableGiven, State.updTenant_mem, hdrop]

/-! ### An entry of a tenant's watch setup (R145) -/

theorem writeSetup_bad {s : State} {t i : Nat} {v : W64} (hne : (mgetD (tenantAt s t).watch.setup i 0).toNat ≠ v.toNat)
    (hbad : setupBad v.toNat = true) : writeSetup s t [(i, v.toNat)] = .refused := by
  have hch : [(i, v.toNat)].filter (fun e => (mgetD (tenantAt s t).watch.setup e.1 0).toNat ≠ e.2) = [(i, v.toNat)] :=
    filter_changed (old := fun i => (mgetD (tenantAt s t).watch.setup i 0).toNat) hne
  unfold writeSetup
  dsimp only
  rw [hch]
  simp [hbad]

/-- A record without control that is built in an entry that holds no history. -/
theorem writeSetup_builds {s : State} {t i : Nat} {v : W64} (hne : (mgetD (tenantAt s t).watch.setup i 0).toNat ≠ v.toNat)
    (hbad : setupBad v.toNat = false) (hfree : historyOwner (tenantAt s t).watch i = none) (hplain : bit v.toNat 39 = false)
    (hvalid : bits v.toNat 3 0 = 1) :
    ∃ w, writeSetup s t [(i, v.toNat)] = .ok (s.updWatch t fun _ => w) ∧ mget w.entries i = some (.tensor (setupRecord s v.toNat 0)) ∧
      mgetD w.setup i 0 = v := by
  have hch : [(i, v.toNat)].filter (fun e => (mgetD (tenantAt s t).watch.setup e.1 0).toNat ≠ e.2) = [(i, v.toNat)] :=
    filter_changed (old := fun i => (mgetD (tenantAt s t).watch.setup i 0).toNat) hne
  unfold writeSetup
  dsimp only
  rw [hch]
  simp only [List.any_cons, List.any_nil, hbad, hfree, List.foldl_cons, List.foldl_nil, hvalid, if_true, Option.bind_some, buildRecord,
    hplain, Bool.not_false, BitVec.ofNat_toNat, BitVec.setWidth_eq]
  exact ⟨_, rfl, mget_mset_self .., mgetD_mput_self ..⟩

/-! ### The rows (R336) -/

section
variable {s : State} {path : Path} {role : Nat} {own : Option Nat} (hs : Served s path role own) (tag : BitVec 16)
include hs

theorem exec_pageOwnerMapWrite (hr : role = 3 ∨ role = 5) {p : Nat} (hp : p < 1146880) (e : BitVec 16) :
    exec (.pageOwnerMapWrite path tag (2 * p) (leBytes 2 e.toNat)) s =
      .next (s.redraw.finishWrite path (rangeMsg tag none 0x6400 1 (2 * p) (leBytes 2 e.toNat)) (writePages s.redraw [(p, e.toNat)])) := by
  have hw : mayWrite .op role = true := by simpa [mayWrite] using hr
  have hd : WritableDomain s role own none 0x6400 1 2293760 2 :=
    ⟨by decide, by decide, by decide, .inl rfl, rfl, ⟨opObj 0x0D 2293760 4, rfl, rfl, rfl, hw⟩, rfl, _, rfl⟩
  refine congrArg Host.Outcome.next ((rangeRow_entry hs hd tag (by decide) (length_leBytes ..) (by omega) (by omega)).trans ?_)
  rw [leNat_leBytes 2 _ e.isLt]
  rfl

theorem exec_setGroupMapWrite (hr : role = 3 ∨ role = 5) {g : Nat} (hg : g < 4096) (e : W64) :
    exec (.setGroupMapWrite path tag (8 * g) (leBytes 8 e.toNat)) s =
      .next (s.redraw.finishWrite path (rangeMsg tag none 0x4101 1 (8 * g) (leBytes 8 e.toNat)) (writeGroups s.redraw [(g, e.toNat)])) := by
  have hw : mayWrite .op role = true := by simpa [mayWrite] using hr
  have hd : WritableDomain s role own none 0x4101 1 32768 8 :=
    ⟨by decide, by decide, by decide, .inl rfl, rfl, ⟨opObj 0x0D 32768 4, rfl, rfl, rfl, hw⟩, rfl, _, rfl⟩
  refine congrArg Host.Outcome.next ((rangeRow_entry hs hd tag (by decide) (length_leBytes ..) (by omega) (by omega)).trans ?_)
  rw [leNat_leBytes 8 _ e.isLt]
  rfl

theorem exec_tilePersonalityWrite (hr : role = 3) {l : Nat} (hl : l < 1280) (v : Byte) :
    exec (.tilePersonalityWrite path tag l [v]) s =
      .next (s.redraw.finishWrite path (rangeMsg tag none 0x2200 1 l [v]) (writePersonality s.redraw [(l, v.toNat)])) := by
  have hd : WritableDomain s role own none 0x2200 1 1280 1 :=
    ⟨by decide, by decide, by decide, .inl rfl, rfl,
      ⟨{ opObj 0x0D 1280 4 with readers := .op, writers := .opOnly }, rfl, rfl, rfl, decide_eq_true hr⟩, rfl, _, rfl⟩
  have hrow := rangeRow_entry (i := l) (bs := [v]) hs hd tag (by decide) rfl (by omega) (by omega)
  rw [Nat.one_mul] at hrow
  exact congrArg Host.Outcome.next hrow

/-- The personality of a tile is the Operator's alone to write: the Service role is not permitted (R91, R328). -/
theorem exec_tilePersonalityWrite_denied (hr : role = 5) {l : Nat} (hl : l < 1280) (v : Byte) :
    exec (.tilePersonalityWrite path tag l [v]) s = .next (s.redraw.reply path (rangeMsg tag none 0x2200 1 l [v]) 3) := by
  subst hr
  have hcheck : checkRequest 5 own { rangeMsg tag none 0x2200 1 l [v] with offset := 0 } = 3 := by cases own <;> rfl
  refine congrArg Host.Outcome.next ((rangeRow_checked hs (by decide) (by omega)).trans ?_)
  rw [hcheck]
  rfl

end

section
variable {s : State} {path : Path} {t : Nat} (hs : Served s path 2 (some t)) (ht : t < 1024) (hq : tenantQuiesced s t = true)
  (tag : BitVec 16)
include hs ht hq

theorem exec_tableDescriptorsWrite {n : Nat} (hn : n < 256) {d : List Byte} (hd : d.length = 32) :
    exec (.tableDescriptorsWrite path tag t (32 * n) d) s =
      .next (s.redraw.finishWrite path (rangeMsg tag (some t) 0xC401 1 (32 * n) d) (writeTables s.redraw t [(n, leNat d)])) := by
  have hw : WritableDomain s 2 (some t) (some t) 0xC401 1 8192 32 :=
    ⟨by decide, by decide, ht, .inr rfl, rfl, ⟨ownObj 0x0D 8192 4, rfl, rfl, rfl, rfl⟩, hq, _, rfl⟩
  exact congrArg Host.Outcome.next (rangeRow_entry hs hw tag (by decide) hd (by omega) (by omega))

theorem exec_watchSetupWrite {i : Nat} (hi : i < 65536) (hquota : i < (tenantAt s t).watch.quota) (v : W64) :
    exec (.watchSetupWrite path tag t (8 * i) (leBytes 8 v.toNat)) s =
      .next (s.redraw.finishWrite path (rangeMsg tag (some t) 0xC202 1 (8 * i) (leBytes 8 v.toNat))
        (writeSetup s.redraw t [(i, v.toNat)])) := by
  have hw : WritableDomain s 2 (some t) (some t) 0xC202 1 (8 * (tenantAt s t).watch.quota) 8 :=
    ⟨by decide, by decide, ht, .inr rfl, rfl, ⟨ownObj 0x0D 0 4, rfl, rfl, rfl, rfl⟩, hq, _, rfl⟩
  refine congrArg Host.Outcome.next ((rangeRow_entry hs hw tag (by decide) (length_leBytes ..) (by omega) (by omega)).trans ?_)
  rw [leNat_leBytes 8 _ v.isLt]
  rfl

end

/-! ### The obligation -/

section
variable {s : State} {x : Instr} {path : Path} {m : DictMsg} {w : Written} (hx : exec x s = .next (s.redraw.finishWrite path m w))
include hx

theorem exec_declined (h : w.Declined) : ∃ d, exec x s = .next { s.redraw with dict := d } := by
  obtain ⟨d, hd⟩ := finishWrite_declined h s.redraw path m
  exact ⟨d, hx.trans (congrArg _ hd)⟩

theorem exec_ok {u : State} (h : w = .ok u) : ∃ d, exec x s = .next { u with dict := d } := by
  subst h
  obtain ⟨d, hd⟩ := finishWrite_ok s.redraw u path m
  exact ⟨d, hx.trans (congrArg _ hd)⟩

end

section
variable {s : State} {path : Path} {role : Nat} {own : Option Nat} (hs : Served s path role own) (tag : BitVec 16)
include hs

/-- One entry of the page map (R354, R358). -/
theorem pageOwnerMapWrite_entry (hr : role = 3 ∨ role = 5) (hspan : s.mem.span ≤ 56) {p : Nat} {e : BitVec 16} (hp : p < 1146880)
    (hne : (pageEntry s p).toNat ≠ e.toNat) :
    (¬OwnersQuiet s pageTenant (pageEntry s p).toNat e.toNat ∨ ¬PageEntryOk s p e →
      ∃ u, exec (.pageOwnerMapWrite path tag (2 * p) (leBytes 2 e.toNat)) s = .next u ∧ u.mem = s.mem ∧ u.tenants = s.tenants) ∧
    (OwnersQuiet s pageTenant (pageEntry s p).toNat e.toNat → PageEntryOk s p e →
      ∃ u, exec (.pageOwnerMapWrite path tag (2 * p) (leBytes 2 e.toNat)) s = .next u ∧
        pageEntry u p = (if pageBacked s p then e else 0) ∧ (∀ j, j ≠ p → pageEntry u j = pageEntry s j) ∧
        (∀ d, pageOf s.mem d = some p → dpaBytes u d 1 = [0]) ∧
        (∀ d, pageOf s.mem d ≠ some p → dpaBytes u d 1 = dpaBytes s d 1) ∧
        u.mem.slow = s.mem.slow) := by
  have hx := exec_pageOwnerMapWrite hs tag hr hp e
  have hwrite := writePages_entry (s := s.redraw) (p := p) (e := e) (by rwa [pageEntry_redraw])
  simp only [pageEntry_redraw, ownersQuiet_redraw, pageEntryOk_redraw] at hwrite
  obtain ⟨hdeclined, hgives⟩ := hwrite
  refine ⟨fun h => ?_, fun hquiet hok => ?_⟩
  · obtain ⟨d, hu⟩ := exec_declined hx (hdeclined h)
    exact ⟨_, hu, rfl, rfl⟩
  · obtain ⟨v, hv, hgiven⟩ := hgives hquiet hok
    obtain ⟨d, hu⟩ := exec_ok hx hv
    have hover := hgiven.trans (OnlyDict.handedOver ⟨d, rfl⟩)
    obtain ⟨hentry, hothers, hbytes⟩ := pageGiven_spec (s := s.redraw) hspan p e
    obtain ⟨m, hm⟩ := hover.mem
    refine ⟨_, hu, ?_, fun j hj => ?_, fun a ha => ?_, fun a ha => ?_, ?_⟩
    · rw [hover.pageEntry, hentry, pageBacked_redraw]
    · rw [hover.pageEntry, hothers j hj, pageEntry_redraw]
    · rw [hover.dpaBytes, hbytes, State.redraw_mem, if_pos ha]
    · rw [hover.dpaBytes, hbytes, State.redraw_mem, if_neg ha, dpaBytes_redraw]
    · rw [hm]
      rfl

/-- One entry of the set-group map (R203, R204). -/
theorem setGroupMapWrite_entry (hr : role = 3 ∨ role = 5) (hspan : s.mem.span ≤ 56) {g : Nat} {e : W64} (hg : g < 4096)
    (hne : mgetD s.mem.setGroups g 0 ≠ e) :
    (¬OwnersQuiet s groupTenant (mgetD s.mem.setGroups g 0).toNat e.toNat ∨ ¬GroupEntryOk s g e →
      ∃ u, exec (.setGroupMapWrite path tag (8 * g) (leBytes 8 e.toNat)) s = .next u ∧ u.mem = s.mem ∧ u.tenants = s.tenants) ∧
    (OwnersQuiet s groupTenant (mgetD s.mem.setGroups g 0).toNat e.toNat → GroupEntryOk s g e →
      ∃ u, exec (.setGroupMapWrite path tag (8 * g) (leBytes 8 e.toNat)) s = .next u ∧ u.mem.setGroups = mput 0 s.mem.setGroups g e ∧
        (∀ k, k / 4096 = g → wayAt u k = noWay) ∧
        (∀ a, bit e.toNat 63 = true → groupArea e.toNat ≤ a → a < groupArea e.toNat + 4096 * groupSlot e.toNat →
          dpaBytes u a 1 = [0]) ∧
        u.mem.slow = s.mem.slow) := by
  have hx := exec_setGroupMapWrite hs tag hr hg e
  have hwrite := writeGroups_entry (s := s.redraw) (g := g) (e := e) fun h => hne (BitVec.eq_of_toNat_eq h)
  simp only [State.redraw_mem, ownersQuiet_redraw, groupEntryOk_redraw] at hwrite
  obtain ⟨hdeclined, hgives⟩ := hwrite
  refine ⟨fun h => ?_, fun hquiet hok => ?_⟩
  · obtain ⟨d, hu⟩ := exec_declined hx (hdeclined h)
    exact ⟨_, hu, rfl, rfl⟩
  · obtain ⟨v, hv, hgiven⟩ := hgives hquiet hok
    obtain ⟨d, hu⟩ := exec_ok hx hv
    have hover := hgiven.trans (OnlyDict.handedOver ⟨d, rfl⟩)
    obtain ⟨hentry, hslow, hempty, hzero⟩ := groupGiven_spec (s := s.redraw) hspan g e
    obtain ⟨m, hm⟩ := hover.mem
    refine ⟨_, hu, ?_, fun k hk => hover.wayAt (hempty k hk), fun a hvalid hlo hhi => ?_, ?_⟩
    · rw [hm]
      exact hentry
    · rw [hover.dpaBytes, hzero a hvalid hlo hhi]
    · rw [hm]
      exact hslow

/-- One entry of the personality map (R91, R92, R388). -/
theorem tilePersonalityWrite_entry (hr : role = 3 ∨ role = 5) {l : Nat} {v : Byte} (hl : l < 1280)
    (hne : mgetD s.globals.personality l 0 ≠ v) :
    ((tileAt s l).blocks ≠ [] ∨ 1 < v.toNat ∨ microcodeJob s = true →
      ∃ u, exec (.tilePersonalityWrite path tag l [v]) s = .next u ∧ u.tiles = s.tiles ∧
        u.globals.personality = s.globals.personality) ∧
    (role = 5 → ∃ u, exec (.tilePersonalityWrite path tag l [v]) s = .next u ∧ u.tiles = s.tiles ∧ u.globals = s.globals) ∧
    (role = 3 → (tileAt s l).blocks = [] → v.toNat ≤ 1 → microcodeJob s = false →
      ∃ u, exec (.tilePersonalityWrite path tag l [v]) s = .next u ∧ mgetD u.globals.personality l 0 = v ∧
        tileAt u l = { tileAt s l with reloading := true } ∧ u.mem = s.mem ∧ ∀ j, j ≠ l → tileAt u j = tileAt s j) := by
  obtain ⟨hdeclined, hgives⟩ := writePersonality_entry (s := s.redraw) (l := l) (v := v) fun h => hne (BitVec.eq_of_toNat_eq h)
  have hdenied : role = 5 → ∃ d, exec (.tilePersonalityWrite path tag l [v]) s = .next { s.redraw with dict := d } := fun h => by
    obtain ⟨d, hd⟩ := respond_onlyDict s.redraw path (response (rangeMsg tag none 0x2200 1 l [v]) 3 [])
    exact ⟨d, (exec_tilePersonalityWrite_denied hs tag h hl v).trans (congrArg _ hd)⟩
  refine ⟨fun h => ?_, fun h => ?_, fun h hidle hv hjob => ?_⟩
  · obtain h3 | h5 := hr
    · obtain ⟨d, hu⟩ := exec_declined (exec_tilePersonalityWrite hs tag h3 hl v) (hdeclined h)
      exact ⟨_, hu, rfl, rfl⟩
    · obtain ⟨d, hu⟩ := hdenied h5
      exact ⟨_, hu, rfl, rfl⟩
  · obtain ⟨d, hu⟩ := hdenied h
    exact ⟨_, hu, rfl, rfl⟩
  · obtain ⟨d, hu⟩ := exec_ok (exec_tilePersonalityWrite hs tag h hl v) (hgives hidle hv hjob)
    exact ⟨_, hu, mgetD_mput_self .., tileAt_setTile_self .., rfl, fun j hj => tileAt_setTile_ne _ _ hj⟩

end

section
variable {s : State} {path : Path} {t : Nat} (hs : Served s path 2 (some t)) (ht : t < 1024) (hq : tenantQuiesced s t = true)
  (tag : BitVec 16)
include hs ht hq

/-- One of a tenant's table descriptors (R191, R192). -/
theorem tableDescriptorsWrite_entry {n : Nat} {d : List Byte} (hn : n < 256) (hd : d.length = 32) (hne : d ≠ (tableDesc s t n).take 32) :
    (tablesBad s t (tablesAfter s t n d) = true →
      ∃ u, exec (.tableDescriptorsWrite path tag t (32 * n) d) s = .next u ∧ u.tenants = s.tenants ∧ u.mem = s.mem) ∧
    (tablesBad s t (tablesAfter s t n d) = false →
      ∃ u, exec (.tableDescriptorsWrite path tag t (32 * n) d) s = .next u ∧ tableDesc u t n = d ∧
        (∀ k, k ≠ n → tableDesc u t k = tableDesc s t k) ∧
        (∀ k, (wayAt s k).tenant = t → (wayAt s k).table = n → wayAt u k = noWay) ∧
        u.mem.fast = s.mem.fast) := by
  have hx := exec_tableDescriptorsWrite hs ht hq tag hn hd
  have hwrite := writeTables_entry (s := s.redraw) (t := t) (n := n) hd hne
  refine ⟨fun hbad => ?_, fun hgood => ?_⟩
  · obtain ⟨e, hu⟩ := exec_declined hx (.inl (hwrite.trans (if_pos hbad)))
    exact ⟨_, hu, rfl, rfl⟩
  · obtain ⟨e, hu⟩ := exec_ok hx (hwrite.trans (if_neg (Bool.eq_false_iff.1 hgood)))
    exact ⟨_, hu, tableGiven_spec s.redraw t n d⟩

/-- One entry of a tenant's watch setup (R145). -/
theorem watchSetupWrite_entry {i : Nat} {v : W64} (hi : i < 65536) (hquota : i < (tenantAt s t).watch.quota)
    (hne : mgetD (tenantAt s t).watch.setup i 0 ≠ v) :
    (setupBad v.toNat = true → ∃ u, exec (.watchSetupWrite path tag t (8 * i) (leBytes 8 v.toNat)) s = .next u ∧
      u.tenants = s.tenants ∧ u.mem = s.mem) ∧
    (setupBad v.toNat = false → (∀ o, historyOwner (tenantAt s t).watch i ≠ some o) → bit v.toNat 39 = false →
      bits v.toNat 3 0 = 1 →
      ∃ u, exec (.watchSetupWrite path tag t (8 * i) (leBytes 8 v.toNat)) s = .next u ∧ u.mem = s.mem ∧ u.tiles = s.tiles ∧
        mget (tenantAt u t).watch.entries i = some (.tensor (setupRecord s v.toNat 0)) ∧ mgetD (tenantAt u t).watch.setup i 0 = v) := by
  have hx := exec_watchSetupWrite hs ht hq tag hi hquota v
  have hchanged : (mgetD (tenantAt s.redraw t).watch.setup i 0).toNat ≠ v.toNat := fun h => hne (BitVec.eq_of_toNat_eq h)
  refine ⟨fun hbad => ?_, fun hgood hfree hplain hvalid => ?_⟩
  · obtain ⟨d, hu⟩ := exec_declined hx (.inl (writeSetup_bad hchanged hbad))
    exact ⟨_, hu, rfl, rfl⟩
  · obtain ⟨w, hw, hrecord, hsetup⟩ :=
      writeSetup_builds hchanged hgood (Option.eq_none_iff_forall_ne_some.2 hfree) hplain hvalid
    obtain ⟨d, hu⟩ := exec_ok hx hw
    have hwatch : (tenantAt { s.redraw.updWatch t fun _ => w with dict := d } t).watch = w :=
      congrArg Tenant.watch (tenantAt_updTenant_self s.redraw t fun x => { x with watch := w })
    refine ⟨_, hu, rfl, rfl, ?_, ?_⟩
    · rw [hwatch]
      exact hrecord
    · rw [hwatch]
      exact hsetup

end

/-- Settles O47, map by map. -/
theorem mapsGiveResourcesToClearings : Obligations.MapsGiveResourcesToClearings := by
  unfold Obligations.MapsGiveResourcesToClearings
  exact ⟨fun _ _ tag _ _ hs hr hspan =>
      ⟨fun _ _ hp hne => pageOwnerMapWrite_entry hs tag hr hspan hp hne,
        fun _ _ hg hne => setGroupMapWrite_entry hs tag hr hspan hg hne,
        fun _ _ hl hne => tilePersonalityWrite_entry hs tag hr hl hne⟩,
    fun _ _ tag _ hs ht hq =>
      ⟨fun _ _ hn hd hne => tableDescriptorsWrite_entry hs ht hq tag hn hd hne,
        fun _ _ hi hquota hne => watchSetupWrite_entry hs ht hq tag hi hquota hne⟩⟩

end Sys2Proof.Machine
end

section
/-!
SUPPORT. What a tenant's sets, their running parts and its sounding state read after an update of another of these, and after
a freeze.
-/

namespace Sys2Proof.Machine

variable (s : State) (t : Nat)

theorem setAt_updTenant {f : Tenant → Tenant} (u q : Nat) (hf : ∀ x, (f x).sets = x.sets) :
    setAt (s.updTenant t f) u q = setAt s u q := by
  rw [setAt, tenantAt_updTenant, setAt]
  split
  · subst_vars; rw [hf]
  · rfl

theorem runAt_updTenant {f : Tenant → Tenant} (u q : Nat) (hf : ∀ x, (f x).runs = x.runs) :
    runAt (s.updTenant t f) u q = runAt s u q := by
  rw [runAt, tenantAt_updTenant, runAt]
  split
  · subst_vars; rw [hf]
  · rfl

theorem watch_updTenant {f : Tenant → Tenant} (u : Nat) (hf : ∀ x, (f x).watch = x.watch) :
    (tenantAt (s.updTenant t f) u).watch = (tenantAt s u).watch := by
  rw [tenantAt_updTenant]
  split
  · subst_vars; rw [hf]
  · rfl

/-- A freeze changes of its tenant neither the sets, nor their running parts, nor the sounding state. -/
theorem freeze_updTenant (r : FreezeRec) : ∃ f l, s.freeze t r = { s.updTenant t f with log := l } ∧
    (∀ x, (f x).sets = x.sets) ∧ (∀ x, (f x).runs = x.runs) ∧ ∀ x, (f x).watch = x.watch := by
  obtain ⟨l, v, hf, hv⟩ := freeze_spec s t r
  exact ⟨fun x => { v with sets := x.sets, runs := x.runs, watch := x.watch }, l, by rw [hf, hv]; rfl, fun _ => rfl, fun _ => rfl, fun _ => rfl⟩

@[simp] theorem setAt_updRun (p : Nat) (f : SetRun → SetRun) (u q : Nat) : setAt (s.updRun t p f) u q = setAt s u q :=
  setAt_updTenant s t u q fun _ => rfl

@[simp] theorem setAt_updWatch (f : WatchState → WatchState) (u q : Nat) : setAt (s.updWatch t f) u q = setAt s u q :=
  setAt_updTenant s t u q fun _ => rfl

@[simp] theorem setAt_freeze (r : FreezeRec) (u q : Nat) : setAt (s.freeze t r) u q = setAt s u q := by
  obtain ⟨f, l, h, hf, -, -⟩ := freeze_updTenant s t r
  rw [h]
  exact setAt_updTenant s t u q hf

@[simp] theorem runAt_updSet (p : Nat) (f : SetState → SetState) (u q : Nat) : runAt (s.updSet t p f) u q = runAt s u q :=
  runAt_updTenant s t u q fun _ => rfl

@[simp] theorem runAt_freeze (r : FreezeRec) (u q : Nat) : runAt (s.freeze t r) u q = runAt s u q := by
  obtain ⟨f, l, h, -, hf, -⟩ := freeze_updTenant s t r
  rw [h]
  exact runAt_updTenant s t u q hf

@[simp] theorem watch_updSet (p : Nat) (f : SetState → SetState) (u : Nat) :
    (tenantAt (s.updSet t p f) u).watch = (tenantAt s u).watch := watch_updTenant s t u fun _ => rfl

@[simp] theorem watch_updRun (p : Nat) (f : SetRun → SetRun) (u : Nat) :
    (tenantAt (s.updRun t p f) u).watch = (tenantAt s u).watch := watch_updTenant s t u fun _ => rfl

@[simp] theorem watch_freeze (r : FreezeRec) (u : Nat) : (tenantAt (s.freeze t r) u).watch = (tenantAt s u).watch := by
  obtain ⟨f, l, h, -, -, hf⟩ := freeze_updTenant s t r
  rw [h]
  exact watch_updTenant s t u hf

@[simp] theorem runAt_updRun_self (p : Nat) (f : SetRun → SetRun) : runAt (s.updRun t p f) t p = f (runAt s t p) := by
  simp [runAt_updRun]

@[simp] theorem tenantAt_updWatch_self (f : WatchState → WatchState) :
    tenantAt (s.updWatch t f) t = { tenantAt s t with watch := f (tenantAt s t).watch } := tenantAt_updTenant_self s t _

/-! ### Tensor records -/

theorem tensorAt_congr {s u : State} {t : Nat} (h : (tenantAt u t).watch = (tenantAt s t).watch) (i : Nat) :
    tensorAt u t i = tensorAt s t i := by
  unfold tensorAt
  rw [h]

theorem tensorAt_setTensor (i j : Nat) (r : TensorRecord) :
    tensorAt (s.setTensor t i r) t j = if j = i then some r else tensorAt s t j := by
  simp only [tensorAt, State.setTensor, tenantAt_updWatch_self]
  by_cases h : j = i
  · rw [h, mget_mset_self, if_pos rfl]
  · rw [mget_mset_ne _ _ h, if_neg h]

end Sys2Proof.Machine
end

section
/-!
PROOF. O24: what the scale controller makes of a record with a running history at an attempt's end (R136).
-/

namespace Sys2Proof.Machine

theorem clampScale_mem (e : Int) : -128 ≤ clampScale e ∧ clampScale e ≤ 127 := by
  unfold clampScale
  omega

/-- The lowest exponent the controller may come to: one binade down where the attempt committed, none where it failed. -/
def scaleFloor (r : TensorRecord) (committed : Bool) : Int := if committed then r.scale - 1 else r.scale

theorem scaleFloor_mem (r : TensorRecord) (committed : Bool) :
    r.scale - 1 ≤ scaleFloor r committed ∧ scaleFloor r committed ≤ r.scale := by
  cases committed <;> simp [scaleFloor]

/-- A record with a running history counts the attempt, is marked, and keeps its exponent or takes one that is not below its
floor but by the clamp. -/
theorem endRecord_running {r : TensorRecord} (h : r.histState = 1) (hist : List W32) (committed poisoned : Bool) :
    ∃ e, (endRecord r hist committed poisoned).1 =
        { r with histCount := if committed then min (r.histCount + 1) r.histLen else r.histCount,
                 backedOff := decide (0 < r.satClosed) || decide (0 < r.nonfiniteClosed) || (poisoned && r.flags.getLsbD 2),
                 scale := e } ∧
      (e = r.scale ∨ ∃ k, scaleFloor r committed ≤ k ∧ e = clampScale k) := by
  unfold endRecord
  extract_lets dirty h1 r1 back h2 r2 peak
  have hr2 : r2 = { r with histCount := if committed then min (r.histCount + 1) r.histLen else r.histCount, backedOff := back } := by
    cases committed <;> rfl
  have hstate : ¬ r2.histState ≥ 2 := by rw [hr2, h]; decide
  have hscale : r2.scale = r.scale := by rw [hr2]
  rw [if_neg hstate]
  split
  · exact ⟨r.scale, hr2, .inl rfl⟩
  · refine ⟨_, by rw [hr2], .inr ⟨_, ?_, rfl⟩⟩
    cases committed with
    | false => exact hscale.ge.trans (le_max_right _ r2.scale)
    | true => exact (congrArg (· - 1) hscale).ge.trans (le_max_right _ (r2.scale - 1))

/-- Settles O24: the new exponent is the old one, or one at its floor or above, clamped. -/
theorem scaleControllerIsBounded : Obligations.ScaleControllerIsBounded := by
  unfold Obligations.ScaleControllerIsBounded
  intro r hist committed poisoned hstate hlow hhigh
  obtain ⟨e, ho, he⟩ := endRecord_running hstate hist committed poisoned
  obtain ⟨hdrop, hkeep⟩ := scaleFloor_mem r committed
  have hbounds : (-128 ≤ e ∧ e ≤ 127) ∧ scaleFloor r committed ≤ e := by
    rcases he with rfl | ⟨k, hk, rfl⟩
    · exact ⟨⟨hlow, hhigh⟩, hkeep⟩
    · refine ⟨clampScale_mem k, ?_⟩
      unfold clampScale
      omega
  obtain ⟨hmem, hfloor⟩ := hbounds
  rw [ho]
  refine ⟨hmem, fun hfail => ?_, hdrop.trans hfloor, ?_, rfl, rfl, hstate, rfl, rfl⟩
  · subst hfail
    exact hfloor
  · simp [or_assoc]

end Sys2Proof.Machine
end

section
/-!
PROOF. O23: the reports of copies, losses and poison messages (R129, R130, R132, R133, R135, R141, R142).
-/

namespace Sys2Proof.Machine

/-! ### A report reaches the watch unit -/

theorem reporting_some {s : State} {l tag op t : Nat} {st : Stream} (ho : ownerOf s l = some t) (hs : streamAt s l tag = some st)
    (hk : st.kind = .copy) (hp : st.phase = .reporting) (hop : cSound st.desc = op) : reporting s l tag op = some (t, st) := by
  simp [reporting, ho, hs, hk, hp, hop]

/-- The tag has retired, and of the tile's streams and of the memories nothing else has changed (R133). -/
def TagRetired (l tag : Nat) (s t : State) : Prop :=
  streamAt t l tag = none ∧ (∀ k, k ≠ tag → streamAt t l k = streamAt s l k) ∧ SameMemory s t

theorem tagRetired_retireTag {l tag : Nat} {s u : State} (hstreams : (tileAt u l).streams = (tileAt s l).streams)
    (hmem : SameMemory s u) : TagRetired l tag s (u.retireTag l tag) := by
  refine ⟨?_, fun k hk => ?_, hmem.trans (sameMemory_retireTag ..)⟩
  · rw [streamAt, streams_retireTag, if_pos rfl]
  · rw [streamAt, streams_retireTag, if_neg hk, hstreams, streamAt]

theorem tenantAt_retireTag (s : State) (l tag t : Nat) : tenantAt (s.retireTag l tag) t = tenantAt s t := rfl

theorem setAt_retireTag (s : State) (l tag t p : Nat) : setAt (s.retireTag l tag) t p = setAt s t p := rfl

theorem tensorAt_retireTag (s : State) (l tag t i : Nat) : tensorAt (s.retireTag l tag) t i = tensorAt s t i := rfl

/-- A change of the sounding state, then the retirement of the tag. -/
theorem tagRetired_updWatch (l tag : Nat) (s : State) (t : Nat) (f : WatchState → WatchState) :
    TagRetired l tag s ((s.updWatch t f).retireTag l tag) := tagRetired_retireTag rfl (.of_eq rfl rfl)

/-- A retirement wakes groups; what else a block holds is as it was. -/
theorem blocks_retireTag (s : State) (l tag k : Nat) :
    ∃ gs : Block → List Group, mget (tileAt (s.retireTag l tag) l).blocks k =
      (mget (tileAt s l).blocks k).map fun b => { b with groups := gs b } := by
  rw [State.retireTag, tileAt_setTile_self]
  exact ⟨_, mget_map_values _ _ _⟩

/-- Only the tenants differ. -/
def OnlyTenants (s u : State) : Prop := ∃ v, u = { s with tenants := v }

theorem OnlyTenants.refl {s : State} : OnlyTenants s s := ⟨_, rfl⟩

/-! ### Census reports (R130 to R132) -/

/-- Where a census has gone: to the tensor record that takes it, or to the unattributed census, which keeps no maximum. -/
def CensusTaken (s : State) (tenant i : Nat) (c : Census) (t : State) : Prop :=
  (∀ r, tensorAt s tenant i = some r → r.flags.getLsbD 0 = true →
    ∃ r', tensorAt t tenant i = some r' ∧ r'.elementsOpen = satAdd 32 r.elementsOpen c.elements ∧
      r'.zeroOpen = satAdd 32 r.zeroOpen c.zeros ∧ r'.satOpen = satAdd 32 r.satOpen c.sats ∧
      r'.nonfiniteOpen = satAdd 32 r.nonfiniteOpen c.nonfinite ∧
      r'.amaxOpen = maxMagnitude r.amaxOpen (maxMagnitude (representedMax c.amax r.scale)
        (BitVec.ofNat 32 (scaledMagnitude (.fin false c.exactM c.exactE) r.scale))) ∧ r'.scale = r.scale ∧
      (tenantAt t tenant).watch.unattributed = (tenantAt s tenant).watch.unattributed) ∧
  ((∀ r, tensorAt s tenant i = some r → r.flags.getLsbD 0 = false) →
    (tenantAt t tenant).watch.entries = (tenantAt s tenant).watch.entries ∧
    (tenantAt t tenant).watch.unattributed.elements = satAdd 32 (tenantAt s tenant).watch.unattributed.elements c.elements ∧
    (tenantAt t tenant).watch.unattributed.sats = satAdd 32 (tenantAt s tenant).watch.unattributed.sats c.sats ∧
    (tenantAt t tenant).watch.unattributed.amax = 0)

theorem CensusTaken.congr {s s' t t' : State} {tenant i : Nat} {c : Census} (h : CensusTaken s tenant i c t)
    (hs : (tenantAt s' tenant).watch = (tenantAt s tenant).watch) (ht : (tenantAt t' tenant).watch = (tenantAt t tenant).watch) :
    CensusTaken s' tenant i c t' := by
  unfold CensusTaken
  rw [tensorAt_congr hs, tensorAt_congr ht, hs, ht]
  exact h

theorem reportCensus_attributed {s : State} {t i : Nat} {r : TensorRecord} (hr : tensorAt s t i = some r)
    (h : r.flags.getLsbD 0 = true) (c : Census) : s.reportCensus t i c = s.setTensor t i (r.addCensus c) := by
  simp only [State.reportCensus, hr, h, if_true]

theorem reportCensus_unattributed {s : State} {t i : Nat} (h : ∀ r, tensorAt s t i = some r → r.flags.getLsbD 0 = false)
    (c : Census) : s.reportCensus t i c = s.unattribute t c := by
  unfold State.reportCensus
  split
  · next r hr => rw [h r hr, if_neg Bool.false_ne_true]
  · rfl

/-- A census report changes the sounding state of its tenant alone. -/
theorem reportCensus_updWatch (s : State) (t i : Nat) (c : Census) : ∃ f, s.reportCensus t i c = s.updWatch t f := by
  unfold State.reportCensus
  split
  · split
    · exact ⟨_, rfl⟩
    · exact ⟨_, rfl⟩
  · exact ⟨_, rfl⟩

theorem reportCensus_taken (s : State) (t i : Nat) (c : Census) : CensusTaken s t i c (s.reportCensus t i c) := by
  refine ⟨fun r hr hflag => ?_, fun hnone => ?_⟩
  · rw [reportCensus_attributed hr hflag]
    refine ⟨r.addCensus c, by rw [tensorAt_setTensor, if_pos rfl], rfl, rfl, rfl, rfl, rfl, rfl, ?_⟩
    rw [State.setTensor, tenantAt_updWatch_self]
  · rw [reportCensus_unattributed hnone, State.unattribute, tenantAt_updWatch_self]
    exact ⟨rfl, rfl, rfl, rfl⟩

/-! ### The accumulator of a block (R129) -/

theorem reportCensus_setTile (s : State) (l : Nat) (x : Tile) (t i : Nat) (c : Census) :
    (s.setTile l x).reportCensus t i c = (s.reportCensus t i c).setTile l x := by
  have hr : tensorAt (s.setTile l x) t i = tensorAt s t i := rfl
  unfold State.reportCensus
  rw [hr]
  split
  · split
    · rfl
    · rfl
  · rfl

theorem flushCensus_eq {s : State} {l slot : Nat} {b : Block} (hb : mget (tileAt s l).blocks slot = some b) (t i : Nat) :
    s.flushCensus l t slot i = (s.reportCensus t i b.census).setTile l
      { tileAt s l with blocks := mset (tileAt s l).blocks slot { b with census := {} } } := by
  simp only [State.flushCensus, hb, reportCensus_setTile]

/-- The state that a census report leaves differs in its tenants alone. -/
theorem reportCensus_onlyTenants (s : State) (t i : Nat) (c : Census) : OnlyTenants s (s.reportCensus t i c) := by
  obtain ⟨f, hf⟩ := reportCensus_updWatch s t i c
  exact ⟨_, hf⟩

/-- A flush reports the block's accumulator and clears it, and the tag retires; what was reported before (`u`) has changed
tenants alone. -/
theorem flushed {s u : State} (hu : OnlyTenants s u) {l slot : Nat} {b : Block} (hb : mget (tileAt s l).blocks slot = some b)
    (tag t i : Nat) {w : State} (hw : w = (u.flushCensus l t slot i).retireTag l tag) :
    TagRetired l tag s w ∧ (tenantAt w t).watch = (tenantAt (u.reportCensus t i b.census) t).watch ∧
    ∃ b', mget (tileAt w l).blocks slot = some b' ∧ b'.census = {} := by
  obtain ⟨v, rfl⟩ := hu
  subst hw
  obtain ⟨v', hv'⟩ := reportCensus_onlyTenants { s with tenants := v } t i b.census
  rw [flushCensus_eq (s := { s with tenants := v }) hb, hv']
  refine ⟨tagRetired_retireTag (by rw [tileAt_setTile_self]; rfl) ?_, rfl, ?_⟩
  · exact (SameMemory.of_eq rfl rfl).trans (sameMemory_setTile rfl)
  · obtain ⟨gs, hgs⟩ := blocks_retireTag (State.setTile { s with tenants := v' } l
      { tileAt s l with blocks := mset (tileAt s l).blocks slot { b with census := {} } }) l tag slot
    rw [tileAt_setTile_self, mget_mset_self] at hgs
    exact ⟨_, hgs, rfl⟩

/-! ### A sample of agreement (R135) -/

theorem sample_spec (r : TensorRecord) (e : Nat) :
    (r.sample e).samples = satAdd 32 r.samples 1 ∧ (r.sample e).errLast = BitVec.ofNat 32 e ∧
    (isNonfiniteBits fp32 e = true → (r.sample e).errMax = r.errMax ∧ (r.sample e).errSum = r.errSum) ∧
    (isNonfiniteBits fp32 e = false → (r.sample e).errMax = maxMagnitude r.errMax (BitVec.ofNat 32 e) ∧
      (r.sample e).errSum = BitVec.ofNat 32 (laneAdd fp32 r.errSum.toNat e)) := by
  unfold TensorRecord.sample
  cases h : isNonfiniteBits fp32 e with
  | true => exact ⟨rfl, rfl, fun _ => ⟨rfl, rfl⟩, fun hf => absurd hf (by decide)⟩
  | false => exact ⟨rfl, rfl, fun ht => absurd ht (by decide), fun _ => ⟨rfl, rfl⟩⟩

/-- What a comparison does to the sounding state: its sample goes to the record, or it counts as unattributed. -/
def State.compared (s : State) (t i e : Nat) : State :=
  match tensorAt s t i with
  | some r =>
    if r.flags.getLsbD 1 then s.setTensor t i (r.sample e)
    else s.updWatch t fun w => { w with unattributedCompares := satAdd 32 w.unattributedCompares 1 }
  | none => s.updWatch t fun w => { w with unattributedCompares := satAdd 32 w.unattributedCompares 1 }

theorem compared_attributed {s : State} {t i : Nat} {r : TensorRecord} (hr : tensorAt s t i = some r)
    (h : r.flags.getLsbD 1 = true) (e : Nat) : s.compared t i e = s.setTensor t i (r.sample e) := by
  simp only [State.compared, hr, h, if_true]

theorem compared_unattributed {s : State} {t i : Nat} (h : ∀ r, tensorAt s t i = some r → r.flags.getLsbD 1 = false) (e : Nat) :
    s.compared t i e = s.updWatch t fun w => { w with unattributedCompares := satAdd 32 w.unattributedCompares 1 } := by
  unfold State.compared
  split
  · next r hr => rw [h r hr, if_neg Bool.false_ne_true]
  · rfl

theorem compared_updWatch (s : State) (t i e : Nat) : ∃ f, s.compared t i e = s.updWatch t f := by
  unfold State.compared
  split
  · split
    · exact ⟨_, rfl⟩
    · exact ⟨_, rfl⟩
  · exact ⟨_, rfl⟩

/-! ### The loss and its poison (R141, R142) -/

theorem poison_spec (s : State) (t p : Nat) :
    (setAt (s.poison t p) t p).poisoned = true ∧ (∀ u, (tenantAt (s.poison t p) u).watch = (tenantAt s u).watch) ∧
    ∃ v g, s.poison t p = { s with tenants := v, globals := g } := by
  unfold State.poison
  split
  · next h => exact ⟨h, fun _ => rfl, _, _, rfl⟩
  · refine ⟨?_, fun u => ?_, _, _, rfl⟩
    · have := setAt_updSet_self s t p fun x => { x with poisoned := true }
      exact congrArg SetState.poisoned this
    · rw [tenantAt_updGlobals, watch_updSet]

theorem sendPoison_onlyLinks (s : State) (t p : Nat) : ∃ k, s.sendPoison t p = { s with links := k } := by
  refine foldl_keeps (P := fun u : State => ∃ k, u = { s with links := k }) _ ?_ _ _ ⟨_, rfl⟩
  rintro _ n ⟨k, rfl⟩
  exact ⟨_, rfl⟩

theorem lossBad_eq (pair : Nat) :
    lossBad pair = (isNonfiniteBits fp32 (pair % 2 ^ 32) || isNonfiniteBits fp32 (pair / 2 ^ 32 % 2 ^ 32)) := by
  simp [lossBad, bits]

theorem takeLoss_late {s : State} {t p : Nat} (h : (setAt s t p).contributed = true) (pair : Nat) :
    s.takeLoss t p pair = s.updWatch t fun w => { w with lateLoss := satAdd 32 w.lateLoss 1 } := if_pos h

/-- A loss pair before the contribution is stored, and one that is not finite poisons the attempt. -/
theorem takeLoss_stored {s : State} {t p : Nat} (h : (setAt s t p).contributed = false) (pair : Nat) :
    mget (tenantAt (s.takeLoss t p pair) t).watch.lossPair p = some (BitVec.ofNat 64 pair) ∧
    (setAt (s.takeLoss t p pair) t p).poisoned = ((setAt s t p).poisoned || lossBad pair) ∧
    (lossBad pair = false → (s.takeLoss t p pair).links = s.links) ∧
    ∃ v k g, s.takeLoss t p pair = { s with tenants := v, links := k, globals := g } := by
  let s1 := s.updWatch t fun w => { w with lossPair := mset w.lossPair p (BitVec.ofNat 64 pair) }
  have hset : (setAt s1 t p).poisoned = (setAt s t p).poisoned := by rw [setAt_updWatch]
  have hpair : mget (tenantAt s1 t).watch.lossPair p = some (BitVec.ofNat 64 pair) := by
    rw [tenantAt_updWatch_self]
    exact mget_mset_self ..
  have hloss : s.takeLoss t p pair = if lossBad pair && !(setAt s t p).poisoned then (s1.poison t p).sendPoison t p else s1 :=
    if_neg (by rw [h]; decide)
  rw [hloss]
  split
  · next hbad =>
    obtain ⟨hb, hp⟩ := Bool.and_eq_true_iff.1 hbad
    obtain ⟨hpoison, hwatch, v, g, hs⟩ := poison_spec s1 t p
    obtain ⟨k, hk⟩ := sendPoison_onlyLinks (s1.poison t p) t p
    rw [hk]
    refine ⟨?_, ?_, fun hf => absurd hb (by rw [hf]; decide), v, k, g, by rw [hs]; rfl⟩
    · exact (congrArg (fun w => mget w.lossPair p) (hwatch t)).trans hpair
    · rw [hb, Bool.or_true]
      exact hpoison
  · next hgood =>
    refine ⟨hpair, ?_, fun _ => rfl, _, _, _, rfl⟩
    rw [hset]
    cases hp : (setAt s t p).poisoned with
    | true => rfl
    | false => rw [hp] at hgood; simpa using hgood

/-! ### The rows -/

section
variable {l tag t : Nat} {s : State} {st : Stream} (ho : ownerOf s l = some t) (hs : streamAt s l tag = some st)
  (hk : st.kind = .copy) (hp : st.phase = .reporting)
include ho hs hk hp

theorem exec_censusReport (hop : cSound st.desc = 1) :
    exec (.censusReport l tag) s = .next ((s.reportCensus t (cWatch st.desc) st.census).retireTag l tag) := by
  have hx : exec (.censusReport l tag) s = execCensusReport l tag s := rfl
  simp only [hx, execCensusReport, reporting_some ho hs hk hp hop]

theorem exec_censusAndFlushReport (hop : cSound st.desc = 2) :
    exec (.censusAndFlushReport l tag) s = .next
      (((s.reportCensus t (cWatch st.desc) st.census).flushCensus l t st.slot (cWatch st.desc)).retireTag l tag) := by
  have hx : exec (.censusAndFlushReport l tag) s = execCensusAndFlushReport l tag s := rfl
  simp only [hx, execCensusAndFlushReport, reporting_some ho hs hk hp hop]

theorem exec_flushReport (hop : cSound st.desc = 3) :
    exec (.flushReport l tag) s = .next ((s.flushCensus l t st.slot (cWatch st.desc)).retireTag l tag) := by
  have hx : exec (.flushReport l tag) s = execFlushReport l tag s := rfl
  simp only [hx, execFlushReport, reporting_some ho hs hk hp hop]

theorem exec_lossReport (hop : cSound st.desc = 5) :
    exec (.lossReport l tag) s = .next ((s.takeLoss t (cParamSet st.desc) (leNat ((mget st.got 0).getD []))).retireTag l tag) := by
  have hx : exec (.lossReport l tag) s = execLossReport l tag s := rfl
  simp only [hx, execLossReport, reporting_some ho hs hk hp hop]

/-- The scaled elements of a copy and its reference values, as the comparison takes them (R135). -/
theorem exec_compareReport (hop : cSound st.desc = 4) :
    exec (.compareReport l tag) s = .next ((s.compared t (cWatch st.desc) (relativeError
      ((encodings (fmtOf (cSrcFmt st.desc)).bytes ((mget st.got 0).getD [])).map fun v =>
        (decodeNum (fmtOf (cSrcFmt st.desc)) v).scale (cScale st.desc))
      ((encodings 4 ((mget st.got 1).getD [])).map (decodeNum fp32)))).retireTag l tag) := by
  have hx : exec (.compareReport l tag) s = execCompareReport l tag s := rfl
  simp only [hx, execCompareReport, reporting_some ho hs hk hp hop]
  rfl

end

/-- What a poison message does, by the attempt it names. -/
theorem exec_poisonMessage {s : State} {p : Packet} (h : votePacketOk s p 2 = true) :
    exec (.poisonMessage p) s = .next
      (let m := voteOf p.data
       if (setAt s m.tenant m.set).mode = 0 then s.takePacket p
       else if m.attempt = watchAttempt s m.tenant m.set then (s.takePacket p).poison m.tenant m.set
       else if m.attempt > watchAttempt s m.tenant m.set then
         (s.takePacket p).updRun m.tenant m.set fun r => { r with held := r.held ++ [m] }
       else s.takePacket p) := by
  have hx : exec (.poisonMessage p) s = execPoisonMessage p s := rfl
  simp only [hx, execPoisonMessage, h, Bool.not_true, Bool.false_eq_true, if_false]
  rfl

section
variable {l tag t : Nat} {s : State} {st : Stream} (ho : ownerOf s l = some t) (hs : streamAt s l tag = some st)
  (hk : st.kind = .copy) (hp : st.phase = .reporting)
include ho hs hk hp

theorem censusReport_completes (hop : cSound st.desc = 1) :
    ∃ u, exec (.censusReport l tag) s = .next u ∧ CensusTaken s t (cWatch st.desc) st.census u ∧ TagRetired l tag s u := by
  obtain ⟨f, hf⟩ := reportCensus_updWatch s t (cWatch st.desc) st.census
  refine ⟨_, exec_censusReport ho hs hk hp hop, (reportCensus_taken s t _ _).congr rfl rfl, ?_⟩
  rw [hf]
  exact tagRetired_updWatch ..

theorem flushReport_completes (hop : cSound st.desc = 3) {b : Block} (hb : mget (tileAt s l).blocks st.slot = some b) :
    ∃ u b', exec (.flushReport l tag) s = .next u ∧ CensusTaken s t (cWatch st.desc) b.census u ∧ TagRetired l tag s u ∧
      mget (tileAt u l).blocks st.slot = some b' ∧ b'.census = {} := by
  obtain ⟨hret, hwatch, b', hb', hempty⟩ := flushed .refl hb tag t (cWatch st.desc) rfl
  exact ⟨_, b', exec_flushReport ho hs hk hp hop, (reportCensus_taken s t _ _).congr rfl hwatch, hret, hb', hempty⟩

theorem censusAndFlushReport_completes (hop : cSound st.desc = 2) {b : Block} (hb : mget (tileAt s l).blocks st.slot = some b) :
    ∃ u u1 b', exec (.censusAndFlushReport l tag) s = .next u ∧ TagRetired l tag s u ∧
      mget (tileAt u l).blocks st.slot = some b' ∧ b'.census = {} ∧ u1 = s.reportCensus t (cWatch st.desc) st.census ∧
      CensusTaken s t (cWatch st.desc) st.census u1 ∧
      (tenantAt u t).watch = (tenantAt (u1.reportCensus t (cWatch st.desc) b.census) t).watch := by
  obtain ⟨hret, hwatch, b', hb', hempty⟩ := flushed (reportCensus_onlyTenants s t (cWatch st.desc) st.census) hb tag t (cWatch st.desc) rfl
  exact ⟨_, _, b', exec_censusAndFlushReport ho hs hk hp hop, hret, hb', hempty, rfl, reportCensus_taken s t _ _, hwatch⟩

theorem compareReport_completes (hop : cSound st.desc = 4) {e : Nat} (he : e = relativeError
      ((encodings (fmtOf (cSrcFmt st.desc)).bytes ((mget st.got 0).getD [])).map fun v =>
        (decodeNum (fmtOf (cSrcFmt st.desc)) v).scale (cScale st.desc))
      ((encodings 4 ((mget st.got 1).getD [])).map (decodeNum fp32))) :
    ∃ u, exec (.compareReport l tag) s = .next u ∧ streamAt u l tag = none ∧ SameMemory s u ∧
      (∀ r, tensorAt s t (cWatch st.desc) = some r → r.flags.getLsbD 1 = true →
        ∃ r', tensorAt u t (cWatch st.desc) = some r' ∧ r'.samples = satAdd 32 r.samples 1 ∧ r'.errLast = BitVec.ofNat 32 e ∧
          (isNonfiniteBits fp32 e = true → r'.errMax = r.errMax ∧ r'.errSum = r.errSum) ∧
          (isNonfiniteBits fp32 e = false → r'.errMax = maxMagnitude r.errMax (BitVec.ofNat 32 e) ∧
            r'.errSum = BitVec.ofNat 32 (laneAdd fp32 r.errSum.toNat e))) ∧
      ((∀ r, tensorAt s t (cWatch st.desc) = some r → r.flags.getLsbD 1 = false) →
        (tenantAt u t).watch.unattributedCompares = satAdd 32 (tenantAt s t).watch.unattributedCompares 1 ∧
        (tenantAt u t).watch.entries = (tenantAt s t).watch.entries) := by
  have hret : TagRetired l tag s ((s.compared t (cWatch st.desc) e).retireTag l tag) := by
    obtain ⟨f, hf⟩ := compared_updWatch s t (cWatch st.desc) e
    rw [hf]
    exact tagRetired_updWatch ..
  obtain ⟨hnone, -, hmem⟩ := hret
  refine ⟨_, he ▸ exec_compareReport ho hs hk hp hop, hnone, hmem, fun r hr hflag => ?_, fun hfree => ?_⟩
  · refine ⟨r.sample e, ?_, sample_spec r e⟩
    rw [tensorAt_retireTag, compared_attributed hr hflag, tensorAt_setTensor, if_pos rfl]
  · have hwatch : (tenantAt ((s.compared t (cWatch st.desc) e).retireTag l tag) t).watch =
        { (tenantAt s t).watch with unattributedCompares := satAdd 32 (tenantAt s t).watch.unattributedCompares 1 } := by
      rw [tenantAt_retireTag, compared_unattributed hfree, tenantAt_updWatch_self]
    rw [hwatch]
    exact ⟨rfl, rfl⟩

theorem lossReport_completes (hop : cSound st.desc = 5) {q pair : Nat} (hq : q = cParamSet st.desc)
    (hpair : pair = leNat ((mget st.got 0).getD [])) :
    ∃ u, exec (.lossReport l tag) s = .next u ∧ streamAt u l tag = none ∧ SameMemory s u ∧
      ((setAt s t q).contributed = true →
        (tenantAt u t).watch.lateLoss = satAdd 32 (tenantAt s t).watch.lateLoss 1 ∧
        (tenantAt u t).watch.lossPair = (tenantAt s t).watch.lossPair ∧ setAt u t q = setAt s t q) ∧
      ((setAt s t q).contributed = false →
        mget (tenantAt u t).watch.lossPair q = some (BitVec.ofNat 64 pair) ∧
        (setAt u t q).poisoned = ((setAt s t q).poisoned || lossBad pair) ∧
        (lossBad pair = false → u.links.outbox = s.links.outbox)) := by
  subst hq hpair
  have hx := exec_lossReport ho hs hk hp hop
  cases hc : (setAt s t (cParamSet st.desc)).contributed with
  | true =>
    rw [takeLoss_late hc] at hx
    obtain ⟨hnone, -, hmem⟩ := tagRetired_updWatch l tag s t fun w => { w with lateLoss := satAdd 32 w.lateLoss 1 }
    refine ⟨_, hx, hnone, hmem, fun _ => ?_, fun h => absurd h (by decide)⟩
    rw [tenantAt_retireTag, tenantAt_updWatch_self, setAt_retireTag, setAt_updWatch]
    exact ⟨rfl, rfl, rfl⟩
  | false =>
    obtain ⟨hstored, hpoisoned, hquiet, v, k, g, hu⟩ := takeLoss_stored hc (leNat ((mget st.got 0).getD []))
    have hret : TagRetired l tag s ((s.takeLoss t (cParamSet st.desc) (leNat ((mget st.got 0).getD []))).retireTag l tag) :=
      tagRetired_retireTag (by rw [hu]; rfl) (by rw [hu]; exact .of_eq rfl rfl)
    obtain ⟨hnone, -, hmem⟩ := hret
    exact ⟨_, hx, hnone, hmem, fun h => absurd h (by decide), fun _ => ⟨hstored, hpoisoned, fun h => congrArg _ (hquiet h)⟩⟩

end

theorem poisonMessage_completes {s : State} {p : Packet} (h : votePacketOk s p 2 = true) {m : VoteMsg} (hm : m = voteOf p.data) :
    ∃ u, exec (.poisonMessage p) s = .next u ∧ u.links.inbox = s.links.inbox.erase p ∧ SameMemory s u ∧
      ((setAt s m.tenant m.set).mode ≠ 0 → m.attempt = watchAttempt s m.tenant m.set →
        (setAt u m.tenant m.set).poisoned = true) ∧
      ((setAt s m.tenant m.set).mode ≠ 0 → watchAttempt s m.tenant m.set < m.attempt →
        (runAt u m.tenant m.set).held = (runAt s m.tenant m.set).held ++ [m] ∧ setAt u m.tenant m.set = setAt s m.tenant m.set) ∧
      ((setAt s m.tenant m.set).mode = 0 → u.tenants = s.tenants) := by
  subst hm
  refine ⟨_, exec_poisonMessage h, ?_⟩
  generalize voteOf p.data = m
  dsimp only
  split
  · next h0 => exact ⟨rfl, .of_eq rfl rfl, fun h => absurd h0 h, fun h => absurd h0 h, fun _ => rfl⟩
  next h0 =>
    split
    · next ha =>
      obtain ⟨hp, -, v, g, hu⟩ := poison_spec (s.takePacket p) m.tenant m.set
      refine ⟨by rw [hu]; rfl, by rw [hu]; exact .of_eq rfl rfl, fun _ _ => hp, fun _ hlt => ?_, fun h => absurd h h0⟩
      omega
    next ha =>
      split
      · refine ⟨rfl, .of_eq rfl rfl, fun _ h => absurd h ha, fun _ _ => ⟨?_, ?_⟩, fun h => absurd h h0⟩
        · rw [runAt_updRun, if_pos ⟨rfl, rfl⟩]
          rfl
        · rw [setAt_updRun]
          rfl
      · next hle => exact ⟨rfl, .of_eq rfl rfl, fun _ h => absurd h ha, fun _ h => absurd h hle, fun h => absurd h h0⟩

/-- Settles O23, row by row. -/
theorem reportsReachTheirRecords : Obligations.ReportsReachTheirRecords := by
  unfold Obligations.ReportsReachTheirRecords
  refine ⟨⟨fun l tag t s st b ho hs hk hp hb => ?_, fun l tag t s st ho hs hk hp hop => ?_⟩, fun l tag t s st p => ⟨?_, fun h => ?_⟩⟩
  · exact ⟨fun hop => censusReport_completes ho hs hk hp hop, fun hop => flushReport_completes ho hs hk hp hop hb,
      fun hop => censusAndFlushReport_completes ho hs hk hp hop hb⟩
  · exact compareReport_completes ho hs hk hp hop rfl
  · intro ho hs hk hp hop
    obtain ⟨u, hu⟩ := lossReport_completes ho hs hk hp hop rfl rfl
    rw [lossBad_eq] at hu
    exact ⟨u, hu⟩
  · exact poisonMessage_completes h rfl

end Sys2Proof.Machine
end

section
/-!
SUPPORT. What the work at the end of an attempt leaves of the standing of every set: its mode, its generation, its skips, its
state, and the state a release of its job has chosen for it. The writes the module makes to tenant memory may be reported as
arrivals, aborts and resumes of other attempt blocks (R235), and none of these changes it either.
-/

namespace Sys2Proof.Machine

/-- A set stands as it did. -/
def SameStanding (x y : SetState) : Prop := y.mode = x.mode ∧ y.generation = x.generation ∧ y.skips = x.skips ∧ y.state = x.state

theorem SameStanding.rfl {x : SetState} : SameStanding x x := ⟨.refl _, .refl _, .refl _, .refl _⟩

theorem SameStanding.trans {x y z : SetState} (h : SameStanding x y) (h' : SameStanding y z) : SameStanding x z := by
  obtain ⟨hm, hg, hk, hs⟩ := h
  obtain ⟨hm', hg', hk', hs'⟩ := h'
  exact ⟨hm'.trans hm, hg'.trans hg, hk'.trans hk, hs'.trans hs⟩

/-- Every set stands as it did, with the state a release has chosen for it, and nothing has been published. -/
structure KeepsStanding (s u : State) : Prop where
  sets : ∀ t p, SameStanding (setAt s t p) (setAt u t p)
  released : ∀ t p, (runAt u t p).releasedTo = (runAt s t p).releasedTo
  published : u.globals.published = s.globals.published

theorem KeepsStanding.refl (s : State) : KeepsStanding s s := ⟨fun _ _ => .rfl, fun _ _ => rfl, rfl⟩

theorem KeepsStanding.trans {s u w : State} (h : KeepsStanding s u) (h' : KeepsStanding u w) : KeepsStanding s w :=
  ⟨fun t p => (h.sets t p).trans (h'.sets t p), fun t p => (h'.released t p).trans (h.released t p), h'.published.trans h.published⟩

theorem KeepsStanding.of_eq {s u : State} (ht : u.tenants = s.tenants) (hg : u.globals = s.globals) : KeepsStanding s u := by
  have htenant : ∀ t, tenantAt u t = tenantAt s t := fun t => by rw [tenantAt, ht, tenantAt]
  refine ⟨fun t p => ?_, fun t p => ?_, by rw [hg]⟩
  · unfold setAt
    rw [htenant]
    exact .rfl
  · rw [runAt, htenant, runAt]

theorem keepsStanding_foldl {α : Type} {f : State → α → State} (h : ∀ u x, KeepsStanding u (f u x)) (xs : List α) (s : State) :
    KeepsStanding s (xs.foldl f s) :=
  foldl_keeps (P := KeepsStanding s) f (fun u x hu => hu.trans (h u x)) xs s (.refl s)

theorem KeepsStanding.ite {s u w : State} {c : Prop} [Decidable c] (h : KeepsStanding s u) (h' : KeepsStanding s w) :
    KeepsStanding s (if c then u else w) := by
  split
  · exact h
  · exact h'

/-! ### The parts of a tenant -/

section
variable (s : State) (t p : Nat)

theorem keepsStanding_updTenant {f : Tenant → Tenant} (hs : ∀ x, (f x).sets = x.sets := by exact fun _ => rfl)
    (hr : ∀ x, (f x).runs = x.runs := by exact fun _ => rfl) :
    KeepsStanding s (s.updTenant t f) := by
  refine ⟨fun u q => ?_, fun u q => ?_, rfl⟩
  · rw [setAt_updTenant s t u q hs]
    exact .rfl
  · rw [runAt_updTenant s t u q hr]

theorem keepsStanding_updSet {f : SetState → SetState} (hf : ∀ x, SameStanding x (f x) := by exact fun _ => .rfl) :
    KeepsStanding s (s.updSet t p f) := by
  refine ⟨fun u q => ?_, fun u q => by rw [runAt_updSet], rfl⟩
  rw [setAt_updSet]
  split
  · next h => obtain ⟨rfl, rfl⟩ := h; exact hf _
  · exact .rfl

theorem keepsStanding_updRun {f : SetRun → SetRun} (hf : ∀ r, (f r).releasedTo = r.releasedTo := by exact fun _ => rfl) :
    KeepsStanding s (s.updRun t p f) := by
  refine ⟨fun u q => by rw [setAt_updRun]; exact .rfl, fun u q => ?_, rfl⟩
  rw [runAt_updRun]
  split
  · next h => obtain ⟨rfl, rfl⟩ := h; exact hf _
  · rfl

theorem keepsStanding_updWatch (f : WatchState → WatchState) : KeepsStanding s (s.updWatch t f) :=
  keepsStanding_updTenant s t

theorem keepsStanding_freeze (r : FreezeRec) : KeepsStanding s (s.freeze t r) := by
  refine ⟨fun u q => by rw [setAt_freeze]; exact .rfl, fun u q => by rw [runAt_freeze], rfl⟩

theorem keepsStanding_freezeJob (cause address : Nat) (layer : Option (Nat × List Byte)) :
    KeepsStanding s (s.freezeJob t p cause address layer) := by
  unfold State.freezeJob
  exact .ite (.refl s) ((keepsStanding_updSet s t p).trans (keepsStanding_freeze ..))

theorem keepsStanding_updGlobals {f : Globals → Globals} (hf : ∀ g, (f g).published = g.published := by exact fun _ => rfl) :
    KeepsStanding s (s.updGlobals f) := ⟨fun _ _ => .rfl, fun _ _ => rfl, hf _⟩

end

/-! ### Memory and its reports -/

section
variable (s : State)

theorem keepsStanding_report (source : W32) (cls cause : Nat) (tenant : Option Nat) (detail : W32) :
    KeepsStanding s (s.report source cls cause tenant detail) := .of_eq rfl rfl

theorem keepsStanding_wantRetrain (u c : Nat) : KeepsStanding s (s.wantRetrain u c) := .of_eq rfl rfl

/-- The report of a word that cannot be read changes the memory's bookkeeping and the log (R430). -/
theorem fastUncorrectable_tenants (d : Nat) :
    (s.fastUncorrectable d).tenants = s.tenants ∧ (s.fastUncorrectable d).globals = s.globals := by
  unfold State.fastUncorrectable
  split
  · exact ⟨rfl, rfl⟩
  · exact ⟨rfl, rfl⟩

/-- So does the note of a walk (R190). -/
theorem noteWalk_tenants (w : Walk) : (s.noteWalk w).tenants = s.tenants ∧ (s.noteWalk w).globals = s.globals := by
  unfold State.noteWalk
  dsimp only
  split
  · exact fastUncorrectable_tenants ..
  · exact ⟨rfl, rfl⟩

theorem keepsStanding_fastUncorrectable (d : Nat) : KeepsStanding s (s.fastUncorrectable d) := by
  obtain ⟨ht, hg⟩ := fastUncorrectable_tenants s d
  exact .of_eq ht hg

theorem keepsStanding_noteWalk (w : Walk) : KeepsStanding s (s.noteWalk w) := by
  obtain ⟨ht, hg⟩ := noteWalk_tenants s w
  exact .of_eq ht hg

theorem keepsStanding_touchBias (a n : Nat) : KeepsStanding s (s.touchBias a n) := .ite (.of_eq rfl rfl) (.refl s)

theorem keepsStanding_writeDpa (a : Nat) (bs : List Byte) : KeepsStanding s (s.writeDpa a bs).1 := by
  obtain ⟨fast, bad, hw, -⟩ := writeDpa_spec s a bs
  rw [hw]
  exact .of_eq rfl rfl

theorem keepsStanding_slowWrite (key : Nat) (bs : List Byte) : KeepsStanding s (s.slowWrite key bs) := .of_eq rfl rfl

theorem keepsStanding_slowUncorrectable (key : Nat) : KeepsStanding s (s.slowUncorrectable key) :=
  (keepsStanding_report ..).trans (keepsStanding_wantRetrain ..)

theorem keepsStanding_ownFail (t p va cause : Nat) : KeepsStanding s (s.ownFail t p va cause) :=
  (keepsStanding_noteWalk ..).trans (keepsStanding_freezeJob ..)

/-! ### Writes that touch an attempt block (R235) -/

theorem keepsStanding_takeArrivals (t p : Nat) (a : BitVec 256) : KeepsStanding s (s.takeArrivals t p a) :=
  (keepsStanding_updSet s t p).trans (.ite (keepsStanding_freezeJob ..) (.refl _))

theorem keepsStanding_askAbort (t p attempt : Nat) : KeepsStanding s (s.askAbort t p attempt) :=
  .ite (keepsStanding_updSet s t p) (.refl s)

theorem keepsStanding_wantOpen (t p : Nat) : KeepsStanding s (s.wantOpen t p) :=
  .ite (.refl s) ((keepsStanding_updGlobals s).trans (keepsStanding_updRun ..))

theorem keepsStanding_askResume (t p v : Nat) : KeepsStanding s (s.askResume t p v) := .ite (keepsStanding_wantOpen ..) (.refl s)

theorem keepsStanding_noticeBlock (t p d a n : Nat) : KeepsStanding s (noticeBlock s t p d a n) := by
  unfold noticeBlock
  extract_lets field s1 s2
  have h1 : KeepsStanding s s1 := .ite (keepsStanding_takeArrivals ..) (.refl s)
  have h2 : KeepsStanding s1 s2 := .ite (keepsStanding_askAbort ..) (.refl s1)
  exact (h1.trans h2).trans (.ite (keepsStanding_askResume ..) (.refl s2))

theorem keepsStanding_noticeWrite (t a n : Nat) : KeepsStanding s (s.noticeWrite t a n) := by
  refine keepsStanding_foldl (fun u p => .ite (.refl u) ?_) _ s
  split
  · exact .ite (keepsStanding_noticeBlock ..) (.refl u)
  · exact .refl u

/-! ### The module's own writes (R137, R146, R235, R428, R429) -/

theorem keepsStanding_attWrite (t p off n v : Nat) : KeepsStanding s (s.attWrite t p off n v) := by
  unfold State.attWrite
  split
  · exact (keepsStanding_touchBias ..).trans (keepsStanding_writeDpa ..)
  · exact keepsStanding_ownFail ..
  · exact .refl s

theorem keepsStanding_genBlockBad (t d : Nat) : KeepsStanding s (s.genBlockBad t d) :=
  (keepsStanding_updTenant s t).trans (keepsStanding_fastUncorrectable ..)

theorem keepsStanding_genWord (t p off : Nat) (f : Nat → Nat) : KeepsStanding s (s.genWord t p off f) := by
  unfold State.genWord
  dsimp only
  refine .ite (.refl s) ?_
  split
  · exact .refl s
  · exact keepsStanding_ownFail ..
  · exact .ite (keepsStanding_genBlockBad ..) ((keepsStanding_touchBias ..).trans (keepsStanding_writeDpa ..))

theorem keepsStanding_watchWrite (t va : Nat) (ok : Bool) (bs : List Byte) : KeepsStanding s (s.watchWrite t va ok bs) := by
  unfold State.watchWrite
  extract_lets drop
  have hdrop : KeepsStanding s drop := keepsStanding_updWatch ..
  refine .ite hdrop ?_
  split
  · exact .refl s
  · exact (keepsStanding_noteWalk ..).trans (keepsStanding_updWatch ..)
  · next d _ =>
    have hwrite := (keepsStanding_touchBias s d bs.length).trans (keepsStanding_writeDpa _ d bs)
    split
    · next s1 h => rw [h] at hwrite; exact hwrite.trans (keepsStanding_noticeWrite ..)
    · exact hdrop

theorem keepsStanding_writeScalePage (t p : Nat) : KeepsStanding s (s.writeScalePage t p) :=
  .ite (.refl s) (keepsStanding_foldl (fun _ _ => keepsStanding_watchWrite ..) _ s)

theorem keepsStanding_writeMirror (t p : Nat) : KeepsStanding s (s.writeMirror t p) :=
  .ite (.refl s) (keepsStanding_foldl (fun _ _ => keepsStanding_watchWrite ..) _ s)

theorem keepsStanding_writeOutcome (t p code : Nat) : KeepsStanding s (s.writeOutcome t p code) := by
  unfold State.writeOutcome
  extract_lets x s1
  have h1 : KeepsStanding s s1 :=
    ((keepsStanding_attWrite s t p 16 8 x.skips).trans (keepsStanding_attWrite _ t p 0 8 code)).trans (keepsStanding_attWrite ..)
  exact h1.trans (keepsStanding_updRun s1 t p)

theorem keepsStanding_capWrite (t : Nat) (pages : List (Nat × Nat)) (va : Nat) (bs : List Byte) :
    KeepsStanding s (s.capWrite t pages va bs).1 := by
  unfold State.capWrite
  refine foldl_keeps (P := fun acc : State × Option Nat => KeepsStanding s acc.1) _ (fun acc c hacc => ?_) _ _ (.refl s)
  split
  · next d _ =>
    extract_lets lost s1 s2
    have h1 : KeepsStanding acc.1 s1 := (keepsStanding_touchBias acc.1 d c.2).trans (keepsStanding_writeDpa ..)
    have h2 : KeepsStanding s1 s2 := by
      unfold s2
      clear_value lost
      cases lost with
      | some w => exact keepsStanding_fastUncorrectable ..
      | none => exact .refl s1
    dsimp only
    exact ((hacc.trans h1).trans h2).trans (keepsStanding_noticeWrite s2 t d c.2)
  · exact hacc

/-! ### Watch records (R136, R138, R139) -/

theorem keepsStanding_setTensor (t i : Nat) (r : TensorRecord) : KeepsStanding s (s.setTensor t i r) := keepsStanding_updWatch ..

theorem keepsStanding_setHistory (t i : Nat) (r : TensorRecord) (h : List W32) : KeepsStanding s (s.setHistory t i r h) :=
  keepsStanding_foldl (fun _ _ => keepsStanding_updWatch ..) _ s

theorem keepsStanding_endRecords (t p : Nat) (committed : Bool) : KeepsStanding s (s.endRecords t p committed) :=
  keepsStanding_foldl (fun _ _ => (keepsStanding_setTensor ..).trans (keepsStanding_setHistory ..)) _ s

theorem keepsStanding_saveRecords (t p h : Nat) : KeepsStanding s (s.saveRecords t p h) := .of_eq rfl rfl

theorem keepsStanding_loseHistory (t i : Nat) (r : TensorRecord) (keepScale : Bool) :
    KeepsStanding s (s.loseHistory t i r keepScale) := (keepsStanding_setTensor ..).trans (keepsStanding_setHistory ..)

theorem keepsStanding_loseHistories (t p : Nat) (keepScale : Bool) : KeepsStanding s (s.loseHistories t p keepScale) :=
  keepsStanding_foldl (fun _ _ => keepsStanding_loseHistory ..) _ s

theorem keepsStanding_restoreRecord (t i : Nat) (r : TensorRecord) (g : GenRecord) :
    KeepsStanding s (s.restoreRecord t i r g) := by
  unfold State.restoreRecord
  dsimp only
  split
  · exact .ite (keepsStanding_loseHistory ..) (.ite (keepsStanding_loseHistory ..)
      ((keepsStanding_setTensor ..).trans (keepsStanding_updWatch ..)))
  · exact keepsStanding_loseHistory ..

theorem keepsStanding_restoreRecords (t p g : Nat) : KeepsStanding s (s.restoreRecords t p g) := by
  unfold State.restoreRecords
  extract_lets cs s1 s2
  have h1 : KeepsStanding s s1 := by
    unfold s1
    split
    · exact .ite (keepsStanding_foldl (fun _ _ => keepsStanding_restoreRecord ..) _ s) (keepsStanding_loseHistories ..)
    · exact keepsStanding_loseHistories ..
  have h2 : KeepsStanding s1 s2 := by
    refine keepsStanding_foldl (fun u e => ?_) _ s1
    split
    · exact keepsStanding_setTensor ..
    · exact .refl u
  exact ((h1.trans h2).trans (keepsStanding_writeScalePage ..)).trans (keepsStanding_writeMirror ..)

/-! ### Undo rings, settlement and poison (R141, R212, R231) -/

theorem keepsStanding_popUndo (t p : Nat) (c : Captured) (td : List Byte) (i : Nat) : KeepsStanding s (s.popUndo t p c td i) := by
  unfold State.popUndo
  dsimp only
  split
  · exact (keepsStanding_slowUncorrectable ..).trans (keepsStanding_updRun ..)
  · exact (keepsStanding_capWrite ..).trans (keepsStanding_slowWrite ..)

theorem keepsStanding_restoreUndo (t p : Nat) : KeepsStanding s (s.restoreUndo t p) := by
  unfold State.restoreUndo
  extract_lets s1
  have h1 : KeepsStanding s s1 := keepsStanding_foldl (fun u _ => keepsStanding_foldl (fun _ _ => keepsStanding_popUndo ..) _ u) _ s
  exact h1.trans (keepsStanding_updRun s1 t p)

theorem keepsStanding_sendControl (pk : Packet) : KeepsStanding s (s.sendControl pk) := .of_eq rfl rfl

theorem keepsStanding_settle (t p : Nat) : KeepsStanding s (s.settle t p) :=
  .ite (.refl s) ((keepsStanding_updRun s t p).trans (keepsStanding_genWord ..))

theorem keepsStanding_sendInvalidations (t p h : Nat) (rows : List (Nat × Nat)) :
    KeepsStanding s (s.sendInvalidations t p h rows) := by
  unfold State.sendInvalidations
  extract_lets own s1
  have h1 : KeepsStanding s s1 :=
    keepsStanding_foldl (fun u _ => keepsStanding_foldl (fun _ _ => keepsStanding_sendControl ..) _ u) _ s
  clear_value s1
  exact (h1.trans (keepsStanding_updRun s1 t p)).trans (keepsStanding_settle ..)

theorem keepsStanding_poison (t p : Nat) : KeepsStanding s (s.poison t p) :=
  .ite (.refl s) ((keepsStanding_updSet s t p).trans (keepsStanding_updGlobals _))

theorem keepsStanding_heldPoison (t p : Nat) : KeepsStanding s (s.heldPoison t p) := by
  have hheld := fun f : SetRun → List VoteMsg => keepsStanding_updRun s t p (f := fun x => { x with held := f x }) fun _ => rfl
  exact .ite ((hheld _).trans (keepsStanding_poison ..)) (hheld _)

theorem keepsStanding_sendRound (t p : Nat) : KeepsStanding s (s.sendRound t p) := by
  unfold State.sendRound
  split
  · split
    · exact keepsStanding_sendControl ..
    · exact .refl s
  · exact .refl s

theorem keepsStanding_startReduction (t p phase : Nat) (ok : Bool) (sum : Nat) (fatal : Bool) :
    KeepsStanding s (s.startReduction t p phase ok sum fatal) :=
  (keepsStanding_updRun s t p).trans (keepsStanding_sendRound ..)

end

end Sys2Proof.Machine
end

section
/-!
PROOF. O28: a contribution, the rounds of a reduction, and its result (R134, R238, R240, R241, R243, R244, R246, R363; logs 41,
83).
-/

namespace Sys2Proof.Machine

/-! ### The end of an attempt (R244, R246) -/

theorem poison_undo (s : State) (t p : Nat) : (runAt (s.poison t p) t p).undo = (runAt s t p).undo := by
  unfold State.poison
  split
  · rfl
  · exact congrArg SetRun.undo (runAt_updSet s t p (fun x => { x with poisoned := true }) t p)

theorem heldPoison_undo (s : State) (t p : Nat) : (runAt (s.heldPoison t p) t p).undo = (runAt s t p).undo := by
  unfold State.heldPoison
  extract_lets n r s1
  have h1 : (runAt s1 t p).undo = (runAt s t p).undo := by
    unfold s1
    rw [runAt_updRun_self]
  split
  · exact (poison_undo s1 t p).trans h1
  · exact h1

/-- What lives for one attempt is gone; the set stands as it did. -/
theorem clearAttempt_spec (s : State) (t p : Nat) :
    SameStanding (setAt s t p) (setAt (s.clearAttempt t p) t p) ∧ (runAt (s.clearAttempt t p) t p).undo = [] ∧
    (s.clearAttempt t p).globals.published = s.globals.published := by
  unfold State.clearAttempt
  have hheld := keepsStanding_heldPoison ((s.updSet t p fun x => { x with poisoned := false, contributed := false }).updRun t p
    fun r => { r with captured := [], reduction := none, writing := false, applied := false, changedRows := [], undo := [],
                      restoreFailed := false, voteSucceeded := false, forcedEarly := false, expired := false,
                      releasedTo := none }) t p
  refine ⟨SameStanding.trans ?_ (hheld.sets t p), ?_, hheld.published⟩
  · rw [setAt_updRun, setAt_updSet_self]
    exact .rfl
  · rw [heldPoison_undo, runAt_updRun_self]

theorem restingState_congr {s u : State} {t p : Nat} (h : (runAt u t p).releasedTo = (runAt s t p).releasedTo) :
    restingState u t p = restingState s t p := by
  rw [restingState, h, restingState]

/-- An abandoned attempt: the generation stands, the skips grow by one, and the set rests (R246, R363). -/
theorem abandon_spec (s : State) (t p : Nat) (voteFailed fatal : Bool) :
    (setAt (s.abandon t p voteFailed fatal) t p).generation = (setAt s t p).generation ∧
    (setAt (s.abandon t p voteFailed fatal) t p).skips = (setAt s t p).skips + 1 ∧
    (setAt (s.abandon t p voteFailed fatal) t p).state = restingState s t p ∧
    (s.abandon t p voteFailed fatal).globals.published = s.globals.published ∧
    (runAt (s.abandon t p voteFailed fatal) t p).undo = [] := by
  unfold State.abandon
  extract_lets h s1 s2 s3 s4 s5 s6 s7
  have h1 : KeepsStanding s s1 := keepsStanding_restoreUndo ..
  have h2 : KeepsStanding s1 s2 := .ite (keepsStanding_genWord ..) (.refl s1)
  have h3 : KeepsStanding s s3 := (h1.trans h2).trans
    (((keepsStanding_endRecords s2 t p false).trans (keepsStanding_writeScalePage ..)).trans (keepsStanding_writeMirror ..))
  clear_value s3
  have h5 : KeepsStanding s4 s5 := keepsStanding_writeOutcome ..
  have h6 : KeepsStanding s5 s6 := .ite (keepsStanding_freezeJob ..) (.refl s5)
  have h7 : KeepsStanding s4 s7 := (h5.trans h6).trans (.ite (keepsStanding_restoreRecords ..) (.refl s6))
  have hskips : setAt s4 t p = { setAt s3 t p with skips := (setAt s3 t p).skips + 1 } := setAt_updSet_self ..
  have hrun : runAt s4 t p = runAt s3 t p := runAt_updSet ..
  have hcount : s4.globals.published = s3.globals.published := rfl
  clear_value s7 s6 s5 s4
  have hrest : restingState s7 t p = restingState s t p :=
    restingState_congr ((h7.released t p).trans ((congrArg SetRun.releasedTo hrun).trans (h3.released t p)))
  obtain ⟨-, hg3, hk3, -⟩ := h3.sets t p
  obtain ⟨-, hg7, hk7, -⟩ := h7.sets t p
  simp only [hskips] at hg7 hk7
  obtain ⟨⟨-, hg, hk, hs⟩, hundo, hpub⟩ :=
    clearAttempt_spec (s7.updSet t p fun x => { x with state := restingState s7 t p, pausePending := false }) t p
  simp only [setAt_updSet_self] at hg hk hs
  refine ⟨by rw [hg, hg7, hg3], by rw [hk, hk7, hk3], by rw [hs, hrest], ?_, hundo⟩
  exact ((hpub.trans h7.published).trans hcount).trans h3.published

theorem updSet_updGlobals_spec (s : State) (t p : Nat) (f : SetState → SetState) (g : Globals → Globals) :
    setAt ((s.updSet t p f).updGlobals g) t p = f (setAt s t p) ∧ runAt ((s.updSet t p f).updGlobals g) t p = runAt s t p :=
  ⟨setAt_updSet_self s t p f, runAt_updSet s t p f t p⟩

/-- A publication: the generation grows by one, and the set may open its next attempt, or rests (R244, R363). -/
theorem publish_spec (s : State) (t p : Nat) :
    (setAt (s.publish t p) t p).generation = (setAt s t p).generation + 1 ∧
    ((setAt (s.publish t p) t p).state = 4 ∨ (setAt (s.publish t p) t p).state = restingState s t p) ∧
    (s.publish t p).globals.published = satAdd 64 s.globals.published 1 ∧ (runAt (s.publish t p) t p).undo = [] := by
  unfold State.publish
  extract_lets h rows s1 s2 s3 s4 s5 s6 s7 s8
  have h1 : KeepsStanding s s1 := keepsStanding_updRun s t p
  have h2 : KeepsStanding s1 s2 := (keepsStanding_endRecords s1 t p true).trans (keepsStanding_writeScalePage ..)
  have h3 : KeepsStanding s s3 := (h1.trans h2).trans (keepsStanding_saveRecords s2 t p h)
  have h4 : KeepsStanding s3 s4 := keepsStanding_genWord ..
  have h5 : KeepsStanding s s5 := (h3.trans h4).trans (.ite (keepsStanding_genWord ..) (.refl s4))
  clear_value s5
  obtain ⟨h6, h6r⟩ : setAt s6 t p = { setAt s5 t p with generation := h, state := 4 } ∧ runAt s6 t p = runAt s5 t p :=
    updSet_updGlobals_spec ..
  have h6p : s6.globals.published = satAdd 64 s5.globals.published 1 := rfl
  have h7 : KeepsStanding s6 s7 := (keepsStanding_writeMirror ..).trans (keepsStanding_writeOutcome ..)
  clear_value s7 s6
  have hsent : KeepsStanding s6 (s7.sendInvalidations t p h rows) := h7.trans (keepsStanding_sendInvalidations ..)
  have hrest : restingState s7 t p = restingState s t p :=
    restingState_congr ((h7.released t p).trans ((congrArg SetRun.releasedTo h6r).trans (h5.released t p)))
  have hend : s8 = (s7.sendInvalidations t p h rows).clearAttempt t p := rfl
  obtain ⟨h8, hundo, hpub⟩ := clearAttempt_spec (s7.sendInvalidations t p h rows) t p
  clear_value s8
  rw [← hend] at h8 hundo hpub
  obtain ⟨-, hg, -, hs⟩ := (hsent.sets t p).trans h8
  simp only [h6] at hg hs
  have hpublished : s8.globals.published = satAdd 64 s.globals.published 1 := by
    rw [hpub, hsent.published, h6p, h5.published]
  split
  · refine ⟨?_, .inr ?_, hpublished, ?_⟩
    · rw [setAt_updSet_self]
      exact hg
    · rw [setAt_updSet_self]
      exact hrest
    · rw [runAt_updSet]
      exact hundo
  · have hopen := keepsStanding_wantOpen s8 t p
    obtain ⟨-, hg', -, hs'⟩ := hopen.sets t p
    refine ⟨hg'.trans hg, .inl (hs'.trans hs), hopen.published.trans hpublished, ?_⟩
    unfold State.wantOpen
    split
    · exact hundo
    · rw [runAt_updRun_self]
      exact hundo

/-! ### The result of a reduction (R240, R243) -/

theorem keepsStanding_contributeApply {s : State} {t p : Nat} (h : (setAt s t p).mode ≠ 2) (ok : Bool) (sum : Nat) (fatal : Bool) :
    KeepsStanding s (s.contributeApply t p ok sum fatal) := by
  unfold State.contributeApply
  dsimp only
  rw [if_neg h]
  exact (keepsStanding_updRun s t p).trans (keepsStanding_startReduction ..)

/-- The try for the pin word leaves the set applying (R242). -/
theorem keepsStanding_tryPin (s : State) (t p : Nat) : KeepsStanding s (s.tryPin t p) := by
  unfold State.tryPin
  extract_lets x off
  have hfail : ∀ u, x.mode ≠ 2 → KeepsStanding s u → KeepsStanding s (u.contributeApply t p false 0 false) := fun u hmode hu => by
    obtain ⟨hm, -⟩ := hu.sets t p
    exact hu.trans (keepsStanding_contributeApply (hm ▸ hmode) ..)
  split
  · exact .refl s
  next hpin =>
    have hmode : x.mode ≠ 2 := by
      intro h
      simp [h] at hpin
    split
    · exact .refl s
    · exact hfail _ hmode (keepsStanding_ownFail ..)
    · exact .ite (.refl s) (.ite (hfail _ hmode (keepsStanding_genBlockBad ..)) (.ite (keepsStanding_touchBias ..)
        (((keepsStanding_touchBias ..).trans (keepsStanding_writeDpa ..)).trans (keepsStanding_updRun ..))))

/-- A vote that succeeded: the set applies for its next generation. -/
theorem voteResult_succeeded {s : State} {t p : Nat} {r : Reduction} (hok : r.ok = true) (hsum : r.sum = (setAt s t p).voteExpected) :
    (setAt (s.voteResult t p r) t p).state = 3 ∧ (setAt (s.voteResult t p r) t p).generation = (setAt s t p).generation := by
  unfold State.voteResult
  extract_lets s1
  have h1 : setAt s1 t p = setAt s t p := setAt_updRun ..
  rw [if_pos (by simp [hok, hsum])]
  obtain ⟨-, hg, -, hs⟩ := (keepsStanding_tryPin
    ((s1.updSet t p fun x => { x with state := 3 }).updRun t p fun q => { q with voteSucceeded := true }) t p).sets t p
  simp only [setAt_updRun, setAt_updSet_self] at hg hs
  exact ⟨hs, hg.trans (congrArg SetState.generation h1)⟩

theorem voteResult_failed {s : State} {t p : Nat} {r : Reduction} (h : r.ok = false ∨ r.sum ≠ (setAt s t p).voteExpected) :
    ∃ s1, KeepsStanding s s1 ∧ s.voteResult t p r = s1.abandon t p true false := by
  unfold State.voteResult
  extract_lets s1
  refine ⟨s1, keepsStanding_updRun s t p, if_neg ?_⟩
  rcases h with h | h <;> simp [h]

theorem applyResult_succeeded {s : State} {t p : Nat} {r : Reduction} (hok : r.ok = true) (hf : r.fatal = false)
    (hsum : r.sum = presentLayers s t p) : ∃ s1, KeepsStanding s s1 ∧ s.applyResult t p r = s1.publish t p := by
  unfold State.applyResult
  extract_lets s1
  exact ⟨s1, keepsStanding_updRun s t p, if_pos (by simp [hok, hf, hsum])⟩

theorem applyResult_failed {s : State} {t p : Nat} {r : Reduction}
    (h : r.ok = false ∨ r.fatal = true ∨ r.sum ≠ presentLayers s t p) :
    ∃ s1, KeepsStanding s s1 ∧ s.applyResult t p r = s1.abandon t p false r.fatal := by
  unfold State.applyResult
  extract_lets s1
  refine ⟨s1, keepsStanding_updRun s t p, if_neg ?_⟩
  rcases h with h | h | h <;> simp [h]

/-! ### Rounds (R240, R241) -/

theorem sendRound_onlyLinks (s : State) (t p : Nat) : ∃ k, s.sendRound t p = { s with links := k } := by
  unfold State.sendRound
  split
  · split
    · exact ⟨_, rfl⟩
    · exact ⟨_, rfl⟩
  · exact ⟨_, rfl⟩

section
variable {s : State} {t p : Nat} {r : Reduction} (hr : (runAt s t p).reduction = some r)
include hr

theorem reduceOnce_round {d : Nat} {rest : List Nat} {m : VoteMsg} (hd : r.dims = d :: rest)
    (hm : ((runAt s t p).held.find? fun m => m.attempt = (setAt s t p).attempts && m.phase = r.phase && m.round = d) = some m) :
    reduceOnce s t p = some (s.combine t p r m) := by
  simp only [reduceOnce, hr, hd, hm, Option.map_some]

theorem reduceOnce_result (hd : r.dims = []) (hw : endWaits s t p = false) :
    reduceOnce s t p = some (if r.phase = 0 then s.voteResult t p r else s.applyResult t p r) := by
  simp only [reduceOnce, hr, hd, hw, Bool.false_eq_true, if_false]

end

/-- A change of the set's running part and the message of the round it begins leave the rest of the set. -/
theorem sentRound_spec (s : State) (t p : Nat) (f : SetRun → SetRun) {u : State} (hu : u = (s.updRun t p f).sendRound t p) :
    runAt u t p = f (runAt s t p) ∧ setAt u t p = setAt s t p ∧ jobFrozen u t p = jobFrozen s t p ∧
    (tenantAt u t).watch = (tenantAt s t).watch ∧ u.mem = s.mem := by
  obtain ⟨k, hk⟩ := sendRound_onlyLinks (s.updRun t p f) t p
  subst hu
  rw [hk]
  exact ⟨runAt_updRun_self .., setAt_updRun .., isFrozen_updRun .., watch_updRun .., rfl⟩

theorem runAt_freezeJob (s : State) (t p cause address : Nat) (layer : Option (Nat × List Byte)) (u q : Nat) :
    runAt (s.freezeJob t p cause address layer) u q = runAt s u q := by
  unfold State.freezeJob
  split
  · rfl
  · rw [runAt_freeze, runAt_updSet]

/-- A round combines the partner's message, which leaves the held ones, and freezes the job where the message differs. -/
theorem combine_spec (s : State) (t p : Nat) (r : Reduction) (m : VoteMsg) {same : Bool}
    (hsame : same = decide (m.digest = (setAt s t p).digest ∧ m.target = (setAt s t p).generation + 1)) :
    (runAt (s.combine t p r m) t p).held = (runAt s t p).held.erase m ∧
    (runAt (s.combine t p r m) t p).reduction = some { r with
      ok := r.ok && m.ok && same, sum := (r.sum + m.sum) % 2 ^ 32, fatal := r.fatal || m.fatal, dims := r.dims.tail } ∧
    (same = false → jobFrozen (s.combine t p r m) t p = true) ∧
    (same = true → jobFrozen (s.combine t p r m) t p = jobFrozen s t p) ∧ (s.combine t p r m).mem = s.mem := by
  have hmatch : (decide (m.digest = (setAt s t p).digest) && decide (m.target = (setAt s t p).generation + 1)) = same := by
    rw [hsame, Bool.decide_and]
  unfold State.combine
  extract_lets x same' s1 r'
  have hs' : same' = same := hmatch
  clear_value same'
  subst hs'
  obtain ⟨hrun, -, hfrozen, -, hmem⟩ := sentRound_spec s1 t p (fun q => { q with reduction := some r', held := q.held.erase m }) rfl
  rw [hrun, hfrozen, hmem]
  cases same' with
  | true => exact ⟨rfl, rfl, fun h => absurd h (by decide), fun _ => rfl, rfl⟩
  | false =>
    obtain ⟨v, l, hfreeze⟩ := freezeJob_spec s t p 0x80 0 none
    have hheld : runAt s1 t p = runAt s t p := runAt_freezeJob ..
    refine ⟨by rw [hheld], rfl, fun _ => jobFrozen_freezeJob .., fun h => absurd h (by decide), ?_⟩
    exact (congrArg State.mem hfreeze :)

/-! ### A contribution (R134, R238) -/

/-- What a capture keeps of the set that contributes: its watch records, its dimensions, and every byte of the tiers. -/
structure CaptureKeeps (t p : Nat) (s u : State) : Prop where
  watch : (tenantAt u t).watch = (tenantAt s t).watch
  dims : voteDimsOf u t p = voteDimsOf s t p
  fast : u.mem.fast = s.mem.fast
  slow : u.mem.slow = s.mem.slow

theorem CaptureKeeps.refl (t p : Nat) (s : State) : CaptureKeeps t p s s := ⟨rfl, rfl, rfl, rfl⟩

theorem CaptureKeeps.trans {t p : Nat} {s u w : State} (h : CaptureKeeps t p s u) (h' : CaptureKeeps t p u w) : CaptureKeeps t p s w :=
  ⟨h'.watch.trans h.watch, h'.dims.trans h.dims, h'.fast.trans h.fast, h'.slow.trans h.slow⟩

theorem CaptureKeeps.of_tenants {t p : Nat} {s u : State} (ht : u.tenants = s.tenants) (hb : KeepsBytes s u) : CaptureKeeps t p s u := by
  have htenant : tenantAt u t = tenantAt s t := by rw [tenantAt, ht, tenantAt]
  exact ⟨by rw [htenant], by rw [voteDimsOf, setAt, htenant, voteDimsOf, setAt], hb.fast, hb.slow⟩

theorem captureKeeps_updSet (s : State) (t p : Nat) {f : SetState → SetState}
    (hf : ∀ x, (f x).voteDims = x.voteDims := by exact fun _ => rfl) : CaptureKeeps t p s (s.updSet t p f) :=
  ⟨watch_updSet .., by rw [voteDimsOf, setAt_updSet_self, hf, voteDimsOf], rfl, rfl⟩

theorem captureKeeps_updRun (s : State) (t p : Nat) (f : SetRun → SetRun) : CaptureKeeps t p s (s.updRun t p f) :=
  ⟨watch_updRun .., by rw [voteDimsOf, setAt_updRun, voteDimsOf], rfl, rfl⟩

theorem captureKeeps_freezeJob (s : State) (t p cause address : Nat) (layer : Option (Nat × List Byte)) :
    CaptureKeeps t p s (s.freezeJob t p cause address layer) := by
  unfold State.freezeJob
  split
  · exact .refl ..
  · exact (captureKeeps_updSet s t p).trans ⟨watch_freeze .., by rw [voteDimsOf, setAt_freeze, voteDimsOf], rfl, rfl⟩

theorem captureKeeps_reportAt (s : State) (t p cause va : Nat) : CaptureKeeps t p s (s.reportAt t cause va) := by
  unfold State.reportAt
  split
  · next d _ =>
    split
    · obtain ⟨ht, -⟩ := fastUncorrectable_tenants s d
      exact .of_tenants ht (keepsBytes_fastUncorrectable ..)
    · exact .refl ..
  · obtain ⟨ht, -⟩ := noteWalk_tenants s (walk s t va)
    exact .of_tenants ht (keepsBytes_noteWalk ..)

theorem captureKeeps_capture (s : State) (t p h : Nat) : CaptureKeeps t p s (s.capture t p h).1 := by
  unfold State.capture
  refine foldl_keeps (P := fun acc : State × Bool => CaptureKeeps t p s acc.1) _ (fun acc o hacc => ?_) _ _ (.refl ..)
  split
  · exact hacc
  · split
    · exact hacc.trans ((captureKeeps_reportAt ..).trans (captureKeeps_freezeJob ..))
    · next c _ =>
      extract_lets s1 s2
      have h1 : CaptureKeeps t p acc.1 s1 := captureKeeps_updRun ..
      have h2 : CaptureKeeps t p s1 s2 := by
        unfold s2
        split
        · exact captureKeeps_updSet ..
        · exact .refl ..
      exact hacc.trans (h1.trans h2)

/-- A clean capture finds every owning chip in service. -/
theorem capture_clean {s : State} {t p h : Nat} (hclean : (s.capture t p h).2 = true) : ∀ c ∈ owningChips s t p, chipState s c = 2 := by
  intro c hc
  obtain ⟨o, ho, rfl⟩ := List.mem_map.1 hc
  by_contra hchip
  have hfalse : (s.capture t p h).2 = false := by
    unfold State.capture
    refine foldl_reaches_mem (P := fun acc : State × Bool => acc.2 = false) _ ho (fun acc => ?_) (fun acc y _ hacc => ?_) _
    · rw [if_pos hchip]
    · split
      · rfl
      · split
        · rfl
        · simp [hacc]
  rw [hfalse] at hclean
  exact absurd hclean (by decide)

/-! ### Records close at the contribution (R134) -/

theorem tensorAt_eq_some {s : State} {t i : Nat} {r : TensorRecord} :
    tensorAt s t i = some r ↔ mget (tenantAt s t).watch.entries i = some (.tensor r) := by
  unfold tensorAt
  split
  · next r' h => simp [h]
  · next h => simpa using h r

theorem mem_recordsOf {s : State} {t p : Nat} (hwf : mwf (tenantAt s t).watch.entries = true) {i : Nat} {r : TensorRecord} :
    (i, r) ∈ recordsOf s t p ↔ tensorAt s t i = some r ∧ r.paramSet = p := by
  rw [tensorAt_eq_some]
  unfold recordsOf
  rw [List.mem_filterMap]
  constructor
  · rintro ⟨⟨j, e⟩, hmem, he⟩
    cases e with
    | history => cases he
    | tensor r' =>
      dsimp only at he
      split at he
      · next hp =>
        obtain ⟨rfl, rfl⟩ := Prod.mk.inj (Option.some.inj he)
        exact ⟨mget_of_mem hwf hmem, hp⟩
      · cases he
  · rintro ⟨hget, hp⟩
    exact ⟨(i, .tensor r), mem_of_mget hget, by simp [hp]⟩

theorem tensorAt_closeRecords {s : State} {t p : Nat} (hwf : mwf (tenantAt s t).watch.entries = true) {i : Nat} {r : TensorRecord}
    (hr : tensorAt s t i = some r) :
    tensorAt (s.closeRecords t p) t i = some (if r.paramSet = p then r.close else r) := by
  unfold State.closeRecords
  have hstep : ∀ u (e : Nat × TensorRecord), tensorAt (u.setTensor t e.1 e.2.close) t i =
      if i = e.1 then some e.2.close else tensorAt u t i := fun u e => tensorAt_setTensor ..
  by_cases hp : r.paramSet = p
  · rw [if_pos hp]
    refine foldl_reaches_mem (P := fun u => tensorAt u t i = some r.close) _ ((mem_recordsOf hwf).2 ⟨hr, hp⟩)
      (fun u => by rw [hstep, if_pos rfl]) (fun u e he hu => ?_) s
    rw [hstep]
    split
    · next hi =>
      obtain ⟨he', -⟩ := (mem_recordsOf hwf).1 he
      rw [← hi, hr] at he'
      rw [← Option.some.inj he']
    · exact hu
  · rw [if_neg hp]
    refine List.foldlRecOn (motive := fun u => tensorAt u t i = some r) _ _ hr fun u hu e he => ?_
    rw [hstep]
    split
    · next hi =>
      obtain ⟨he', hset⟩ := (mem_recordsOf hwf).1 he
      rw [← hi, hr] at he'
      rw [← Option.some.inj he'] at hset
      exact absurd hset hp
    · exact hu

/-- Closing records changes the sounding state of the tenant alone. -/
theorem closeRecords_frame (s : State) (t p : Nat) : setAt (s.closeRecords t p) t p = setAt s t p ∧ (s.closeRecords t p).mem = s.mem := by
  refine foldl_keeps (P := fun u : State => setAt u t p = setAt s t p ∧ u.mem = s.mem) _ (fun u e hu => ?_) _ _ ⟨rfl, rfl⟩
  obtain ⟨hset, hmem⟩ := hu
  exact ⟨(setAt_updWatch ..).trans hset, hmem⟩

/-- A contribution to a vote: the records close, and the module enters the reduction with its parts, clean only where nothing
stands against it. -/
theorem contribute_spec {s : State} {t p : Nat} (hmode : (setAt s t p).mode = 1) (hwf : mwf (tenantAt s t).watch.entries = true) :
    ∃ w ok, s.contribute t p = w.reduceAll t p ∧
      (runAt w t p).reduction = some { phase := 0, ok := ok, sum := bitCount (setAt s t p).arrivals.toNat, fatal := false,
                                       dims := voteDimsOf s t p } ∧
      (setAt w t p).contributed = true ∧ (setAt w t p).state = 2 ∧
      (ok = true → (setAt s t p).poisoned = false ∧ (setAt s t p).resetSeen = false ∧ (setAt s t p).forced = 0 ∧
        jobFrozen w t p = false ∧ ∀ c ∈ owningChips s t p, chipState s c = 2) ∧
      (∀ i r, tensorAt s t i = some r → r.paramSet = p → tensorAt w t i = some r.close) ∧
      (∀ i r, tensorAt s t i = some r → r.paramSet ≠ p → tensorAt w t i = some r) ∧
      w.mem.fast = s.mem.fast ∧ w.mem.slow = s.mem.slow := by
  unfold State.contribute
  extract_lets x h cap s1 clean s2
  have hcap : CaptureKeeps t p s cap.1 := captureKeeps_capture ..
  obtain ⟨hset1, hmem1⟩ : setAt s1 t p = setAt cap.1 t p ∧ s1.mem = cap.1.mem := closeRecords_frame ..
  have htensor : ∀ i r, tensorAt s t i = some r → tensorAt s1 t i = some (if r.paramSet = p then r.close else r) := fun i r hr =>
    tensorAt_closeRecords (hcap.watch ▸ hwf) ((tensorAt_congr hcap.watch i).trans hr)
  clear_value s1
  have hset2 : setAt s2 t p = { setAt s1 t p with contributed := true, state := 2 } :=
    (setAt_updRun ..).trans (setAt_updSet_self ..)
  have hwatch2 : (tenantAt s2 t).watch = (tenantAt s1 t).watch := (watch_updRun ..).trans (watch_updSet ..)
  have hfrozen2 : jobFrozen s2 t p = jobFrozen s1 t p := (isFrozen_updRun ..).trans (isFrozen_updSet ..)
  have hmem2 : s2.mem = s1.mem := rfl
  have hdims : voteDimsOf s2 t p = voteDimsOf s t p := by
    rw [← hcap.dims, voteDimsOf, hset2, hset1, voteDimsOf]
  have hclean : clean = true → cap.2 = true ∧ x.poisoned = false ∧ x.resetSeen = false ∧ x.forced = 0 ∧ jobFrozen s1 t p = false := by
    intro hc
    simp only [clean, jobTroubled, Bool.and_eq_true, Bool.not_eq_true', Bool.or_eq_false_iff, decide_eq_true_eq] at hc
    obtain ⟨⟨⟨⟨hcaptured, hpoisoned⟩, hreset⟩, hforced⟩, hjob, -⟩ := hc
    exact ⟨hcaptured, hpoisoned, hreset, hforced, hjob⟩
  rw [if_neg (by rw [show x.mode = 1 from hmode]; decide)]
  obtain ⟨hrun, hset, hfrozen, hwatch, hmem⟩ := sentRound_spec s2 t p (fun r => { r with
    reduction := some { phase := 0, ok := clean, sum := bitCount x.arrivals.toNat, fatal := false, dims := voteDimsOf s2 t p } }) rfl
  refine ⟨s2.startReduction t p 0 clean (bitCount x.arrivals.toNat) false, clean, rfl, ?_⟩
  unfold State.startReduction
  rw [hrun, hset, hset2, hfrozen, hfrozen2, hmem, hmem2, hmem1, ← hdims]
  refine ⟨rfl, rfl, rfl, fun hc => ?_, fun i r hr hp => ?_, fun i r hr hp => ?_, hcap.fast, hcap.slow⟩
  · obtain ⟨hcaptured, hpoisoned, hreset, hforced, hjob⟩ := hclean hc
    exact ⟨hpoisoned, hreset, hforced, hjob, capture_clean hcaptured⟩
  · rw [tensorAt_congr (hwatch.trans hwatch2), htensor i r hr, if_pos hp]
  · rw [tensorAt_congr (hwatch.trans hwatch2), htensor i r hr, if_neg hp]

/-! ### The rows -/

/-- A contribution that is due and waits for nothing is made. -/
theorem exec_voteContribution {s s1 : State} {t p n : Nat} {ecc : Ecc} (hs : s1 = ((s.springTick n).redraw).fastEcc ecc)
    (hpast : watchdogPast s1 t p = false) (hstate : (setAt s1 t p).state = 1) (hnew : (setAt s1 t p).contributed = false)
    (hwaits : contributionWaits s1 t p = false)
    (hdue : (setAt s1 t p).forced ≠ 0 ∨ jobFrozen s1 t p = true ∨
      ((setAt s1 t p).arrivals = (setAt s1 t p).partMask ∧ ∀ c ∈ owningChips s1 t p, chipState s1 c ≠ 1 ∧ chipState s1 c ≠ 3)) :
    exec (.voteContribution t p n ecc) s = .next (s1.contribute t p) := by
  have hx : exec (.voteContribution t p n ecc) s = execVoteContribution t p n ecc s := rfl
  have hready : (decide ((setAt s1 t p).forced ≠ 0) || jobTroubled s1 t p || (decide ((setAt s1 t p).arrivals = (setAt s1 t p).partMask) &&
      !(owningChips s1 t p).any fun c => chipState s1 c = 1 || chipState s1 c = 3)) = true := by
    rcases hdue with hforced | hjob | ⟨hall, hchips⟩
    · simp [hforced]
    · simp [jobTroubled, hjob]
    · have hnone : ((owningChips s1 t p).any fun c => chipState s1 c = 1 || chipState s1 c = 3) = false := by
        simpa [List.any_eq_false] using hchips
      simp [hall, hnone]
  simp only [hx, execVoteContribution, ← hs, hpast, Bool.false_eq_true, if_false, hstate, hnew, hwaits, decide_true, Bool.not_false,
    Bool.and_true, hready, if_true]

theorem holdVote_spec (s : State) {m : VoteMsg} (h : (setAt s m.tenant m.set).attempts ≤ m.attempt) :
    s.holdVote m = (s.updRun m.tenant m.set fun r => { r with held := r.held ++ [m] }).reduceAll m.tenant m.set :=
  if_neg (Nat.not_lt.2 h)

/-- A message of the vote or of the apply is held, and the reduction moves on (R240). -/
theorem exec_reductionMessage {s : State} {pk : Packet} {ph : Nat} {x : Instr}
    (hx : ph = 0 ∧ x = .voteMessage pk ∨ ph = 1 ∧ x = .applyMessage pk) (hok : votePacketOk s pk ph = true) :
    exec x s = .next ((s.redraw.takePacket pk).holdVote (voteOf pk.data)).settleAcks := by
  rcases hx with ⟨rfl, rfl⟩ | ⟨rfl, rfl⟩
  · have hrow : exec (.voteMessage pk) s = execVoteMessage pk s := rfl
    simp only [hrow, execVoteMessage, voteMessageRow, hok, if_true]
  · have hrow : exec (.applyMessage pk) s = execApplyMessage pk s := rfl
    simp only [hrow, execApplyMessage, applyMessageRow, hok, if_true]

theorem reductionMessage_held {s : State} {pk : Packet} {m : VoteMsg} (hm : voteOf pk.data = m)
    (hnew : (setAt s m.tenant m.set).attempts ≤ m.attempt) {ph : Nat} {x : Instr}
    (hx : ph = 0 ∧ x = .voteMessage pk ∨ ph = 1 ∧ x = .applyMessage pk) (hok : votePacketOk s pk ph = true) :
    ∃ w, exec x s = .next ((w.reduceAll m.tenant m.set).settleAcks) ∧
      (runAt w m.tenant m.set).held = (runAt s m.tenant m.set).held ++ [m] ∧ w.links.inbox = s.links.inbox.erase pk ∧
      setAt w m.tenant m.set = setAt s m.tenant m.set ∧ w.mem = s.mem ∧ w.tiles = s.tiles := by
  subst hm
  have hrow := exec_reductionMessage hx hok
  rw [holdVote_spec (s.redraw.takePacket pk) hnew] at hrow
  refine ⟨_, hrow, ?_, rfl, ?_, rfl, rfl⟩
  · rw [runAt_updRun_self]
    rfl
  · rw [setAt_updRun]
    rfl

/-- The result of a reduction (R240, R243, R244, R246, R363). -/
theorem reduction_ends {s : State} {t p : Nat} {r : Reduction} (hr : (runAt s t p).reduction = some r) (hd : r.dims = [])
    (hw : endWaits s t p = false) :
    ∃ u, reduceOnce s t p = some u ∧
      (r.phase = 0 → r.ok = true → r.sum = (setAt s t p).voteExpected →
        (setAt u t p).state = 3 ∧ (setAt u t p).generation = (setAt s t p).generation) ∧
      (r.phase ≠ 0 → r.ok = true → r.fatal = false → r.sum = presentLayers s t p →
        (setAt u t p).generation = (setAt s t p).generation + 1 ∧
        ((setAt u t p).state = 4 ∨ (setAt u t p).state = restingState s t p) ∧
        u.globals.published = satAdd 64 s.globals.published 1 ∧ (runAt u t p).undo = []) ∧
      ((r.phase = 0 ∧ (r.ok = false ∨ r.sum ≠ (setAt s t p).voteExpected)) ∨
        (r.phase ≠ 0 ∧ (r.ok = false ∨ r.fatal = true ∨ r.sum ≠ presentLayers s t p)) →
        (setAt u t p).generation = (setAt s t p).generation ∧ (setAt u t p).skips = (setAt s t p).skips + 1 ∧
        (setAt u t p).state = restingState s t p ∧ u.globals.published = s.globals.published ∧ (runAt u t p).undo = []) := by
  have habandon : ∀ s1 voteFailed fatal, KeepsStanding s s1 → ∀ u, u = s1.abandon t p voteFailed fatal →
      (setAt u t p).generation = (setAt s t p).generation ∧ (setAt u t p).skips = (setAt s t p).skips + 1 ∧
      (setAt u t p).state = restingState s t p ∧ u.globals.published = s.globals.published ∧ (runAt u t p).undo = [] := by
    rintro s1 voteFailed fatal hs1 _ rfl
    obtain ⟨hg, hk, hs, hp, hu⟩ := abandon_spec s1 t p voteFailed fatal
    obtain ⟨-, hg1, hk1, -⟩ := hs1.sets t p
    exact ⟨hg.trans hg1, by rw [hk, hk1], hs.trans (restingState_congr (hs1.released t p)), hp.trans hs1.published, hu⟩
  refine ⟨_, reduceOnce_result hr hd hw, ?_⟩
  by_cases hphase : r.phase = 0
  · rw [if_pos hphase]
    refine ⟨fun _ hok hsum => voteResult_succeeded hok hsum, fun h => absurd hphase h, fun hfail => ?_⟩
    rcases hfail with ⟨-, hfail⟩ | ⟨h, -⟩
    · obtain ⟨s1, hs1, hu⟩ := voteResult_failed hfail
      exact habandon s1 true false hs1 _ hu
    · exact absurd hphase h
  · rw [if_neg hphase]
    refine ⟨fun h => absurd h hphase, fun _ hok hf hsum => ?_, fun hfail => ?_⟩
    · obtain ⟨s1, hs1, hu⟩ := applyResult_succeeded hok hf hsum
      obtain ⟨hg, hs, hp, hundo⟩ := publish_spec s1 t p
      obtain ⟨-, hg1, -, -⟩ := hs1.sets t p
      rw [hg1] at hg
      rw [restingState_congr (hs1.released t p)] at hs
      rw [hs1.published] at hp
      rw [hu]
      exact ⟨hg, hs, hp, hundo⟩
    · rcases hfail with ⟨h, -⟩ | ⟨-, hfail⟩
      · exact absurd h hphase
      · obtain ⟨s1, hs1, hu⟩ := applyResult_failed hfail
        exact habandon s1 false r.fatal hs1 _ hu

/-- Settles O28: the contribution, the messages, a round, and the result. -/
theorem reductionsEndTheAttempt : Obligations.ReductionsEndTheAttempt := by
  unfold Obligations.ReductionsEndTheAttempt
  refine ⟨⟨?_, ?_, ?_⟩, fun s t p r hr hd hw => reduction_ends hr hd hw⟩
  · intro s s1 t p n ecc hs hpast x hstate hnew hmode hwaits hwf hdue
    obtain ⟨w, ok, hw, hspec⟩ := contribute_spec hmode hwf
    exact ⟨w, ok, (exec_voteContribution hs hpast hstate hnew hwaits hdue).trans (by rw [hw]), hspec⟩
  · intro s pk m hm hnew ph x hx hok
    exact reductionMessage_held hm hnew hx hok
  · intro s t p r m d rest hr hd hm same
    obtain ⟨hheld, hred, hdiffer, hagree, hmem⟩ := combine_spec s t p r m (same := same) rfl
    rw [hd] at hred
    exact ⟨_, reduceOnce_round hr hd hm, hheld, hred, hdiffer, hagree, hmem⟩

end Sys2Proof.Machine
end

section
/-!
PROOF. O25: what a translation gives (R153, R155).
-/

namespace Sys2Proof.Machine

/-- A leaf that is let through grants what was asked; to another module it lets no instruction be fetched, and on this one it
lies on a page of the tenant's own, outside the areas of the module's own (R153, R155). -/
theorem checkLeaf_ok {s : State} {tenant va leaf : Nat} {giant : Bool} {need : Need} {b : Nat}
    (h : checkLeaf s tenant va leaf giant need = .ok b) :
    b = leafTarget leaf va giant ∧ leafGrants leaf need = true ∧ (boardSlotOf b ≠ s.service.boardSlot → need ≠ .x) ∧
      (boardSlotOf b = s.service.boardSlot → targetAllowed s tenant (boardDpa b) = true) := by
  unfold checkLeaf at h
  dsimp only at h
  split at h
  · cases h
  next hgrants =>
  have hgrants : leafGrants leaf need = true := by simpa using hgrants
  split at h
  next hremote =>
    split at h
    · cases h
    next hx =>
    cases h
    exact ⟨rfl, hgrants, fun _ => hx, fun hlocal => absurd hlocal hremote⟩
  next hlocal =>
    split at h
    next hallowed =>
      cases h
      exact ⟨rfl, hgrants, fun hremote => absurd hremote hlocal, fun _ => hallowed⟩
    · cases h

/-- What R155 lets a tenant reach on this module. -/
theorem targetAllowed_iff {s : State} {tenant d : Nat} :
    targetAllowed s tenant d = true ↔
      ∃ p, pageOf s.mem d = some p ∧ ownsPage s tenant p = true ∧ inPtArea s.mem d = false ∧ inQueueArea s d = false := by
  unfold targetAllowed
  cases pageOf s.mem d with
  | none => simp
  | some p => simp [and_comm]

/-- A translation leaves the tenants alone. -/
theorem translate_tenants (s : State) (region tenant va : Nat) (need : Need) :
    (s.translate region tenant va need).1.tenants = s.tenants := by
  unfold State.translate
  dsimp only
  split
  · split
    · rfl
    · split
      · rfl
      · split
        · rfl
        · exact (noteWalk_tenants ..).1
  · split
    · rfl
    · split
      · rfl
      · exact (noteWalk_tenants ..).1

/-- The board address of a translation is that of a leaf that is let through. -/
theorem translate_ok {s t : State} {region tenant va : Nat} {need : Need} {b : Nat}
    (h : s.translate region tenant va need = (t, .ok b)) : ∃ leaf giant, checkLeaf s tenant va leaf giant need = .ok b := by
  unfold State.translate at h
  dsimp only at h
  split at h
  · split at h
    · exact ⟨_, _, (Prod.ext_iff.1 h).2⟩
    · split at h
      · cases h
      · split at h
        · exact ⟨_, _, (Prod.ext_iff.1 h).2⟩
        · cases h
  · split at h
    · cases h
    · split at h
      · exact ⟨_, _, (Prod.ext_iff.1 h).2⟩
      · cases h

/-- Settles O25: a translation keeps every byte, and the address it gives comes from a leaf that `checkLeaf` lets through. -/
theorem tenantsReachOnlyTheirPages : Obligations.TenantsReachOnlyTheirPages := by
  unfold Obligations.TenantsReachOnlyTheirPages
  intro s t region tenant va need r h
  obtain ⟨htiles, hfast, hslow⟩ := keepsBytes_translate s region tenant va need
  have htenants := translate_tenants s region tenant va need
  rw [h] at htiles hfast hslow htenants
  refine ⟨htiles, htenants, fun k => by rw [fastByte, hfast, fastByte], fun k => by rw [slowByte, hslow, slowByte], ?_⟩
  rintro b rfl
  obtain ⟨leaf, giant, hleaf⟩ := translate_ok h
  obtain ⟨hb, hgrants, hremote, hlocal⟩ := checkLeaf_ok hleaf
  exact ⟨⟨leaf, giant, hb, hgrants⟩, hremote, fun hslot => targetAllowed_iff.1 (hlocal hslot)⟩

end Sys2Proof.Machine
end

section
/-!
SUPPORT. What an access to the fast tier leaves beside its bytes: the marks and reports of what it found, and the requests for
lines in host bias (R185, R301, R302, R368). A translation that reaches its page fills the cache alone (R156).
-/

namespace Sys2Proof.Machine

/-- The fast tier's marks after an access found words it could not correct (R185). -/
def foundBad (m : MemState) (bad : List Nat) : List Nat :=
  bad.foldl (fun b d => match fastKey m d with | some k => ninsert b (k / 16) | none => b) m.fastBad

/-- What an access found marks words of the fast tier, and reports (R185, R368). -/
theorem fastEcc_spec (s : State) (e : Ecc) :
    ∃ log, s.fastEcc e = { s with mem := { s.mem with fastBad := foundBad s.mem e.bad }, log := log } := by
  unfold State.fastEcc
  refine foldl_keeps (P := fun t : State =>
    ∃ log, t = { s with mem := { s.mem with fastBad := foundBad s.mem e.bad }, log := log }) _ ?_ _ _ ⟨s.log, rfl⟩
  rintro _ d ⟨log, rfl⟩
  dsimp only
  split
  · exact (report_onlyLog ..).imp fun _ h => h
  · exact ⟨log, rfl⟩

/-- An access that may touch host-bias pages asks the host for their lines, and changes nothing else (R301). -/
theorem touchBias_spec (s : State) (a n : Nat) :
    ∃ b, s.touchBias a n = { s with host := { s.host with biasRequests := b } } := by
  unfold State.touchBias
  dsimp only
  split
  · exact ⟨_, rfl⟩
  · exact ⟨_, rfl⟩

/-- Where the tables and the cache agree on a page the tenant may reach, a translation gives its address and changes the
translation cache alone (R152 to R156; log 7). -/
theorem translate_reaches {s : State} {region tenant va b : Nat} {need : Need} (h : Reaches s region tenant need va b) :
    ∃ m, s.translate region tenant va need = ({ s with mem := { s.mem with tlb := m } }, .ok b) := by
  obtain ⟨-, leaf, giant, hwaits, hleaf, hcheck, hcached⟩ := h
  unfold State.translate
  dsimp only
  split
  next e he =>
    have hkey : (e.region = region ∧ e.tenant = tenant) ∧ e.vpn = va / 2 ^ 21 := by simpa using List.find?_some he
    obtain ⟨⟨hr, ht⟩, hv⟩ := hkey
    obtain ⟨hl, hg⟩ := hcached e (List.mem_of_find?_eq_some he) hr ht hv
    refine ⟨s.mem.tlb, ?_⟩
    split
    · rw [hl, hg, hcheck]
    · simp only [hwaits, hleaf, hcheck, Bool.false_eq_true, if_false]
  next =>
    simp only [hwaits, hleaf, hcheck, Bool.false_eq_true, if_false]
    exact ⟨_, rfl⟩

end Sys2Proof.Machine
end

section
/-!
PROOF. O15: requests that a controller sends back, and the demanded fetch of an instruction (R151, R155, R162, R181, R182).
-/

namespace Sys2Proof.Machine

/-! ### Requests that come back (R182) -/

/-- Only a request that waits in its address stream can hold a slot (R162). -/
theorem mem_holders {s : State} {t : Tile} {x : SlotReq} : ∀ {rs held : List SlotReq}, x ∈ holders s t rs held → x ∈ held ∨ x ∈ rs
  | [], _, h => .inl h
  | r :: rest, held, h => by
    unfold holders at h
    extract_lets same at h
    split at h
    · rcases mem_holders h with hheld | hrest
      · rcases List.mem_append.1 hheld with hheld | hr
        · exact .inl hheld
        · exact .inr (List.mem_cons.2 (.inl (List.mem_singleton.1 hr)))
      · exact .inr (List.mem_cons_of_mem _ hrest)
    · exact (mem_holders h).imp_right (List.mem_cons_of_mem _)

theorem mem_requestOrder_of_holdsSlot {s : State} {l : Nat} {r : SlotReq} (h : holdsSlot s l r = true) :
    r ∈ requestOrder (tileAt s l) :=
  (mem_holders (List.contains_iff_mem.1 h)).resolve_left List.not_mem_nil

/-- The order of a tile's requests after one of them is put back: the ones before it, those after it that are not later ones,
itself, and its later ones. -/
theorem requeue_order {t : Tile} {r : SlotReq} (h : r ∈ requestOrder t) (later : SlotReq → Bool) :
    ∃ before after, requestOrder t = before ++ r :: after ∧
      (t.requeue r later).order = before ++ (after.filter fun x => !later x) ++ [r] ++ after.filter later := by
  refine ⟨(requestOrder t).takeWhile fun x => x ≠ r, ((requestOrder t).dropWhile fun x => x ≠ r).drop 1, ?_, rfl⟩
  have hne : (requestOrder t).dropWhile (fun x => decide (x ≠ r)) ≠ [] := by
    rw [ne_eq, List.dropWhile_eq_nil_iff]
    intro hall
    simpa using hall r h
  have hhead := List.head_dropWhile_not (fun x => decide (x ≠ r)) hne
  have hcons := List.cons_head_tail hne
  rw [show ((requestOrder t).dropWhile fun x => decide (x ≠ r)).head hne = r by simpa using hhead] at hcons
  rw [List.drop_one, hcons, List.takeWhile_append_dropWhile]

/-- A request that comes back stands behind every request but the later ones to its bank group, which stand behind it. -/
theorem requeued_retryRequest {s : State} {l : Nat} {r : SlotReq} (h : holdsSlot s l r = true) : Requeued s l r (retryRequest s l r) := by
  obtain ⟨before, after, hbefore, hafter⟩ := requeue_order (mem_requestOrder_of_holdsSlot h)
    fun x => decide (reqGroup s (tileAt s l) x = reqGroup s (tileAt s l) r)
  have htile : tileAt (retryRequest s l r) l = (tileAt s l).requeue r
      fun x => decide (reqGroup s (tileAt s l) x = reqGroup s (tileAt s l) r) := tileAt_setTile_self ..
  unfold Requeued
  dsimp only
  rw [htile]
  refine ⟨rfl, fun j hj => mget_mset_ne _ _ hj, rfl, ?_, ?_, before ++ after.filter _, _, hafter.trans (List.append_assoc ..), fun x hx => (List.mem_filter.1 hx).2⟩
  · rw [hafter, hbefore]
    simp [List.filter_filter]
  · rw [hafter, hbefore]
    simp [List.filter_filter]

theorem exec_stackRetry (l : Nat) (r : RetriedRequest) (s : State) : exec (.stackRetry l r) s = execStackRetry l r s := rfl

/-- An access that holds a slot goes back to its address stream. -/
theorem stackRetry_access {l serial : Nat} {s : State} {a : Access}
    (ha : (tileAt s l).accesses.find? (fun x => x.serial = serial) = some a) (hlocal : isLocal s a.target = true)
    (hslot : holdsSlot s l (.access serial) = true) (index : Nat) :
    exec (.stackRetry l ⟨serial, index⟩) s = .next (retryRequest s l (.access serial)) := by
  simp [exec_stackRetry, execStackRetry, ha, hlocal, hslot]

section
variable {l serial tag : Nat} {s : State} {st : Stream}
  (hnone : (tileAt s l).accesses.find? (fun x => x.serial = serial) = none)
  (hst : (tileAt s l).streams.find? (fun x => x.2.serial = serial) = some (tag, st))
include hnone hst

/-- So does the request of a copy. -/
theorem stackRetry_copy (hk : st.kind = .copy) {b : Nat} (hb : st.target = some b) (hlocal : isLocal s b = true)
    (hfl : st.inflight = []) (hslot : holdsSlot s l (.copy serial) = true) (index : Nat) :
    exec (.stackRetry l ⟨serial, index⟩) s = .next (retryRequest s l (.copy serial)) := by
  simp [exec_stackRetry, execStackRetry, hnone, hst, hk, hslot, hfl, hb, hlocal]

/-- The read of a gather's index, of a row at its home or in the Pool, waits for a slot again. -/
theorem stackRetry_gather (hk : st.kind = .gather) {index b : Nat} :
    (mget st.routes index = some (.home b) → exec (.stackRetry l ⟨serial, index⟩) s =
      .next (s.setStream l tag { st with routes := mset st.routes index (.retryHome b) })) ∧
    ∀ k, mget st.routes index = some (.pool k b) → exec (.stackRetry l ⟨serial, index⟩) s =
      .next (s.setStream l tag { st with routes := mset st.routes index (.retryPool k b) }) := by
  constructor
  · intro hr
    simp [exec_stackRetry, execStackRetry, hnone, hst, hk, hr, State.setStream]
  · intro k hr
    simp [exec_stackRetry, execStackRetry, hnone, hst, hk, hr, State.setStream]

end

/-! ### Instruction fetch (R151, R155) -/

/-- A freeze of a group that did not issue is precise too (R62, R365). -/
theorem frozeGroup_freezeGroup {c : Ctx} (hb : mget c.tile.blocks c.slot = some c.block)
    (hg : c.block.groups[c.gi]? = some c.group) (cause address : Nat) : FrozeGroup c cause address (c.freezeGroup cause address) := by
  refine ⟨⟨{ c.record cause address with seq := (tenantAt c.s c.tenant).freezeSeq % 2 ^ 16 }, ?_, rfl, rfl, rfl, rfl, rfl, rfl, rfl⟩,
    ?_, ?_, rfl, ?_, fun l hl => mget_mset_ne _ _ hl, isFrozen_freeze ..⟩
  · simp [Ctx.freezeGroup, Ctx.record, tenantAt_freeze]
  · simp [Ctx.freezeGroup, tenantAt_freeze]
  · simp [Ctx.freezeGroup, groupIn, hb, hg]
  · simp [Ctx.freezeGroup]

/-- A line that is put into the instruction cache is there (R151). -/
theorem mget_icacheFill (pick : Nat) (m : SMap (Nat × List Byte)) (line : Nat) (v : Nat × List Byte) :
    mget (icacheFill pick m line v) line = some v := by
  unfold icacheFill
  split
  · exact mget_mset_self ..
  next hfull =>
    have hlen : 256 ≤ m.length := by
      by_contra hlt
      exact hfull (by simp [show m.length < 256 by omega])
    rw [List.getElem?_eq_getElem (Nat.mod_lt _ (by omega))]
    exact mget_mset_self ..

/-- A demanded line that can be read whole, on no host-bias page, is kept (R151, R302). -/
theorem fetchLine_kept {s : State} {l tenant va d : Nat} (hbad : dpaBad s (d / 256 * 256) 256 = false) (hbias : hostBias s d = false) :
    ∃ h m, fetchLine s l tenant va d = ({ s with host := h }).setTile l { tileAt s l with icache := m } ∧
      mget m (va / 256) = some (d / 256 * 256, dpaBytes s (d / 256 * 256) 256) := by
  unfold fetchLine
  obtain ⟨b, hb⟩ := touchBias_spec s d 8
  rw [hb]
  dsimp only
  have hkeep : (dpaBad { s with host := { s.host with biasRequests := b } } (d / 256 * 256) 256 ||
      hostBias { s with host := { s.host with biasRequests := b } } d) = false := Bool.or_eq_false_iff.2 ⟨hbad, hbias⟩
  rw [hkeep, if_neg Bool.false_ne_true]
  exact ⟨_, _, rfl, mget_icacheFill ..⟩

theorem exec_instructionFetch (l slot gi e : Nat) (ecc : Ecc) (s : State) :
    exec (.instructionFetch l slot gi e ecc) s = execInstructionFetch l slot gi e ecc s := rfl

section
variable {l slot gi e : Nat} {ecc : Ecc} {s : State} {c : Ctx}
  (h : groupCtx s { tile := l, slot := slot, group := gi, port := 0, elapsed := e } = some c)
include h

theorem instructionFetch_cached (hline : (mget c.tile.icache ((c.block.launch.params.entry + c.path.pc) / 256)).isSome = true) :
    exec (.instructionFetch l slot gi e ecc) s = .next c.s := by
  simp only [exec_instructionFetch, execInstructionFetch, h, hline, if_true]

theorem instructionFetch_outside (hline : mget c.tile.icache ((c.block.launch.params.entry + c.path.pc) / 256) = none)
    (hva : 2 ^ 48 ≤ c.block.launch.params.entry + c.path.pc) :
    exec (.instructionFetch l slot gi e ecc) s = .next (c.freezeGroup 0x20 (c.block.launch.params.entry + c.path.pc)) := by
  simp only [exec_instructionFetch, execInstructionFetch, h, hline, Option.isSome_none, Bool.false_eq_true, if_false, ge_iff_le, hva, if_true]

/-- What a fetch that misses the cache makes of its translation. -/
theorem instructionFetch_translates (hline : mget c.tile.icache ((c.block.launch.params.entry + c.path.pc) / 256) = none)
    (hva : c.block.launch.params.entry + c.path.pc < 2 ^ 48) {s1 : State} {r : Trans}
    (ht : c.s.translate (regionOf c.l) c.tenant (c.block.launch.params.entry + c.path.pc) .x = (s1, r)) :
    (∀ cause, r = .fail cause → exec (.instructionFetch l slot gi e ecc) s =
      .next (({ c with s := s1 } : Ctx).freezeGroup cause (c.block.launch.params.entry + c.path.pc))) ∧
    (∀ b, r = .ok b → dpaResetting s1 (boardDpa b) = false → dpaRetraining s1 (boardDpa b) = false →
      dpaBad (s1.fastEcc ecc) (boardDpa b) 8 = false → exec (.instructionFetch l slot gi e ecc) s =
      .next (fetchLine (s1.fastEcc ecc) c.l c.tenant (c.block.launch.params.entry + c.path.pc) (boardDpa b))) := by
  constructor
  · rintro cause rfl
    simp only [exec_instructionFetch, execInstructionFetch, h, hline, ht, Option.isSome_none, Bool.false_eq_true, if_false, ge_iff_le,
      Nat.not_le.2 hva]
  · rintro b rfl hreset htrain hbad
    simp only [exec_instructionFetch, execInstructionFetch, h, hline, ht, hreset, htrain, hbad, Option.isSome_none, Bool.false_eq_true,
      if_false, ge_iff_le, Nat.not_le.2 hva, Bool.or_false]

theorem instructionFetch_returns (hline : mget c.tile.icache ((c.block.launch.params.entry + c.path.pc) / 256) = none) {b va : Nat}
    (hva : va = c.block.launch.params.entry + c.path.pc)
    (hreach : Reaches c.s (regionOf c.l) c.tenant .x va b) (hreset : dpaResetting c.s (boardDpa b) = false)
    (htrain : dpaRetraining c.s (boardDpa b) = false) (hbias : hostBias c.s (boardDpa b) = false)
    (hword : dpaBad (c.s.fastEcc ecc) (boardDpa b) 8 = false)
    (hwhole : dpaBad (c.s.fastEcc ecc) (boardDpa b / 256 * 256) 256 = false) :
    ∃ t, exec (.instructionFetch l slot gi e ecc) s = .next t ∧
      mget (tileAt t c.l).icache (va / 256) = some (boardDpa b / 256 * 256, dpaBytes c.s (boardDpa b / 256 * 256) 256) ∧
      tileAt t c.l = { c.tile with icache := (tileAt t c.l).icache } ∧ SameMemory c.s t ∧ t.tenants = c.s.tenants := by
  subst hva
  obtain ⟨-, -, -, -, -, htile, -⟩ := groupCtx_spec h
  obtain ⟨m, ht⟩ := translate_reaches hreach
  obtain ⟨log, he⟩ := fastEcc_spec c.s ecc
  obtain ⟨log', he'⟩ := fastEcc_spec { c.s with mem := { c.s.mem with tlb := m } } ecc
  rw [he] at hword hwhole
  have hrun := (instructionFetch_translates (ecc := ecc) h hline hreach.1 ht).2 b rfl hreset htrain (by rw [he']; exact hword)
  obtain ⟨hh, ic, hfetch, hic⟩ := fetchLine_kept (s := ({ c.s with mem := { c.s.mem with tlb := m } } : State).fastEcc ecc) (l := c.l)
    (tenant := c.tenant) (va := c.block.launch.params.entry + c.path.pc) (d := boardDpa b) (by rw [he']; exact hwhole)
    (by rw [he']; exact hbias)
  rw [hfetch] at hrun
  rw [he'] at hrun hic
  refine ⟨_, hrun, ?_, ?_, ?_, rfl⟩
  · rw [tileAt_setTile_self]; exact hic
  · rw [tileAt_setTile_self, htile]; rfl
  · exact SameMemory.trans (t := { c.s with mem := _, log := _, host := _ }) ⟨fun _ => rfl, fun _ => rfl, fun _ _ => rfl⟩
      (sameMemory_setTile rfl)

end

/-- Settles O15: the address stream after a retry, and the three ends of a fetch. -/
theorem stackAndFetchServeTheTile : Obligations.StackAndFetchServeTheTile := by
  unfold Obligations.StackAndFetchServeTheTile
  refine ⟨fun l serial index s => ⟨fun a ha hlocal hslot => ?_, fun tag st hnone hst => ⟨fun hk b hb hlocal hfl hslot => ?_,
    fun hk b => stackRetry_gather hnone hst hk⟩⟩, ?_⟩
  · exact ⟨_, stackRetry_access ha hlocal hslot index, requeued_retryRequest hslot⟩
  · exact ⟨_, stackRetry_copy hnone hst hk hb hlocal hfl hslot index, requeued_retryRequest hslot⟩
  · intro l slot gi e ecc s c h
    obtain ⟨-, -, -, -, -, htile, -, hblock, hgroup, -⟩ := groupCtx_spec h
    refine ⟨fun hline => instructionFetch_cached h hline, fun hline => ⟨fun b => instructionFetch_returns h hline rfl,
      fun s1 cause hva ht => ?_, fun hva => ?_⟩⟩
    · exact ⟨_, (instructionFetch_translates h hline hva ht).1 cause rfl,
        frozeGroup_freezeGroup (c := { c with s := s1 }) hblock hgroup ..⟩
    · exact ⟨_, instructionFetch_outside h hline hva, frozeGroup_freezeGroup hblock hgroup ..⟩

end Sys2Proof.Machine
end

section
/-!
PROOF. O20: one request of a copy between local memories, and the next packet of an exchange from local memory (R149, R162,
R165, R166, R181, R279).
-/

namespace Sys2Proof.Machine

/-! ### The end of a request (R181, R301) -/

/-- What follows a request of a copy, its next aim and the acknowledgements that it settles, changes no memory and, of the
streams, where its own aims alone. -/
structure RequestEnds (l tag : Nat) (s t : State) : Prop where
  mem : t.mem = s.mem
  lm : ∀ j, (tileAt t j).lm = (tileAt s j).lm
  others : ∀ k, k ≠ tag → streamAt t l k = streamAt s l k
  aimed : ∀ st, streamAt s l tag = some st → ∃ x, streamAt t l tag = some { st with target := x }
  retired : streamAt s l tag = none → streamAt t l tag = none

theorem requestEnds_aimCopy (s : State) (l tenant tag : Nat) (old : Option Stream) :
    RequestEnds l tag s (s.aimCopy l tenant tag old) := by
  have hkeep : RequestEnds l tag s s := ⟨rfl, fun _ => rfl, fun _ _ => rfl, fun st h => ⟨st.target, h⟩, id⟩
  unfold State.aimCopy
  split
  next st hst =>
    split
    · exact hkeep
    · refine ⟨rfl, fun j => ?_, fun k hk => ?_, fun st' h => ⟨copyTarget s tenant st, ?_⟩, fun h => ?_⟩
      · rw [tileAt_setTile]
        split
        next hj => rw [hj]; rfl
        · rfl
      · rw [streamAt, tileAt_setTile_self]
        exact mget_mset_ne _ _ hk
      · obtain rfl := Option.some.inj (hst.symm.trans h)
        rw [streamAt, tileAt_setTile_self]
        exact mget_mset_self ..
      · rw [hst] at h
        cases h
  · exact hkeep

theorem AcksGiven.requestEnds {s t : State} (h : AcksGiven s t) (l tag : Nat) : RequestEnds l tag s t := by
  obtain ⟨⟨d, k, x, rfl⟩, htiles⟩ := h
  have hstream : ∀ k', streamAt { s with dict := d, host := k, tiles := x } l k' = streamAt s l k' := by
    intro k'
    obtain ⟨a, c, ht⟩ := htiles l
    rw [streamAt, ht, streamAt]
  refine ⟨rfl, fun j => ?_, fun k' _ => hstream k', fun st hst => ⟨st.target, by rw [hstream, hst]⟩, fun hn => by rw [hstream, hn]⟩
  obtain ⟨a, c, ht⟩ := htiles j
  rw [ht]

theorem RequestEnds.trans {l tag : Nat} {s t u : State} (h : RequestEnds l tag s t) (h' : RequestEnds l tag t u) :
    RequestEnds l tag s u := by
  refine ⟨h'.mem.trans h.mem, fun j => (h'.lm j).trans (h.lm j), fun k hk => (h'.others k hk).trans (h.others k hk), fun st hst => ?_,
    fun hn => h'.retired (h.retired hn)⟩
  obtain ⟨x, hx⟩ := h.aimed st hst
  obtain ⟨y, hy⟩ := h'.aimed _ hx
  exact ⟨y, hy⟩

theorem RequestEnds.lmByte {l tag : Nat} {s t : State} (h : RequestEnds l tag s t) (j a : Nat) : lmByte t j a = lmByte s j a := by
  unfold Machine.lmByte
  rw [h.lm]

theorem RequestEnds.sameMemory {l tag : Nat} {s t : State} (h : RequestEnds l tag s t) : SameMemory s t :=
  ⟨fun k => by rw [fastByte, h.mem, fastByte], fun k => by rw [slowByte, h.mem, slowByte], h.lmByte⟩

/-! ### A request that may complete (R162, R166) -/

/-- The module's memory and every tile are as before. -/
structure SameTiles (s u : State) : Prop where
  mem : u.mem = s.mem
  tile : ∀ j, tileAt u j = tileAt s j

theorem SameTiles.streamAt {s u : State} (h : SameTiles s u) (l k : Nat) : streamAt u l k = streamAt s l k := by
  rw [Machine.streamAt, h.tile, Machine.streamAt]

theorem SameTiles.sameMemory {s u : State} (h : SameTiles s u) : SameMemory s u :=
  ⟨fun k => by rw [fastByte, h.mem, fastByte], fun k => by rw [slowByte, h.mem, slowByte], fun l a => by rw [lmByte, h.tile, lmByte]⟩

/-- A stream that finds nothing wrong in local memory leaves it (R149). -/
theorem sameTiles_localEcc_none (s : State) (l tenant : Nat) : SameTiles s (s.localEcc l tenant { bad := [], corrected := [] }) := by
  refine ⟨rfl, fun j => ?_⟩
  show tileAt (s.setTile l (tileAt s l)) j = tileAt s j
  rw [tileAt_setTile]
  split
  next hj => rw [hj]
  · rfl

theorem exec_copyRequestComplete (l tag e : Nat) (ecc : Ecc) (s : State) :
    exec (.copyRequestComplete l tag e ecc) s = .next (copyRequestCompleteRow l tag e ecc s).settleAcks := rfl

/-- A copy that holds a slot makes its request, and ends it. -/
theorem copyRequest_completes {l tag e tenant : Nat} {s s1 : State} {st : Stream} (hs : s1 = (tick s l e).redraw)
    (ho : ownerOf s1 l = some tenant) (hreset : tileResetting s1 l = false) (hst : streamAt s1 l tag = some st) (hk : st.kind = .copy)
    (hslot : holdsSlot s1 l (.copy st.serial) = true) (hfrozen : streamFrozen s1 l tenant tag st = false) (hphase : st.phase = .moving)
    (hearlier : earlierDone (tileAt s1 l) st = true) (hfl : st.inflight = []) :
    ∃ u t, SameTiles s1 u ∧ exec (.copyRequestComplete l tag e { bad := [], corrected := [] }) s = .next t ∧
      RequestEnds l tag (copyRequest u l tenant tag st (decide (e > 0))) t := by
  refine ⟨if cSrcTenant st.desc then s1.fastEcc { bad := [], corrected := [] } else s1.localEcc l tenant { bad := [], corrected := [] },
    _, ?_, exec_copyRequestComplete .., ?_⟩
  · split
    · exact ⟨rfl, fun _ => rfl⟩
    · exact sameTiles_localEcc_none ..
  · unfold copyRequestCompleteRow
    dsimp only
    rw [← hs, ho, hst]
    dsimp only
    simp only [hreset, hfrozen, hphase, hearlier, hk, hfl, hslot, ne_eq, not_true_eq_false, decide_false, Bool.not_true, Bool.or_self,
      Bool.false_eq_true, if_false, List.isEmpty_nil]
    exact (requestEnds_aimCopy ..).trans ((settleAcks_acksGiven _).requestEnds l tag)

/-! ### The three requests (R165, R166) -/

/-- Good words of local memory are read whole (R149). -/
theorem readLocal_good {s : State} {l : Nat} (h : (tileAt s l).lmBad = []) (tenant a n : Nat) :
    readLocal s l tenant a n = (s, .data ((List.range n).map fun k => lmByte s l (a + k))) := by
  unfold readLocal
  dsimp only
  rw [h]
  simp only [List.contains_nil, List.find?_eq_none.2 (fun _ _ => Bool.false_ne_true)]
  rfl

/-- Where no word is bad, every byte that a stream writes into local memory lands (R149). -/
theorem writeLocal_good {s : State} {l : Nat} (h : (tileAt s l).lmBad = []) (tenant a : Nat) (bs : List Byte) :
    ∃ bad, writeLocal s l tenant a bs = (s.setTile l ((tileAt s l).setLm (writeBytes (tileAt s l).lm a bs) bad), .done) := by
  have hgood : readBad [] a bs.length = false := by simp [readBad]
  have hlands : (writeWords (tileAt s l).lm [] a bs).2.2 = false := by simp [writeWords]
  unfold writeLocal
  dsimp only
  rw [h, hlands, writeWords_of_good hgood, if_neg Bool.false_ne_true]
  exact ⟨_, rfl⟩

theorem pieceLen_local (a rem : Nat) : pieceLen a rem false = min rem (1024 - a % 1024) := rfl

section
variable {u : State} {l tenant tag : Nat} {st : Stream} (hsound : cSound st.desc < 4) (hbad : (tileAt u l).lmBad = []) (fresh : Bool)
include hsound

theorem copyRequest_fetch (hnext : st.next < copyTotal st.desc) (hout : st.outReady = false) {need : Nat}
    (hneed : sourceNeed st.desc (copyUnit st.desc st.next) (fetched st) = some need) (hlen : (fetched st).length < need) :
    copyRequest u l tenant tag st fresh = copyFetch u l tenant tag st (copyUnit st.desc st.next) need := by
  unfold copyRequest
  dsimp only
  rw [if_neg (by simp; omega), if_neg (by omega), if_neg (by simp [hout]), hneed]
  exact if_pos hlen

theorem copyRequest_write (hnext : st.next < copyTotal st.desc) (hout : st.outReady = true) :
    copyRequest u l tenant tag st fresh = copyWrite u l tenant tag st (copyUnit st.desc st.next) := by
  unfold copyRequest
  dsimp only
  rw [if_neg (by simp; omega), if_neg (by omega), if_pos hout]

theorem copyRequest_ends (hnext : copyTotal st.desc ≤ st.next) :
    copyRequest u l tenant tag st fresh = copyTail u l tenant tag st := by
  unfold copyRequest
  dsimp only
  rw [if_neg (by simp; omega), if_pos hnext]

include hbad

/-- A request that fetches from local memory. -/
theorem copyRequest_fetches (hnext : st.next < copyTotal st.desc) (hout : st.outReady = false) (hsrc : cSrcTenant st.desc = false)
    {a need : Nat} (ha : a = (copyUnit st.desc st.next).src + (fetched st).length) (hahead : mget st.ahead a = none)
    (hneed : sourceNeed st.desc (copyUnit st.desc st.next) (fetched st) = some need) (hlen : (fetched st).length < need) :
    copyRequest u l tenant tag st fresh = u.setStream l tag { st with
      got := mset st.got (fetched st).length
        ((List.range (min (need - (fetched st).length) (1024 - a % 1024))).map fun k => lmByte u l (a + k)),
      ahead := merase st.ahead a } := by
  rw [copyRequest_fetch hsound fresh hnext hout hneed hlen]
  unfold copyFetch
  dsimp only
  rw [← ha, hahead, hsrc, Option.bind_none, pieceLen_local]
  dsimp only
  rw [if_neg Bool.false_ne_true, readLocal_good hbad]
  dsimp only
  rw [if_neg Bool.false_ne_true]

/-- A request that writes into local memory. -/
theorem copyRequest_writes (hnext : st.next < copyTotal st.desc) (hout : st.outReady = true) (hdst : cDstSpace st.desc = 0)
    (hlost : st.multicastLost = []) {a n : Nat} (ha : a = (copyUnit st.desc st.next).dst + st.wrote)
    (hn : n = min (st.out.length - st.wrote) (1024 - a % 1024)) :
    ∃ bad, copyRequest u l tenant tag st fresh =
      (u.setTile l ((tileAt u l).setLm (writeBytes (tileAt u l).lm a ((st.out.drop st.wrote).take n)) bad)).setStream l tag
        (wroteBytes st (copyUnit st.desc st.next) n) := by
  obtain ⟨bad, hw⟩ := writeLocal_good hbad tenant a ((st.out.drop st.wrote).take n)
  have htiles : liveTiles l st = [l] := by simp [liveTiles, copyTiles, hdst, hlost]
  refine ⟨bad, ?_⟩
  rw [copyRequest_write hsound fresh hnext hout]
  unfold copyWrite
  dsimp only
  rw [hdst, ← ha, show decide ((0 : Nat) = 1) = false from rfl, pieceLen_local, ← hn, htiles, if_neg Bool.false_ne_true]
  simp only [writeTiles, List.foldl_cons, List.foldl_nil, hw]

end

/-- The last request of a copy that raises no flag and makes no report retires its tag (R166). -/
theorem copyTail_retires {u : State} {l tenant tag : Nat} {st : Stream} (hflag : cFlagEn st.desc = false) (hsound : cSound st.desc = 0) :
    copyTail u l tenant tag st = u.retireTag l tag := by
  unfold copyTail
  dsimp only
  rw [hflag, hsound]
  rfl

theorem streamAt_setStream (s : State) (l tag : Nat) (st : Stream) : streamAt (s.setStream l tag st) l tag = some st := by
  rw [streamAt, State.setStream, tileAt_setTile_self]
  exact mget_mset_self ..

theorem sameMemory_setStream (s : State) (l tag : Nat) (st : Stream) : SameMemory s (s.setStream l tag st) := sameMemory_setTile rfl

/-! ### What the bytes of a piece are -/

theorem getD_piece {out : List Byte} {w n k : Nat} (hn : n ≤ out.length - w) (hk : k < n) :
    ∃ h : k < ((out.drop w).take n).length, ((out.drop w).take n)[k] = out.getD (w + k) 0 := by
  have hlen : ((out.drop w).take n).length = n := by simp; omega
  refine ⟨by omega, ?_⟩
  rw [List.getElem_take, List.getElem_drop, List.getD_eq_getElem _ _ (by omega)]

theorem wroteBytes_more {st : Stream} {n : Nat} (h : st.wrote + n < st.out.length) (u : CopyUnit) :
    wroteBytes st u n = { st with wrote := st.wrote + n } := if_neg (by simpa using h)

theorem wroteBytes_last {st : Stream} {n : Nat} (h : st.out.length ≤ st.wrote + n) (u : CopyUnit) :
    wroteBytes st u n = nextUnit { st with wrote := st.wrote + n } u := if_pos h

/-! ### The statement's requests -/

section
variable {l tag e tenant : Nat} {s s1 : State} {st : Stream} (hs : s1 = (tick s l e).redraw)
  (ho : ownerOf s1 l = some tenant) (hreset : tileResetting s1 l = false) (hst : streamAt s1 l tag = some st) (hk : st.kind = .copy)
  (hslot : holdsSlot s1 l (.copy st.serial) = true) (hfrozen : streamFrozen s1 l tenant tag st = false) (hphase : st.phase = .moving)
  (hearlier : earlierDone (tileAt s1 l) st = true) (hfl : st.inflight = []) (hsound : cSound st.desc < 4)
  (hgood : (tileAt s1 l).lmBad = [])
include hs ho hreset hst hk hslot hfrozen hphase hearlier hfl hsound

include hgood in
theorem copyRequest_holds (hnext : st.next < copyTotal st.desc) (hout : st.outReady = false) (hsrc : cSrcTenant st.desc = false)
    {a off need : Nat} (hoff : off = (fetched st).length) (ha : a = (copyUnit st.desc st.next).src + off)
    (hahead : mget st.ahead a = none) (hneed : sourceNeed st.desc (copyUnit st.desc st.next) (fetched st) = some need)
    (hlen : off < need) :
    ∃ t, exec (.copyRequestComplete l tag e { bad := [], corrected := [] }) s = .next t ∧
      (∃ st', streamAt t l tag = some st' ∧ st' = { st with got := st'.got, ahead := st'.ahead, target := st'.target } ∧
        mget st'.got off = some ((List.range (min (need - off) (1024 - a % 1024))).map fun k => lmByte s1 l (a + k))) ∧
      SameMemory s1 t := by
  subst hoff
  obtain ⟨u, t, hu, hexec, hends⟩ := copyRequest_completes hs ho hreset hst hk hslot hfrozen hphase hearlier hfl
  rw [copyRequest_fetches hsound (by rw [hu.tile, hgood]) _ hnext hout hsrc ha hahead hneed hlen] at hends
  obtain ⟨x, hx⟩ := hends.aimed _ (streamAt_setStream ..)
  refine ⟨t, hexec, ⟨_, hx, rfl, ?_⟩, (hu.sameMemory.trans (sameMemory_setStream ..)).trans hends.sameMemory⟩
  rw [mget_mset_self]
  simp only [lmByte, hu.tile]

include hgood in
theorem copyRequest_lands (hnext : st.next < copyTotal st.desc) (hout : st.outReady = true) (hdst : cDstSpace st.desc = 0)
    (hlost : st.multicastLost = []) {a n : Nat} {c : CopyUnit} (hc : c = copyUnit st.desc st.next) (ha : a = c.dst + st.wrote)
    (hn : n = min (st.out.length - st.wrote) (1024 - a % 1024)) :
    ∃ t, exec (.copyRequestComplete l tag e { bad := [], corrected := [] }) s = .next t ∧
      ((∀ k, k < n → lmByte t l (a + k) = st.out.getD (st.wrote + k) 0) ∧
        (∀ b, b < a ∨ a + n ≤ b → lmByte t l b = lmByte s1 l b) ∧ (∀ j b, j ≠ l → lmByte t j b = lmByte s1 j b) ∧
        ∃ st', streamAt t l tag = some st' ∧
          (st.wrote + n < st.out.length → st' = { st with wrote := st.wrote + n, target := st'.target }) ∧
          (st.out.length ≤ st.wrote + n → st'.next = st.next + c.step ∧ st'.outReady = false ∧ st'.wrote = 0)) ∧
      t.mem.fast = s1.mem.fast ∧ t.mem.slow = s1.mem.slow := by
  subst hc
  obtain ⟨u, t, hu, hexec, hends⟩ := copyRequest_completes hs ho hreset hst hk hslot hfrozen hphase hearlier hfl
  obtain ⟨bad, hw⟩ := copyRequest_writes (u := u) (l := l) (tenant := tenant) (tag := tag) hsound (by rw [hu.tile, hgood])
    (decide (e > 0)) hnext hout hdst hlost ha hn
  rw [hw] at hends
  have hlen : ((st.out.drop st.wrote).take n).length = n := by simp; omega
  have hown : ∀ b, lmByte t l b = mgetD (writeBytes (tileAt s1 l).lm a ((st.out.drop st.wrote).take n)) b 0 := by
    intro b
    rw [hends.lmByte, lmByte, State.setStream, tileAt_setTile_self, tileAt_setTile_self, hu.tile]
    rfl
  obtain ⟨x, hx⟩ := hends.aimed _ (streamAt_setStream ..)
  refine ⟨t, hexec, ⟨fun k hkn => ?_, fun b hb => ?_, fun j b hj => ?_, _, hx, fun hmore => ?_, fun hlast => ?_⟩,
    by rw [hends.mem, ← hu.mem]; rfl, by rw [hends.mem, ← hu.mem]; rfl⟩
  · obtain ⟨hk', hbyte⟩ := getD_piece (out := st.out) (w := st.wrote) (n := n) (by omega) hkn
    rw [hown, mgetD_writeBytes_inside _ _ _ _ hk', hbyte]
  · rw [hown, mgetD_writeBytes_outside _ _ _ _ (by rw [hlen]; exact hb), lmByte]
  · rw [hends.lmByte, lmByte, State.setStream, tileAt_setTile_ne _ _ hj, tileAt_setTile_ne _ _ hj, hu.tile, lmByte]
  · rw [wroteBytes_more hmore]
  · rw [wroteBytes_last hlast]
    exact ⟨rfl, rfl, rfl⟩

/-- After the last unit of a copy without flag and report its tag is free. -/
theorem copyRequest_retires (hnext : copyTotal st.desc ≤ st.next) (hflag : cFlagEn st.desc = false) (hquiet : cSound st.desc = 0) :
    ∃ t, exec (.copyRequestComplete l tag e { bad := [], corrected := [] }) s = .next t ∧ streamAt t l tag = none ∧
      (∀ k, k ≠ tag → streamAt t l k = streamAt s1 l k) ∧ SameMemory s1 t := by
  obtain ⟨u, t, hu, hexec, hends⟩ := copyRequest_completes hs ho hreset hst hk hslot hfrozen hphase hearlier hfl
  rw [copyRequest_ends hsound _ hnext, copyTail_retires hflag hquiet] at hends
  refine ⟨t, hexec, hends.retired ?_, fun k hne => ?_, (hu.sameMemory.trans (sameMemory_retireTag ..)).trans hends.sameMemory⟩
  · rw [streamAt, streams_retireTag, if_pos rfl]
  · rw [hends.others k hne, streamAt, streams_retireTag, if_neg hne]
    exact hu.streamAt l k

end

/-- The next packet of an exchange from local memory waits in the outbox, and the exchange counts it in flight (R279). -/
theorem pumpExchangeOnce_sends {s : State} {l tenant tag : Nat} {st : Stream} (hst : streamAt s l tag = some st)
    (hk : st.kind = .exchange) (hfrozen : streamFrozen s l tenant tag st = false) (hearlier : earlierDone (tileAt s l) st = true)
    (hnext : st.next < xParts st.desc) (hsrc : xSrcTenant st.desc = false) (hgood : (tileAt s l).lmBad = []) :
    pumpExchangeOnce s l tenant tag =
      some ((s.setStream l tag { st with next := st.next + 1, inflight := st.inflight ++ [st.next] }).sendRequest
        (.exchangePart l tag st.next) (exchangePacket s tenant st.desc st.next
          ((List.range (xPartLen st.desc st.next)).map fun k => lmByte s l (dbits st.desc 111 64 + 4096 * st.next + k)))) := by
  have hsource : exchangeSource s l tenant st.desc st.next =
      (s, .data ((List.range (xPartLen st.desc st.next)).map fun k => lmByte s l (dbits st.desc 111 64 + 4096 * st.next + k))) := by
    unfold exchangeSource
    dsimp only
    rw [hsrc, if_neg Bool.false_ne_true, readLocal_good hgood]
  simp only [pumpExchangeOnce, hst, hk, hfrozen, hearlier, hnext, hsource, ne_eq, not_true_eq_false, decide_false, Bool.not_true,
    Bool.or_self, Bool.false_eq_true, if_false, if_true]

/-- Settles O20: the three requests of a copy and the next packet of an exchange. -/
theorem requestsMoveBytes : Obligations.RequestsMoveBytes := by
  unfold Obligations.RequestsMoveBytes
  constructor
  · intro l tag e tenant s s1 st hs ho hreset hst hk hslot hfrozen hphase hearlier hfl hsound hgood hlost
    refine ⟨fun hnext hout hsrc hahead need hneed hlen => ?_, fun hnext hout hdst hmore => ?_, fun hnext hflag hquiet => ?_⟩
    · exact copyRequest_holds hs ho hreset hst hk hslot hfrozen hphase hearlier hfl hsound hgood hnext hout hsrc rfl rfl hahead
        hneed hlen
    · exact copyRequest_lands hs ho hreset hst hk hslot hfrozen hphase hearlier hfl hsound hgood hnext hout hdst hlost rfl rfl rfl
    · exact copyRequest_retires hs ho hreset hst hk hslot hfrozen hphase hearlier hfl hsound hnext hflag hquiet
  · intro s l tenant tag st hst hk hfrozen hearlier hnext hsrc hgood
    have hpump := pumpExchangeOnce_sends hst hk hfrozen hearlier hnext hsrc hgood
    exact ⟨_, _, hpump, rfl, rfl, rfl, rfl, rfl, rfl, rfl, rfl, rfl, streamAt_setStream ..,
      (streamKeeps_pumpExchangeOnce hpump).memory⟩

end Sys2Proof.Machine
end

section
/-!
SUPPORT. What decides which bytes an address reaches and whether an access to them waits (R155, R157, R185, R187, R381), and
the reports of writes that touch an attempt block, which change tenants, the module's own state and the log, and no queue (R235).
-/

namespace Sys2Proof.Machine

/-! ### What an access meets (R155, R157, R185, R187, R381) -/

section
variable {s u : State} (hm : u.mem = s.mem) (hs : u.service = s.service)
include hm

theorem dpaRetraining_congr (d : Nat) : dpaRetraining u d = dpaRetraining s d := by
  unfold dpaRetraining
  rw [hm]

include hs

theorem sameBacking_congr : SameBacking s u := ⟨by rw [hm], by rw [hm], hs⟩

theorem dpaBytes_congr (a n : Nat) : dpaBytes u a n = dpaBytes s a n := by
  simp only [dpaBytes, (sameBacking_congr hm hs).backedKey, hm]

theorem dpaBad_congr (a n : Nat) : dpaBad u a n = dpaBad s a n := by
  simp only [dpaBad, (sameBacking_congr hm hs).backedKey, hm]

theorem dpaResetting_congr (d : Nat) : dpaResetting u d = dpaResetting s d := by
  simp only [dpaResetting, stackResetting, hm, hs]

theorem ownsPage_congr (t p : Nat) : ownsPage u t p = ownsPage s t p := by
  have he : pageEntry u p = pageEntry s p := by
    rw [(sameBacking_congr hm hs).pageEntry, hm, pageEntry]
  rw [ownsPage, he, ownsPage]

variable (hh : u.host.queueArea = s.host.queueArea)
include hh

theorem targetAllowed_congr (t d : Nat) : targetAllowed u t d = targetAllowed s t d := by
  simp only [targetAllowed, inQueueArea, ownsPage_congr hm hs, hm, hh]

theorem targetStatus_congr (t b : Nat) : targetStatus u t b = targetStatus s t b := by
  simp only [targetStatus, targetAllowed_congr hm hs hh, dpaResetting_congr hm hs, hs]

end

theorem homeDeclines_congr {s u : State} (ht : u.tenants = s.tenants) (t b : Nat) : homeDeclines u t b = homeDeclines s t b := by
  unfold homeDeclines tableDesc tenantAt
  rw [ht]

/-- An access that finds nothing wrong marks nothing and reports nothing (R185). -/
theorem fastEcc_none (s : State) : s.fastEcc { bad := [], corrected := [] } = s := rfl

/-! ### The reports of a write (R235) -/

/-- The reports of a write: neither memory nor a tile, a link or the host is another, and every queue is as before. -/
structure Notices (s t : State) : Prop where
  frame : ∃ tenants globals log, t = { s with tenants := tenants, globals := globals, log := log }
  queue : ∀ u q, queueAt t u q = queueAt s u q
  assigned : ∀ u q, queueAssigned t u q = queueAssigned s u q

theorem Notices.refl (s : State) : Notices s s := ⟨⟨_, _, _, rfl⟩, fun _ _ => rfl, fun _ _ => rfl⟩

theorem Notices.trans {s t u : State} (h : Notices s t) (h' : Notices t u) : Notices s u := by
  refine ⟨?_, fun v q => (h'.queue v q).trans (h.queue v q), fun v q => (h'.assigned v q).trans (h.assigned v q)⟩
  obtain ⟨x, g, l, rfl⟩ := h.frame
  obtain ⟨x', g', l', rfl⟩ := h'.frame
  exact ⟨x', g', l', rfl⟩

theorem Notices.ite {s t u : State} {c : Prop} [Decidable c] (h : Notices s t) (h' : Notices s u) : Notices s (if c then t else u) := by
  split
  · exact h
  · exact h'

section
variable (s : State) (t p : Nat)

theorem notices_updTenant {f : Tenant → Tenant} (hq : ∀ x, (f x).queues = x.queues := by exact fun _ => rfl)
    (hm : ∀ x, (f x).queueMask = x.queueMask := by exact fun _ => rfl) : Notices s (s.updTenant t f) := by
  refine ⟨⟨_, _, _, rfl⟩, fun u q => ?_, fun u q => ?_⟩
  · rw [queueAt, queueAt, tenantAt_updTenant]
    split
    next h => rw [hq, h]
    · rfl
  · rw [queueAssigned, queueAssigned, tenantAt_updTenant]
    split
    next h => rw [hm, h]
    · rfl

theorem notices_updSet (f : SetState → SetState) : Notices s (s.updSet t p f) := notices_updTenant s t

theorem notices_report (source : W32) (cls cause : Nat) (tenant : Option Nat) (detail : W32) :
    Notices s (s.report source cls cause tenant detail) := by
  obtain ⟨log, h⟩ := report_onlyLog s source cls cause tenant detail
  rw [h]
  exact ⟨⟨_, _, _, rfl⟩, fun _ _ => rfl, fun _ _ => rfl⟩

theorem notices_freeze (r : FreezeRec) : Notices s (s.freeze t r) := (notices_updTenant s t).trans (notices_report ..)

theorem notices_freezeJob (cause address : Nat) (layer : Option (Nat × List Byte)) : Notices s (s.freezeJob t p cause address layer) :=
  .ite (.refl s) ((notices_updSet s t p _).trans (notices_freeze ..))

theorem notices_wantOpen : Notices s (s.wantOpen t p) :=
  .ite (.refl s) (Notices.trans (t := s.updGlobals _) ⟨⟨_, _, _, rfl⟩, fun _ _ => rfl, fun _ _ => rfl⟩ (notices_updTenant _ t))

theorem notices_noticeBlock (d a n : Nat) : Notices s (noticeBlock s t p d a n) := by
  unfold noticeBlock
  extract_lets field s1 s2
  have h1 : Notices s s1 := .ite ((notices_updSet s t p _).trans (.ite (notices_freezeJob ..) (.refl _))) (.refl s)
  have h2 : Notices s1 s2 := .ite (.ite (notices_updSet s1 t p _) (.refl s1)) (.refl s1)
  exact (h1.trans h2).trans (.ite (.ite (notices_wantOpen ..) (.refl s2)) (.refl s2))

theorem notices_noticeWrite (a n : Nat) : Notices s (s.noticeWrite t a n) := by
  refine foldl_keeps (P := Notices s) _ (fun u p hu => hu.trans (.ite (.refl u) ?_)) _ s (.refl s)
  split
  · exact .ite (notices_noticeBlock ..) (.refl u)
  · exact .refl u

end

end Sys2Proof.Machine
end

section
/-!
PROOF. O35: board-window requests at their home (R160, R175, R265, R266, R381; logs 20, 26, 88).
-/

namespace Sys2Proof.Machine

/-! ### A write at a device address, whatever stands beside the memory (R157, R185) -/

/-- The state with another count of draws, other links and another host side. -/
def State.beside (s : State) (n : Nat) (k : LinkState) (h : HostState) : State := { s with draws := n, links := k, host := h }

theorem writeDpa_beside (s : State) (n : Nat) (k : LinkState) (h : HostState) (a : Nat) (bs : List Byte) :
    (s.beside n k h).writeDpa a bs = ((s.writeDpa a bs).1.beside n k h, (s.writeDpa a bs).2) := by
  unfold State.writeDpa
  refine List.foldl_hom (init := (s, false)) (fun acc : State × Bool => (acc.1.beside n k h, acc.2)) fun acc piece => ?_
  have hkey : backedKey (acc.1.beside n k h) piece.1 = backedKey acc.1 piece.1 := rfl
  dsimp only
  rw [hkey]
  cases backedKey acc.1 piece.1 <;> rfl

theorem performWrite_beside (s : State) (n : Nat) (k : LinkState) (h : HostState) (p : Packet) (d : Nat) :
    performWrite (s.beside n k h) p d = ((performWrite s p d).1.beside n k h, (performWrite s p d).2) := by
  unfold performWrite
  split
  · exact writeDpa_beside ..
  · refine List.foldl_hom (init := (s, false)) (fun acc : State × Bool => (acc.1.beside n k h, acc.2)) fun acc i => ?_
    dsimp only
    rw [writeDpa_beside]

theorem OnlyFast.trans {s t u : State} (h : OnlyFast s t) (h' : OnlyFast t u) : OnlyFast s u := by
  obtain ⟨f, b, rfl, hc⟩ := h
  obtain ⟨f', b', rfl, hc'⟩ := h'
  exact ⟨f', b', rfl, fun hs => hc' (hc hs)⟩

theorem performWrite_onlyFast (s : State) (p : Packet) (d : Nat) : OnlyFast s (performWrite s p d).1 := by
  unfold performWrite
  split
  · exact writeDpa_spec ..
  · refine foldl_keeps (P := fun acc : State × Bool => OnlyFast s acc.1) _ (fun acc i hacc => ?_) _ _ ⟨s.mem.fast, s.mem.fastBad, rfl, id⟩
    exact hacc.trans (writeDpa_spec acc.1 (d + i) [p.data.getD i 0])

/-- Where every data word is good, a write carries no mark with it (R260). -/
theorem carryBad_good {p : Packet} (h : p.badWords = []) (s : State) (d : Nat) : s.carryBad p d = s := by
  unfold State.carryBad
  rw [h]
  rfl

/-! ### A request in service -/

/-- The state in which a packet is served: it has left the inbox. -/
def State.serving (s : State) (p : Packet) : State := s.redraw.takePacket p

/-- A home that serves a packet has not answered yet, and has changed no tile and no slow tier. -/
structure Serving (s t : State) : Prop where
  outbox : t.links.outbox = s.links.outbox
  node : t.links.nodeId = s.links.nodeId
  tiles : t.tiles = s.tiles
  slow : t.mem.slow = s.mem.slow

theorem targetStatus_serving (s : State) (p : Packet) (t b : Nat) : targetStatus (s.serving p) t b = targetStatus s t b :=
  targetStatus_congr (s := s) (u := s.serving p) rfl rfl rfl t b

theorem dpaRetraining_serving (s : State) (p : Packet) (d : Nat) : dpaRetraining (s.serving p) d = dpaRetraining s d :=
  dpaRetraining_congr (s := s) (u := s.serving p) rfl d

theorem homeDeclines_serving (s : State) (p : Packet) (t b : Nat) : homeDeclines (s.serving p) t b = homeDeclines s t b :=
  homeDeclines_congr (s := s) (u := s.serving p) rfl t b

theorem serving_serving (s : State) (p : Packet) : Serving s (s.serving p) := ⟨rfl, rfl, rfl, rfl⟩

theorem fastUncorrectable_links (s : State) (d : Nat) : (s.fastUncorrectable d).links = s.links := by
  unfold State.fastUncorrectable
  split
  · rfl
  · rfl

theorem Serving.touchBias {s t : State} (h : Serving s t) (a n : Nat) : Serving s (t.touchBias a n) := by
  obtain ⟨b, hb⟩ := touchBias_spec t a n
  rw [hb]
  exact ⟨h.outbox, h.node, h.tiles, h.slow⟩

theorem Serving.fastUncorrectable {s t : State} (h : Serving s t) (d : Nat) : Serving s (t.fastUncorrectable d) := by
  have hl := fastUncorrectable_links t d
  have hb := keepsBytes_fastUncorrectable t d
  exact ⟨by rw [hl, h.outbox], by rw [hl, h.node], hb.tiles.trans h.tiles, hb.slow.trans h.slow⟩

theorem Serving.onlyFast {s t u : State} (h : Serving s t) (hw : OnlyFast t u) : Serving s u := by
  obtain ⟨fast, bad, rfl, -⟩ := hw
  exact ⟨h.outbox, h.node, h.tiles, h.slow⟩

theorem Serving.noticeWrite {s t : State} (h : Serving s t) (tenant a n : Nat) : Serving s (t.noticeWrite tenant a n) := by
  obtain ⟨tenants, globals, log, hn⟩ := (notices_noticeWrite t tenant a n).frame
  rw [hn]
  exact ⟨h.outbox, h.node, h.tiles, h.slow⟩

theorem noticeWrite_mem (s : State) (t a n : Nat) : (s.noticeWrite t a n).mem = s.mem := by
  obtain ⟨tenants, globals, log, h⟩ := (notices_noticeWrite s t a n).frame
  rw [h]

/-- The answer that goes out is the one a requester is sent. -/
theorem Serving.answerSent {s t : State} (h : Serving s t) (p : Packet) (ty status : Nat) (aux : BitVec 64) (data : List Byte) :
    AnswerSent s (t.answer p ty status aux data) p ty status aux data := by
  unfold AnswerSent
  rw [← h.outbox, ← h.node]
  rfl

/-! ### A packet for this module (R265) -/

theorem serve_malformed {s : State} {p : Packet} {ty : Nat} (hty : p.ptype = ty) (hdst : p.dst = s.links.nodeId)
    (h : packetMalformed p = true) (k : State → State) : serve s p ty k = (s.serving p).undeliverable p := by
  unfold serve
  rw [if_neg (by simp [hty, hdst])]
  exact if_pos h

theorem serve_wellFormed {s : State} {p : Packet} {ty : Nat} (hty : p.ptype = ty) (hdst : p.dst = s.links.nodeId)
    (h : packetMalformed p = false) (k : State → State) : serve s p ty k = k (s.serving p) := by
  unfold serve
  rw [if_neg (by simp [hty, hdst])]
  exact if_neg (by simp [h])

/-- A packet that cannot be delivered is counted, and changes the links alone (R275). -/
theorem undeliverable_spec (s : State) (p : Packet) :
    ∃ k, s.undeliverable p = { s with links := k } ∧ k.undeliverable = satAdd 64 s.links.undeliverable 1 := by
  unfold State.undeliverable
  dsimp only
  split
  · split
    · exact ⟨_, rfl, rfl⟩
    · exact ⟨_, rfl, rfl⟩
  · exact ⟨_, rfl, rfl⟩

theorem exec_readRequest (p : Packet) (ecc : Ecc) (s : State) : exec (.readRequest p ecc) s = execReadRequest p ecc s := rfl

theorem exec_writeRequest (p : Packet) (ecc : Ecc) (s : State) : exec (.writeRequest p ecc) s = execWriteRequest p ecc s := rfl

theorem exec_atomicRequest (p : Packet) (ecc : Ecc) (s : State) : exec (.atomicRequest p ecc) s = execAtomicRequest p ecc s := rfl

/-! ### The requests (R160, R175, R266) -/

section
variable {s : State} {p : Packet} (hdst : p.dst = s.links.nodeId)
include hdst

/-- A packet that breaks its table is dropped and counted, and no byte changes (R265). -/
theorem serve_drops {ty : Nat} (hty : p.ptype = ty) (h : packetMalformed p = true) (k : State → State) :
    (serve s p ty k).links.undeliverable = satAdd 64 s.links.undeliverable 1 ∧ (serve s p ty k).mem.fast = s.mem.fast ∧
      (serve s p ty k).mem.slow = s.mem.slow ∧ (serve s p ty k).tiles = s.tiles := by
  obtain ⟨l, hu, hl⟩ := undeliverable_spec (s.serving p) p
  rw [serve_malformed hty hdst h k, hu]
  exact ⟨hl, rfl, rfl, rfl⟩

variable (hgood : packetMalformed p = false)
include hgood

/-- A read that the home may not serve is answered with the status (R160, R381). -/
theorem exec_readRequest_refused (ecc : Ecc) (hty : p.ptype = 0) (hst : targetStatus s p.tenant p.addr.toNat ≠ 0) :
    exec (.readRequest p ecc) s = .next ((s.serving p).answer p 3 (targetStatus s p.tenant p.addr.toNat) 0 []) := by
  rw [exec_readRequest, execReadRequest, serve_wellFormed hty hdst hgood]
  dsimp only
  rw [targetStatus_serving]
  split
  next h => exact absurd h hst
  next => rfl

/-- A read that its home serves (R160, R209, R266). -/
theorem exec_readRequest_served (hty : p.ptype = 0) (hst : targetStatus s p.tenant p.addr.toNat = 0)
    (hretrain : dpaRetraining s (boardDpa p.addr.toNat) = false) :
    ∃ u, Serving s u ∧ u.mem.fast = s.mem.fast ∧ exec (.readRequest p { bad := [], corrected := [] }) s = .next
      (if dpaBad s (boardDpa p.addr.toNat) (p.aux.toNat % 1024 + 1) then u.answer p 3 3 0 []
      else u.answer p 3 0 (if homeDeclines s p.tenant p.addr.toNat then 1 else 0)
        (padTo 16 (dpaBytes s (boardDpa p.addr.toNat) (p.aux.toNat % 1024 + 1)))) := by
  have hst' := (targetStatus_serving s p ..).trans hst
  have hretrain' := (dpaRetraining_serving s p _).trans hretrain
  obtain ⟨t, ht⟩ : ∃ t, t = (s.serving p).touchBias (boardDpa p.addr.toNat) (p.aux.toNat % 1024 + 1) := ⟨_, rfl⟩
  obtain ⟨hmem, hserv⟩ : t.mem = s.mem ∧ t.service = s.service := by
    obtain ⟨b, hb⟩ := touchBias_spec (s.serving p) (boardDpa p.addr.toNat) (p.aux.toNat % 1024 + 1)
    rw [ht, hb]
    exact ⟨rfl, rfl⟩
  have htouch : Serving s t := by rw [ht]; exact (serving_serving s p).touchBias ..
  rw [exec_readRequest, execReadRequest, serve_wellFormed hty hdst hgood]
  dsimp only
  rw [hst', hretrain', fastEcc_none, ← ht, dpaBad_congr hmem hserv, dpaBytes_congr hmem hserv, homeDeclines_serving,
    if_neg Bool.false_ne_true]
  cases dpaBad s (boardDpa p.addr.toNat) (p.aux.toNat % 1024 + 1) with
  | true => exact ⟨_, htouch.fastUncorrectable _, by rw [(keepsBytes_fastUncorrectable ..).fast, hmem], rfl⟩
  | false => exact ⟨_, htouch, by rw [hmem], rfl⟩

/-- A write that the home may not perform is answered with the status (R160, R381). -/
theorem exec_writeRequest_refused (ecc : Ecc) (hty : p.ptype = 1) (hst : targetStatus s p.tenant p.addr.toNat ≠ 0) :
    exec (.writeRequest p ecc) s = .next ((s.serving p).answer p 4 (targetStatus s p.tenant p.addr.toNat) 0 []) := by
  rw [exec_writeRequest, execWriteRequest, serve_wellFormed hty hdst hgood]
  dsimp only
  rw [targetStatus_serving]
  split
  next h => exact absurd h hst
  next => rfl

/-- A write that performs at its home (R160, R266). -/
theorem exec_writeRequest_served (hty : p.ptype = 1) (hst : targetStatus s p.tenant p.addr.toNat = 0)
    (hretrain : dpaRetraining s (boardDpa p.addr.toNat) = false) (hwords : p.badWords = []) :
    ∃ u, Serving s u ∧ u.mem.fast = (performWrite s p (boardDpa p.addr.toNat)).1.mem.fast ∧
      exec (.writeRequest p { bad := [], corrected := [] }) s = .next
        (u.answer p 4 (if (performWrite s p (boardDpa p.addr.toNat)).2 then 3 else 0) 0 []) := by
  have hst' := (targetStatus_serving s p ..).trans hst
  have hretrain' := (dpaRetraining_serving s p _).trans hretrain
  obtain ⟨t, ht⟩ : ∃ t, t = (s.serving p).touchBias (boardDpa p.addr.toNat) p.length := ⟨_, rfl⟩
  obtain ⟨w, lost, hw⟩ : ∃ w lost, performWrite t p (boardDpa p.addr.toNat) = (w, lost) := ⟨_, _, rfl⟩
  have hbeside : w.mem = (performWrite s p (boardDpa p.addr.toNat)).1.mem ∧ lost = (performWrite s p (boardDpa p.addr.toNat)).2 := by
    obtain ⟨b, hb⟩ := touchBias_spec (s.serving p) (boardDpa p.addr.toNat) p.length
    have hs : t = s.beside (s.serving p).draws (s.serving p).links { s.host with biasRequests := b } := ht.trans hb
    rw [hs, performWrite_beside] at hw
    obtain ⟨rfl, rfl⟩ := Prod.mk.inj hw
    exact ⟨rfl, rfl⟩
  have hserving : Serving s (w.noticeWrite p.tenant (boardDpa p.addr.toNat) p.length) := by
    have honly := performWrite_onlyFast t p (boardDpa p.addr.toNat)
    rw [hw] at honly
    have htouch : Serving s t := by rw [ht]; exact (serving_serving s p).touchBias ..
    exact (htouch.onlyFast honly).noticeWrite ..
  have hfast : (w.noticeWrite p.tenant (boardDpa p.addr.toNat) p.length).mem.fast =
      (performWrite s p (boardDpa p.addr.toNat)).1.mem.fast := by rw [noticeWrite_mem, hbeside.1]
  rw [exec_writeRequest, execWriteRequest, serve_wellFormed hty hdst hgood]
  dsimp only
  rw [hst', hretrain', if_neg Bool.false_ne_true, fastEcc_none, ← ht, hw, carryBad_good hwords, ← hbeside.2]
  cases lost with
  | true =>
    refine ⟨_, hserving.fastUncorrectable (boardDpa p.addr.toNat), (keepsBytes_fastUncorrectable ..).fast.trans hfast, ?_⟩
    rw [if_pos rfl, if_pos rfl]
    rfl
  | false =>
    refine ⟨_, hserving, hfast, ?_⟩
    rw [if_neg Bool.false_ne_true, if_neg Bool.false_ne_true]
    rfl

section
variable (hty : p.ptype = 2) (htypes : (atomTypes (atomOfCode p.aux.toNat) (bit p.aux.toNat 5)).contains (bits p.aux.toNat 4 3) = true)
  {n : Nat} (hn : n = if bit p.aux.toNat 5 then 8 else 4) (halign : boardDpa p.addr.toNat % n = 0)
include hty htypes hn halign

/-- An atomic that the home may not perform is answered with the status (R160, R381). -/
theorem exec_atomicRequest_refused (ecc : Ecc) (hst : targetStatus s p.tenant p.addr.toNat ≠ 0) :
    exec (.atomicRequest p ecc) s = .next ((s.serving p).answer p 4 (targetStatus s p.tenant p.addr.toNat) 0 []) := by
  rw [exec_atomicRequest, execAtomicRequest, serve_wellFormed hty hdst hgood]
  dsimp only
  rw [htypes, ← hn, if_neg (by simp [halign]), targetStatus_serving]
  split
  next h => exact absurd h hst
  next => rfl

/-- An atomic that performs at its home (R160, R175, R266). -/
theorem exec_atomicRequest_served (hst : targetStatus s p.tenant p.addr.toNat = 0)
    (hretrain : dpaRetraining s (boardDpa p.addr.toNat) = false) (hwords : p.badWords = [])
    (hread : dpaBad s (boardDpa p.addr.toNat) n = false) {old : Nat} (hold : old = leNat (dpaBytes s (boardDpa p.addr.toNat) n)) :
    ∃ u, Serving s u ∧
      u.mem.fast = (s.writeDpa (boardDpa p.addr.toNat) (leBytes n (atomResult (atomOfCode p.aux.toNat) (bits p.aux.toNat 4 3) (8 * n) old
        (leNat (p.data.take n)) (leNat ((p.data.drop 8).take n))))).1.mem.fast ∧
      exec (.atomicRequest p { bad := [], corrected := [] }) s = .next (u.answer p 4 0 (BitVec.ofNat 64 old) []) := by
  have hst' := (targetStatus_serving s p ..).trans hst
  have hretrain' := (dpaRetraining_serving s p _).trans hretrain
  obtain ⟨t, ht⟩ : ∃ t, t = (s.serving p).touchBias (boardDpa p.addr.toNat) n := ⟨_, rfl⟩
  obtain ⟨hmem, hserv⟩ : t.mem = s.mem ∧ t.service = s.service := by
    obtain ⟨b, hb⟩ := touchBias_spec (s.serving p) (boardDpa p.addr.toNat) n
    rw [ht, hb]
    exact ⟨rfl, rfl⟩
  have htouch : Serving s t := by rw [ht]; exact (serving_serving s p).touchBias ..
  rw [exec_atomicRequest, execAtomicRequest, serve_wellFormed hty hdst hgood]
  dsimp only
  rw [htypes, ← hn, if_neg (by simp [halign]), hst', hretrain', fastEcc_none, ← ht, dpaBad_congr hmem hserv, dpaBytes_congr hmem hserv,
    ← hold, if_neg Bool.false_ne_true, if_neg (by simp [hwords, hread])]
  refine ⟨_, (htouch.onlyFast (writeDpa_spec ..)).noticeWrite .., ?_, rfl⟩
  rw [noticeWrite_mem, writeDpa_mem_congr hmem hserv]

end

end

/-- Settles O35: a good packet of each type is served on its own, and what performs is followed through the requests for host-bias
lines and the reports of attempt blocks, neither of which touches a byte. -/
theorem requestsPerformAtTheirHome : Obligations.RequestsPerformAtTheirHome := by
  unfold Obligations.RequestsPerformAtTheirHome
  intro s p ecc hdst hecc
  subst hecc
  have hserving := serving_serving s p
  refine ⟨fun x ty ans hx hty => ⟨fun hbad => ?_, fun hgood hst => ?_⟩, fun hty hgood hst hretrain => ?_,
    fun hty hgood hst hretrain hwords => ?_, fun hty hgood htypes halign => ⟨fun hst => ?_, fun hst hretrain hwords hread => ?_⟩⟩
  · simp only [List.mem_cons, Prod.mk.injEq, List.not_mem_nil, or_false] at hx
    obtain ⟨rfl, rfl, rfl⟩ | ⟨rfl, rfl, rfl⟩ := hx
    · exact ⟨_, rfl, serve_drops hdst hty hbad _⟩
    · exact ⟨_, rfl, serve_drops hdst hty hbad _⟩
  · simp only [List.mem_cons, Prod.mk.injEq, List.not_mem_nil, or_false] at hx
    obtain ⟨rfl, rfl, rfl⟩ | ⟨rfl, rfl, rfl⟩ := hx
    · exact ⟨_, exec_readRequest_refused hdst hgood _ hty hst, hserving.answerSent .., rfl, rfl, rfl⟩
    · exact ⟨_, exec_writeRequest_refused hdst hgood _ hty hst, hserving.answerSent .., rfl, rfl, rfl⟩
  · obtain ⟨u, hu, hfast, hexec⟩ := exec_readRequest_served hdst hgood hty hst hretrain
    refine ⟨fun hread => ?_, fun hread => ?_⟩
    · exact ⟨_, hexec.trans (congrArg _ (if_neg (by simp [hread]))), hu.answerSent .., hfast, hu.slow, hu.tiles⟩
    · exact ⟨_, hexec.trans (congrArg _ (if_pos hread)), hu.answerSent .., hfast, hu.slow, hu.tiles⟩
  · obtain ⟨u, hu, hfast, hexec⟩ := exec_writeRequest_served hdst hgood hty hst hretrain hwords
    exact ⟨_, hexec, hfast, hu.slow, hu.tiles, hu.answerSent ..⟩
  · exact ⟨_, exec_atomicRequest_refused hdst hgood hty htypes rfl halign _ hst, hserving.answerSent .., rfl, rfl, rfl⟩
  · obtain ⟨u, hu, hfast, hexec⟩ := exec_atomicRequest_served hdst hgood hty htypes rfl halign hst hretrain hwords hread rfl
    exact ⟨_, hexec, hu.answerSent .., hfast, hu.slow, hu.tiles⟩

end Sys2Proof.Machine
end

section
/-!
PROOF. O39: the four descriptors and a reserved type, and the end of a FEED or EXPORT of one line (R187, R306 to R310, R313, R314,
R316, R320, R381; logs 27, 28, 91).
-/

namespace Sys2Proof.Machine

/-! ### The freeze of a queue (R310, R315, R321) -/

/-- A queue has frozen at a descriptor, which it has not passed. -/
structure QueueFroze (s u : State) (t q n cause : Nat) (d : List Byte) : Prop where
  frozen : isFrozen u t (queueMaster q) = true
  record : ∃ f ∈ (tenantAt u t).freezes, f.master = queueMaster q ∧ f.cause = cause ∧ f.address = n ∧ f.desc = d
  queue : queueAt u t q = { queueAt s t q with lastCause := cause }
  tiles : u.tiles = s.tiles

theorem QueueFroze.stands {s u : State} {t q n cause : Nat} {d : List Byte} (h : QueueFroze s u t q n cause d) :
    isFrozen u t (queueMaster q) = true ∧
      (∃ f ∈ (tenantAt u t).freezes, f.master = queueMaster q ∧ f.cause = cause ∧ f.address = n ∧ f.desc = d) ∧
      (queueAt u t q).head = (queueAt s t q).head ∧ (queueAt u t q).completed = (queueAt s t q).completed ∧ u.tiles = s.tiles :=
  ⟨h.frozen, h.record, by rw [h.queue], by rw [h.queue], h.tiles⟩

theorem freezeQueue_froze {s s1 : State} (htenants : s1.tenants = s.tenants) (htiles : s1.tiles = s.tiles) (t q n cause : Nat)
    (d : List Byte) (moved : Nat) : QueueFroze s (s1.freezeQueue t q n cause d moved) t q n cause d := by
  obtain ⟨m, h, hput⟩ : ∃ m h, (if n = 0 then s1 else s1.putRecord t q n 3 cause 0 moved) = { s1 with mem := m, host := h } := by
    split
    · exact ⟨_, _, rfl⟩
    · exact putRecord_spec ..
  unfold State.freezeQueue
  dsimp only
  rw [hput]
  refine ⟨isFrozen_freeze .., ?_, ?_, htiles⟩
  · rw [tenantAt_freeze]
    exact ⟨_, List.mem_append_right _ List.mem_cons_self, rfl, rfl, rfl, rfl⟩
  · rw [(notices_freeze ..).queue, queueAt_updQueue, if_pos ⟨rfl, rfl⟩, queueAt, queueAt, tenantAt, tenantAt]
    show { ((mget ((mget s1.tenants t).getD {}).queues q).getD {}) with lastCause := cause } = _
    rw [htenants]

theorem fastUncorrectable_tiles (s : State) (d : Nat) : (s.fastUncorrectable d).tiles = s.tiles :=
  (keepsBytes_fastUncorrectable s d).tiles

/-! ### The read of a descriptor (R313) -/

/-- A queue passes the descriptor it reads: one to be read again, or the one after the head. -/
def Queue.passes (x : Queue) : Queue :=
  { x with head := if x.reread = [] then x.head + 1 else x.head, reread := x.reread.tail }

/-- The engine has read a queue's descriptor, and has asked the host for the lines it lies in. -/
structure DescRead (t q : Nat) (s u : State) : Prop where
  frame : ∃ b x, u = { s with draws := s.draws + 1, tenants := x, host := { s.host with biasRequests := b, turn := 8 * t + q } }
  queue : queueAt u t q = (queueAt s t q).passes
  assigned : queueAssigned u t q = queueAssigned s t q

theorem descRead_readDesc (s : State) (t q a : Nat) : DescRead t q s ((s.redraw.touchBias a 64).readDesc t q) := by
  obtain ⟨b, hb⟩ := touchBias_spec s.redraw a 64
  rw [hb]
  refine ⟨⟨b, _, rfl⟩, ?_, ?_⟩
  · rw [State.readDesc, queueAt_updQueue, if_pos ⟨rfl, rfl⟩]
    dsimp only
    split
    next r rest h =>
      have hr : (queueAt s t q).reread = r :: rest := h
      rw [Queue.passes, hr, if_neg (List.cons_ne_nil r rest), List.tail_cons]
      rfl
    next h =>
      have hr : (queueAt s t q).reread = [] := h
      rw [Queue.passes, hr, if_pos rfl, List.tail_nil, ← hr]
      rfl
  · rw [State.readDesc, queueAssigned, State.updQueue, tenantAt_updTenant_self]
    rfl

/-! ### A queue's turn (R310, R313) -/

/-- The queue whose turn it is, is in use (R306). -/
theorem queueInUse_of_queueTurn {s : State} {t q : Nat} (hq : q < 8) (hturn : queueTurn s t q = true) : queueInUse s t q = true := by
  unfold queueTurn at hturn
  obtain ⟨hkey, -⟩ := Bool.and_eq_true_iff.1 hturn
  have hmem : 8 * t + q ∈ queueKeys s := by simpa using hkey
  obtain ⟨e, -, hkeys⟩ := List.mem_flatMap.1 hmem
  obtain ⟨r, hr, hsame⟩ := List.mem_map.1 hkeys
  obtain ⟨hr8, hready⟩ := List.mem_filter.1 hr
  have hlt := List.mem_range.1 hr8
  obtain ⟨rfl, rfl⟩ : e.1 = t ∧ r = q := by omega
  simp only [queueReady, Bool.and_eq_true] at hready
  tauto

theorem serveQueue_waits {s : State} {t q : Nat} (hwait : dpaWaits s (descAddress s t q (nextDesc s t q)) 64 = true) (ty : Nat)
    (run : State → Nat → List Byte → State ⊕ Nat) : serveQueue s t q ty run = s := by
  simp [serveQueue, hwait]

section
variable {s : State} {t q : Nat} (hturn : queueTurn s t q = true)
  (hwait : dpaWaits s (descAddress s t q (nextDesc s t q)) 64 = false)
include hturn hwait

/-- A descriptor that cannot be read freezes its queue (R185, R310). -/
theorem serveQueue_bad (hbad : dpaBad s (descAddress s t q (nextDesc s t q)) 64 = true) (ty : Nat)
    (run : State → Nat → List Byte → State ⊕ Nat) :
    QueueFroze s (serveQueue s t q ty run) t q (nextDesc s t q) 0x22 (nextDescBytes s t q) := by
  obtain ⟨b, hb⟩ := touchBias_spec s.redraw (descAddress s t q (nextDesc s t q)) 64
  unfold serveQueue
  rw [if_neg (by simp [hturn, hwait])]
  dsimp only
  rw [if_pos hbad]
  refine freezeQueue_froze ?_ ?_ ..
  · refine (fastUncorrectable_tenants ..).1.trans ?_
    rw [hb]
    rfl
  · refine (fastUncorrectable_tiles ..).trans ?_
    rw [hb]
    rfl

variable {ty : Nat} (hbad : dpaBad s (descAddress s t q (nextDesc s t q)) 64 = false) (hty : dbits (nextDescBytes s t q) 4 0 = ty)
include hbad hty

/-- A descriptor that starts has been read. -/
theorem serveQueue_starts : ∃ u, DescRead t q s u ∧ ∀ (run : State → Nat → List Byte → State ⊕ Nat) (v : State),
    run u (nextDesc s t q) (nextDescBytes s t q) = .inl v → serveQueue s t q ty run = v := by
  refine ⟨_, descRead_readDesc s t q (descAddress s t q (nextDesc s t q)), fun run v hrun => ?_⟩
  rw [serveQueue_turn hturn hwait hbad hty, hrun]

/-- A descriptor that may not start freezes its queue, and is not passed (R310). -/
theorem serveQueue_freezes {run : State → Nat → List Byte → State ⊕ Nat} {cause : Nat}
    (hrun : ∀ u, DescRead t q s u → run u (nextDesc s t q) (nextDescBytes s t q) = .inr cause) :
    QueueFroze s (serveQueue s t q ty run) t q (nextDesc s t q) cause (nextDescBytes s t q) := by
  obtain ⟨b, hb⟩ := touchBias_spec s.redraw (descAddress s t q (nextDesc s t q)) 64
  rw [serveQueue_turn hturn hwait hbad hty, hrun _ (descRead_readDesc ..)]
  dsimp only
  refine freezeQueue_froze ?_ ?_ ..
  · rw [hb]
    rfl
  · rw [hb]
    rfl

end

/-! ### What a descriptor depends on (R37, R309) -/

theorem DescRead.tiles {t q : Nat} {s u : State} (h : DescRead t q s u) : u.tiles = s.tiles := by
  obtain ⟨b, x, rfl⟩ := h.frame
  rfl

theorem DescRead.mem {t q : Nat} {s u : State} (h : DescRead t q s u) : u.mem = s.mem := by
  obtain ⟨b, x, rfl⟩ := h.frame
  rfl

theorem DescRead.service {t q : Nat} {s u : State} (h : DescRead t q s u) : u.service = s.service := by
  obtain ⟨b, x, rfl⟩ := h.frame
  rfl

theorem DescRead.launchBad {t q : Nat} {s u : State} (h : DescRead t q s u) (p : BlockParams) :
    launchBad u t p = launchBad s t p := by
  obtain ⟨b, x, rfl⟩ := h.frame
  rfl

theorem DescRead.moveDescBad {t q : Nat} {s u : State} (h : DescRead t q s u) (d : List Byte) (need : Nat) :
    moveDescBad u t d need = moveDescBad s t d need := by
  obtain ⟨b, x, rfl⟩ := h.frame
  rfl

theorem DescRead.recordAddress {t q : Nat} {s u : State} (h : DescRead t q s u) (n : Nat) :
    recordAddress u t q n = recordAddress s t q n := by
  have hhost : u.host.queueArea = s.host.queueArea := by
    obtain ⟨b, x, rfl⟩ := h.frame
    rfl
  simp only [Machine.recordAddress, sliceBase, hhost, h.queue, Queue.passes]

theorem DescRead.queueInUse {t q : Nat} {s u : State} (h : DescRead t q s u) : queueInUse u t q = queueInUse s t q := by
  simp only [Machine.queueInUse, h.assigned, h.queue, Queue.passes]

/-! ### A descriptor that is counted (R318) -/

theorem le_completedThrough (fuel n : Nat) (done : List Nat) : n ≤ completedThrough fuel n done := by
  induction fuel generalizing n with
  | zero => exact le_refl n
  | succ k ih =>
    unfold completedThrough
    split
    · exact (Nat.le_succ n).trans (ih (n + 1))
    · exact le_refl n

/-- The next descriptor in order, once it is done, is counted (R318). -/
theorem finish_counts (x : Queue) : x.completed + 1 ≤ (x.finish (x.completed + 1)).completed := by
  have hdone : x.completed + 1 ∈ ninsert x.done (x.completed + 1) := mem_ninsert.2 (.inl rfl)
  show _ ≤ completedThrough _ _ _
  cases hn : (ninsert x.done (x.completed + 1)).length with
  | zero => simp [List.length_eq_zero_iff.1 hn] at hdone
  | succ k =>
    unfold completedThrough
    rw [if_pos (by simpa using hdone)]
    exact le_completedThrough ..

/-! ### The four descriptors (R306 to R310) -/

theorem exec_nopDescriptor (t q : Nat) (s : State) : exec (.nopDescriptor t q) s = execNopDescriptor t q s := rfl

theorem exec_launch (t q : Nat) (s : State) : exec (.launch t q) s = execLaunch t q s := rfl

theorem exec_feed (t q : Nat) (s : State) : exec (.feed t q) s = execFeed t q s := rfl

theorem exec_exportDesc (t q : Nat) (s : State) : exec (.exportDesc t q) s = execExportDesc t q s := rfl

/-- Each of the four descriptors is served by its queue's turn. -/
theorem exec_descriptor {t q : Nat} {x : Instr} (hx : x = .nopDescriptor t q ∨ x = .launch t q ∨ x = .feed t q ∨ x = .exportDesc t q)
    (s : State) : ∃ ty run, exec x s = .next (serveQueue s t q ty run) := by
  obtain rfl | rfl | rfl | rfl := hx
  · exact ⟨_, _, exec_nopDescriptor ..⟩
  · exact ⟨_, _, exec_launch ..⟩
  · exact ⟨_, _, exec_feed ..⟩
  · exact ⟨_, _, exec_exportDesc ..⟩

section
variable {s : State} {t q : Nat} (hturn : queueTurn s t q = true)
  (hwait : dpaWaits s (descAddress s t q (nextDesc s t q)) 64 = false) (hbad : dpaBad s (descAddress s t q (nextDesc s t q)) 64 = false)
include hturn hwait hbad

/-- NOP completes with its record (R307, R316). -/
theorem nopDescriptor_completes (hq : q < 8) (hty : dbits (nextDescBytes s t q) 4 0 = 0)
    (hres : descReserved (nextDescBytes s t q) 511 16 = false) :
    ∃ u, exec (.nopDescriptor t q) s = .next u ∧ queueAt u t q = (queueAt s t q).passes.finish (nextDesc s t q) ∧ u.tiles = s.tiles ∧
      u.mem = (s.writeDpa (recordAddress s t q (nextDesc s t q)) (recordBytes (nextDesc s t q) q 0 0 0 0)).1.mem := by
  obtain ⟨u, hread, hserve⟩ := serveQueue_starts hturn hwait hbad hty
  obtain ⟨hqueue, hmem⟩ := completeDesc_completes (seq := nextDesc s t q) rfl (hread.queueInUse.trans (queueInUse_of_queueTurn hq hturn))
    0 0 0 0
  rw [exec_nopDescriptor, execNopDescriptor]
  refine ⟨_, congrArg _ (hserve _ _ (if_neg (by simp [hres]))), hqueue.trans (by rw [hread.queue]),
    (completeDesc_keeps ..).2.trans hread.tiles, hmem.trans ?_⟩
  rw [hread.recordAddress]
  exact writeDpa_mem_congr hread.mem hread.service ..

/-- LAUNCH puts its block at the end of the tile's launch order (R308). -/
theorem launch_joins {p : BlockParams} (hp : p = launchParams (nextDescBytes s t q)) (hty : dbits (nextDescBytes s t q) 4 0 = 1)
    (hres : descReserved (nextDescBytes s t q) 92 16 = false) (hlaunch : launchBad s t p = false) :
    ∃ u, exec (.launch t q) s = .next (u.setTile p.tile { tileAt s p.tile with waiting := (tileAt s p.tile).waiting ++
      [{ params := p, tenant := t, queue := q, seq := nextDesc s t q, epoch := (queueAt s t q).epoch }] }) ∧ DescRead t q s u := by
  obtain ⟨u, hread, hserve⟩ := serveQueue_starts hturn hwait hbad hty
  have htile : tileAt u p.tile = tileAt s p.tile := by rw [tileAt, hread.tiles, tileAt]
  rw [exec_launch, execLaunch]
  refine ⟨u, congrArg _ (hserve _ _ ?_), hread⟩
  dsimp only
  rw [← hp, hread.launchBad, if_neg (by simp [hres, hlaunch]), hread.queue, htile]
  rfl

/-- FEED and EXPORT begin their copy (R309, R313). -/
theorem move_begins {x : Instr} {ty need : Nat} (hx : (x, ty, need) ∈ [(Instr.feed t q, 2, 0), (.exportDesc t q, 3, 1)])
    (hty : dbits (nextDescBytes s t q) 4 0 = ty) (hmove : moveDescBad s t (nextDescBytes s t q) need = false) :
    ∃ u, exec x s = .next (u.updQueue t q fun y => { y with running := y.running ++ [(y.epoch, nextDesc s t q, nextDescBytes s t q)] }) ∧
      DescRead t q s u := by
  obtain ⟨u, hread, hserve⟩ := serveQueue_starts hturn hwait hbad hty
  have hstart : startMove u t q (nextDesc s t q) (nextDescBytes s t q) need = .inl (u.updQueue t q fun y =>
      { y with running := y.running ++ [(y.epoch, nextDesc s t q, nextDescBytes s t q)] }) := by
    rw [startMove, hread.moveDescBad, if_neg (by simp [hmove])]
  refine ⟨u, ?_, hread⟩
  simp only [List.mem_cons, Prod.mk.injEq, List.not_mem_nil, or_false] at hx
  obtain ⟨rfl, rfl, rfl⟩ | ⟨rfl, rfl, rfl⟩ := hx
  · rw [exec_feed, execFeed, hserve _ _ hstart]
  · rw [exec_exportDesc, execExportDesc, hserve _ _ hstart]

/-- A FEED or EXPORT that breaks its table freezes its queue (R310). -/
theorem move_freezes {x : Instr} {ty need : Nat} (hx : (x, ty, need) ∈ [(Instr.feed t q, 2, 0), (.exportDesc t q, 3, 1)])
    (hty : dbits (nextDescBytes s t q) 4 0 = ty) (hmove : moveDescBad s t (nextDescBytes s t q) need = true) :
    ∃ u, exec x s = .next u ∧ QueueFroze s u t q (nextDesc s t q) 0x60 (nextDescBytes s t q) := by
  have hstart : ∀ u, DescRead t q s u → startMove u t q (nextDesc s t q) (nextDescBytes s t q) need = .inr 0x60 := fun u hu => by
    rw [startMove, hu.moveDescBad, if_pos hmove]
  simp only [List.mem_cons, Prod.mk.injEq, List.not_mem_nil, or_false] at hx
  obtain ⟨rfl, rfl, rfl⟩ | ⟨rfl, rfl, rfl⟩ := hx
  · exact ⟨_, exec_feed .., serveQueue_freezes hturn hwait hbad hty hstart⟩
  · exact ⟨_, exec_exportDesc .., serveQueue_freezes hturn hwait hbad hty hstart⟩

theorem nopDescriptor_freezes (hty : dbits (nextDescBytes s t q) 4 0 = 0) (hres : descReserved (nextDescBytes s t q) 511 16 = true) :
    ∃ u, exec (.nopDescriptor t q) s = .next u ∧ QueueFroze s u t q (nextDesc s t q) 0x60 (nextDescBytes s t q) :=
  ⟨_, exec_nopDescriptor .., serveQueue_freezes hturn hwait hbad hty fun _ _ => if_pos hres⟩

theorem launch_freezes (hty : dbits (nextDescBytes s t q) 4 0 = 1)
    (h : descReserved (nextDescBytes s t q) 92 16 = true ∨ launchBad s t (launchParams (nextDescBytes s t q)) = true) :
    ∃ u, exec (.launch t q) s = .next u ∧ QueueFroze s u t q (nextDesc s t q) 0x60 (nextDescBytes s t q) :=
  ⟨_, exec_launch .., serveQueue_freezes hturn hwait hbad hty fun u hu => if_pos (by rw [hu.launchBad]; simpa using h)⟩

/-- A reserved type freezes its queue (R307, R310). -/
theorem reservedType_freezes (hty : 4 ≤ dbits (nextDescBytes s t q) 4 0) :
    ∃ u, exec (.workDescriptorReservedType t q) s = .next u ∧ QueueFroze s u t q (nextDesc s t q) 0x60 (nextDescBytes s t q) := by
  have hx : exec (.workDescriptorReservedType t q) s = execWorkDescriptorReservedType t q s := rfl
  rw [hx, execWorkDescriptorReservedType]
  dsimp only
  rw [if_neg (by omega)]
  exact ⟨_, rfl, serveQueue_freezes hturn hwait hbad rfl fun _ _ => rfl⟩

end

/-! ### Where a line of a copy lies (R152 to R155, R310) -/

section
variable {s u : State} (hm : u.mem = s.mem) (hs : u.service = s.service)
include hm hs

theorem walkFrom_congr (va d level levels : Nat) : walkFrom u va d level levels = walkFrom s va d level levels := by
  have hentry : ∀ a, tableEntry u a = tableEntry s a := fun a => by rw [tableEntry, dpaBytes_congr hm hs, tableEntry]
  have hmalformed : ∀ l e, entryMalformed u l e = entryMalformed s l e := fun l e => by
    unfold entryMalformed
    rw [hm]
  induction levels generalizing d level with
  | zero => rfl
  | succ k ih =>
    unfold walkFrom
    dsimp only
    rw [dpaResetting_congr hm hs, dpaRetraining_congr hm, dpaBad_congr hm hs]
    simp only [hentry, hmalformed, ih]

variable (ht : u.tenants = s.tenants) (hh : u.host.queueArea = s.host.queueArea)
include ht hh

theorem translateNow_congr (t va : Nat) (need : Need) : translateNow u t va need = translateNow s t va need := by
  have hwalk : walk u t va = walk s t va := by
    unfold walk tenantAt
    rw [ht]
    simp only [walkFrom_congr hm hs]
  simp only [translateNow, hwalk, checkLeaf, targetAllowed_congr hm hs hh, hs]

end

theorem moveTarget_redraw (s : State) (t : Nat) (d : List Byte) (line : Nat) (need : Need) :
    moveTarget s.redraw t d line need = moveTarget s t d line need := by
  have hnow : ∀ va, translateNow (calm s.redraw) t va need = translateNow (calm s) t va need := fun va =>
    translateNow_congr (s := calm s) (u := calm s.redraw) rfl rfl rfl rfl t va need
  have hlocal : ∀ b, isLocal s.redraw b = isLocal s b := fun _ => rfl
  simp only [moveTarget, hnow, hlocal]

/-! ### The end of a copy (R314, R316, R320) -/

/-- The lines of a copy have moved: no tile and no queue is another, and the queue area is where it was. -/
structure LinesMoved (t q : Nat) (s u : State) : Prop where
  tiles : u.tiles = s.tiles
  service : u.service = s.service
  area : u.host.queueArea = s.host.queueArea
  queue : queueAt u t q = queueAt s t q
  assigned : queueAssigned u t q = queueAssigned s t q

theorem LinesMoved.endMove {t q : Nat} {s u : State} (h : LinesMoved t q s u) (e : Nat × Nat × List Byte) :
    queueAt (u.endMove t q e) t q = { queueAt s t q with running := (queueAt s t q).running.erase e } ∧
      queueInUse (u.endMove t q e) t q = queueInUse s t q := by
  have hqueue : queueAt (u.endMove t q e) t q = { queueAt s t q with running := (queueAt s t q).running.erase e } := by
    rw [State.endMove, queueAt_updQueue, if_pos ⟨rfl, rfl⟩, h.queue]
  have hassigned : queueAssigned (u.endMove t q e) t q = queueAssigned s t q := by
    rw [← h.assigned, State.endMove, State.updQueue, queueAssigned, tenantAt_updTenant_self]
    rfl
  exact ⟨hqueue, by rw [queueInUse, hassigned, hqueue, queueInUse]⟩

/-- A record adds to what the host is written, and takes nothing back (R317). -/
theorem putRecord_written (s : State) (t q seq status cause detail moved : Nat) :
    ∃ rest, (s.putRecord t q seq status cause detail moved).host.written = s.host.written ++ rest := by
  have hwrite : ∀ (u : State) a bs, ∃ rest, (u.writeHost a bs).host.written = u.host.written ++ rest := by
    intro u a bs
    unfold State.writeHost
    split
    · exact ⟨[], (List.append_nil _).symm⟩
    · exact ⟨_, rfl⟩
  have hring : ((s.touchBias (recordAddress s t q seq) 32).writeDpa (recordAddress s t q seq)
      (recordBytes seq q status cause detail moved)).1.host.written = s.host.written := by
    obtain ⟨b, hb⟩ := touchBias_spec s (recordAddress s t q seq) 32
    obtain ⟨fast, bad, hw, -⟩ := writeDpa_spec (s.touchBias (recordAddress s t q seq) 32) (recordAddress s t q seq)
      (recordBytes seq q status cause detail moved)
    rw [hw, hb]
  unfold State.putRecord
  dsimp only
  split
  · exact ⟨[], by rw [hring, List.append_nil]⟩
  · generalize windowBase _ + _ + _ = w
    obtain ⟨r1, h1⟩ := hwrite ((s.touchBias (recordAddress s t q seq) 32).writeDpa (recordAddress s t q seq)
      (recordBytes seq q status cause detail moved)).1 w ((recordBytes seq q status cause detail moved).take 24)
    obtain ⟨r2, h2⟩ := hwrite (((s.touchBias (recordAddress s t q seq) 32).writeDpa (recordAddress s t q seq)
      (recordBytes seq q status cause detail moved)).1.writeHost w ((recordBytes seq q status cause detail moved).take 24)) (w + 24)
      ((recordBytes seq q status cause detail moved).drop 24)
    exact ⟨r1 ++ r2, by rw [h2, h1, hring, List.append_assoc]⟩

/-- A copy that ends in its epoch, on a queue in use, is under way no longer and leaves its record (R316, R320). -/
theorem LinesMoved.completes {t q : Nat} {s u : State} (h : LinesMoved t q s u) (huse : queueInUse s t q = true) (n : Nat) (d : List Byte)
    (status moved : Nat) {v : State}
    (hv : v = (u.endMove t q ((queueAt s t q).epoch, n, d)).completeDesc t q n (queueAt s t q).epoch status 0 0 moved) :
    (queueAt v t q).running = (queueAt s t q).running.erase ((queueAt s t q).epoch, n, d) ∧ v.tiles = s.tiles ∧
      v.mem = (u.writeDpa (recordAddress s t q n) (recordBytes n q status 0 0 moved)).1.mem ∧
      ∃ rest, v.host.written = u.host.written ++ rest := by
  obtain ⟨hqueue, hin⟩ := h.endMove ((queueAt s t q).epoch, n, d)
  have hepoch : (queueAt (u.endMove t q ((queueAt s t q).epoch, n, d)) t q).epoch = (queueAt s t q).epoch := by rw [hqueue]
  obtain ⟨hfin, hmem⟩ := completeDesc_completes (seq := n) hepoch (hin.trans huse) status 0 0 moved
  have hring : recordAddress (u.endMove t q ((queueAt s t q).epoch, n, d)) t q n = recordAddress s t q n := by
    have harea : (u.endMove t q ((queueAt s t q).epoch, n, d)).host.queueArea = s.host.queueArea := h.area
    simp only [recordAddress, sliceBase, harea, hqueue]
  refine ⟨?_, ?_, ?_, ?_⟩
  · rw [hv, hfin, hqueue]
    rfl
  · rw [hv]
    exact (completeDesc_keeps ..).2.trans h.tiles
  · rw [hv, hmem, hring]
    exact writeDpa_mem_congr (s := u) (u := u.endMove t q ((queueAt s t q).epoch, n, d)) rfl rfl ..
  · obtain ⟨rest, hrest⟩ := putRecord_written (u.endMove t q ((queueAt s t q).epoch, n, d)) t q n status 0 0 moved
    rw [hv, State.completeDesc, if_neg (by simp [hepoch, hin, huse])]
    exact ⟨rest, hrest⟩


/-! ### A copy of one line (R309, R310) -/

theorem linesMoved_refl (t q : Nat) (s : State) : LinesMoved t q s s := ⟨rfl, rfl, rfl, rfl, rfl⟩

theorem LinesMoved.touchBias {t q : Nat} {s u : State} (h : LinesMoved t q s u) (a n : Nat) : LinesMoved t q s (u.touchBias a n) := by
  obtain ⟨b, hb⟩ := touchBias_spec u a n
  rw [hb]
  exact ⟨h.tiles, h.service, h.area, h.queue, h.assigned⟩

theorem LinesMoved.onlyFast {t q : Nat} {s u v : State} (h : LinesMoved t q s u) (hw : OnlyFast u v) : LinesMoved t q s v := by
  obtain ⟨fast, bad, rfl, -⟩ := hw
  exact ⟨h.tiles, h.service, h.area, h.queue, h.assigned⟩

theorem LinesMoved.notices {t q : Nat} {s u v : State} (h : LinesMoved t q s u) (hn : Notices u v) : LinesMoved t q s v := by
  have hqueue := (hn.queue t q).trans h.queue
  have hassigned := (hn.assigned t q).trans h.assigned
  obtain ⟨x, g, l, rfl⟩ := hn.frame
  exact ⟨h.tiles, h.service, h.area, hqueue, hassigned⟩

/-- One line of a FEED that lands (R309). -/
theorem moveLines_ofFeed {s : State} {t q a : Nat} {d data : List Byte} (hty : dbits d 4 0 = 2) (hlen : data.length = 64)
    (ha : moveTarget s t d 0 .w = .ok a) (hland : (s.writeDpa a data).2 = false) :
    ∃ u, moveLines s.redraw t d data 1 = (u, 1, none) ∧ LinesMoved t q s u ∧ u.mem = (s.writeDpa a data).1.mem ∧
      u.host.written = s.host.written := by
  obtain ⟨b, hb⟩ := touchBias_spec s.redraw a 64
  have htouch : s.redraw.touchBias a 64 = s.beside (s.draws + 1) s.links { s.host with biasRequests := b } := hb
  have hline : (data.drop (64 * 0)).take 64 = data := by simp [← hlen]
  obtain ⟨fast, bad, hw, -⟩ := writeDpa_spec s a data
  refine ⟨((s.writeDpa a data).1.beside (s.draws + 1) s.links { s.host with biasRequests := b }).noticeWrite t a 64, ?_, ?_, ?_, ?_⟩
  · rw [moveLines, if_pos hty, feedLines, moveTarget_redraw, ha]
    dsimp only
    rw [hline, htouch, writeDpa_beside, hland]
    rfl
  · refine LinesMoved.notices ?_ (notices_noticeWrite ..)
    rw [hw]
    exact ⟨rfl, rfl, rfl, rfl, rfl⟩
  · exact noticeWrite_mem ..
  · obtain ⟨x, g, l, hn⟩ := (notices_noticeWrite ((s.writeDpa a data).1.beside (s.draws + 1) s.links { s.host with biasRequests := b })
      t a 64).frame
    rw [hn]
    rfl

/-- One line of an EXPORT that can be read (R309, R310). -/
theorem moveLines_ofExport {s : State} {t q a : Nat} {d data : List Byte} (hty : dbits d 4 0 = 3) (hlink : s.host.linkWidth ≠ 0)
    (ha : moveTarget s t d 0 .r = .ok a) (hread : dpaBad s a 64 = false) :
    ∃ u, moveLines s.redraw t d data 1 = (u, 1, none) ∧ LinesMoved t q s u ∧ u.mem = s.mem ∧
      u.host.written = s.host.written ++ [(windowBase (hostWindow s t (dbits d 105 104)) + dbits d 255 192, dpaBytes s a 64)] := by
  obtain ⟨b, hb⟩ := touchBias_spec s.redraw a 64
  obtain ⟨u, hu⟩ : ∃ u, u = s.redraw.touchBias a 64 := ⟨_, rfl⟩
  have hmem : u.mem = s.mem := by rw [hu, hb]; rfl
  have hserv : u.service = s.service := by rw [hu, hb]; rfl
  have hup : u.host.linkWidth ≠ 0 := by rw [hu, hb]; exact hlink
  have hwindow : hostWindow u t (dbits d 105 104) = hostWindow s t (dbits d 105 104) := by rw [hu, hb]; rfl
  have hwritten : u.host.written = s.host.written := by rw [hu, hb]; rfl
  have hmoved : LinesMoved t q s u := by
    have hdraw : LinesMoved t q s s.redraw := ⟨rfl, rfl, rfl, rfl, rfl⟩
    rw [hu]
    exact hdraw.touchBias ..
  refine ⟨u.updHost fun h => { h with written := h.written ++
      [(windowBase (hostWindow s t (dbits d 105 104)) + dbits d 255 192, dpaBytes s a 64)] }, ?_,
    ⟨hmoved.tiles, hmoved.service, hmoved.area, hmoved.queue, hmoved.assigned⟩, hmem, ?_⟩
  · rw [moveLines, if_neg (by omega), exportLines, moveTarget_redraw, ha]
    dsimp only
    rw [← hu, dpaBad_congr hmem hserv, hread, if_neg Bool.false_ne_true, State.writeHost, if_neg hup, hwindow, dpaBytes_congr hmem hserv]
    rfl
  · show u.host.written ++ _ = _
    rw [hwritten]

/-- A line that does not translate stops a copy there (R310). -/
theorem moveLines_fails {s : State} {t c : Nat} {need : Need} {d : List Byte} (data : List Byte)
    (hty : dbits d 4 0 = 2 ∧ need = .w ∨ dbits d 4 0 = 3 ∧ need = .r) (hc : moveTarget s t d 0 need = .error c) :
    moveLines s.redraw t d data 1 = (s.redraw.noteLine t d 0, 0, some c) := by
  obtain ⟨hty, rfl⟩ | ⟨hty, rfl⟩ := hty
  · rw [moveLines, if_pos hty, feedLines, moveTarget_redraw, hc]
  · rw [moveLines, if_neg (by omega), exportLines, moveTarget_redraw, hc]

/-! ### FEED_EXPORT_COMPLETE (R309, R310, R320) -/

section
variable {s : State} {t q n : Nat} {d : List Byte}
  (hfind : (queueAt s t q).running.find? (fun e => e.2.1 = n) = some ((queueAt s t q).epoch, n, d))
include hfind

/-- A copy without the host link ends with status 6 (R320). -/
theorem exec_feedExportComplete_linkLost (data : List Byte) (ecc : Ecc) (hlink : s.host.linkWidth = 0) :
    exec (.feedExportComplete t q n data ecc .linkLost) s =
      .next ((s.endMove t q ((queueAt s t q).epoch, n, d)).completeDesc t q n (queueAt s t q).epoch 6 0 0 0) := by
  have hx : exec (.feedExportComplete t q n data ecc .linkLost) s = execFeedExportComplete t q n data ecc .linkLost s := rfl
  rw [hx, execFeedExportComplete, hfind]
  dsimp only
  rw [if_pos rfl, if_neg (by simp [hlink])]

variable (hlink : s.host.linkWidth ≠ 0) (hwaits : moveWaits s t d = false) (hbytes : moveBytes d = 64) {data : List Byte}
  (hdata : dbits d 4 0 = 2 → data.length = 64) {u : State}
include hlink hwaits hbytes hdata

/-- A copy of one line that has moved completes (R316). -/
theorem exec_feedExportComplete_moved (hmove : moveLines s.redraw t d data 1 = (u, 1, none)) :
    exec (.feedExportComplete t q n data { bad := [], corrected := [] } .done) s =
      .next ((u.endMove t q ((queueAt s t q).epoch, n, d)).completeDesc t q n (queueAt s t q).epoch 0 0 0 64) := by
  have hx : exec (.feedExportComplete t q n data { bad := [], corrected := [] } .done) s =
    execFeedExportComplete t q n data { bad := [], corrected := [] } .done s := rfl
  have haer : (s.redraw.updHost fun h => { h with aer := if TransferEnd.done = .poisoned then h.aer ++ [12] else h.aer }) = s.redraw := rfl
  rw [hx, execFeedExportComplete, hfind]
  dsimp only
  rw [if_neg (by simp), if_neg (by simpa [hlink, hwaits, hbytes] using hdata), fastEcc_none, haer, hbytes, hmove]

/-- A copy whose line does not move freezes its queue with the cause (R310, R321). -/
theorem exec_feedExportComplete_fails {c : Nat} (huse : queueInUse s t q = true) (hfrozen : queueFrozen s t q = false)
    (hmove : moveLines s.redraw t d data 1 = (u, 0, some c)) :
    exec (.feedExportComplete t q n data { bad := [], corrected := [] } .done) s =
      .next ((u.endMove t q ((queueAt s t q).epoch, n, d)).freezeQueue t q n c d 0) := by
  have hx : exec (.feedExportComplete t q n data { bad := [], corrected := [] } .done) s =
    execFeedExportComplete t q n data { bad := [], corrected := [] } .done s := rfl
  have haer : (s.redraw.updHost fun h => { h with aer := if TransferEnd.done = .poisoned then h.aer ++ [12] else h.aer }) = s.redraw := rfl
  rw [hx, execFeedExportComplete, hfind]
  dsimp only
  rw [if_neg (by simp), if_neg (by simpa [hlink, hwaits, hbytes] using hdata), fastEcc_none, haer, hbytes, hmove]
  dsimp only
  rw [if_neg (by simp [huse]), if_neg (by simp [hfrozen])]

end

/-! ### The obligation -/

/-- Settles O39: a turn reads the descriptor once, and what starts, or freezes the queue, is said of the state that has read it; a
copy of one line is followed through what its line moves, and then through its record. -/
theorem queuesRunTheirDescriptors : Obligations.QueuesRunTheirDescriptors := by
  unfold Obligations.QueuesRunTheirDescriptors
  refine ⟨fun s t q hq hturn => ⟨fun hwait x hx => ?_, fun hwait => ⟨fun x hx hbad => ?_, fun hbad hty hres => ?_,
    fun hbad hty hres hlaunch => ?_, fun x ty need hx hbad hty => ⟨fun hmove => ?_, fun hmove => ?_⟩, fun x ty hx hbad hty hbreaks => ?_,
    fun hbad hty => ?_⟩⟩, fun s t q n d data ecc hecc hfind huse => ⟨fun hlink => ?_, fun hlink hwaits hbytes =>
    ⟨fun a hty hlen ha hland => ?_, fun a hty ha hread => ?_, fun c need hty hc hfrozen => ?_⟩⟩⟩
  · obtain ⟨ty, run, hexec⟩ := exec_descriptor hx s
    rw [hexec, serveQueue_waits hwait]
  · obtain ⟨ty, run, hexec⟩ := exec_descriptor hx s
    exact ⟨_, hexec, (serveQueue_bad hturn hwait hbad ty run).stands⟩
  · obtain ⟨u, hexec, hqueue, htiles, hmem⟩ := nopDescriptor_completes hturn hwait hbad hq hty hres
    refine ⟨u, hexec, by rw [hqueue]; exact ⟨rfl, rfl⟩, htiles, fun hnext => ?_, hmem⟩
    rw [hqueue, hnext]
    exact finish_counts (queueAt s t q).passes
  · obtain ⟨u, hexec, hread⟩ := launch_joins hturn hwait hbad rfl hty hres hlaunch
    have hqueue := hread.queue
    refine ⟨_, hexec, ⟨congrArg Queue.head hqueue, congrArg Queue.reread hqueue⟩, hread.mem, tileAt_setTile_self .., fun l hl => ?_⟩
    rw [tileAt_setTile, if_neg hl, tileAt, hread.tiles, tileAt]
  · obtain ⟨u, hexec, hread⟩ := move_begins hturn hwait hbad hx hty hmove
    have hqueue : queueAt (u.updQueue t q fun y => { y with running := y.running ++ [(y.epoch, nextDesc s t q, nextDescBytes s t q)] })
        t q = { (queueAt s t q).passes with
          running := (queueAt s t q).running ++ [((queueAt s t q).epoch, nextDesc s t q, nextDescBytes s t q)] } := by
      rw [queueAt_updQueue, if_pos ⟨rfl, rfl⟩, hread.queue]
      rfl
    exact ⟨_, hexec, ⟨congrArg Queue.head hqueue, congrArg Queue.reread hqueue⟩, hread.mem, hread.tiles, congrArg Queue.running hqueue⟩
  · obtain ⟨u, hexec, hfroze⟩ := move_freezes hturn hwait hbad hx hty hmove
    exact ⟨u, hexec, hfroze.stands⟩
  · simp only [List.mem_cons, Prod.mk.injEq, List.not_mem_nil, or_false] at hx
    obtain ⟨rfl, rfl⟩ | ⟨rfl, rfl⟩ := hx
    · obtain ⟨u, hexec, hfroze⟩ := nopDescriptor_freezes hturn hwait hbad hty (by simpa using hbreaks)
      exact ⟨u, hexec, hfroze.stands⟩
    · obtain ⟨u, hexec, hfroze⟩ := launch_freezes hturn hwait hbad hty (by simpa using hbreaks)
      exact ⟨u, hexec, hfroze.stands⟩
  · obtain ⟨u, hexec, hfroze⟩ := reservedType_freezes hturn hwait hbad hty
    exact ⟨u, hexec, hfroze.stands⟩
  · obtain ⟨hended, htiles, hmem, -⟩ := (linesMoved_refl t q s).completes huse n d 6 0 rfl
    exact ⟨_, exec_feedExportComplete_linkLost hfind data ecc hlink, hended, htiles, hmem⟩
  · subst hecc
    obtain ⟨u, hmove, hmoved, humem, hwritten⟩ := moveLines_ofFeed (q := q) hty hlen ha hland
    obtain ⟨hended, htiles, hmem, rest, hrest⟩ := hmoved.completes huse n d 0 64 rfl
    refine ⟨_, exec_feedExportComplete_moved hfind hlink hwaits hbytes (fun _ => hlen) hmove, hended, htiles, ?_, hmem.trans ?_⟩
    · rw [hrest, hwritten, List.take_left]
    · obtain ⟨fast, bad, hw, -⟩ := writeDpa_spec s a data
      exact writeDpa_mem_congr humem (hmoved.service.trans (by rw [hw])) ..
  · subst hecc
    obtain ⟨u, hmove, hmoved, humem, hwritten⟩ := moveLines_ofExport (q := q) (data := data) hty hlink ha hread
    obtain ⟨hended, htiles, hmem, rest, hrest⟩ := hmoved.completes huse n d 0 64 rfl
    refine ⟨_, rest, exec_feedExportComplete_moved hfind hlink hwaits hbytes (fun h => by omega) hmove, hended, htiles, ?_, hmem.trans ?_⟩
    · rw [hrest, hwritten, List.append_assoc]
      rfl
    · exact writeDpa_mem_congr humem hmoved.service ..
  · subst hecc
    have hlen : dbits d 4 0 = 2 → data.length = 64 := fun h => by
      obtain ⟨-, -, hlen⟩ | ⟨h3, -⟩ := hty
      · exact hlen
      · omega
    have hmove := moveLines_fails data (hty.imp_left fun h => ⟨h.1, h.2.1⟩) hc
    obtain ⟨-, ⟨f, hf, hmaster, hcause, haddr, -⟩, hqueue, htiles⟩ := freezeQueue_froze
      (s1 := (s.redraw.noteLine t d 0).endMove t q ((queueAt s t q).epoch, n, d)) rfl rfl t q n c d 0
    refine ⟨_, exec_feedExportComplete_fails hfind hlink hwaits hbytes hlen huse hfrozen hmove, ?_, ?_, f, hf, hmaster, hcause, haddr⟩
    · have hsame : (s.redraw.noteLine t d 0).tenants = s.tenants := (noteWalk_tenants ..).1
      refine (congrArg Queue.running hqueue).trans ?_
      rw [State.endMove, queueAt_updQueue, if_pos ⟨rfl, rfl⟩, queueAt, tenantAt, hsame]
      rfl
    · exact htiles.trans (keepsBytes_noteWalk ..).tiles

end Sys2Proof.Machine
end

section
/-!
PROOF. O26, the first part: what a scrub pass finds is marked, and its channel is queued for retraining (R186, R187; logs 40, 56).
-/

namespace Sys2Proof.Machine

/-! ### A key of the fast tier comes back from its address (R158) -/

theorem fastKey_keyDpa {m : MemState} (hspan : m.span ≤ 56) {st o : Nat} (hst : st < 20) (ho : o < 56 * gib) :
    fastKey m (keyDpa m (2 ^ 36 * st + o)) = some (2 ^ 36 * st + o) := by
  simp only [gib] at ho
  have hstack : (2 ^ 36 * st + o) / 2 ^ 36 = st := by omega
  have hoffset : (2 ^ 36 * st + o) % 2 ^ 36 = o := by omega
  unfold keyDpa
  simp only [hstack, hoffset]
  split
  next hin =>
    simp only [gib] at hin
    generalize hturn : (o / 4096 ^^^ o / 4096 / 32 ^^^ o / 4096 / 1024) % 20 = c
    have hc : c < 20 := hturn ▸ Nat.mod_lt _ (by decide)
    have hline : (4096 * (20 * (o / 4096) + (st + 20 - c) % 20) + o % 4096) / 4096 = 20 * (o / 4096) + (st + 20 - c) % 20 := by omega
    have hrow : (20 * (o / 4096) + (st + 20 - c) % 20) / 20 = o / 4096 := by omega
    have hview : inInterleaved m (4096 * (20 * (o / 4096) + (st + 20 - c) % 20) + o % 4096) = true :=
      decide_eq_true (by simp only [gib]; omega)
    rw [fastKey, if_pos hview, interleavedKey]
    simp only [hline, hrow, hturn]
    congr 1
    omega
  next hout =>
    simp only [gib] at hout
    have hwide : 20 * m.span ≤ 1120 := Nat.mul_le_mul_left 20 hspan
    have hview : inInterleaved m (0x040000000000 + 2 ^ 36 * st + o) = false :=
      decide_eq_false (by simp only [gib]; omega)
    have hplace : stackView m (0x040000000000 + 2 ^ 36 * st + o) = some (st, o) := by
      have hstack : (0x040000000000 + 2 ^ 36 * st + o) / 2 ^ 36 - 64 = st := by omega
      have hoffset : (0x040000000000 + 2 ^ 36 * st + o) % 2 ^ 36 = o := by omega
      unfold stackView
      simp only [hstack, hoffset, gib]
      rw [if_neg (by omega), if_pos (by simp; omega)]
    rw [fastKey, hview, hplace]
    rfl

/-! ### The word of a key (R180, R184) -/

theorem channelOf_word (k : Nat) : channelOf (16 * (k / 16)) = channelOf k := by
  have hlow : bits (16 * (k / 16) % 2 ^ 36) 14 10 = bits (k % 2 ^ 36) 14 10 := by unfold bits; omega
  have hhigh : bits (16 * (k / 16) % 2 ^ 36) 26 22 = bits (k % 2 ^ 36) 26 22 := by unfold bits; omega
  rw [channelOf, hlow, hhigh, channelOf]

theorem keyBacked_word (s : State) (k : Nat) : keyBacked s (16 * (k / 16)) = keyBacked s k := by
  have hstack : 16 * (k / 16) / 2 ^ 36 = k / 2 ^ 36 := by omega
  have hrows : (16 * (k / 16) % 2 ^ 36 < 55 * gib) = (k % 2 ^ 36 < 55 * gib) := by simp only [gib, eq_iff_iff]; omega
  have hspan : (16 * (k / 16) % 2 ^ 36 < gib * s.mem.span) = (k % 2 ^ 36 < gib * s.mem.span) := by simp only [gib, eq_iff_iff]; omega
  simp only [keyBacked, hstack, hrows, hspan]

/-! ### Channels that are to retrain (R187) -/

/-- Reports of words that cannot be read: channels are queued for retraining, copies of the reserve are lost, and no mark, byte or
tile differs. -/
structure Reported (s t : State) : Prop where
  frame : ∃ q g log, t = { s with mem := { s.mem with retrainQueue := q, genRecords := g }, log := log }
  queue : ∀ c ∈ s.mem.retrainQueue, c ∈ t.mem.retrainQueue

theorem Reported.refl (s : State) : Reported s s := ⟨⟨_, _, _, rfl⟩, fun _ h => h⟩

theorem Reported.trans {s t u : State} (h : Reported s t) (h' : Reported t u) : Reported s u := by
  refine ⟨?_, fun c hc => h'.queue c (h.queue c hc)⟩
  obtain ⟨q, g, l, rfl⟩ := h.frame
  obtain ⟨q', g', l', rfl⟩ := h'.frame
  exact ⟨q', g', l', rfl⟩

theorem reported_foldl {α : Type} {f : State → α → State} (hf : ∀ t x, Reported t (f t x)) (xs : List α) (s : State) :
    Reported s (xs.foldl f s) := foldl_keeps (P := Reported s) f (fun t x ht => ht.trans (hf t x)) xs s (.refl s)

section
variable (s : State)

theorem reported_report (source : W32) (cls cause : Nat) (tenant : Option Nat) (detail : W32) :
    Reported s (s.report source cls cause tenant detail) := by
  obtain ⟨log, h⟩ := report_onlyLog s source cls cause tenant detail
  rw [h]
  exact ⟨⟨_, _, log, rfl⟩, fun _ h => h⟩

theorem mem_wantRetrain (unit channel : Nat) : 32 * unit + channel ∈ (s.wantRetrain unit channel).mem.retrainQueue := by
  unfold State.wantRetrain State.updMem
  dsimp only
  split
  next h => simpa using h
  next => exact List.mem_append_right _ List.mem_cons_self

theorem reported_wantRetrain (unit channel : Nat) : Reported s (s.wantRetrain unit channel) := by
  unfold State.wantRetrain State.updMem
  dsimp only
  split
  · exact .refl s
  · exact ⟨⟨_, _, _, rfl⟩, fun c hc => List.mem_append_left _ hc⟩

theorem reported_fastUncorrectable (d : Nat) : Reported s (s.fastUncorrectable d) := by
  unfold State.fastUncorrectable
  split
  · exact (reported_report ..).trans (reported_wantRetrain ..)
  · exact reported_report ..

/-- The channel of a word that cannot be read is to retrain (R187). -/
theorem fastUncorrectable_queues {d k : Nat} (h : fastKey s.mem d = some k) :
    32 * (k / 2 ^ 36) + channelOf k ∈ (s.fastUncorrectable d).mem.retrainQueue := by
  unfold State.fastUncorrectable
  rw [h]
  exact mem_wantRetrain ..

theorem reported_slowUncorrectable (key : Nat) : Reported s (s.slowUncorrectable key) :=
  (reported_report ..).trans (reported_wantRetrain ..)

theorem slowUncorrectable_queues (key : Nat) :
    32 * (20 + key / 2 ^ 38) + packageOf key ∈ (s.slowUncorrectable key).mem.retrainQueue := mem_wantRetrain ..

theorem reported_reserveBad (a : Nat) : Reported s (s.reserveBad a) := by
  unfold State.reserveBad
  dsimp only
  split
  · exact .refl s
  · exact ⟨⟨_, _, _, rfl⟩, fun _ h => h⟩

end

/-! ### The marks of what is found (R186) -/

theorem mem_foundBad {m : MemState} {bad : List Nat} {d k : Nat} (hd : d ∈ bad) (hk : fastKey m d = some k) :
    k / 16 ∈ foundBad m bad := by
  refine foldl_reaches_mem (P := fun b : List Nat => k / 16 ∈ b) _ hd (fun b => ?_) (fun b e _ hb => ?_) _
  · rw [hk]
    exact mem_ninsert.2 (.inl rfl)
  · split
    · exact mem_ninsert.2 (.inr hb)
    · exact hb

/-- A pass counts its repairs, and leaves the marks and the queue. -/
theorem noteRepairs_spec (s : State) (unit n : Nat) :
    ∃ r, s.noteRepairs unit n = { s with mem := { s.mem with rowsRepaired := r } } := by
  unfold State.noteRepairs
  split
  · exact ⟨_, rfl⟩
  · exact ⟨_, rfl⟩

theorem exec_scrubPass (u : MemUnit) (found : ScrubResult) (s : State) : exec (.scrubPass u found) s = execScrubPass u found s := rfl

/-- The words a stack's scrub finds, by their addresses. -/
def scrubDpas (s : State) (n : Nat) (os : List Nat) : List Nat :=
  (os.filter fun o => o < 56 * gib && keyBacked s (2 ^ 36 * n + o)).map fun o => keyDpa s.mem (2 ^ 36 * n + o)

theorem scrubStack_spec (s : State) (n : Nat) (ecc : Ecc) :
    ∃ log s1, s1 = { s with mem := { s.mem with fastBad := foundBad s.mem (scrubDpas s n ecc.bad) }, log := log } ∧
      s.scrubStack n ecc = (s1.mem.fastBad.filter fun w => 16 * w / 2 ^ 36 = n && keyBacked s1 (16 * w)).foldl
        (fun s w => s.fastUncorrectable (keyDpa s.mem (16 * w))) s1 := by
  obtain ⟨log, h⟩ := fastEcc_spec s { bad := scrubDpas s n ecc.bad, corrected := scrubDpas s n ecc.corrected }
  exact ⟨log, _, h, rfl⟩

theorem scrubPass_stack {s : State} {n : Nat} (hserves : unitServes s (.stack n) = true) (hspan : s.mem.span ≤ 56) (k : Nat) (ecc : Ecc) :
    ∃ t, exec (.scrubPass (.stack n) { ecc := ecc, repaired := k }) s = .next t ∧ SameMemory s t ∧ t.tenants = s.tenants ∧ t.tiles = s.tiles ∧
      ∀ o ∈ ecc.bad, o < 56 * gib → keyBacked s (2 ^ 36 * n + o) = true →
        (2 ^ 36 * n + o) / 16 ∈ t.mem.fastBad ∧ 32 * n + channelOf (2 ^ 36 * n + o) ∈ t.mem.retrainQueue := by
  have hn : n < 20 := by
    simp only [unitServes, Bool.and_eq_true, decide_eq_true_eq] at hserves
    tauto
  obtain ⟨log, s1, hs1, hscrub⟩ := scrubStack_spec s.redraw n ecc
  obtain ⟨r, hr⟩ := noteRepairs_spec (s.redraw.scrubStack n ecc) (unitNumber (.stack n)) k
  have hreported : Reported s1 (s.redraw.scrubStack n ecc) := by
    rw [hscrub]
    exact reported_foldl (fun t w => reported_fastUncorrectable ..) ..
  obtain ⟨q, g, l, ht⟩ := hreported.frame
  have hx : exec (.scrubPass (.stack n) { ecc := ecc, repaired := k }) s =
      .next ((s.redraw.scrubStack n ecc).noteRepairs (unitNumber (.stack n)) k) := by
    rw [exec_scrubPass, execScrubPass, if_neg (by simp [hserves])]
  refine ⟨_, hx, ?_, ?_, ?_, fun o ho hlt hbacked => ?_⟩
  · rw [hr, ht, hs1]
    exact ⟨fun _ => rfl, fun _ => rfl, fun _ _ => rfl⟩
  · rw [hr, ht, hs1]
    rfl
  · rw [hr, ht, hs1]
    rfl
  · have hkey : fastKey s.mem (keyDpa s.mem (2 ^ 36 * n + o)) = some (2 ^ 36 * n + o) := fastKey_keyDpa hspan hn hlt
    have hfound : keyDpa s.mem (2 ^ 36 * n + o) ∈ scrubDpas s.redraw n ecc.bad :=
      List.mem_map.2 ⟨o, List.mem_filter.2 ⟨ho, by rw [decide_eq_true hlt]; exact hbacked⟩, rfl⟩
    have hword : (2 ^ 36 * n + o) / 16 ∈ s1.mem.fastBad := by
      rw [hs1]
      exact mem_foundBad hfound hkey
    have hstack : 16 * ((2 ^ 36 * n + o) / 16) / 2 ^ 36 = n := by
      simp only [gib] at hlt
      omega
    have hserved : keyBacked s1 (16 * ((2 ^ 36 * n + o) / 16)) = true := by
      rw [keyBacked_word, hs1]
      exact hbacked
    have hin : (2 ^ 36 * n + o) / 16 ∈ s1.mem.fastBad.filter fun w => 16 * w / 2 ^ 36 = n && keyBacked s1 (16 * w) :=
      List.mem_filter.2 ⟨hword, by rw [hserved, decide_eq_true hstack]; rfl⟩
    have hqueued : 32 * n + channelOf (2 ^ 36 * n + o) ∈ (s.redraw.scrubStack n ecc).mem.retrainQueue := by
      rw [hscrub]
      refine foldl_reaches (I := Reported s1) (P := fun t : State => 32 * n + channelOf (2 ^ 36 * n + o) ∈ t.mem.retrainQueue) _
        (fun t w hI => hI.trans (reported_fastUncorrectable ..)) (fun t hI => ?_)
        (fun t w hP => (reported_fastUncorrectable ..).queue _ hP) _ _ hin (.refl s1)
      have hback : fastKey t.mem (keyDpa t.mem (16 * ((2 ^ 36 * n + o) / 16))) = some (16 * ((2 ^ 36 * n + o) / 16)) := by
        have hwhole : 16 * ((2 ^ 36 * n + o) / 16) = 2 ^ 36 * n + 16 * (o / 16) := by omega
        have hspan' : t.mem.span ≤ 56 := by
          obtain ⟨q', g', l', rfl⟩ := hI.frame
          rw [hs1]
          exact hspan
        rw [hwhole]
        exact fastKey_keyDpa hspan' hn (by omega)
      have := fastUncorrectable_queues t hback
      rwa [hstack, channelOf_word] at this
    exact ⟨by rw [hr, ht]; exact hword, by rw [hr]; exact hqueued⟩

/-! ### A slow tier (R186; log 40) -/

/-- The slow tier's marks after a pass of a chip (R186). -/
def slowFoundBad (m : MemState) (chip : Nat) (bad : List Nat) : List Nat :=
  bad.foldl (fun b a => ninsert b ((2 ^ 38 * chip + a) / 16)) m.slowBad

theorem mem_slowFoundBad {m : MemState} {chip : Nat} {bad : List Nat} {a : Nat} (ha : a ∈ bad) :
    (2 ^ 38 * chip + a) / 16 ∈ slowFoundBad m chip bad :=
  foldl_reaches_mem (P := fun b : List Nat => (2 ^ 38 * chip + a) / 16 ∈ b) (fun b a => ninsert b ((2 ^ 38 * chip + a) / 16)) ha
    (fun _ => mem_ninsert.2 (.inl rfl)) (fun _ _ _ hb => mem_ninsert.2 (.inr hb)) _

theorem slowEcc_spec (s : State) (chip : Nat) (e : Ecc) :
    ∃ log, s.slowEcc chip e = { s with mem := { s.mem with slowBad := slowFoundBad s.mem chip e.bad }, log := log } := by
  unfold State.slowEcc
  refine foldl_keeps (P := fun t : State =>
    ∃ log, t = { s with mem := { s.mem with slowBad := slowFoundBad s.mem chip e.bad }, log := log }) _ ?_ _ _ ⟨s.log, rfl⟩
  rintro _ a ⟨log, rfl⟩
  exact (report_onlyLog ..).imp fun _ h => h

theorem scrubSlow_reports (s : State) (chip : Nat) (ecc : Ecc) {s1 : State}
    (hs1 : s1 = s.slowEcc chip { ecc with bad := ecc.bad.filter fun a => a < 224 * gib }) :
    Reported s1 (s.scrubSlow chip ecc) ∧ ∀ w ∈ s1.mem.slowBad, 16 * w / 2 ^ 38 = chip →
      32 * (20 + chip) + packageOf (16 * w) ∈ (s.scrubSlow chip ecc).mem.retrainQueue := by
  have hreport : ∀ (t : State) w, Reported t (t.slowUncorrectable (16 * w)) := fun t w => reported_slowUncorrectable ..
  have hpass := reported_foldl hreport (s1.mem.slowBad.filter fun w => 16 * w / 2 ^ 38 = chip) s1
  have hqueue : ∀ w ∈ s1.mem.slowBad, 16 * w / 2 ^ 38 = chip → 32 * (20 + chip) + packageOf (16 * w) ∈
      ((s1.mem.slowBad.filter fun w => 16 * w / 2 ^ 38 = chip).foldl (fun s w => s.slowUncorrectable (16 * w)) s1).mem.retrainQueue := by
    intro w hw hchip
    refine foldl_reaches_mem (P := fun t : State => 32 * (20 + chip) + packageOf (16 * w) ∈ t.mem.retrainQueue) _
      (List.mem_filter.2 ⟨hw, decide_eq_true hchip⟩) (fun t => ?_) (fun t y _ hP => (hreport t y).queue _ hP) _
    have := slowUncorrectable_queues t (16 * w)
    rwa [hchip] at this
  unfold State.scrubSlow
  dsimp only
  rw [← hs1]
  split
  · have hreserve := reported_foldl (fun t a => (reported_reserveBad t a).trans (reported_slowUncorrectable _ a))
      (ecc.bad.filter fun a => 224 * gib ≤ a && a < 256 * gib)
      ((s1.mem.slowBad.filter fun w => 16 * w / 2 ^ 38 = chip).foldl (fun s w => s.slowUncorrectable (16 * w)) s1)
    exact ⟨hpass.trans hreserve, fun w hw hchip => hreserve.queue _ (hqueue w hw hchip)⟩
  · exact ⟨hpass, hqueue⟩

theorem scrubPass_slow {s : State} {n : Nat} (hserves : unitServes s (.slow n) = true) (k : Nat) (ecc : Ecc) :
    ∃ t, exec (.scrubPass (.slow n) { ecc := ecc, repaired := k }) s = .next t ∧ SameMemory s t ∧ t.tenants = s.tenants ∧ t.tiles = s.tiles ∧
      ∀ a ∈ ecc.bad, a < 224 * gib →
        (2 ^ 38 * n + a) / 16 ∈ t.mem.slowBad ∧ 32 * (20 + n) + a / 2 ^ 12 % 8 ∈ t.mem.retrainQueue := by
  obtain ⟨log, hecc⟩ := slowEcc_spec s.redraw n { ecc with bad := ecc.bad.filter fun a => a < 224 * gib }
  obtain ⟨⟨⟨q, g, l, ht⟩, -⟩, hqueued⟩ := scrubSlow_reports s.redraw n ecc rfl
  obtain ⟨r, hr⟩ := noteRepairs_spec (s.redraw.scrubSlow n ecc) (unitNumber (.slow n)) k
  rw [hecc] at ht hqueued
  have hx : exec (.scrubPass (.slow n) { ecc := ecc, repaired := k }) s =
      .next ((s.redraw.scrubSlow n ecc).noteRepairs (unitNumber (.slow n)) k) := by
    rw [exec_scrubPass, execScrubPass, if_neg (by simp [hserves])]
  refine ⟨_, hx, ?_, ?_, ?_, fun a ha hlt => ?_⟩
  · rw [hr, ht]
    exact ⟨fun _ => rfl, fun _ => rfl, fun _ _ => rfl⟩
  · rw [hr, ht]
    rfl
  · rw [hr, ht]
    rfl
  · have hword : (2 ^ 38 * n + a) / 16 ∈ slowFoundBad s.redraw.mem n (ecc.bad.filter fun a => a < 224 * gib) :=
      mem_slowFoundBad (List.mem_filter.2 ⟨ha, decide_eq_true hlt⟩)
    simp only [gib] at hlt
    have hchip : 16 * ((2 ^ 38 * n + a) / 16) / 2 ^ 38 = n := by omega
    have hpackage : packageOf (16 * ((2 ^ 38 * n + a) / 16)) = a / 2 ^ 12 % 8 := by
      unfold packageOf bits
      omega
    have hchannel := hqueued _ hword hchip
    rw [hpackage] at hchannel
    exact ⟨by rw [hr, ht]; exact hword, by rw [hr]; exact hchannel⟩

/-! ### A channel that begins to retrain (R187; log 11) -/

/-- The state in which a channel retrains: it stands still, and no longer in the queue. -/
def State.retrainingNow (s : State) (u channel : Nat) (temperature : Int) : State :=
  s.updMem fun m =>
    { m with retraining := mset m.retraining u channel, trainTemp := mset m.trainTemp (32 * u + channel) temperature,
             unitTemp := mset m.unitTemp u temperature, retrainQueue := m.retrainQueue.filter (· ≠ 32 * u + channel) }

theorem exec_channelRetrainStart {s : State} {u : MemUnit} {ch : Nat} {temp : Int} (hserves : unitServes s u = true)
    (hch : ch < unitChannels u) (hretired : mget s.mem.retired (unitNumber u) ≠ some ch)
    (hidle : mget s.mem.retraining (unitNumber u) = none) (hdue : retrainDue s (32 * unitNumber u + ch) temp = true) :
    exec (.channelRetrainStart u ch temp) s = .next (s.retrainingNow (unitNumber u) ch temp) := by
  have hx : exec (.channelRetrainStart u ch temp) s = execChannelRetrainStart u ch temp s := rfl
  rw [hx, execChannelRetrainStart]
  dsimp only
  rw [if_neg (by simp [hserves, hretired, hidle, hdue]; omega)]
  rfl

theorem retrainingNow_spec (s : State) (u ch : Nat) (temp : Int) {t : State} (ht : t = s.retrainingNow u ch temp) :
    mget t.mem.retraining u = some ch ∧ mget t.mem.trainTemp (32 * u + ch) = some temp ∧ 32 * u + ch ∉ t.mem.retrainQueue ∧
      (∀ v, v ≠ u → mget t.mem.retraining v = mget s.mem.retraining v) ∧
      (∀ c, c ≠ 32 * u + ch → (c ∈ t.mem.retrainQueue ↔ c ∈ s.mem.retrainQueue)) ∧ SameMemory s t := by
  subst ht
  have hqueue : ∀ c, c ∈ (s.retrainingNow u ch temp).mem.retrainQueue ↔ c ∈ s.mem.retrainQueue ∧ c ≠ 32 * u + ch := fun c => by
    simp [State.retrainingNow, State.updMem]
  refine ⟨mget_mset_self .., mget_mset_self .., fun h => ((hqueue _).1 h).2 rfl, fun v hv => mget_mset_ne _ _ hv, fun c hc => ?_,
    fun _ => rfl, fun _ => rfl, fun _ _ => rfl⟩
  rw [hqueue]
  exact and_iff_left hc

end Sys2Proof.Machine
end

section
/-!
SUPPORT. What the work at the end of an attempt leaves of the channels that retrain: the same ones do. The work writes tenant memory
and the slow tiers, and reports what it cannot read, which asks for retraining but begins none (R187, R244, R246).
-/

namespace Sys2Proof.Machine

/-- The same channels retrain. -/
def KeepsTraining (s u : State) : Prop := u.mem.retraining = s.mem.retraining

theorem KeepsTraining.refl (s : State) : KeepsTraining s s := rfl

theorem KeepsTraining.trans {s u w : State} (h : KeepsTraining s u) (h' : KeepsTraining u w) : KeepsTraining s w := Eq.trans h' h

theorem KeepsTraining.of_mem {s u : State} (h : u.mem = s.mem) : KeepsTraining s u := congrArg MemState.retraining h

theorem KeepsTraining.ite {s u w : State} {c : Prop} [Decidable c] (h : KeepsTraining s u) (h' : KeepsTraining s w) :
    KeepsTraining s (if c then u else w) := by
  split
  · exact h
  · exact h'

theorem keepsTraining_foldl {α : Type} {f : State → α → State} (h : ∀ u x, KeepsTraining u (f u x)) (xs : List α) (s : State) :
    KeepsTraining s (xs.foldl f s) :=
  foldl_keeps (P := KeepsTraining s) f (fun u x hu => hu.trans (h u x)) xs s (.refl s)

section
variable (s : State)

/-! ### What is no memory -/

theorem keepsTraining_updTenant (t : Nat) (f : Tenant → Tenant) : KeepsTraining s (s.updTenant t f) := rfl

theorem keepsTraining_updSet (t p : Nat) (f : SetState → SetState) : KeepsTraining s (s.updSet t p f) := rfl

theorem keepsTraining_updRun (t p : Nat) (f : SetRun → SetRun) : KeepsTraining s (s.updRun t p f) := rfl

theorem keepsTraining_updWatch (t : Nat) (f : WatchState → WatchState) : KeepsTraining s (s.updWatch t f) := rfl

theorem keepsTraining_updGlobals (f : Globals → Globals) : KeepsTraining s (s.updGlobals f) := rfl

theorem keepsTraining_sendControl (pk : Packet) : KeepsTraining s (s.sendControl pk) := rfl

theorem keepsTraining_freeze (t : Nat) (r : FreezeRec) : KeepsTraining s (s.freeze t r) := rfl

theorem keepsTraining_setTensor (t i : Nat) (r : TensorRecord) : KeepsTraining s (s.setTensor t i r) := rfl

theorem keepsTraining_slowWrite (key : Nat) (bs : List Byte) : KeepsTraining s (s.slowWrite key bs) := rfl

theorem keepsTraining_saveRecords (t p h : Nat) : KeepsTraining s (s.saveRecords t p h) := rfl

/-! ### Memory and its reports (R185, R187, R430) -/

theorem Reported.keepsTraining {s u : State} (h : Reported s u) : KeepsTraining s u := by
  obtain ⟨q, g, log, rfl⟩ := h.frame
  rfl

theorem keepsTraining_touchBias (a n : Nat) : KeepsTraining s (s.touchBias a n) := by
  obtain ⟨b, h⟩ := touchBias_spec s a n
  rw [h]
  rfl

theorem keepsTraining_writeDpa (a : Nat) (bs : List Byte) : KeepsTraining s (s.writeDpa a bs).1 := by
  obtain ⟨fast, bad, h, -⟩ := writeDpa_spec s a bs
  rw [h]
  rfl

theorem keepsTraining_fastUncorrectable (d : Nat) : KeepsTraining s (s.fastUncorrectable d) :=
  (reported_fastUncorrectable s d).keepsTraining

theorem keepsTraining_slowUncorrectable (key : Nat) : KeepsTraining s (s.slowUncorrectable key) :=
  (reported_slowUncorrectable s key).keepsTraining

theorem keepsTraining_noteWalk (w : Walk) : KeepsTraining s (s.noteWalk w) := by
  unfold State.noteWalk
  dsimp only
  split
  · exact keepsTraining_fastUncorrectable ..
  · rfl

theorem keepsTraining_freezeJob (t p cause address : Nat) (layer : Option (Nat × List Byte)) :
    KeepsTraining s (s.freezeJob t p cause address layer) := .ite (.refl s) ((keepsTraining_updSet s t p _).trans (keepsTraining_freeze ..))

theorem keepsTraining_ownFail (t p va cause : Nat) : KeepsTraining s (s.ownFail t p va cause) :=
  (keepsTraining_noteWalk ..).trans (keepsTraining_freezeJob ..)

theorem keepsTraining_noticeWrite (t a n : Nat) : KeepsTraining s (s.noticeWrite t a n) := .of_mem (noticeWrite_mem ..)

/-! ### The module's own writes (R137, R146, R235, R428, R429) -/

theorem keepsTraining_attWrite (t p off n v : Nat) : KeepsTraining s (s.attWrite t p off n v) := by
  unfold State.attWrite
  split
  · exact (keepsTraining_touchBias ..).trans (keepsTraining_writeDpa ..)
  · exact keepsTraining_ownFail ..
  · rfl

theorem keepsTraining_genBlockBad (t d : Nat) : KeepsTraining s (s.genBlockBad t d) :=
  (keepsTraining_updTenant s t _).trans (keepsTraining_fastUncorrectable ..)

theorem keepsTraining_genWord (t p off : Nat) (f : Nat → Nat) : KeepsTraining s (s.genWord t p off f) := by
  unfold State.genWord
  dsimp only
  refine .ite (.refl s) ?_
  split
  · rfl
  · exact keepsTraining_ownFail ..
  · exact .ite (keepsTraining_genBlockBad ..) ((keepsTraining_touchBias ..).trans (keepsTraining_writeDpa ..))

theorem keepsTraining_watchWrite (t va : Nat) (ok : Bool) (bs : List Byte) : KeepsTraining s (s.watchWrite t va ok bs) := by
  unfold State.watchWrite
  extract_lets drop
  have hdrop : KeepsTraining s drop := keepsTraining_updWatch ..
  refine .ite hdrop ?_
  split
  · exact .refl s
  · exact (keepsTraining_noteWalk ..).trans (keepsTraining_updWatch ..)
  · next d _ =>
    have hwrite := (keepsTraining_touchBias s d bs.length).trans (keepsTraining_writeDpa _ d bs)
    split
    · next s1 h => rw [h] at hwrite; exact hwrite.trans (keepsTraining_noticeWrite ..)
    · exact hdrop

theorem keepsTraining_writeScalePage (t p : Nat) : KeepsTraining s (s.writeScalePage t p) :=
  .ite (.refl s) (keepsTraining_foldl (fun _ _ => keepsTraining_watchWrite ..) _ s)

theorem keepsTraining_writeMirror (t p : Nat) : KeepsTraining s (s.writeMirror t p) :=
  .ite (.refl s) (keepsTraining_foldl (fun _ _ => keepsTraining_watchWrite ..) _ s)

theorem keepsTraining_writeOutcome (t p code : Nat) : KeepsTraining s (s.writeOutcome t p code) := by
  unfold State.writeOutcome
  extract_lets x s1
  have h1 : KeepsTraining s s1 :=
    ((keepsTraining_attWrite s t p 16 8 x.skips).trans (keepsTraining_attWrite _ t p 0 8 code)).trans (keepsTraining_attWrite ..)
  exact h1.trans (keepsTraining_updRun s1 t p _)

theorem keepsTraining_capWrite (t : Nat) (pages : List (Nat × Nat)) (va : Nat) (bs : List Byte) :
    KeepsTraining s (s.capWrite t pages va bs).1 := by
  unfold State.capWrite
  refine foldl_keeps (P := fun acc : State × Option Nat => KeepsTraining s acc.1) _ (fun acc c hacc => ?_) _ _ (.refl s)
  split
  · next d _ =>
    extract_lets lost s1 s2
    have h1 : KeepsTraining acc.1 s1 := (keepsTraining_touchBias acc.1 d c.2).trans (keepsTraining_writeDpa ..)
    have h2 : KeepsTraining s1 s2 := by
      unfold s2
      clear_value lost
      cases lost with
      | some w => exact keepsTraining_fastUncorrectable ..
      | none => exact .refl s1
    dsimp only
    exact ((hacc.trans h1).trans h2).trans (keepsTraining_noticeWrite s2 t d c.2)
  · exact hacc

/-! ### Records and undo rings (R136, R138, R139, R231) -/

theorem keepsTraining_setHistory (t i : Nat) (r : TensorRecord) (h : List W32) : KeepsTraining s (s.setHistory t i r h) :=
  keepsTraining_foldl (fun _ _ => keepsTraining_updWatch ..) _ s

theorem keepsTraining_endRecords (t p : Nat) (committed : Bool) : KeepsTraining s (s.endRecords t p committed) :=
  keepsTraining_foldl (fun _ _ => (keepsTraining_setTensor ..).trans (keepsTraining_setHistory ..)) _ s

theorem keepsTraining_loseHistory (t i : Nat) (r : TensorRecord) (keepScale : Bool) :
    KeepsTraining s (s.loseHistory t i r keepScale) :=
  (keepsTraining_setTensor s t i _).trans (keepsTraining_setHistory ..)

theorem keepsTraining_restoreRecord (t i : Nat) (r : TensorRecord) (g : GenRecord) :
    KeepsTraining s (s.restoreRecord t i r g) := by
  unfold State.restoreRecord
  dsimp only
  split
  · exact .ite (keepsTraining_loseHistory ..) (.ite (keepsTraining_loseHistory ..)
      ((keepsTraining_setTensor ..).trans (keepsTraining_updWatch ..)))
  · exact keepsTraining_loseHistory ..

theorem keepsTraining_restoreRecords (t p g : Nat) : KeepsTraining s (s.restoreRecords t p g) := by
  unfold State.restoreRecords
  extract_lets cs s1 s2
  have hlose : ∀ keepScale, KeepsTraining s (s.loseHistories t p keepScale) := fun _ =>
    keepsTraining_foldl (fun _ _ => keepsTraining_loseHistory ..) _ s
  have h1 : KeepsTraining s s1 := by
    unfold s1
    split
    · exact .ite (keepsTraining_foldl (fun _ _ => keepsTraining_restoreRecord ..) _ s) (hlose _)
    · exact hlose _
  have h2 : KeepsTraining s1 s2 := by
    refine keepsTraining_foldl (fun u e => ?_) _ s1
    split
    · exact keepsTraining_setTensor ..
    · exact .refl u
  exact ((h1.trans h2).trans (keepsTraining_writeScalePage ..)).trans (keepsTraining_writeMirror ..)

theorem keepsTraining_popUndo (t p : Nat) (c : Captured) (td : List Byte) (i : Nat) : KeepsTraining s (s.popUndo t p c td i) := by
  unfold State.popUndo
  dsimp only
  split
  · exact (keepsTraining_slowUncorrectable ..).trans (keepsTraining_updRun ..)
  · exact (keepsTraining_capWrite ..).trans (keepsTraining_slowWrite ..)

theorem keepsTraining_restoreUndo (t p : Nat) : KeepsTraining s (s.restoreUndo t p) := by
  unfold State.restoreUndo
  extract_lets s1
  have h1 : KeepsTraining s s1 := keepsTraining_foldl (fun u _ => keepsTraining_foldl (fun _ _ => keepsTraining_popUndo ..) _ u) _ s
  exact h1.trans (keepsTraining_updRun s1 t p _)

/-! ### The end of an attempt (R212, R244, R246) -/

theorem keepsTraining_settle (t p : Nat) : KeepsTraining s (s.settle t p) :=
  .ite (.refl s) ((keepsTraining_updRun s t p _).trans (keepsTraining_genWord ..))

theorem keepsTraining_sendInvalidations (t p h : Nat) (rows : List (Nat × Nat)) :
    KeepsTraining s (s.sendInvalidations t p h rows) := by
  unfold State.sendInvalidations
  extract_lets own s1
  have h1 : KeepsTraining s s1 := 
    keepsTraining_foldl (fun u _ => keepsTraining_foldl (fun _ _ => keepsTraining_sendControl ..) _ u) _ s
  clear_value s1
  exact h1.trans ((keepsTraining_updRun s1 t p _).trans (keepsTraining_settle ..))

theorem keepsTraining_poison (t p : Nat) : KeepsTraining s (s.poison t p) :=
  .ite (.refl s) ((keepsTraining_updSet s t p _).trans (keepsTraining_updGlobals _ _))

theorem keepsTraining_heldPoison (t p : Nat) : KeepsTraining s (s.heldPoison t p) :=
  .ite ((keepsTraining_updRun s t p _).trans (keepsTraining_poison ..)) (keepsTraining_updRun s t p _)

theorem keepsTraining_clearAttempt (t p : Nat) : KeepsTraining s (s.clearAttempt t p) :=
  ((keepsTraining_updSet s t p _).trans (keepsTraining_updRun _ t p _)).trans (keepsTraining_heldPoison ..)

theorem keepsTraining_abandon (t p : Nat) (voteFailed fatal : Bool) : KeepsTraining s (s.abandon t p voteFailed fatal) := by
  unfold State.abandon
  extract_lets h s1 s2 s3 s4 s5 s6 s7
  have h1 : KeepsTraining s s1 := keepsTraining_restoreUndo ..
  have h2 : KeepsTraining s1 s2 := .ite (keepsTraining_genWord ..) (.refl s1)
  have h3 : KeepsTraining s2 s3 :=
    ((keepsTraining_endRecords ..).trans (keepsTraining_writeScalePage ..)).trans (keepsTraining_writeMirror ..)
  have h5 : KeepsTraining s4 s5 := keepsTraining_writeOutcome ..
  have h6 : KeepsTraining s5 s6 := .ite (keepsTraining_freezeJob ..) (.refl s5)
  have h7 : KeepsTraining s6 s7 := .ite (keepsTraining_restoreRecords ..) (.refl s6)
  have h34 : KeepsTraining s3 s4 := keepsTraining_updSet s3 t p _
  clear_value s1 s2 s3 s4 s5 s6 s7
  exact ((((((h1.trans h2).trans h3).trans h34).trans h5).trans h6).trans h7).trans
    ((keepsTraining_updSet s7 t p _).trans (keepsTraining_clearAttempt ..))

theorem keepsTraining_wantOpen (t p : Nat) : KeepsTraining s (s.wantOpen t p) :=
  .ite (.refl s) ((keepsTraining_updGlobals s _).trans (keepsTraining_updRun ..))

theorem keepsTraining_publish (t p : Nat) : KeepsTraining s (s.publish t p) := by
  unfold State.publish
  extract_lets h rows s1 s2 s3 s4 s5 s6 s7 s8
  have h2 : KeepsTraining s1 s2 := (keepsTraining_endRecords ..).trans (keepsTraining_writeScalePage ..)
  have h4 : KeepsTraining s3 s4 := keepsTraining_genWord ..
  have h5 : KeepsTraining s4 s5 := .ite (keepsTraining_genWord ..) (.refl s4)
  have h7 : KeepsTraining s6 s7 := (keepsTraining_writeMirror ..).trans (keepsTraining_writeOutcome ..)
  have h8 : KeepsTraining s7 s8 := (keepsTraining_sendInvalidations ..).trans (keepsTraining_clearAttempt ..)
  have h01 : KeepsTraining s s1 := keepsTraining_updRun s t p _
  have h23 : KeepsTraining s2 s3 := keepsTraining_saveRecords ..
  have h56 : KeepsTraining s5 s6 := (keepsTraining_updSet s5 t p _).trans (keepsTraining_updGlobals ..)
  have hnext : KeepsTraining s8 (if (setAt s8 t p).pausePending || jobTroubled s8 t p then
      s8.updSet t p fun x => { x with state := restingState s7 t p, pausePending := false } else s8.wantOpen t p) :=
    .ite (keepsTraining_updSet s8 t p _) (keepsTraining_wantOpen ..)
  clear_value s1 s2 s3 s4 s5 s6 s7 s8
  exact (((((((h01.trans h2).trans h23).trans h4).trans h5).trans h56).trans h7).trans h8).trans hnext

/-! ### Reductions (R240 to R243) -/

theorem keepsTraining_sendRound (t p : Nat) : KeepsTraining s (s.sendRound t p) := by
  unfold State.sendRound
  split
  · split
    · rfl
    · rfl
  · rfl

theorem keepsTraining_contributeApply (t p : Nat) (ok : Bool) (sum : Nat) (fatal : Bool) :
    KeepsTraining s (s.contributeApply t p ok sum fatal) := by
  unfold State.contributeApply
  extract_lets s1
  have h1 : KeepsTraining s s1 := keepsTraining_updRun s t p _
  clear_value s1
  exact h1.trans (.ite (.ite (keepsTraining_publish ..) (keepsTraining_abandon ..))
    ((keepsTraining_updRun s1 t p _).trans (keepsTraining_sendRound ..)))

theorem keepsTraining_tryPin (t p : Nat) : KeepsTraining s (s.tryPin t p) := by
  unfold State.tryPin
  extract_lets x off
  refine .ite (.refl s) ?_
  split
  · rfl
  · exact (keepsTraining_ownFail ..).trans (keepsTraining_contributeApply ..)
  · exact .ite (.refl s) (.ite ((keepsTraining_genBlockBad ..).trans (keepsTraining_contributeApply ..))
      (.ite (keepsTraining_touchBias ..) 
        (((keepsTraining_touchBias ..).trans (keepsTraining_writeDpa ..)).trans (keepsTraining_updRun ..))))

theorem keepsTraining_voteResult (t p : Nat) (r : Reduction) : KeepsTraining s (s.voteResult t p r) := by
  unfold State.voteResult
  extract_lets s1
  have h1 : KeepsTraining s s1 := keepsTraining_updRun s t p _
  clear_value s1
  exact h1.trans (.ite (((keepsTraining_updSet s1 t p _).trans (keepsTraining_updRun _ t p _)).trans (keepsTraining_tryPin ..))
    (keepsTraining_abandon ..))

theorem keepsTraining_applyResult (t p : Nat) (r : Reduction) : KeepsTraining s (s.applyResult t p r) := by
  unfold State.applyResult
  extract_lets s1
  have h1 : KeepsTraining s s1 := keepsTraining_updRun s t p _
  clear_value s1
  exact h1.trans (.ite (keepsTraining_publish ..) (keepsTraining_abandon ..))

theorem keepsTraining_reduceOnce {t p : Nat} {u : State} (h : reduceOnce s t p = some u) : KeepsTraining s u := by
  unfold reduceOnce at h
  split at h
  · next r _ =>
    split at h
    · obtain ⟨-, h⟩ := Option.ite_none_left_eq_some.1 h
      obtain rfl := Option.some.inj h
      exact .ite (keepsTraining_voteResult s t p r) (keepsTraining_applyResult s t p r)
    · obtain ⟨m, -, rfl⟩ := Option.map_eq_some_iff.1 h
      unfold State.combine
      extract_lets x same s1 r'
      have h1 : KeepsTraining s s1 := .ite (.refl s) (keepsTraining_freezeJob ..)
      clear_value s1
      exact h1.trans ((keepsTraining_updRun s1 t p _).trans (keepsTraining_sendRound ..))
  · cases h

theorem keepsTraining_reduce (fuel t p : Nat) : KeepsTraining s (reduce fuel s t p) := by
  induction fuel generalizing s with
  | zero => rfl
  | succ k ih =>
    unfold reduce
    split
    next s1 h => exact (keepsTraining_reduceOnce s h).trans (ih s1)
    · rfl

/-- Sets that go on after a retraining begin none (R187). -/
theorem keepsTraining_resumeSets : KeepsTraining s s.resumeSets :=
  keepsTraining_foldl (fun u _ => keepsTraining_foldl (fun _ _ => (keepsTraining_reduce ..).trans (keepsTraining_settle ..)) _ u) _ s

end

/-- Where no set reduces and no marker waits, nothing goes on (R212, R240). -/
theorem resumeSets_quiet {s : State} (h : ∀ t p, (runAt s t p).reduction = none ∧ (runAt s t p).markers = []) : s.resumeSets = s := by
  have hset : ∀ t p, (s.reduceAll t p).settle t p = s := fun t p => by
    obtain ⟨hred, hmark⟩ := h t p
    have hreduce : s.reduceAll t p = s := by
      unfold State.reduceAll reduce reduceOnce
      rw [hred]
    rw [hreduce, State.settle, hmark]
    rfl
  have hsets : ∀ t, [0, 1, 2, 3].foldl (fun s p => (s.reduceAll t p).settle t p) s = s := fun t => by
    simp only [List.foldl_cons, List.foldl_nil, hset]
  exact foldl_keeps (P := fun u => u = s) _ (fun u e hu => by rw [hu]; exact hsets e.1) _ _ rfl

end Sys2Proof.Machine
end

section
/-!
PROOF. O26, the second part: the end of a retraining and the acknowledgements that waited for it, a request for one, and a shootdown
of translations (R156, R187, R327; logs 11, 97).
-/

namespace Sys2Proof.Machine

/-! ### What a response leaves and adds (R334) -/

/-- A message on its way changes the dictionary's state alone, and of it neither the acknowledgements nor the replies. -/
def OnlySends (s u : State) : Prop := ∃ d, u = { s with dict := d } ∧ d.acks = s.dict.acks ∧ d.replies = s.dict.replies

theorem OnlySends.trans {s t u : State} (h : OnlySends s t) (h' : OnlySends t u) : OnlySends s u := by
  obtain ⟨d, rfl, ha, hr⟩ := h
  obtain ⟨e, rfl, ha', hr'⟩ := h'
  exact ⟨e, rfl, ha'.trans ha, hr'.trans hr⟩

theorem mailboxAnswer_onlySends (s : State) (k : Nat) (bs : List Byte) : OnlySends s (s.mailboxAnswer k bs) := by
  unfold State.mailboxAnswer
  split
  · exact ⟨_, rfl, rfl, rfl⟩
  · exact ⟨_, rfl, rfl, rfl⟩

theorem sendFrame_onlySends (s : State) (line : Nat) (mac : BitVec 48) (ty sid seq : Nat) (payload : List Byte) :
    OnlySends s (s.sendFrame line mac ty sid seq payload) := by
  unfold State.sendFrame
  dsimp only
  split
  · exact mailboxAnswer_onlySends ..
  · exact ⟨_, rfl, rfl, rfl⟩

theorem updSession_onlySends (s : State) (id : Nat) (f : Session → Session) : OnlySends s (s.updSession id f) := ⟨_, rfl, rfl, rfl⟩

theorem sessionSend_onlySends (s : State) (id ty : Nat) (plain : List Byte) : OnlySends s (s.sessionSend id ty plain) := by
  unfold State.sessionSend
  split
  · exact (updSession_onlySends ..).trans (sendFrame_onlySends ..)
  · exact ⟨s.dict, rfl, rfl, rfl⟩

/-- A path on which a response arrives: a session's must be open. -/
def Delivers (s : State) (path : Path) : Prop := ∀ id, path = .session id → (sessionOf s id).isSome = true

theorem respond_spec (s : State) (path : Path) (m : DictMsg) :
    (s.respond path m).dict.acks = s.dict.acks ∧
      (Delivers s path → (s.respond path m).dict.replies = s.dict.replies ++ [(path, m)]) := by
  have hsent : ∀ u, OnlySends (s.updDict fun d => { d with replies := d.replies ++ [(path, m)] }) u →
      u.dict.acks = s.dict.acks ∧ u.dict.replies = s.dict.replies ++ [(path, m)] := by
    rintro u ⟨d, rfl, ha, hr⟩
    exact ⟨ha, hr⟩
  unfold State.respond
  dsimp only
  split
  next id =>
    split
    · obtain ⟨ha, hr⟩ := hsent _ (sessionSend_onlySends _ id 3 (msgBytes m))
      exact ⟨ha, fun _ => hr⟩
    next hgone => exact ⟨rfl, fun h => absurd (h id rfl) hgone⟩
  next k =>
    obtain ⟨ha, hr⟩ := hsent _ (mailboxAnswer_onlySends _ k (msgBytes m))
    exact ⟨ha, fun _ => hr⟩
  next =>
    obtain ⟨ha, hr⟩ := hsent _ (mailboxAnswer_onlySends _ 0 (msgBytes m))
    exact ⟨ha, fun _ => hr⟩

/-- A path that is served has its session open. -/
theorem Served.delivers {s : State} {path : Path} {role : Nat} {own : Option Nat} (h : Served s path role own) : Delivers s path := by
  rintro id rfl
  obtain ⟨hrole, -⟩ := h
  unfold pathRole at hrole
  obtain ⟨-, hrole⟩ := Option.ite_none_left_eq_some.1 hrole
  dsimp only at hrole
  split at hrole
  next x hx => rw [hx]; rfl
  · cases hrole

/-! ### The acknowledgements that are given (R327, R351) -/

theorem giveAck_acks (s : State) (a : Ack) : (s.giveAck a).dict.acks = s.dict.acks.erase a := by
  have heffect : ∀ (u : State) k, (u.ackEffect k).dict = u.dict := by
    intro u k
    cases k with
    | bias page toHost => cases toHost <;> rfl
    | _ => rfl
  unfold State.giveAck
  rw [(respond_spec ..).1, heffect]
  rfl

/-- An acknowledgement without an effect of its own is the answer to its request (R327). -/
theorem giveAck_replies {s : State} {a : Ack} (hkind : ∀ page toHost, a.kind ≠ .bias page toHost) (h : Delivers s a.path) :
    (s.giveAck a).dict.replies = s.dict.replies ++ [(a.path, response a.request 0 [])] := by
  unfold State.giveAck
  rw [ackEffect_of_not_bias _ hkind]
  exact (respond_spec ..).2 h

theorem settleAcks_acks {s : State} (h : s.service.lodgeAway = false) :
    s.settleAcks.dict.acks = s.dict.acks.diff (s.dict.acks.filter fun a => ackReady s a.kind) := by
  rw [settleAcks_eq, if_neg (by simp [h]), List.diff_eq_foldl]
  exact (List.foldl_hom (fun u : State => u.dict.acks) fun u a => (giveAck_acks u a).symm).symm

/-- An acknowledgement that must wait goes on waiting. -/
theorem mem_settleAcks_of_waits {s : State} {a : Ack} (h : s.service.lodgeAway = false) (ha : a ∈ s.dict.acks)
    (hwaits : ackReady s a.kind = false) : a ∈ s.settleAcks.dict.acks := by
  rw [settleAcks_acks h]
  exact List.mem_diff_of_mem ha fun hmem => by simp [hwaits] at hmem

/-- One with nothing to wait for is given. -/
theorem not_mem_settleAcks_of_ready {s : State} {a : Ack} (h : s.service.lodgeAway = false) (hready : ackReady s a.kind = true) :
    a ∉ s.settleAcks.dict.acks := by
  rw [settleAcks_acks h, ← List.count_eq_zero, List.count_diff, List.count_filter (a := a) (p := fun x => ackReady s x.kind) hready,
    Nat.sub_self]

theorem AcksGiven.mem {s u : State} (h : AcksGiven s u) : u.mem = s.mem := by
  obtain ⟨⟨d, k, x, rfl⟩, -⟩ := h
  rfl

theorem AcksGiven.sameMemory {s u : State} (h : AcksGiven s u) : SameMemory s u := (h.requestEnds 0 0).sameMemory

/-! ### A channel that serves again (R187) -/

theorem exec_channelRetrainEnd {s : State} {u : MemUnit} {ch : Nat} (h : mget s.mem.retraining (unitNumber u) = some ch) :
    exec (.channelRetrainEnd u ch) s =
      .next ((s.updMem fun m => { m with retraining := merase m.retraining (unitNumber u) }).resumeSets.settleAcks) := by
  have hx : exec (.channelRetrainEnd u ch) s = execChannelRetrainEnd u ch s := rfl
  rw [hx, execChannelRetrainEnd]
  dsimp only
  rw [if_pos h]

theorem channelRetrainEnd_serves {s : State} {u : MemUnit} {ch : Nat} (hch : ch < 32)
    (h : mget s.mem.retraining (unitNumber u) = some ch) :
    ∃ t, exec (.channelRetrainEnd u ch) s = .next t ∧ mget t.mem.retraining (unitNumber u) = none ∧
      ((∀ v q, (runAt s v q).reduction = none ∧ (runAt s v q).markers = []) → SameMemory s t ∧
        (s.service.lodgeAway = false → 32 * unitNumber u + ch ∉ s.mem.retrainQueue →
          ∀ a ∈ t.dict.acks, a.kind ≠ .retrain (32 * unitNumber u + ch))) := by
  obtain ⟨s1, hs1⟩ : ∃ s1, s1 = s.updMem fun m => { m with retraining := merase m.retraining (unitNumber u) } := ⟨_, rfl⟩
  have hserves : mget s1.mem.retraining (unitNumber u) = none := by
    rw [hs1]
    exact mget_merase_self ..
  have hacks := settleAcks_acksGiven s1.resumeSets
  refine ⟨_, exec_channelRetrainEnd h, ?_, fun hquiet => ?_⟩
  · rw [← hs1, hacks.mem, keepsTraining_resumeSets s1, hserves]
  · have hresume : s1.resumeSets = s1 := resumeSets_quiet (by rw [hs1]; exact hquiet)
    rw [← hs1, hresume]
    refine ⟨?_, fun haway hqueue a ha hkind => ?_⟩
    · have hsame : SameMemory s s1 := by
        rw [hs1]
        exact ⟨fun _ => rfl, fun _ => rfl, fun _ _ => rfl⟩
      exact hsame.trans (settleAcks_acksGiven s1).sameMemory
    · have haway1 : s1.service.lodgeAway = false := by rw [hs1]; exact haway
      have hqueue1 : 32 * unitNumber u + ch ∉ s1.mem.retrainQueue := by rw [hs1]; exact hqueue
      have hunit : (32 * unitNumber u + ch) / 32 = unitNumber u := by omega
      refine not_mem_settleAcks_of_ready haway1 ?_ ha
      rw [hkind]
      simp [ackReady, hqueue1, hunit, hserves]

/-! ### The memory's two commands (R156, R187, R327) -/

/-- A write of a memory object of two bytes, on a served path of the Operator. -/
theorem memoryRow_served {s : State} {path : Path} {role : Nat} {own : Option Nat} (hs : Served s path role own)
    (hr : role = 3 ∨ role = 5) (tag : BitVec 16) {sub : Nat} (hsub : sub = 7 ∨ sub = 8) (v : BitVec 16) :
    writeRow s path tag 0x4000 sub (leBytes 2 v.toNat) =
      s.redraw.finishWrite path (writeMsg tag none 0x4000 sub (leBytes 2 v.toNat)) (writeMemory s.redraw sub v.toNat) := by
  obtain ⟨hopen, hfree⟩ := hs
  have hv : leNat (leBytes 2 v.toNat) = v.toNat := leNat_leBytes 2 _ (by have := v.isLt; omega)
  have hd : (leBytes 2 v.toNat).length = 2 := length_leBytes 2 _
  have hobj : objectAt 0x4000 sub = some (opObj 3 2 3) := by
    obtain rfl | rfl := hsub
    · rfl
    · rfl
  have hsubNat : (writeMsg tag none 0x4000 sub (leBytes 2 v.toNat)).sub.toNat = sub := by
    obtain rfl | rfl := hsub
    · rfl
    · rfl
  have hindex : (writeMsg tag none 0x4000 sub (leBytes 2 v.toNat)).index.toNat = 0x4000 := rfl
  have hdata : (writeMsg tag none 0x4000 sub (leBytes 2 v.toNat)).data = leBytes 2 v.toNat := rfl
  have hwrites : mayWrite .op role = true := by simpa [mayWrite] using hr
  have hcheck : checkRequest role own (writeMsg tag none 0x4000 sub (leBytes 2 v.toNat)) = 0 := by
    unfold checkRequest
    simp only [hindex, hsubNat, hobj]
    cases own <;> simp [writeMsg, opObj, tenantIndex, writesObject, hwrites]
  have hserve : serveChecked s.redraw path role (writeMsg tag none 0x4000 sub (leBytes 2 v.toNat)) (opObj 3 2 3) none =
      serveWrite s.redraw path role (writeMsg tag none 0x4000 sub (leBytes 2 v.toNat)) (opObj 3 2 3) none := rfl
  have hlength : lengthOk (writeMsg tag none 0x4000 sub (leBytes 2 v.toNat)) = true := by simp [lengthOk, writeMsg, hd]
  have hmodule : writeModule s.redraw role 0x4000 sub (leBytes 2 v.toNat) none = writeMemory s.redraw sub v.toNat := by
    have hread : writeModule s.redraw role 0x4000 sub (leBytes 2 v.toNat) none = writeMemory s.redraw sub (leNat (leBytes 2 v.toNat)) := by
      obtain rfl | rfl := hsub
      · rfl
      · rfl
    rw [hread, hv]
  have hobject : objectAt (writeMsg tag none 0x4000 sub (leBytes 2 v.toNat)).index.toNat
      (writeMsg tag none 0x4000 sub (leBytes 2 v.toNat)).sub.toNat = some (opObj 3 2 3) := by rw [hindex, hsubNat, hobj]
  rw [writeRow, serveOn_open hopen hfree, serveMsg_ok _ _ _ _ _ _ _ hcheck hobject, hserve]
  unfold serveWrite
  simp only [hindex, hsubNat, hdata, hlength, hd, hmodule, opObj, tenantIndex]
  rfl

/-- A request that waits for its acknowledgement: what it has asked for stands, and the acknowledgement waits with the others. -/
theorem deferAck_acksGiven (s : State) (path : Path) (m : DictMsg) (k : AckKind) : AcksGiven s (s.deferAck path m k) :=
  (OnlyDict.acksGiven ⟨_, rfl⟩).trans (settleAcks_acksGiven _)

theorem retrainRequest_queues {s : State} {path : Path} {role : Nat} {own : Option Nat} (hs : Served s path role own)
    (hr : role = 3 ∨ role = 5) (tag v : BitVec 16) {st ch : Nat} (hst : st = v.toNat / 2 ^ 8 % 2 ^ 5) (hch : ch = v.toNat % 2 ^ 5)
    (hv : v.toNat = 2 ^ 8 * st + ch) (hlt : st < 20) (hserves : s.service.stacksOut.contains st = false)
    (hreset : stackResetting s st = false) (hretired : mget s.mem.retired st ≠ some ch) :
    ∃ t, exec (.retrainRequest path tag v) s = .next t ∧ 32 * st + ch ∈ t.mem.retrainQueue ∧ SameMemory s t ∧
      (s.service.lodgeAway = false → ∃ a ∈ t.dict.acks, a.path = path ∧ a.kind = .retrain (32 * st + ch)) := by
  have hx : exec (.retrainRequest path tag v) s = .next (writeRow s path tag 0x4000 7 (leBytes 2 v.toNat)) := rfl
  have hwrite : writeMemory s.redraw 7 v.toNat = .wait (s.redraw.wantRetrain st ch) (.retrain (32 * st + ch)) := by
    have hhigh : bits v.toNat 15 13 = 0 := by unfold bits; omega
    have hmiddle : bits v.toNat 7 5 = 0 := by unfold bits; omega
    have hstack : bits v.toNat 12 8 = st := hst.symm
    have hchannel : bits v.toNat 4 0 = ch := by unfold bits; omega
    have hreset' : stackResetting s.redraw st = false := hreset
    have hserves' : s.redraw.service.stacksOut.contains st = false := hserves
    have hretired' : mget s.redraw.mem.retired st ≠ some ch := hretired
    simp only [writeMemory, hhigh, hmiddle, hstack, hchannel, hreset', hserves', hretired']
    rw [if_neg (by simp; omega), if_neg (by simp)]
  obtain ⟨u, hu⟩ : ∃ u, u = s.redraw.wantRetrain st ch := ⟨_, rfl⟩
  have hqueue : 32 * st + ch ∈ u.mem.retrainQueue := by rw [hu]; exact mem_wantRetrain ..
  have hreported : Reported s.redraw u := by rw [hu]; exact reported_wantRetrain ..
  obtain ⟨q, g, log, hframe⟩ := hreported.frame
  have hacks := deferAck_acksGiven u path (writeMsg tag none 0x4000 7 (leBytes 2 v.toNat)) (.retrain (32 * st + ch))
  refine ⟨_, hx.trans (congrArg _ (memoryRow_served hs hr tag (.inl rfl) v)), ?_⟩
  rw [hwrite, ← hu]
  refine ⟨?_, ?_, fun haway => ?_⟩
  · show _ ∈ (u.deferAck path _ _).mem.retrainQueue
    rw [hacks.mem]
    exact hqueue
  · have hsame : SameMemory s u := by
      rw [hframe]
      exact ⟨fun _ => rfl, fun _ => rfl, fun _ _ => rfl⟩
    exact hsame.trans hacks.sameMemory
  · refine ⟨_, mem_settleAcks_of_waits ?_ (List.mem_append_right _ List.mem_cons_self) ?_, rfl, rfl⟩
    · rw [hframe]
      exact haway
    · simp [ackReady, hqueue]

/-! ### A shootdown (R156) -/

/-- A tile under a shootdown of its tenant keeps all but its instruction cache. -/
theorem tileAt_shootDown (s : State) (t l : Nat) :
    (ownerOf s l = some t → mget s.tiles l ≠ none → (tileAt (s.shootDown t) l).icache = []) ∧
      (ownerOf s l ≠ some t → tileAt (s.shootDown t) l = tileAt s l) ∧ (tileAt (s.shootDown t) l).lm = (tileAt s l).lm := by
  have hget : mget (s.shootDown t).tiles l =
      (mget s.tiles l).map fun x => if ownerOf s l = some t then { x with icache := [] } else x :=
    mget_map (g := fun e : Nat × Tile => (e.1, if ownerOf s e.1 = some t then { e.2 with icache := [] } else e.2)) (fun _ => rfl) l s.tiles
  unfold tileAt
  rw [hget]
  refine ⟨fun hown hin => ?_, fun hown => ?_, ?_⟩
  · obtain ⟨x, hx⟩ := Option.ne_none_iff_exists'.1 hin
    rw [hx, Option.map_some, Option.getD_some, if_pos hown]
  · simp only [if_neg hown, Option.map_id']
  · cases mget s.tiles l with
    | none => rfl
    | some x =>
      show (if ownerOf s l = some t then { x with icache := [] } else x).lm = x.lm
      split
      · rfl
      · rfl

theorem shootDown_sameMemory (s : State) (t : Nat) : SameMemory s (s.shootDown t) := by
  refine ⟨fun _ => rfl, fun _ => rfl, fun l a => ?_⟩
  obtain ⟨-, -, hlm⟩ := tileAt_shootDown s t l
  rw [lmByte, hlm, lmByte]

/-- A shootdown ends no access, so the pages in flight are the same (R301). -/
theorem pageInFlight_shootDown (s : State) (t page : Nat) : pageInFlight (s.shootDown t) page = pageInFlight s page := by
  unfold pageInFlight
  show List.any (s.tiles.map _) _ = _
  rw [List.any_map]
  refine congrArg (List.any s.tiles) (funext fun e => ?_)
  by_cases h : ownerOf s e.1 = some t
  · simp only [Function.comp, if_pos h]
    rfl
  · simp only [Function.comp, if_neg h]
    rfl

/-- An acknowledgement puts nothing into an instruction cache. -/
theorem giveAck_icache (s : State) (a : Ack) {l : Nat} (h : (tileAt s l).icache = []) : (tileAt (s.giveAck a) l).icache = [] := by
  obtain ⟨d, hd⟩ := respond_onlyDict ((s.updDict fun d => { d with acks := d.acks.erase a }).ackEffect a.kind) a.path
    (response a.request 0 [])
  have heffect : ∀ (u : State) k, (tileAt u l).icache = [] → (tileAt (u.ackEffect k) l).icache = [] := by
    intro u k hu
    cases k with
    | bias page toHost =>
      cases toHost with
      | true =>
        exact tileAt_map (u.updHost _) (g := fun e : Nat × Tile => (e.1, { e.2 with
            l1 := e.2.l1.filter fun x => 256 * x.1 / 2 ^ 21 ≠ page, icache := e.2.icache.filter fun x => x.2.1 / 2 ^ 21 ≠ page }))
          (Q := fun x y => x.icache = [] → y.icache = []) (fun _ => rfl) (fun _ hx => hx) (fun e he => by simp [he]) l hu
      | false => exact hu
    | _ => exact hu
  unfold State.giveAck
  rw [hd]
  exact heffect _ _ h

theorem settleAcks_icache (s : State) {l : Nat} (h : (tileAt s l).icache = []) : (tileAt s.settleAcks l).icache = [] := by
  rw [settleAcks_eq]
  split
  · exact h
  · exact foldl_keeps (P := fun u : State => (tileAt u l).icache = []) _ (fun u a hu => giveAck_icache u a hu) _ _ h

/-- The state in which a shootdown waits for what uses a translation. -/
def State.shooting (s : State) (path : Path) (m : DictMsg) (t : Nat) : State :=
  (s.shootDown t).updDict fun d => { d with acks := d.acks ++ [{ path := path, request := m, kind := .shootdown t (translationUsers s t) }] }

theorem exec_translationShootdown {s : State} {path : Path} {role : Nat} {own : Option Nat} (hs : Served s path role own)
    (hr : role = 3 ∨ role = 5) (tag v : BitVec 16) (hv : v.toNat < 1024) :
    exec (.translationShootdown path tag v) s =
      .next (s.redraw.shooting path (writeMsg tag none 0x4000 8 (leBytes 2 v.toNat)) v.toNat).settleAcks := by
  have hx : exec (.translationShootdown path tag v) s = .next (writeRow s path tag 0x4000 8 (leBytes 2 v.toNat)) := rfl
  have hwrite : writeMemory s.redraw 8 v.toNat =
      .wait (s.redraw.shootDown v.toNat) (.shootdown v.toNat (translationUsers s.redraw v.toNat)) := if_neg (by simp; omega)
  rw [hx, memoryRow_served hs hr tag (.inr rfl) v, hwrite]
  rfl

theorem translationShootdown_drops {s : State} {path : Path} {role : Nat} {own : Option Nat} (hs : Served s path role own)
    (hr : role = 3 ∨ role = 5) (tag v : BitVec 16) (hv : v.toNat < 1024) :
    ∃ t, exec (.translationShootdown path tag v) s = .next t ∧
      (∀ e, e ∈ t.mem.tlb ↔ e ∈ s.mem.tlb ∧ e.tenant ≠ v.toNat) ∧
      (∀ l, ownerOf s l = some v.toNat → mget s.tiles l ≠ none → (tileAt t l).icache = []) ∧
      (NoFlipDue s → ∀ l, ownerOf s l ≠ some v.toNat → tileAt t l = tileAt s l) ∧ SameMemory s t ∧
      (s.service.lodgeAway = false → translationUsers s v.toNat = [] → applyUses s v.toNat = false → s.dict.acks = [] →
        Answered t path (writeMsg tag none 0x4000 8 (leBytes 2 v.toNat)) 0 []) := by
  obtain ⟨m, hm⟩ : ∃ m, m = writeMsg tag none 0x4000 8 (leBytes 2 v.toNat) := ⟨_, rfl⟩
  obtain ⟨u, hu⟩ : ∃ u, u = s.redraw.shooting path m v.toNat := ⟨_, rfl⟩
  have hacks := settleAcks_acksGiven u
  have htile := fun l => tileAt_shootDown s.redraw v.toNat l
  have hutile : ∀ l, tileAt u l = tileAt (s.redraw.shootDown v.toNat) l := fun l => by rw [hu]; rfl
  refine ⟨u.settleAcks, by rw [exec_translationShootdown hs hr tag v hv, ← hm, ← hu], fun e => ?_, fun l hown hin => ?_,
    fun hflip l hown => ?_, ?_, fun haway husers happly hnone => ?_⟩
  · rw [hacks.mem, hu]
    show e ∈ s.mem.tlb.filter _ ↔ _
    simp [List.mem_filter]
  · exact settleAcks_icache u (by rw [hutile]; exact (htile l).1 hown hin)
  · have hflip' : NoFlipDue u := by
      intro a ha page toHost hk
      have hpage : pageInFlight u page = pageInFlight s page := by
        rw [hu]
        exact pageInFlight_shootDown s.redraw v.toNat page
      have hmem : a ∈ s.dict.acks ++ [⟨path, m, .shootdown v.toNat (translationUsers s.redraw v.toNat)⟩] := by
        rw [hu] at ha
        exact ha
      rw [hpage]
      obtain hold | hnew := List.mem_append.1 hmem
      · exact hflip a hold page toHost hk
      · rw [List.mem_singleton.1 hnew] at hk
        cases hk
    rw [tileAt, settleAcks_tiles hflip', ← tileAt, hutile]
    exact (htile l).2.1 hown
  · have hsame : SameMemory s u := by
      rw [hu]
      exact (shootDown_sameMemory s.redraw v.toNat)
    exact hsame.trans hacks.sameMemory
  · obtain ⟨a, ha⟩ : ∃ a : Ack, a = ⟨path, m, .shootdown v.toNat []⟩ := ⟨_, rfl⟩
    have husers' : translationUsers s.redraw v.toNat = [] := husers
    have hacks1 : u.dict.acks = [a] := by
      rw [hu, ha, ← husers']
      exact congrArg (· ++ _) hnone
    have happly' : applyUses u v.toNat = false := by rw [hu]; exact happly
    have hready : ackReady u a.kind = true := by
      rw [ha]
      simp [ackReady, happly']
    have haway' : ¬u.service.lodgeAway = true := by
      rw [hu]
      exact (by simp [haway] : ¬s.service.lodgeAway = true)
    have hgiven : u.settleAcks = u.giveAck a := by simp [settleAcks_eq, haway', hacks1, hready]
    have hkind : ∀ page toHost, a.kind ≠ .bias page toHost := by
      rw [ha]
      exact fun _ _ => AckKind.noConfusion
    have hdelivers : Delivers u a.path := by
      rw [hu, ha]
      exact hs.delivers
    refine ⟨u.dict.replies, ?_⟩
    rw [hgiven, giveAck_replies hkind hdelivers, ha, hm]

/-- Settles O26: a scrub marks before it reports, and its reports only add to the queue; what goes on when a channel serves again begins
no retraining; and of the acknowledgements those that are ready, and no other, are given. -/
theorem memoryAndTranslationUnitsServe : Obligations.MemoryAndTranslationUnitsServe := by
  unfold Obligations.MemoryAndTranslationUnitsServe
  refine ⟨⟨fun s n k ecc hserves hspan => scrubPass_stack hserves hspan k ecc, fun s n k ecc hserves => scrubPass_slow hserves k ecc,
    fun s u ch temp hserves hch hretired hidle hdue => ⟨_, exec_channelRetrainStart hserves hch hretired hidle hdue,
      retrainingNow_spec s (unitNumber u) ch temp rfl⟩, fun s u ch hch h => channelRetrainEnd_serves hch h,
    fun s path tag v role own hs hr => retrainRequest_queues hs hr tag v rfl rfl⟩,
    fun s path tag v role own hs hr hv => translationShootdown_drops hs hr tag v hv⟩

end Sys2Proof.Machine
end

section
/-!
SUPPORT. What the module's writes to tenant memory leave (R213, R226, R235, R428, R429): the tiles, the links, the slow tiers and the
Pool's directory, and of every set the state, the layers and the undo rings.
-/

namespace Sys2Proof.Machine

/-- A set has the state and the layers it had. -/
def SameLayers (x y : SetState) : Prop := y.state = x.state ∧ y.layerMap = x.layerMap

theorem SameLayers.trans {x y z : SetState} (h : SameLayers x y) (h' : SameLayers y z) : SameLayers x z := by
  obtain ⟨hs, hl⟩ := h
  obtain ⟨hs', hl'⟩ := h'
  exact ⟨hs'.trans hs, hl'.trans hl⟩

/-- An apply stands where it did, with the undo rings it had. -/
def SameRings (x y : SetRun) : Prop := y.applied = x.applied ∧ y.undo = x.undo ∧ y.changedRows = x.changedRows

theorem SameRings.trans {x y z : SetRun} (h : SameRings x y) (h' : SameRings y z) : SameRings x z := by
  obtain ⟨ha, hu, hc⟩ := h
  obtain ⟨ha', hu', hc'⟩ := h'
  exact ⟨ha'.trans ha, hu'.trans hu, hc'.trans hc⟩

/-- Every apply stands where it did, on the chips and layers it had, with the undo rings it had. -/
structure KeepsRings (s u : State) : Prop where
  service : u.service = s.service
  links : u.links = s.links
  sets : ∀ t p, SameLayers (setAt s t p) (setAt u t p)
  runs : ∀ t p, SameRings (runAt s t p) (runAt u t p)

theorem KeepsRings.trans {s u w : State} (h : KeepsRings s u) (h' : KeepsRings u w) : KeepsRings s w :=
  ⟨h'.service.trans h.service, h'.links.trans h.links, fun t p => (h.sets t p).trans (h'.sets t p),
    fun t p => (h.runs t p).trans (h'.runs t p)⟩

/-- A write to tenant memory: no tile, no slow tier and no way of the Pool is another, and every apply stands where it did. -/
structure TenantWrite (s u : State) : Prop extends KeepsRings s u where
  tiles : u.tiles = s.tiles
  slow : u.mem.slow = s.mem.slow
  slowBad : u.mem.slowBad = s.mem.slowBad
  dir : u.mem.dir = s.mem.dir

theorem TenantWrite.trans {s u w : State} (h : TenantWrite s u) (h' : TenantWrite u w) : TenantWrite s w :=
  ⟨h.toKeepsRings.trans h'.toKeepsRings, h'.tiles.trans h.tiles, h'.slow.trans h.slow, h'.slowBad.trans h.slowBad, h'.dir.trans h.dir⟩

/-- A change of the fast tier, of what is to retrain or be counted, of the host's side, of the module's counts or of the log. -/
theorem TenantWrite.of_parts (s : State) (host : HostState) (log : LogState) (g : Globals) (fast : SMap Byte) (bad queue : List Nat)
    (records : SMap GenRecord) (malformed : Nat) : TenantWrite s { s with
      host := host, log := log, globals := g,
      mem := { s.mem with fast := fast, fastBad := bad, retrainQueue := queue, genRecords := records, malformed := malformed } } :=
  ⟨⟨rfl, rfl, fun _ _ => ⟨rfl, rfl⟩, fun _ _ => ⟨rfl, rfl, rfl⟩⟩, rfl, rfl, rfl, rfl⟩

theorem TenantWrite.refl (s : State) : TenantWrite s s := .of_parts s s.host s.log s.globals _ _ _ _ _

theorem TenantWrite.ite {s u w : State} {c : Prop} [Decidable c] (h : TenantWrite s u) (h' : TenantWrite s w) :
    TenantWrite s (if c then u else w) := by
  split
  · exact h
  · exact h'

theorem tenantWrite_foldl {α : Type} {f : State → α → State} (h : ∀ u x, TenantWrite u (f u x)) (xs : List α) (s : State) :
    TenantWrite s (xs.foldl f s) :=
  foldl_keeps (P := TenantWrite s) f (fun u x hu => hu.trans (h u x)) xs s (.refl s)

section
variable (s : State) (t p : Nat)

/-! ### The parts of a tenant -/

theorem tenantWrite_updTenant {f : Tenant → Tenant} (hs : ∀ x, (f x).sets = x.sets := by exact fun _ => rfl)
    (hr : ∀ x, (f x).runs = x.runs := by exact fun _ => rfl) : TenantWrite s (s.updTenant t f) := by
  refine ⟨⟨rfl, rfl, fun u q => ?_, fun u q => ?_⟩, rfl, rfl, rfl, rfl⟩
  · rw [setAt_updTenant s t u q hs]
    exact ⟨rfl, rfl⟩
  · rw [runAt_updTenant s t u q hr]
    exact ⟨rfl, rfl, rfl⟩

theorem tenantWrite_updSet {f : SetState → SetState} (hf : ∀ x, SameLayers x (f x) := by exact fun _ => ⟨rfl, rfl⟩) :
    TenantWrite s (s.updSet t p f) := by
  refine ⟨⟨rfl, rfl, fun u q => ?_, fun u q => ?_⟩, rfl, rfl, rfl, rfl⟩
  · rw [setAt_updSet]
    split
    · next h => obtain ⟨rfl, rfl⟩ := h; exact hf _
    · exact ⟨rfl, rfl⟩
  · rw [runAt_updSet]
    exact ⟨rfl, rfl, rfl⟩

theorem tenantWrite_updRun {f : SetRun → SetRun} (hf : ∀ r, SameRings r (f r) := by exact fun _ => ⟨rfl, rfl, rfl⟩) :
    TenantWrite s (s.updRun t p f) := by
  refine ⟨⟨rfl, rfl, fun u q => ?_, fun u q => ?_⟩, rfl, rfl, rfl, rfl⟩
  · rw [setAt_updRun]
    exact ⟨rfl, rfl⟩
  · rw [runAt_updRun]
    split
    · next h => obtain ⟨rfl, rfl⟩ := h; exact hf _
    · exact ⟨rfl, rfl, rfl⟩

theorem tenantWrite_report (source : W32) (cls cause : Nat) (tenant : Option Nat) (detail : W32) :
    TenantWrite s (s.report source cls cause tenant detail) := by
  obtain ⟨log, h⟩ := report_onlyLog s source cls cause tenant detail
  rw [h]
  exact .of_parts s s.host log s.globals _ _ _ _ _

theorem tenantWrite_freezeJob (cause address : Nat) (layer : Option (Nat × List Byte)) :
    TenantWrite s (s.freezeJob t p cause address layer) :=
  .ite (.refl s) ((tenantWrite_updSet s t p).trans ((tenantWrite_updTenant _ t).trans (tenantWrite_report ..)))

/-! ### Memory and its reports (R185, R190, R301, R430) -/

theorem Reported.tenantWrite {s u : State} (h : Reported s u) : TenantWrite s u := by
  obtain ⟨queue, records, log, rfl⟩ := h.frame
  exact .of_parts s s.host log s.globals _ _ queue records _

theorem tenantWrite_touchBias (a n : Nat) : TenantWrite s (s.touchBias a n) := by
  obtain ⟨b, h⟩ := touchBias_spec s a n
  rw [h]
  exact .of_parts s { s.host with biasRequests := b } s.log s.globals _ _ _ _ _

theorem tenantWrite_writeDpa (a : Nat) (bs : List Byte) : TenantWrite s (s.writeDpa a bs).1 := by
  obtain ⟨fast, bad, h, -⟩ := writeDpa_spec s a bs
  rw [h]
  exact .of_parts s s.host s.log s.globals fast bad _ _ _

theorem tenantWrite_fastUncorrectable (d : Nat) : TenantWrite s (s.fastUncorrectable d) :=
  (reported_fastUncorrectable s d).tenantWrite

theorem tenantWrite_updGlobals (f : Globals → Globals) : TenantWrite s (s.updGlobals f) := .of_parts s s.host s.log (f s.globals) _ _ _ _ _

theorem tenantWrite_noteWalk (w : Walk) : TenantWrite s (s.noteWalk w) := by
  have hcount := TenantWrite.of_parts s s.host s.log s.globals s.mem.fast s.mem.fastBad s.mem.retrainQueue s.mem.genRecords
    (satAdd 32 s.mem.malformed w.malformed)
  unfold State.noteWalk
  dsimp only
  split
  · exact hcount.trans (tenantWrite_fastUncorrectable ..)
  · exact hcount

/-! ### Writes that touch an attempt block (R235) -/

theorem tenantWrite_wantOpen : TenantWrite s (s.wantOpen t p) :=
  .ite (.refl s) ((tenantWrite_updGlobals s _).trans (tenantWrite_updRun ..))

theorem tenantWrite_noticeBlock (d a n : Nat) : TenantWrite s (noticeBlock s t p d a n) := by
  unfold noticeBlock
  extract_lets field s1 s2
  have h1 : TenantWrite s s1 := .ite ((tenantWrite_updSet s t p).trans (.ite (tenantWrite_freezeJob ..) (.refl _))) (.refl s)
  have h2 : TenantWrite s1 s2 := .ite (.ite (tenantWrite_updSet s1 t p) (.refl s1)) (.refl s1)
  exact (h1.trans h2).trans (.ite (.ite (tenantWrite_wantOpen ..) (.refl s2)) (.refl s2))

theorem tenantWrite_noticeWrite (a n : Nat) : TenantWrite s (s.noticeWrite t a n) := by
  refine tenantWrite_foldl (fun u p => .ite (.refl u) ?_) _ s
  split
  · exact .ite (tenantWrite_noticeBlock ..) (.refl u)
  · exact .refl u

/-! ### The module's own accesses (R213, R226, R428, R429) -/

theorem tenantWrite_genWord (off : Nat) (f : Nat → Nat) : TenantWrite s (s.genWord t p off f) := by
  unfold State.genWord
  dsimp only
  refine .ite (.refl s) ?_
  split
  · exact .refl s
  · exact (tenantWrite_noteWalk ..).trans (tenantWrite_freezeJob ..)
  · exact .ite ((tenantWrite_updTenant s t).trans (tenantWrite_fastUncorrectable ..))
      ((tenantWrite_touchBias ..).trans (tenantWrite_writeDpa ..))

theorem tenantWrite_settle : TenantWrite s (s.settle t p) :=
  .ite (.refl s) ((tenantWrite_updRun s t p).trans (tenantWrite_genWord ..))

theorem tenantWrite_capTouch (pages : List (Nat × Nat)) (va n : Nat) : TenantWrite s (s.capTouch pages va n) := by
  refine tenantWrite_foldl (fun u c => ?_) _ s
  split
  · exact tenantWrite_touchBias ..
  · exact .refl u

theorem tenantWrite_capWrite (pages : List (Nat × Nat)) (va : Nat) (bs : List Byte) : TenantWrite s (s.capWrite t pages va bs).1 := by
  unfold State.capWrite
  refine foldl_keeps (P := fun acc : State × Option Nat => TenantWrite s acc.1) _ (fun acc c hacc => ?_) _ _ (.refl s)
  split
  · next d _ =>
    extract_lets lost s1 s2
    have h1 : TenantWrite acc.1 s1 := (tenantWrite_touchBias acc.1 d c.2).trans (tenantWrite_writeDpa ..)
    have h2 : TenantWrite s1 s2 := by
      unfold s2
      clear_value lost
      cases lost with
      | some w => exact tenantWrite_fastUncorrectable ..
      | none => exact .refl s1
    dsimp only
    exact ((hacc.trans h1).trans h2).trans (tenantWrite_noticeWrite s2 t d c.2)
  · exact hacc

end

end Sys2Proof.Machine
end

section
/-!
PROOF. O37: exchanges at the peer and at the sender, and Pool invalidations (R211, R267, R277–R280; logs 25, 89).
-/

namespace Sys2Proof.Machine

/-! ### Writes to a tile that has no bad word (R149, R279) -/

/-- Where no word is bad, a checked write writes every byte and marks none. -/
theorem writeWords_clean (m : SMap Byte) (a : Nat) (bs : List Byte) : writeWords m [] a bs = (writeBytes m a bs, [], false) := by
  have hgood : readBad [] a bs.length = false := by simp [readBad]
  exact Prod.ext (writeWords_of_good hgood m) (by simp [writeWords])

theorem writeLocal_clean {s : State} {l : Nat} (h : (tileAt s l).lmBad = []) (tenant a : Nat) (bs : List Byte) :
    writeLocal s l tenant a bs = (s.setTile l ((tileAt s l).setLm (writeBytes (tileAt s l).lm a bs) []), .done) := by
  unfold writeLocal
  dsimp only
  rw [h, writeWords_clean]
  rfl

/-- A look at a tile's local memory that finds nothing leaves the tile as it reads. -/
theorem localEcc_none (s : State) (l tenant : Nat) : s.localEcc l tenant { bad := [], corrected := [] } = s.setTile l (tileAt s l) := rfl

theorem bits_31_0 (v : Nat) : bits v 31 0 = v % 2 ^ 32 := by unfold bits; omega

/-! ### An exchange at its peer (R279) -/

/-- An exchange packet that is served: it has left the inbox, and its tile has been looked at. -/
structure AtPeer (s : State) (p : Packet) (t : State) : Prop where
  links : t.links = (s.serving p).links
  mem : t.mem = s.mem
  tiles : ∀ l, tileAt t l = tileAt s l
  status : exchangeTileStatus t p = exchangeTileStatus s p

theorem atPeer_serving (s : State) (p : Packet) : AtPeer s p (s.serving p) := ⟨rfl, rfl, fun _ => rfl, rfl⟩

theorem AtPeer.localEcc_none {s t : State} {p : Packet} (h : AtPeer s p t) (l tenant : Nat) :
    AtPeer s p (t.localEcc l tenant { bad := [], corrected := [] }) := by
  rw [Machine.localEcc_none]
  refine ⟨h.links, h.mem, fun j => ?_, h.status⟩
  rw [tileAt_setTile]
  split
  · next hj => rw [hj, h.tiles]
  · exact h.tiles j

/-- The data of an exchange stand in its tile, and nowhere else has a byte changed. -/
structure PeerWrote (s : State) (p : Packet) (l : Nat) (bs : List Byte) (t : State) : Prop where
  links : t.links = (s.serving p).links
  mem : t.mem = s.mem
  written : (tileAt t l).lm = writeBytes (tileAt s l).lm p.addr.toNat bs
  others : ∀ j, j ≠ l → tileAt t j = tileAt s j

theorem AtPeer.wrote {s t : State} {p : Packet} (h : AtPeer s p t) (l : Nat) (bs : List Byte) {x : Tile}
    (hx : x.lm = writeBytes (tileAt s l).lm p.addr.toNat bs) : PeerWrote s p l bs (t.setTile l x) := by
  refine ⟨h.links, h.mem, ?_, fun j hj => ?_⟩
  · rw [tileAt_setTile_self, hx]
  · rw [tileAt_setTile_ne _ _ hj, h.tiles]

theorem PeerWrote.setTile {s t : State} {p : Packet} {l : Nat} {bs : List Byte} (h : PeerWrote s p l bs t) {x : Tile}
    (hx : x.lm = (tileAt t l).lm) : PeerWrote s p l bs (t.setTile l x) := by
  refine ⟨h.links, h.mem, ?_, fun j hj => ?_⟩
  · rw [tileAt_setTile_self, hx, h.written]
  · rw [tileAt_setTile_ne _ _ hj, h.others j hj]

/-- Data for a tile without a bad word stand in it (R149, R279). -/
theorem AtPeer.exchangeToTile {s t : State} {p : Packet} (h : AtPeer s p t) (hstatus : exchangeTileStatus s p = 0)
    (hlm : (tileAt s (bits p.aux.toNat 63 53)).lmBad = []) :
    ∃ u, PeerWrote s p (bits p.aux.toNat 63 53) p.data u ∧ exchangeToTile t p = (u, 0) := by
  have hclean : (tileAt t (bits p.aux.toNat 63 53)).lmBad = [] := by rw [h.tiles, hlm]
  unfold Machine.exchangeToTile
  rw [h.status, hstatus]
  dsimp only
  rw [writeLocal_clean hclean]
  have hwrote := h.wrote (bits p.aux.toNat 63 53) p.data (x := (tileAt t (bits p.aux.toNat 63 53)).setLm
    (writeBytes (tileAt t (bits p.aux.toNat 63 53)).lm p.addr.toNat p.data) []) (by rw [h.tiles]; rfl)
  refine ⟨_, hwrote.setTile ?_, rfl⟩
  rfl

/-- The answer that leaves a state with the links of the packet's service. -/
theorem answerSent_of_links {s t : State} {p : Packet} (h : t.links = (s.serving p).links) (ty status : Nat) (aux : BitVec 64)
    (data : List Byte) : AnswerSent s (t.answer p ty status aux data) p ty status aux data := by
  change (t.links.outbox ++ [{ basePacket t.links.nodeId p.src p.tenant ty p.tag with
    status := status, aux := aux, data := data, length := data.length }]) = _
  rw [h]
  rfl

theorem AtPeer.answered {s t : State} {p : Packet} (h : AtPeer s p t) (status : Nat) :
    AnswerSent s (t.answer p 7 status 0 []) p 7 status 0 [] ∧ SameMemory s (t.answer p 7 status 0 []) := by
  refine ⟨answerSent_of_links h.links .., fun k => ?_, fun k => ?_, fun l a => ?_⟩
  · change mgetD t.mem.fast k 0 = _
    rw [h.mem, fastByte]
  · change mgetD t.mem.slow k 0 = _
    rw [h.mem, slowByte]
  · change mgetD (tileAt t l).lm a 0 = _
    rw [h.tiles, lmByte]

/-- What a tile's peer answers: bytes of the exchange where it wrote, and every other byte as before. -/
theorem PeerWrote.answered {s t : State} {p : Packet} {l : Nat} {bs : List Byte} (h : PeerWrote s p l bs t) :
    AnswerSent s (t.answer p 7 0 0 []) p 7 0 0 [] ∧
    (∀ k, k < bs.length → lmByte (t.answer p 7 0 0 []) l (p.addr.toNat + k) = bs.getD k 0) ∧
    (∀ a, a < p.addr.toNat ∨ p.addr.toNat + bs.length ≤ a → lmByte (t.answer p 7 0 0 []) l a = lmByte s l a) ∧
    (∀ j a, j ≠ l → lmByte (t.answer p 7 0 0 []) j a = lmByte s j a) ∧ (t.answer p 7 0 0 []).mem = s.mem := by
  have hlm : ∀ j a, lmByte (t.answer p 7 0 0 []) j a = mgetD (tileAt t j).lm a 0 := fun _ _ => rfl
  refine ⟨answerSent_of_links h.links .., fun k hk => ?_, fun a ha => ?_, fun j a hj => ?_, h.mem⟩
  · rw [hlm, h.written, mgetD_writeBytes_inside _ _ _ _ hk, List.getD_eq_getElem _ _ hk]
  · rw [hlm, h.written, mgetD_writeBytes_outside _ _ _ _ ha, lmByte]
  · rw [hlm, h.others j hj, lmByte]

theorem exec_exchangeData (p : Packet) (ecc : Ecc) (s : State) : exec (.exchangeData p ecc) s = execExchangeData p ecc s := rfl

theorem exec_exchangeFlag (p : Packet) (ecc : Ecc) (s : State) : exec (.exchangeFlag p ecc) s = execExchangeFlag p ecc s := rfl

section
variable {s : State} {p : Packet} (hdst : p.dst = s.links.nodeId) (hgood : packetMalformed p = false)
include hdst hgood

/-- The peer of data for a tile looks at the tile, where there is one, before it judges the packet. -/
theorem exec_exchangeData_toTile (hty : p.ptype = 5) (hspace : bit p.aux.toNat 52 = false) :
    ∃ t, AtPeer s p t ∧ exec (.exchangeData p { bad := [], corrected := [] }) s =
      .next ((exchangeToTile t p).1.answer p 7 (exchangeToTile t p).2 0 []) := by
  rw [exec_exchangeData, execExchangeData, serve_wellFormed hty hdst hgood]
  dsimp only
  rw [hspace, if_neg Bool.false_ne_true]
  split
  · exact ⟨_, (atPeer_serving s p).localEcc_none .., rfl⟩
  · exact ⟨_, atPeer_serving s p, rfl⟩

variable {x : Instr} {bs : List Byte}
  (hx : x = .exchangeData p { bad := [], corrected := [] } ∧ p.ptype = 5 ∧ bit p.aux.toNat 52 = false ∧ bs = p.data ∨
    x = .exchangeFlag p { bad := [], corrected := [] } ∧ p.ptype = 6 ∧ bs = leBytes 4 (p.aux.toNat % 2 ^ 32))
include hx

/-- A peer that turns the packet away writes nothing (R279). -/
theorem exchange_refused {status : Nat} (hstatus : exchangeTileStatus s p = status) (hne : status ≠ 0) :
    ∃ t, AtPeer s p t ∧ exec x s = .next (t.answer p 7 status 0 []) := by
  obtain ⟨rfl, hty, hspace, -⟩ | ⟨rfl, hty, -⟩ := hx
  · obtain ⟨t, ht, hexec⟩ := exec_exchangeData_toTile hdst hgood hty hspace
    have hturned : exchangeToTile t p = (t, status) := by
      unfold exchangeToTile
      rw [ht.status, hstatus]
      split
      next => exact absurd rfl hne
      next => rfl
    rw [hturned] at hexec
    exact ⟨t, ht, hexec⟩
  · refine ⟨s.serving p, atPeer_serving s p, ?_⟩
    rw [exec_exchangeFlag, execExchangeFlag, serve_wellFormed hty hdst hgood]
    dsimp only
    rw [(atPeer_serving s p).status, hstatus]
    split
    next => exact absurd rfl hne
    next => rfl

/-- A peer that takes the packet writes its data (R279). -/
theorem exchange_taken (hstatus : exchangeTileStatus s p = 0)
    (hlm : (tileAt s (bits p.aux.toNat 63 53)).lmBad = []) :
    ∃ t, PeerWrote s p (bits p.aux.toNat 63 53) bs t ∧ exec x s = .next (t.answer p 7 0 0 []) := by
  obtain ⟨rfl, hty, hspace, rfl⟩ | ⟨rfl, hty, rfl⟩ := hx
  · obtain ⟨t, ht, hexec⟩ := exec_exchangeData_toTile hdst hgood hty hspace
    obtain ⟨u, hu, hwrote⟩ := ht.exchangeToTile hstatus hlm
    rw [hwrote] at hexec
    exact ⟨u, hu, hexec⟩
  · have ht := (atPeer_serving s p).localEcc_none (bits p.aux.toNat 63 53) p.tenant
    refine ⟨_, ht.wrote _ _ (x := (tileAt s (bits p.aux.toNat 63 53)).setLm (writeBytes (tileAt s (bits p.aux.toNat 63 53)).lm
      p.addr.toNat (leBytes 4 (p.aux.toNat % 2 ^ 32))) []) rfl, ?_⟩
    rw [exec_exchangeFlag, execExchangeFlag, serve_wellFormed hty hdst hgood]
    dsimp only
    rw [(atPeer_serving s p).status, hstatus, writeLocal_clean (by rw [ht.tiles]; exact hlm), ht.tiles, bits_31_0]
    rfl

end

/-! ### An exchange at its sender (R267, R279, R280) -/

theorem exec_exchangeAcknowledge (p : Packet) (s : State) :
    exec (.exchangeAcknowledge p) s = execExchangeAcknowledge p s := rfl

/-- The state in which an exchange's stream hears of its packet: the packet is answered and no longer waits (R267). -/
def State.acknowledged (s : State) (p : Packet) : State := (s.serving p).closeRequest p.tag

theorem streamAt_acknowledged (s : State) (p : Packet) (l tag : Nat) : streamAt (s.acknowledged p) l tag = streamAt s l tag := rfl

theorem sameMemory_acknowledged (s : State) (p : Packet) : SameMemory s (s.acknowledged p) := .of_eq rfl rfl

/-- A stream that freezes has its record (R169, R365). -/
theorem freezeStream_record (s : State) (l tenant tag : Nat) (st : Stream) (cause address : Nat) :
    ∃ f ∈ (tenantAt (s.freezeStream l tenant tag st cause address) tenant).freezes,
      f.master = streamMaster st.kind l tag ∧ f.cause = cause ∧ f.address = address := by
  rw [State.freezeStream, tenantAt_freeze]
  exact ⟨_, List.mem_append_right _ List.mem_cons_self, rfl, rfl, rfl⟩

theorem KeepsBytes.sameMemory {s t : State} (h : KeepsBytes s t) : SameMemory s t := (h.stream 0 0).memory

section
variable {s : State} {p : Packet} {r : Request} {l tag tenant k : Nat} {st : Stream} (hdst : p.dst = s.links.nodeId)
  (hty : p.ptype = 7) (hgood : packetMalformed p = false) (hreq : mget s.links.requests p.tag = some r) (hfrom : r.packet.dst = p.src)
  (hwho : r.who = .exchangePart l tag k) (howner : ownerOf s l = some tenant) (hstream : streamAt s l tag = some st)
  (hreset : tileResetting s l = false)
include hdst hty hgood hreq hfrom hwho hreset

/-- An acknowledgement that is not of a target's reset reaches the stream whose packet it answers (R267). -/
theorem exec_exchangeAcknowledge_part (hstatus : p.status ≠ 1) :
    exec (.exchangeAcknowledge p) s = .next (answerExchange (s.acknowledged p) l tag (some k) p.status) := by
  have hreq' : mget (s.serving p).links.requests p.tag = some r := hreq
  have hreset' : tileResetting (s.serving p) l = false := hreset
  rw [exec_exchangeAcknowledge, execExchangeAcknowledge, serve_wellFormed hty hdst hgood]
  unfold State.exchangeAnswered
  rw [hreq']
  dsimp only
  rw [if_neg (by simp [hfrom]), hwho, masterResetting, hreset', if_neg Bool.false_ne_true]
  exact congrArg _ (if_neg hstatus)

include howner hstream

/-- The last packet of an exchange without a flag retires its tag (R279). -/
theorem exchange_retires (hok : p.status = 0) (hall : (ninsert st.written k).length = xParts st.desc) (hflag : xFlagEn st.desc = false) :
    ∃ u, exec (.exchangeAcknowledge p) s = .next u ∧ streamAt u l tag = none ∧ mget u.links.requests p.tag = none ∧ SameMemory s u := by
  have howner' : ownerOf (s.acknowledged p) l = some tenant := howner
  have hanswer : answerExchange (s.acknowledged p) l tag (some k) p.status = ((s.acknowledged p).setStream l tag
      { st with inflight := st.inflight.erase k, written := ninsert st.written k }).retireTag l tag := by
    unfold answerExchange
    rw [howner', streamAt_acknowledged, hstream, hok]
    exact if_pos (by simp [hall, hflag])
  refine ⟨_, (exec_exchangeAcknowledge_part hdst hty hgood hreq hfrom hwho hreset (by omega)).trans (congrArg _ hanswer), ?_, ?_, ?_⟩
  · rw [streamAt, streams_retireTag, if_pos rfl]
  · exact mget_merase_self ..
  · exact (sameMemory_acknowledged s p).trans ((sameMemory_setStream ..).trans (sameMemory_retireTag ..))

/-- A packet that its peer turned away freezes the exchange at that packet (R280). -/
theorem exchange_freezes {c : Nat} (hcause : exchangeCause p.status = some c) (hk : k < xParts st.desc) :
    ∃ u f, exec (.exchangeAcknowledge p) s = .next u ∧ f ∈ (tenantAt u tenant).freezes ∧ f.master = streamMaster st.kind l tag ∧
      f.cause = c ∧ f.address = dbits st.desc 159 112 + 4096 * k ∧ SameMemory s u := by
  have howner' : ownerOf (s.acknowledged p) l = some tenant := howner
  have hstatus : p.status ≠ 1 := fun h => by rw [h] at hcause; cases hcause
  have hanswer : answerExchange (s.acknowledged p) l tag (some k) p.status = freezeExchange (s.acknowledged p) l tenant tag st k c := by
    unfold answerExchange
    rw [howner', streamAt_acknowledged, hstream, hcause]
    rfl
  have hexec := (exec_exchangeAcknowledge_part hdst hty hgood hreq hfrom hwho hreset hstatus).trans (congrArg _ hanswer)
  unfold freezeExchange at hexec
  rw [if_pos hk] at hexec
  obtain ⟨f, hf, hmaster, hcause', haddress⟩ := freezeStream_record _ l tenant tag _ c (dbits st.desc 159 112 + 4096 * k)
  refine ⟨_, f, hexec, hf, hmaster, hcause', haddress, ?_⟩
  have horphan : SameMemory (s.acknowledged p) ((s.acknowledged p).orphan l tag) := .of_eq rfl rfl
  exact (sameMemory_acknowledged s p).trans
    ((horphan.trans (sameMemory_setStream ..)).trans (keepsBytes_freezeStream ..).sameMemory)

end

/-! ### Pool invalidations (R210, R211) -/

theorem exec_poolInvalidations (p : Packet) (s : State) : exec (.poolInvalidations p) s = execPoolInvalidations p s := rfl

/-- A record of a packet that names the way's row, and is no end marker (R210). -/
def recordNames (v : Nat) (w : Way) : Bool :=
  !bit v 13 && decide (bits v 63 54 = w.tenant) && decide (bits v 53 46 = w.table) && decide (bits v 45 14 = w.row)

/-- A way whose row has changed: a valid one goes stale, and a fill is doomed (R211). -/
def Way.changed (w : Way) : Way :=
  if w.state = 2 then { w with state := 3 } else if w.state = 1 then { w with doomed := true } else w

/-- What a way hears of a record. -/
def Way.hear (w : Way) (v : Nat) : Way := if recordNames v w then w.changed else w

/-- A way that has changed stays as it is, and keeps its row. -/
theorem changed_spec (w : Way) : w.changed.changed = w.changed ∧ ∀ v, recordNames v w.changed = recordNames v w := by
  by_cases h2 : w.state = 2
  · simp [Way.changed, h2, recordNames]
  · by_cases h1 : w.state = 1
    · simp [Way.changed, h1, recordNames]
    · simp [Way.changed, h1, h2]

/-- However many records of a packet name it, a way changes once. -/
theorem foldl_hear (vs : List Nat) (w : Way) : vs.foldl Way.hear w = if vs.any fun v => recordNames v w then w.changed else w := by
  induction vs generalizing w with
  | nil => rfl
  | cons v rest ih =>
    rw [List.foldl_cons, ih, List.any_cons, Way.hear]
    cases hv : recordNames v w with
    | false => rfl
    | true =>
      obtain ⟨htwice, hnames⟩ := changed_spec w
      simp only [if_true, Bool.true_or, htwice, hnames, ite_self]

theorem noWay_hear (v : Nat) : noWay.hear v = noWay := ite_self ..

/-- An entry of the directory at an invalidation (R211). -/
theorem invalidate_entry {v : Nat} (hv : bit v 13 = false) (e : Nat × Way) :
    (if e.2.tenant = bits v 63 54 && e.2.table = bits v 53 46 && e.2.row = bits v 45 14 then
      (match e.2.state with
       | 2 => (e.1, { e.2 with state := 3 })
       | 1 => (e.1, { e.2 with doomed := true })
       | _ => e)
    else e) = (e.1, e.2.hear v) := by
  have hnames : recordNames v e.2 = (e.2.tenant = bits v 63 54 && e.2.table = bits v 53 46 && e.2.row = bits v 45 14) := by
    simp only [recordNames, hv, Bool.not_false, Bool.true_and, eq_comm]
  rw [Way.hear, hnames]
  split
  · unfold Way.changed
    split
    next h => rw [if_pos h]
    next h => rw [if_neg (by omega), if_pos h]
    next h2 h1 => rw [if_neg h2, if_neg h1]
  · rfl

/-- An invalidation reaches every way of the Pool (R211). -/
theorem wayAt_invalidate (s : State) {v : Nat} (hv : bit v 13 = false) (k : Nat) :
    wayAt (s.invalidate (bits v 63 54) (bits v 53 46) (bits v 45 14)) k = (wayAt s k).hear v := by
  have hdir : (s.invalidate (bits v 63 54) (bits v 53 46) (bits v 45 14)).mem.dir = s.mem.dir.map fun e => (e.1, e.2.hear v) :=
    List.map_congr_left fun e _ => invalidate_entry hv e
  rw [wayAt, hdir, mget_map_values, wayAt]
  cases mget s.mem.dir k with
  | none => exact (noWay_hear v).symm
  | some w => rfl

theorem TenantWrite.wayAt {s u : State} (h : TenantWrite s u) (k : Nat) : wayAt u k = Machine.wayAt s k := by
  rw [Machine.wayAt, h.dir, Machine.wayAt]

/-- A record or an end marker reaches the ways its packet names, and no tile (R211, R212). -/
theorem applyRecord_spec (s : State) (p : Packet) (h v : Nat) :
    (applyRecord s p h v).tiles = s.tiles ∧ ∀ k, wayAt (applyRecord s p h v) k = (wayAt s k).hear v := by
  unfold applyRecord
  extract_lets t
  have hmarker : ∀ q, TenantWrite s ((s.updRun t q fun r => { r with markers := (h, p.src, p.addr.toNat) :: r.markers }).settle t q) :=
    fun q => (tenantWrite_updRun s t q).trans (tenantWrite_settle ..)
  have hcounted : ∀ u q, TenantWrite u ((u.countRecord t q h p.src).settle t q) :=
    fun u q => (tenantWrite_updRun u t q).trans (tenantWrite_settle ..)
  cases hv : bit v 13 with
  | true =>
    have hnone : ∀ w, recordNames v w = false := fun w => by rw [recordNames, hv]; rfl
    exact ⟨(hmarker _).tiles, fun k => ((hmarker _).wayAt k).trans (by rw [Way.hear, hnone]; rfl)⟩
  | false => exact ⟨(hcounted _ _).tiles, fun k => ((hcounted _ _).wayAt k).trans (wayAt_invalidate s hv k)⟩

/-- A packet of invalidations is heard record by record. -/
theorem exec_poolInvalidations_heard {s : State} {p : Packet} (hdst : p.dst = s.links.nodeId) (hty : p.ptype = 9)
    (hgood : packetMalformed p = false) :
    ∃ u, exec (.poolInvalidations p) s = .next u ∧ u.tiles = s.tiles ∧
      ∀ k, wayAt u k = (recordsOfPacket p).foldl Way.hear (wayAt s k) := by
  rw [exec_poolInvalidations, execPoolInvalidations, serve_wellFormed hty hdst hgood]
  refine ⟨_, rfl, ?_⟩
  suffices ∀ (vs : List Nat) (u : State), (vs.foldl (fun u v => applyRecord u p p.aux.toNat v) u).tiles = u.tiles ∧
      ∀ k, wayAt (vs.foldl (fun u v => applyRecord u p p.aux.toNat v) u) k = vs.foldl Way.hear (wayAt u k) from
    this (recordsOfPacket p) (s.serving p)
  intro vs
  induction vs with
  | nil => exact fun u => ⟨rfl, fun _ => rfl⟩
  | cons v rest ih =>
    intro u
    obtain ⟨htiles, hways⟩ := applyRecord_spec u p p.aux.toNat v
    obtain ⟨htiles', hways'⟩ := ih (applyRecord u p p.aux.toNat v)
    exact ⟨htiles'.trans htiles, fun k => by rw [List.foldl_cons, List.foldl_cons, hways', hways]⟩

/-- Settles O37: the peer's write and the sender's bookkeeping are followed packet by packet, and an invalidation changes a way once,
however often its packet names it. -/
theorem exchangesAndInvalidationsArrive : Obligations.ExchangesAndInvalidationsArrive := by
  unfold Obligations.ExchangesAndInvalidationsArrive
  refine ⟨fun s p ecc x bs hdst hgood hecc hwords hx => ?_,
    fun s p r l tag tenant k st hdst hty hgood hreq hfrom hwho howner hstream hreset => ⟨fun hok hall hflag => ?_, fun c hcause hk => ?_⟩,
    fun s p hdst hty hgood => ?_⟩
  · subst hecc
    refine ⟨fun hkey => ?_, fun hkey howner => ?_, fun hkey howner hreset hlm => ?_⟩
    · obtain ⟨t, ht, hexec⟩ := exchange_refused hdst hgood hx (if_pos hkey) (by decide)
      exact ⟨_, hexec, ht.answered 6⟩
    · obtain ⟨t, ht, hexec⟩ := exchange_refused hdst hgood hx (status := 5) (by simp [exchangeTileStatus, hkey, howner]) (by decide)
      exact ⟨_, hexec, ht.answered 5⟩
    · obtain ⟨t, ht, hexec⟩ := exchange_taken hdst hgood hx (by simp [exchangeTileStatus, hkey, howner, hreset]) hlm
      exact ⟨_, hexec, ht.answered⟩
  · exact exchange_retires hdst hty hgood hreq hfrom hwho howner hstream hreset hok hall hflag
  · exact exchange_freezes hdst hty hgood hreq hfrom hwho howner hstream hreset hcause hk
  · obtain ⟨u, hexec, htiles, hways⟩ := exec_poolInvalidations_heard hdst hty hgood
    refine ⟨u, hexec, htiles, fun k => ?_⟩
    rw [hways, foldl_hear]
    extract_lets w named
    change (if named then w.changed else w) = _
    cases named with
    | false => rfl
    | true => simp only [if_true, Way.changed, Bool.true_and, decide_eq_true_eq]

end Sys2Proof.Machine
end

section
/-!
SUPPORT. What applying a layer leaves of the standing of every set, its mode among it (R228, R231, R242).
-/

namespace Sys2Proof.Machine

/-- The end of a dense layer's apply: the hi halves and the pair view go to tenant memory, and a word that is lost freezes the job
(R230, R232). -/
def State.endDense (s : State) (t p : Nat) (c : Captured) (h dst upTo : Nat) (ps : List Pair) : State × Applied :=
  let d := c.block
  let w := s.capWrite t c.pages (rHi d dst) (fp16Bytes ((ps.map Pair.hi).take upTo))
  let w2 := if rView d = 0 then w
    else
      let cs := (viewConvs d ps).take (64 * (upTo / max 1 (rCols d)))
      let x := (w.1.countConvs cs).capWrite t c.pages (rView d + h % 2 * rRows d * 256) (fp32Bytes (cs.map Conv.bits))
      (x.1, if w.2.isSome then w.2 else x.2)
  match w2.2 with
  | some a => (w2.1.freezeJob t p 0x22 a (some (c.layer, d)), .failed)
  | none => (w2.1, .ok)

section
variable (s : State)

theorem keepsStanding_countConversions (sats nonfinite : Nat) : KeepsStanding s (s.countConversions sats nonfinite) :=
  keepsStanding_updGlobals s

theorem keepsStanding_capTouch (pages : List (Nat × Nat)) (va n : Nat) : KeepsStanding s (s.capTouch pages va n) := by
  refine keepsStanding_foldl (fun u c => ?_) _ s
  split
  · exact keepsStanding_touchBias ..
  · exact .refl u

theorem keepsStanding_badAt (pages : List (Nat × Nat)) (va : Nat) : KeepsStanding s (s.badAt pages va) := by
  unfold State.badAt
  split
  · exact keepsStanding_fastUncorrectable ..
  · exact .refl s

theorem keepsStanding_pushUndo (t p h : Nat) (c : Captured) (td : List Byte) (r : Nat) (row record : List Byte) :
    KeepsStanding s (s.pushUndo t p h c td r row record) := by
  unfold State.pushUndo
  extract_lets i head
  exact (keepsStanding_slowWrite ..).trans (keepsStanding_updRun _ t p)

theorem keepsStanding_endDense (t p : Nat) (c : Captured) (h dst upTo : Nat) (ps : List Pair) :
    KeepsStanding s (s.endDense t p c h dst upTo ps).1 := by
  unfold State.endDense
  extract_lets d w cs x w2
  have hw2 : KeepsStanding s w2.1 := by
    have hw : KeepsStanding s w.1 := keepsStanding_capWrite ..
    unfold w2
    split
    · exact hw
    · exact (hw.trans (keepsStanding_countConversions ..)).trans (keepsStanding_capWrite ..)
  split
  · exact hw2.trans (keepsStanding_freezeJob ..)
  · exact hw2

theorem keepsStanding_applyDense (t p : Nat) (c : Captured) (h upTo : Nat) : KeepsStanding s (applyDense s t p c h upTo).1 := by
  unfold applyDense
  extract_lets d n direct src dst base hi g s0
  have h0 : KeepsStanding s s0 := (keepsStanding_capTouch ..).trans (keepsStanding_capTouch ..)
  split
  next lo0 m0 v0 _ =>
  split
  next lo1 m1 v1 _ =>
  extract_lets lo m v old r ps s1 s2 s3
  split
  · exact h0.trans (keepsStanding_badAt ..)
  · exact h0.trans (keepsStanding_slowUncorrectable ..)
  · exact h0.trans ((keepsStanding_badAt ..).trans (keepsStanding_freezeJob ..))
  · have h2 : KeepsStanding s0 s2 :=
      ((keepsStanding_countConversions ..).trans (keepsStanding_slowWrite ..)).trans (keepsStanding_slowWrite ..)
    have h3 : KeepsStanding s2 s3 := .ite (keepsStanding_slowWrite ..) (.refl s2)
    exact ((h0.trans h2).trans h3).trans (keepsStanding_endDense s3 t p c h dst upTo ps)

theorem keepsStanding_applyEntry (t p h : Nat) (c : Captured) (td : List Byte) (i r : Nat) :
    KeepsStanding s (applyEntry s t p h c td i r).1 := by
  unfold applyEntry
  extract_lets d n direct va key row rec_ ga g s0 half his los old u ps fresh s1 s2 newRec s3
  have h0 : KeepsStanding s s0 := (keepsStanding_capTouch ..).trans (keepsStanding_capTouch ..)
  split
  · exact h0.trans (keepsStanding_badAt ..)
  · exact h0.trans (keepsStanding_slowUncorrectable ..)
  · exact h0.trans ((keepsStanding_badAt ..).trans (keepsStanding_freezeJob ..))
  · have h1 : KeepsStanding s0 s1 :=
      .ite (keepsStanding_updRun s0 t p) (.ite (keepsStanding_pushUndo ..) (.refl s0))
    have h3 : KeepsStanding s1 s3 := (keepsStanding_countConversions ..).trans (keepsStanding_slowWrite ..)
    split
    extract_lets w
    have hw : KeepsStanding s3 w.1 := (keepsStanding_countConversions ..).trans (keepsStanding_capWrite ..)
    have hall := ((h0.trans h1).trans h3).trans hw
    split
    · exact hall.trans (keepsStanding_freezeJob ..)
    · exact hall

theorem keepsStanding_applyTable (t p h : Nat) (c : Captured) (upTo : Nat) : KeepsStanding s (applyTable s t p h c upTo).1 := by
  unfold applyTable
  refine foldl_keeps (P := fun acc : State × Applied => KeepsStanding s acc.1) _ (fun acc e hacc => ?_) _ _ (.refl s)
  split
  · exact hacc.trans (keepsStanding_applyEntry ..)
  · exact hacc

/-- Applying every captured layer leaves every set as it stood (R242). -/
theorem keepsStanding_applyAll (t p h : Nat) : KeepsStanding s (s.applyAll t p h).1 := by
  unfold State.applyAll
  refine foldl_keeps (P := fun acc : State × Applied × Nat => KeepsStanding s acc.1) _ (fun acc c hacc => ?_) _ _ (.refl s)
  split
  · dsimp only
    split
    · exact hacc.trans (keepsStanding_applyTable ..)
    · exact hacc.trans (keepsStanding_applyDense ..)
  · exact hacc

end

end Sys2Proof.Machine
end

section
/-!
PROOF. O29, the applies: a pin word, the end of an apply, the watchdog and the restart of a chip (R214, R242, R243, R248, R249; log 82).
-/

namespace Sys2Proof.Machine

theorem exec_pinRetry (t p n : Nat) (ecc : Ecc) (s : State) : exec (.pinRetry t p n ecc) s = execPinRetry t p n ecc s := rfl

theorem exec_applyComplete (t p n : Nat) (fast : Ecc) (slow : List (Nat × Ecc)) (s : State) :
    exec (.applyComplete t p n fast slow) s = execApplyComplete t p n fast slow s := rfl

theorem exec_attemptWatchdogExpiry (t p n : Nat) (s : State) :
    exec (.attemptWatchdogExpiry t p n) s = execAttemptWatchdogExpiry t p n s := rfl

theorem exec_springChipRestart (chip : Nat) (slow : Ecc) (s : State) :
    exec (.springChipRestart chip slow) s = execSpringChipRestart chip slow s := rfl

/-! ### The pin word (R214, R242, R428) -/

theorem pinWaits_iff {s : State} {t p : Nat} : pinWaits s t p = true ↔
    applying s t p = true ∧ (runAt s t p).writing = false ∧ (setAt s t p).genBlock ≠ 0 ∧ (setAt s t p).mode = 1 := by
  simp only [pinWaits, Bool.and_eq_true, Bool.not_eq_true', decide_eq_true_eq, and_assoc]

theorem applyExpired_of_not_past {s : State} {t p : Nat} (h : watchdogPast s t p = false) : applyExpired s t p = false := by
  rw [applyExpired, h, Bool.false_and]

/-- The module's own write after it has asked for the line, at the same bytes (R301). -/
theorem touchBias_writeDpa_mem (s : State) (a n : Nat) (bs : List Byte) :
    ((s.touchBias a n).writeDpa a bs).1.mem = (s.writeDpa a bs).1.mem := by
  obtain ⟨b, h⟩ := touchBias_spec s a n
  refine writeDpa_mem_congr ?_ ?_ a bs
  · rw [h]
  · rw [h]

section
variable {s : State} {t p d off : Nat} (hpin : pinWaits s t p = true) (hplace : ownBlock s t (setAt s t p).genBlock .rw = .ok d)
  (hoff : off = 8 + 8 * (((setAt s t p).generation + 1) % 2)) (hbad : dpaBad s (d + off) 8 = false)
  (hwaits : dpaWaits s (d + off) 8 = false)
include hpin hplace hoff hbad hwaits

/-- A pin word that reads zero is taken, and one that does not is asked for again (R214, R242). -/
theorem tryPin_reads : s.tryPin t p = if leNat (dpaBytes s (d + off) 8) ≠ 0 then s.touchBias (d + off) 8
    else ((s.touchBias (d + off) 8).writeDpa (d + off) (leBytes 8 (2 ^ 63))).1.updRun t p fun r => { r with writing := true } := by
  obtain ⟨-, -, hblock, hmode⟩ := pinWaits_iff.1 hpin
  unfold State.tryPin
  extract_lets x off'
  obtain rfl : off' = off := hoff.symm
  rw [if_neg (by simp [x, hblock, hmode]), hplace]
  dsimp only
  rw [hwaits, hbad, if_neg Bool.false_ne_true, if_neg Bool.false_ne_true]

theorem pinRetry_takes :
    (leNat (dpaBytes s (d + off) 8) = 0 → (runAt (s.tryPin t p) t p).writing = true ∧
      (s.tryPin t p).mem = (s.writeDpa (d + off) (leBytes 8 (2 ^ 63))).1.mem) ∧
    (leNat (dpaBytes s (d + off) 8) ≠ 0 → s.tryPin t p = s.touchBias (d + off) 8) := by
  rw [tryPin_reads hpin hplace hoff hbad hwaits]
  refine ⟨fun hzero => ?_, fun hset => if_pos hset⟩
  rw [if_neg (not_not.2 hzero)]
  exact ⟨by rw [runAt_updRun_self], touchBias_writeDpa_mem ..⟩

end

theorem exec_pinRetry_tries {s s1 : State} {t p n : Nat} {ecc : Ecc} (hs : s1 = ((s.springTick n).redraw).fastEcc ecc)
    (hpin : pinWaits s1 t p = true) (hpast : watchdogPast s1 t p = false) :
    exec (.pinRetry t p n ecc) s = .next (((s1.tryPin t p).reduceAll t p).settleAcks) := by
  rw [exec_pinRetry, execPinRetry, pinRetryRow]
  rw [← hs, if_pos hpin, applyExpired_of_not_past hpast, if_neg Bool.false_ne_true]

/-! ### The end of an apply (R242, R243) -/

/-- A contribution to the apply reduction, in vote mode. -/
theorem contributeApply_spec {s : State} {t p : Nat} (hmode : (setAt s t p).mode = 1) (ok : Bool) (sum : Nat) (fatal : Bool) {w : State}
    (hw : w = s.contributeApply t p ok sum fatal) : (runAt w t p).applied = true ∧ w.mem = s.mem ∧
    (runAt w t p).reduction = some { phase := 1, ok := ok, sum := sum, fatal := fatal, dims := voteDimsOf s t p } := by
  have hdims : voteDimsOf (s.updRun t p fun r => { r with applied := true }) t p = voteDimsOf s t p := by
    rw [voteDimsOf, setAt_updRun, voteDimsOf]
  unfold State.contributeApply at hw
  dsimp only at hw
  rw [if_neg (by omega), State.startReduction, hdims] at hw
  obtain ⟨hrun, -, -, -, hmem⟩ := sentRound_spec _ t p _ hw
  rw [hrun, hmem, runAt_updRun_self]
  exact ⟨rfl, rfl, rfl⟩

theorem exec_applyComplete_applies {s s1 : State} {t p n : Nat} {ecc : Ecc} (hs : s1 = ((s.springTick n).redraw).fastEcc ecc)
    (happly : applying s1 t p = true) (hpin : pinWaits s1 t p = false) (hchips : ∀ c ∈ owningChips s1 t p, chipState s1 c = 2)
    (hpast : watchdogPast s1 t p = false) (hmode : (setAt s1 t p).mode = 1)
    (hwaits : applyWaits s1 t p ((setAt s1 t p).generation + 1) = false) {r : State × Applied × Nat}
    (hr : r = s1.applyAll t p ((setAt s1 t p).generation + 1)) :
    exec (.applyComplete t p n ecc []) s = .next (((r.1.contributeApply t p (decide (r.2.1 = .ok) && !jobTroubled r.1 t p) r.2.2
      (decide (r.2.1 = .fatal))).reduceAll t p).settleAcks) := by
  have hready : ((owningChips s1 t p).any fun c => chipState s1 c ≠ 2) = false := by
    simpa [List.any_eq_false] using hchips
  rw [exec_applyComplete, execApplyComplete, applyCompleteRow]
  dsimp only
  rw [List.foldl_nil, ← hs, happly, hpin, hready, hwaits, applyExpired_of_not_past hpast, hmode, ← hr]
  rfl

/-! ### The watchdog (R248) -/

section
variable {s s1 : State} {t p n : Nat} (hs : s1 = (s.springTick n).redraw) (hover : watchdogOver s1 t p = true)
include hs hover

/-- A watchdog that runs out while the set collects forces its contribution, unless an abort came first (R247, R248). -/
theorem watchdog_forces (hstate : (setAt s1 t p).state = 1) (hnew : (setAt s1 t p).contributed = false) {w : State}
    (hw : w = s1.forceBy t p 4) : exec (.attemptWatchdogExpiry t p n) s =
      .next ((if contributionWaits w t p then w else w.contribute t p).settleAcks) := by
  have hset : setAt w t p = { setAt s1 t p with forced := if (setAt s1 t p).forced = 0 then 4 else (setAt s1 t p).forced } := by
    rw [hw]
    exact setAt_updSet_self ..
  have hforced : (setAt w t p).forced ≠ 0 := by
    rw [hset]
    dsimp only
    split <;> omega
  rw [exec_attemptWatchdogExpiry, execAttemptWatchdogExpiry, attemptWatchdogExpiryRow]
  rw [← hs, hover, hstate, if_neg (by decide), if_pos rfl, ← hw]
  unfold State.contributeForced
  have hready : (setAt w t p).state = 1 ∧ (setAt w t p).contributed = false := by rw [hset]; exact ⟨hstate, hnew⟩
  cases hwait : contributionWaits w t p <;> simp [hready, hforced]

/-- One that runs out during the apply fails it (R230, R248). -/
theorem watchdog_failsApply (happly : applying s1 t p = true) (hnew : (runAt s1 t p).expired = false)
    (hwaits : applyWaits s1 t p ((setAt s1 t p).generation + 1) = false) :
    exec (.attemptWatchdogExpiry t p n) s = .next ((s1.failApply t p).settleAcks) := by
  have hstate : (setAt s1 t p).state ≠ 1 := by
    simp only [applying, Bool.and_eq_true, decide_eq_true_eq] at happly
    omega
  rw [exec_attemptWatchdogExpiry, execAttemptWatchdogExpiry, attemptWatchdogExpiryRow]
  rw [← hs, hover, if_neg (by decide), if_neg hstate, happly, hnew, hwaits]
  rfl

/-- One that runs out between the two is noted (R248). -/
theorem watchdog_noted (hstate : (setAt s1 t p).state = 2) : exec (.attemptWatchdogExpiry t p n) s =
    .next ((s1.updRun t p fun r => { r with expired := true }).settleAcks) := by
  have hnot : applying s1 t p = false := by simp [applying, hstate]
  rw [exec_attemptWatchdogExpiry, execAttemptWatchdogExpiry, attemptWatchdogExpiryRow]
  rw [← hs, hover, hnot, hstate]
  rfl

theorem watchdog_idle (h1 : (setAt s1 t p).state ≠ 1) (h2 : (setAt s1 t p).state ≠ 2) (hnot : applying s1 t p = false) :
    exec (.attemptWatchdogExpiry t p n) s = .next s1.settleAcks := by
  rw [exec_attemptWatchdogExpiry, execAttemptWatchdogExpiry, attemptWatchdogExpiryRow]
  rw [← hs, hover, if_neg (by decide), if_neg h1, hnot, Bool.false_and, if_neg Bool.false_ne_true, if_neg h2]

end

/-! ### The restart of a chip (R231, R249) -/

theorem KeepsRings.refl (s : State) : KeepsRings s s := ⟨rfl, rfl, fun _ _ => ⟨rfl, rfl⟩, fun _ _ => ⟨rfl, rfl, rfl⟩⟩

theorem keepsRings_slowWrite (s : State) (key : Nat) (bs : List Byte) : KeepsRings s (s.slowWrite key bs) :=
  ⟨rfl, rfl, fun _ _ => ⟨rfl, rfl⟩, fun _ _ => ⟨rfl, rfl, rfl⟩⟩

theorem keepsRings_popUndo (s : State) (t p : Nat) (c : Captured) (td : List Byte) (i : Nat) : KeepsRings s (s.popUndo t p c td i) := by
  unfold State.popUndo
  dsimp only
  split
  · exact ((reported_slowUncorrectable s _).tenantWrite.trans (tenantWrite_updRun _ t p)).toKeepsRings
  · exact (tenantWrite_capWrite ..).toKeepsRings.trans (keepsRings_slowWrite ..)

/-- The entries of a set's rings are restored before the rings are emptied (R231). -/
theorem restoreUndo_empties (s : State) (t p : Nat) :
    ∃ v, KeepsRings s v ∧ s.restoreUndo t p = v.updRun t p fun x => { x with undo := [], changedRows := [] } := by
  refine ⟨_, ?_, rfl⟩
  refine foldl_keeps (P := KeepsRings s) _ (fun u c hu => ?_) _ s (.refl s)
  exact foldl_keeps (P := KeepsRings s) _ (fun v i hv => hv.trans (keepsRings_popUndo ..)) _ u hu

/-- The set applies on the chip that restarts. -/
def restoredBy (s : State) (chip t p : Nat) : Bool := applying s t p && (owningChips s t p).contains chip

theorem restoredBy_iff {s : State} {chip t p : Nat} :
    restoredBy s chip t p = true ↔ applying s t p = true ∧ chip ∈ owningChips s t p := by
  rw [restoredBy, Bool.and_eq_true, List.contains_iff_mem]

/-- One set at the restart of a chip. -/
def State.restoreSet (chip t : Nat) (s : State) (p : Nat) : State := if restoredBy s chip t p then s.restoreUndo t p else s

/-- A set's rings are empty. -/
def ringsEmpty (s : State) (t p : Nat) : Prop := (runAt s t p).undo = [] ∧ (runAt s t p).changedRows = []

/-- The sets while a chip restarts: each applies as it did, and has the rings it had, or was restored. -/
structure Restarting (chip : Nat) (s u : State) : Prop where
  service : u.service = s.service
  links : u.links = s.links
  sets : ∀ t p, SameLayers (setAt s t p) (setAt u t p)
  applied : ∀ t p, (runAt u t p).applied = (runAt s t p).applied
  rings : ∀ t p, (runAt u t p).undo = (runAt s t p).undo ∨ restoredBy s chip t p = true

theorem Restarting.refl (chip : Nat) (s : State) : Restarting chip s s :=
  ⟨rfl, rfl, fun _ _ => ⟨rfl, rfl⟩, fun _ _ => rfl, fun _ _ => .inl rfl⟩

/-- Which sets are restored does not change while they are. -/
theorem Restarting.restoredBy {chip : Nat} {s u : State} (h : Restarting chip s u) (t p : Nat) :
    restoredBy u chip t p = Machine.restoredBy s chip t p := by
  obtain ⟨hstate, hlayers⟩ := h.sets t p
  simp only [Machine.restoredBy, applying, owningChips, ownedLayers, hstate, hlayers, h.links, h.applied]

theorem Restarting.restoreSet {chip : Nat} {s u : State} (h : Restarting chip s u) (t p : Nat) :
    Restarting chip s (u.restoreSet chip t p) ∧ (Machine.restoredBy s chip t p = true → ringsEmpty (u.restoreSet chip t p) t p) ∧
    ∀ t' p', ringsEmpty u t' p' → ringsEmpty (u.restoreSet chip t p) t' p' := by
  unfold State.restoreSet
  rw [h.restoredBy]
  cases hdue : Machine.restoredBy s chip t p with
  | false => exact ⟨h, fun hd => absurd hd Bool.false_ne_true, fun _ _ he => he⟩
  | true =>
    obtain ⟨v, hv, hrestore⟩ := restoreUndo_empties u t p
    have hrun : ∀ t' p', runAt (u.restoreUndo t p) t' p' =
        if t' = t ∧ p' = p then { runAt v t p with undo := [], changedRows := [] } else runAt v t' p' := fun t' p' => by
      rw [hrestore, runAt_updRun]
    have hset : ∀ t' p', setAt (u.restoreUndo t p) t' p' = setAt v t' p' := fun t' p' => by rw [hrestore, setAt_updRun]
    rw [if_pos rfl]
    refine ⟨⟨?_, ?_, fun t' p' => ?_, fun t' p' => ?_, fun t' p' => ?_⟩, fun _ => ?_, fun t' p' he => ?_⟩
    · rw [hrestore]
      exact hv.service.trans h.service
    · rw [hrestore]
      exact hv.links.trans h.links
    · rw [hset]
      exact (h.sets t' p').trans (hv.sets t' p')
    · obtain ⟨happlied, -⟩ := hv.runs t' p'
      rw [hrun, ← h.applied, ← happlied]
      split
      · next hat => obtain ⟨rfl, rfl⟩ := hat; rfl
      · rfl
    · obtain ⟨-, hundo, -⟩ := hv.runs t' p'
      rw [hrun]
      split
      · next hat => obtain ⟨rfl, rfl⟩ := hat; exact .inr hdue
      · rw [hundo]
        exact h.rings t' p'
    · rw [ringsEmpty, hrun, if_pos ⟨rfl, rfl⟩]
      exact ⟨rfl, rfl⟩
    · obtain ⟨-, hundo, hrows⟩ := hv.runs t' p'
      obtain ⟨hu, hr⟩ := he
      rw [ringsEmpty, hrun]
      split
      · exact ⟨rfl, rfl⟩
      · exact ⟨hundo.trans hu, hrows.trans hr⟩

/-- A tenant's four sets at the restart of a chip. -/
def State.restoreTenant (chip : Nat) (s : State) (e : Nat × Tenant) : State := [0, 1, 2, 3].foldl (State.restoreSet chip e.1) s

/-- Every set at the restart of a chip. -/
def State.restoreSets (chip : Nat) (s : State) : State := s.tenants.foldl (State.restoreTenant chip) s

theorem restartChip_eq (s : State) (chip : Nat) : s.restartChip chip =
    ((s.restoreSets chip).updService fun v => { v with springState := mset v.springState chip 2 }).updPower fun p =>
      { p with islands := p.islands.filter fun (e : Nat × Island) => !(e.1 = 1472 + chip && e.2.state = 3) } := rfl

theorem Restarting.restoreTenant {chip : Nat} {s u : State} (h : Restarting chip s u) (e : Nat × Tenant) :
    Restarting chip s (u.restoreTenant chip e) := by
  unfold State.restoreTenant
  exact foldl_keeps (P := Restarting chip s) _ (fun _ p hv => (hv.restoreSet e.1 p).1) _ u h

theorem restarting_restoreSets (chip : Nat) (s : State) : Restarting chip s (s.restoreSets chip) := by
  unfold State.restoreSets
  exact foldl_keeps (P := Restarting chip s) _ (fun _ e hu => hu.restoreTenant e) _ s (.refl chip s)

/-- A tenant with an apply is listed. -/
theorem tenant_of_applying {s : State} {t p : Nat} (h : applying s t p = true) : ∃ v, (t, v) ∈ s.tenants := by
  cases hv : mget s.tenants t with
  | some v => exact ⟨v, mem_of_mget hv⟩
  | none =>
    have hset : setAt s t p = {} := by rw [setAt, tenantAt, hv]; rfl
    rw [applying, hset] at h
    cases h

/-- While a chip restarts, a set's rings are empty. -/
def Emptied (chip t p : Nat) (s u : State) : Prop := Restarting chip s u ∧ ringsEmpty u t p

theorem Emptied.restoreSet {chip t p : Nat} {s u : State} (h : Emptied chip t p s u) (t' p' : Nat) :
    Emptied chip t p s (u.restoreSet chip t' p') := by
  obtain ⟨hrestart, hempty⟩ := h
  obtain ⟨hrestart', -, hkeeps⟩ := hrestart.restoreSet t' p'
  exact ⟨hrestart', hkeeps t p hempty⟩

theorem Emptied.restoreTenant {chip t p : Nat} {s u : State} (h : Emptied chip t p s u) (e : Nat × Tenant) :
    Emptied chip t p s (u.restoreTenant chip e) := by
  unfold State.restoreTenant
  exact foldl_keeps (P := Emptied chip t p s) _ (fun _ p' hv => hv.restoreSet e.1 p') _ u h

/-- A set that is due is restored with its tenant. -/
theorem restoreTenant_empties {chip t p : Nat} {s u : State} (h : Restarting chip s u) (hp : p < 4)
    (hdue : restoredBy s chip t p = true) (v : Tenant) : Emptied chip t p s (u.restoreTenant chip (t, v)) := by
  have hmem : p ∈ [0, 1, 2, 3] := by
    simp only [List.mem_cons, List.not_mem_nil, or_false]
    omega
  unfold State.restoreTenant
  refine foldl_reaches (I := Restarting chip s) (P := Emptied chip t p s) _ (fun _ p' hw => (hw.restoreSet t p').1) (fun w hw => ?_)
    (fun _ p' hw => hw.restoreSet t p') _ u hmem h
  obtain ⟨hrestart, hempties, -⟩ := hw.restoreSet t p
  exact ⟨hrestart, hempties hdue⟩

/-- The applies of the chip are restored (R249). -/
theorem restoreSets_empties {chip : Nat} {s : State} {t p : Nat} (hp : p < 4) (h : restoredBy s chip t p = true) :
    ringsEmpty (s.restoreSets chip) t p := by
  obtain ⟨v, hv⟩ := tenant_of_applying (restoredBy_iff.1 h).1
  have hempty : Emptied chip t p s (s.restoreSets chip) := by
    unfold State.restoreSets
    exact foldl_reaches (I := Restarting chip s) (P := Emptied chip t p s) _ (fun _ e hw => hw.restoreTenant e)
      (fun _ hw => restoreTenant_empties hw hp h v) (fun _ e hw => hw.restoreTenant e) _ s hv (.refl chip s)
  exact hempty.2

/-- Where no apply is on the chip, its restart restores nothing. -/
theorem restoreSets_none {chip : Nat} {s : State} (h : ∀ t p, restoredBy s chip t p = false) : s.restoreSets chip = s := by
  have hset : ∀ t p, s.restoreSet chip t p = s := fun t p => by rw [State.restoreSet, h]; rfl
  have htenant : ∀ e, s.restoreTenant chip e = s := fun e => by
    unfold State.restoreTenant
    exact foldl_keeps (P := (· = s)) _ (fun v p hv => by rw [hv, hset]) _ s rfl
  unfold State.restoreSets
  exact foldl_keeps (P := (· = s)) _ (fun u e hu => by rw [hu, htenant]) _ s rfl

theorem exec_springChipRestart_restarts {s : State} {chip : Nat} (hchip : chip < 4) (hout : 2 ≤ chipState s chip)
    (hfailed : chipState s chip ≠ 4) (hreset : ∀ r ∈ s.service.resets, r.scope ≠ .spring chip) :
    exec (.springChipRestart chip { bad := [], corrected := [] }) s = .next (s.redraw.restartChip chip) := by
  have hnone : (s.service.resets.any fun r => r.scope = .spring chip) = false := by simpa [List.any_eq_false] using hreset
  rw [exec_springChipRestart, execSpringChipRestart, if_neg]
  · rfl
  · simp only [hnone, hfailed, decide_false, Bool.or_false, Bool.or_eq_true, decide_eq_true_eq]
    omega

/-- What a restart leaves of every set, chip and byte (R231, R249). -/
theorem restartChip_spec (s : State) (chip : Nat) {u : State} (hu : u = s.restartChip chip) : chipState u chip = 2 ∧
    (∀ c, c ≠ chip → chipState u c = chipState s c) ∧
    (∀ t p, p < 4 → restoredBy s chip t p = true → ringsEmpty u t p) ∧
    (∀ t p, restoredBy s chip t p = false → (runAt u t p).undo = (runAt s t p).undo) ∧
    ((∀ t p, restoredBy s chip t p = false) → u.mem = s.mem) := by
  have hkept := restarting_restoreSets chip s
  have hstate : u.service.springState = mset s.service.springState chip 2 := by
    rw [hu, restartChip_eq, ← hkept.service]
    rfl
  have hruns : ∀ t p, runAt u t p = runAt (s.restoreSets chip) t p := fun t p => by rw [hu, restartChip_eq]; rfl
  refine ⟨?_, fun c hc => ?_, fun t p hp hdue => ?_, fun t p hnot => ?_, fun hnone => ?_⟩
  · rw [chipState, hstate, mgetD_mset_self]
  · rw [chipState, hstate, mgetD_mset_ne _ _ _ hc, chipState]
  · rw [ringsEmpty, hruns]
    exact restoreSets_empties hp hdue
  · rw [hruns]
    exact (hkept.rings t p).resolve_right (by rw [hnot]; exact Bool.false_ne_true)
  · rw [hu, restartChip_eq, restoreSets_none hnone]
    rfl

end Sys2Proof.Machine
end

section
/-!
PROOF. O29, a dense layer that is applied: its new halves and moments in the bank of the new generation (R224, R228, R230; log 82).
-/

namespace Sys2Proof.Machine

/-! ### The slow tier where no word is bad (R230) -/

theorem slowRead_clean {s : State} (h : s.mem.slowBad = []) (key n : Nat) : slowRead s key n = (readBytes s.mem.slow key n, none) := by
  simp [slowRead, h]

theorem slowWrite_clean {s : State} (h : s.mem.slowBad = []) (key : Nat) (bs : List Byte) :
    (s.slowWrite key bs).mem.slow = writeBytes s.mem.slow key bs ∧ (s.slowWrite key bs).mem.slowBad = [] := by
  unfold State.slowWrite
  rw [h, writeWords_clean]
  exact ⟨rfl, rfl⟩

theorem readBytes_of_bytes {m : SMap Byte} {a : Nat} {bs : List Byte} (h : ∀ i (hi : i < bs.length), mgetD m (a + i) 0 = bs[i]) :
    readBytes m a bs.length = bs := by
  refine List.ext_getElem (by simp [readBytes]) fun i _ hi => ?_
  simpa [readBytes] using h i hi

theorem length_fp16Bytes (vs : List Nat) : (fp16Bytes vs).length = 2 * vs.length := by
  simp [fp16Bytes, List.length_flatMap, length_leBytes, Nat.mul_comm]

theorem length_fp32Bytes (vs : List Nat) : (fp32Bytes vs).length = 4 * vs.length := by
  simp [fp32Bytes, List.length_flatMap, length_leBytes, Nat.mul_comm]

theorem le_align4k (n : Nat) : n ≤ align4k n := by unfold align4k; omega

/-! ### The banks of a dense layer (R224) -/

/-- Bytes of one bank. -/
def bankBytes (d : List Byte) : Nat :=
  align4k (2 * rElems d) + align4k (4 * rElems d) + if rRule d = 1 then align4k (4 * rElems d) else 0

theorem denseBank_eq (d : List Byte) (bank : Nat) : denseBank d bank = (bank * bankBytes d, bank * bankBytes d + align4k (2 * rElems d),
    bank * bankBytes d + align4k (2 * rElems d) + align4k (4 * rElems d)) := rfl

/-- Two generations in a row use the two banks. -/
theorem banks_alternate {h : Nat} (hpos : 0 < h) : (h - 1) % 2 = 0 ∧ h % 2 = 1 ∨ (h - 1) % 2 = 1 ∧ h % 2 = 0 := by omega

/-- What an apply stores on the spring chip: lo halves, momenta and, for U1, second moments. -/
def State.storeDense (s : State) (d : List Byte) (base : Nat) (dst : Nat × Nat × Nat) (los ms vs : List Byte) : State :=
  let s2 := (s.slowWrite (base + dst.1) los).slowWrite (base + dst.2.1) ms
  if rRule d = 1 then s2.slowWrite (base + dst.2.2) vs else s2

section
variable {s : State} {d : List Byte} {base : Nat} {dst : Nat × Nat × Nat} {los ms vs : List Byte} (hclean : s.mem.slowBad = [])
include hclean

theorem storeDense_slow : (s.storeDense d base dst los ms vs).mem.slow =
    if rRule d = 1 then writeBytes (writeBytes (writeBytes s.mem.slow (base + dst.1) los) (base + dst.2.1) ms) (base + dst.2.2) vs
    else writeBytes (writeBytes s.mem.slow (base + dst.1) los) (base + dst.2.1) ms := by
  obtain ⟨hlo, hlobad⟩ := slowWrite_clean hclean (base + dst.1) los
  obtain ⟨hm, hmbad⟩ := slowWrite_clean hlobad (base + dst.2.1) ms
  unfold State.storeDense
  dsimp only
  split
  · rw [(slowWrite_clean hmbad _ _).1, hm, hlo]
  · rw [hm, hlo]

/-- A byte that none of the stored ranges holds is as it was. -/
theorem storeDense_outside {k : Nat} (hlo : k < base + dst.1 ∨ base + dst.1 + los.length ≤ k)
    (hm : k < base + dst.2.1 ∨ base + dst.2.1 + ms.length ≤ k)
    (hv : k < base + dst.2.2 ∨ base + dst.2.2 + vs.length ≤ k ∨ rRule d ≠ 1) :
    slowByte (s.storeDense d base dst los ms vs) k = slowByte s k := by
  rw [slowByte, storeDense_slow hclean, slowByte]
  split
  · rw [mgetD_writeBytes_outside vs _ _ _ (by omega), mgetD_writeBytes_outside ms _ _ _ hm, mgetD_writeBytes_outside los _ _ _ hlo]
  · rw [mgetD_writeBytes_outside ms _ _ _ hm, mgetD_writeBytes_outside los _ _ _ hlo]

/-- The stored halves and momenta read back. -/
theorem storeDense_inside (hlo : dst.1 + los.length ≤ dst.2.1) (hm : dst.2.1 + ms.length ≤ dst.2.2) :
    readBytes (s.storeDense d base dst los ms vs).mem.slow (base + dst.1) los.length = los ∧
    readBytes (s.storeDense d base dst los ms vs).mem.slow (base + dst.2.1) ms.length = ms := by
  rw [storeDense_slow hclean]
  refine ⟨readBytes_of_bytes fun i hi => ?_, readBytes_of_bytes fun i hi => ?_⟩
  · split
    · rw [mgetD_writeBytes_outside vs _ _ _ (by omega), mgetD_writeBytes_outside ms _ _ _ (by omega), mgetD_writeBytes_inside]
    · rw [mgetD_writeBytes_outside ms _ _ _ (by omega), mgetD_writeBytes_inside]
  · split
    · rw [mgetD_writeBytes_outside vs _ _ _ (by omega), mgetD_writeBytes_inside]
    · rw [mgetD_writeBytes_inside]

end

/-! ### The apply (R228, R230) -/

theorem storeDense_tiles (s : State) (d : List Byte) (base : Nat) (dst : Nat × Nat × Nat) (los ms vs : List Byte) :
    (s.storeDense d base dst los ms vs).tiles = s.tiles := by
  unfold State.storeDense
  dsimp only
  split <;> rfl

theorem tenantWrite_countConversions (s : State) (sats nonfinite : Nat) : TenantWrite s (s.countConversions sats nonfinite) :=
  tenantWrite_updGlobals ..

theorem tenantWrite_endDense (s : State) (t p : Nat) (c : Captured) (h dst upTo : Nat) (ps : List Pair) :
    TenantWrite s (s.endDense t p c h dst upTo ps).1 := by
  unfold State.endDense
  extract_lets d w cs x w2
  have hw2 : TenantWrite s w2.1 := by
    have hw : TenantWrite s w.1 := tenantWrite_capWrite ..
    unfold w2
    split
    · exact hw
    · exact (hw.trans (tenantWrite_countConversions ..)).trans (tenantWrite_capWrite ..)
  split
  · exact hw2.trans (tenantWrite_freezeJob ..)
  · exact hw2

theorem endDense_not_fatal (s : State) (t p : Nat) (c : Captured) (h dst upTo : Nat) (ps : List Pair) :
    (s.endDense t p c h dst upTo ps).2 ≠ .fatal := by
  unfold State.endDense
  extract_lets d w cs x w2
  split
  · exact Applied.noConfusion
  · exact Applied.noConfusion

/-- The new momenta, second moments and weights of a dense layer in its bank of generation `h - 1`. -/
def denseNew (s : State) (c : Captured) (h : Nat) : List Nat × List Nat × List Nat :=
  let d := c.block
  let n := rElems d
  let base := slotBase s c.chip c.slot
  let src := denseBank d ((h - 1) % 2)
  let hi := capRead s c.pages (rHi d ((h - 1) % 2)) (2 * n)
  let g := capRead s c.pages (rGrad d + 64) (4 * n)
  let old := ((encodings 2 hi.1).zip (encodings 2 (readBytes s.mem.slow (base + src.1) (2 * n)))).map
    fun e => recombine e.1 e.2 (rScale d)
  denseRule s d h (encodings 4 (readBytes s.mem.slow (base + src.2.1) (4 * n)))
    (if rRule d = 1 then encodings 4 (readBytes s.mem.slow (base + src.2.2) (4 * n)) else [])
    (old.map Conv.bits) (encodings 4 g.1)

/-- The lo halves of a dense layer's new weights. -/
def denseLos (s : State) (c : Captured) (h : Nat) : List Byte :=
  fp16Bytes (((denseNew s c h).2.2.map fun w => (splitPair ((decodeNum fp32 w).scale (-(rScale c.block)))).lo).take (rElems c.block))

/-- Its new momenta. -/
def denseMoms (s : State) (c : Captured) (h : Nat) : List Byte := fp32Bytes ((denseNew s c h).1.take (rElems c.block))

/-- Its new second moments. -/
def denseMoms2 (s : State) (c : Captured) (h : Nat) : List Byte := fp32Bytes ((denseNew s c h).2.1.take (rElems c.block))

/-- A state after it has stored what a dense layer's apply in `s` gives. -/
def State.stored (v s : State) (c : Captured) (h : Nat) : State :=
  v.storeDense c.block (slotBase s c.chip c.slot) (denseBank c.block (h % 2)) (denseLos s c h) (denseMoms s c h) (denseMoms2 s c h)

/-- An apply that can read its layer stores the new halves and moments in the bank of its generation, then ends (R228, R230). -/
theorem applyDense_stores {s : State} {t p h : Nat} {c : Captured} (hmode : (setAt s t p).mode ≠ 2) (hclean : s.mem.slowBad = [])
    (hhi : (capRead s c.pages (rHi c.block ((h - 1) % 2)) (2 * rElems c.block)).2 = none)
    (hgrad : (capRead s c.pages (rGrad c.block + 64) (4 * rElems c.block)).2 = none) :
    ∃ s1 ps, TenantWrite s s1 ∧ applyDense s t p c h (rElems c.block) =
      (s1.stored s c h).endDense t p c h (h % 2) (rElems c.block) ps := by
  unfold applyDense
  extract_lets d n direct src dst base hi g s0
  have hsrc : src = (h - 1) % 2 := by simp [src, direct, hmode]
  have hdst : dst = h % 2 := by simp [dst, direct, hmode]
  have h0 : TenantWrite s s0 := (tenantWrite_capTouch ..).trans (tenantWrite_capTouch ..)
  split
  next lo0 m0 v0 hbank0 =>
  split
  next lo1 m1 v1 hbank1 =>
  rw [hsrc] at hbank0
  rw [hdst] at hbank1
  change denseBank c.block _ = _ at hbank0 hbank1
  extract_lets lo m v old r ps s1 s2 s3
  have hm : [lo.2, m.2, v.2].findSome? id = none := by
    have hv : v.2 = none := by unfold v; split <;> simp [slowRead_clean hclean]
    simp [lo, m, hv, slowRead_clean hclean]
  have hv : encodings 4 v.1 =
      if rRule c.block = 1 then encodings 4 (readBytes s.mem.slow (base + v0) (4 * rElems c.block)) else [] := by
    unfold v
    split
    · rw [slowRead_clean hclean]
    · rfl
  have hnew : r = denseNew s c h := by
    simp only [denseNew, hbank0, r, old, hv, lo, m, slowRead_clean hclean, hi, hsrc]
    rfl
  split
  next a hhi' => rw [show hi.2 = none by rw [← hhi, ← hsrc]] at hhi'; cases hhi'
  next k _ hk => rw [hm] at hk; cases hk
  next a _ _ hg => rw [show g.2 = none from hgrad] at hg; cases hg
  · refine ⟨s1, ps, h0.trans (tenantWrite_countConversions ..), ?_⟩
    have hlos : denseLos s c h = fp16Bytes ((ps.map Pair.lo).take (rElems c.block)) := by
      rw [denseLos, ← hnew, List.map_map]
      rfl
    rw [State.stored, hlos, denseMoms, denseMoms2, ← hnew, hbank1, ← hdst]
    rfl

/-- The stored bytes of an apply's bank, each range no longer than its area. -/
theorem length_dense (s : State) (c : Captured) (h : Nat) : (denseLos s c h).length ≤ align4k (2 * rElems c.block) ∧
    (denseMoms s c h).length ≤ align4k (4 * rElems c.block) ∧ (denseMoms2 s c h).length ≤ 4 * rElems c.block := by
  have hn := le_align4k (2 * rElems c.block)
  have hm := le_align4k (4 * rElems c.block)
  rw [denseLos, denseMoms, denseMoms2, length_fp16Bytes, length_fp32Bytes, length_fp32Bytes, List.length_take, List.length_take,
    List.length_take]
  omega

/-- A byte of the bank of generation `h - 1` that holds its lo halves or momenta is outside the bank of generation `h` (R224). -/
theorem denseBank_disjoint (d : List Byte) {h k : Nat} (hpos : 0 < h) (hk : (denseBank d ((h - 1) % 2)).1 ≤ k)
    (hk' : k < (denseBank d ((h - 1) % 2)).1 + align4k (2 * rElems d) + align4k (4 * rElems d)) :
    k < (denseBank d (h % 2)).1 ∨ (denseBank d (h % 2)).1 + bankBytes d ≤ k := by
  rw [denseBank_eq] at hk hk' ⊢
  dsimp only at hk hk' ⊢
  rcases banks_alternate hpos with ⟨h0, h1⟩ | ⟨h0, h1⟩
  · rw [h0] at hk'
    rw [h1]
    unfold bankBytes
    omega
  · rw [h0] at hk
    rw [h1]
    omega

/-- What a dense layer's apply leaves on the spring chip and of the tiles (R224, R228, R230). -/
theorem applyDense_slow {s : State} {t p h : Nat} {c : Captured} (hmode : (setAt s t p).mode ≠ 2) (hclean : s.mem.slowBad = [])
    (hhi : (capRead s c.pages (rHi c.block ((h - 1) % 2)) (2 * rElems c.block)).2 = none)
    (hgrad : (capRead s c.pages (rGrad c.block + 64) (4 * rElems c.block)).2 = none) :
    ∃ u res, applyDense s t p c h (rElems c.block) = (u, res) ∧ res ≠ .fatal ∧ u.mem.slow = (s.stored s c h).mem.slow ∧
      u.tiles = s.tiles := by
  obtain ⟨s1, ps, hs1, happly⟩ := applyDense_stores hmode hclean hhi hgrad
  have hend := tenantWrite_endDense (s1.stored s c h) t p c h (h % 2) (rElems c.block) ps
  have hres := endDense_not_fatal (s1.stored s c h) t p c h (h % 2) (rElems c.block) ps
  rw [← happly] at hend hres
  refine ⟨_, _, Prod.eta _ |>.symm, hres, ?_, ?_⟩
  · rw [hend.slow, State.stored, State.stored, storeDense_slow hclean, storeDense_slow (hs1.slowBad.trans hclean), hs1.slow]
  · rw [hend.tiles, State.stored, storeDense_tiles, hs1.tiles]

section
variable {s : State} {c : Captured} {h base : Nat} {dst : Nat × Nat × Nat} (hclean : s.mem.slowBad = [])
  (hbase : base = slotBase s c.chip c.slot) (hdst : dst = denseBank c.block (h % 2))
include hclean hbase hdst

/-- The new halves and momenta stand in the bank of the new generation. -/
theorem stored_inside : readBytes (s.stored s c h).mem.slow (base + dst.1) (denseLos s c h).length = denseLos s c h ∧
    readBytes (s.stored s c h).mem.slow (base + dst.2.1) (denseMoms s c h).length = denseMoms s c h := by
  obtain ⟨hlo, hm, -⟩ := length_dense s c h
  rw [State.stored, ← hbase, ← hdst]
  rw [denseBank_eq] at hdst
  refine storeDense_inside hclean ?_ ?_
  · rw [hdst]
    exact Nat.add_le_add_left hlo _
  · rw [hdst]
    exact Nat.add_le_add_left hm _

/-- Outside the three new ranges nothing changes. -/
theorem stored_outside {k : Nat} (hlo : k < base + dst.1 ∨ base + dst.1 + (denseLos s c h).length ≤ k)
    (hm : k < base + dst.2.1 ∨ base + dst.2.1 + (denseMoms s c h).length ≤ k)
    (hv : k < base + dst.2.2 ∨ base + dst.2.2 + 4 * rElems c.block ≤ k ∨ rRule c.block ≠ 1) :
    slowByte (s.stored s c h) k = slowByte s k := by
  obtain ⟨-, -, hvlen⟩ := length_dense s c h
  rw [State.stored, ← hbase, ← hdst]
  exact storeDense_outside hclean hlo hm (by omega)

/-- The bank of the generation before keeps its lo halves and momenta (R224). -/
theorem stored_keeps_other_bank (hpos : 0 < h) {k : Nat} (hk : base + (denseBank c.block ((h - 1) % 2)).1 ≤ k)
    (hk' : k < base + (denseBank c.block ((h - 1) % 2)).1 + align4k (2 * rElems c.block) + align4k (4 * rElems c.block)) :
    slowByte (s.stored s c h) k = slowByte s k := by
  obtain ⟨hlo, hm, -⟩ := length_dense s c h
  have h4n := le_align4k (4 * rElems c.block)
  have hout := denseBank_disjoint c.block (k := k - base) hpos (by omega) (by omega)
  have hmarea : dst.2.1 = dst.1 + align4k (2 * rElems c.block) := by rw [hdst, denseBank_eq]
  have hvarea : dst.2.2 = dst.2.1 + align4k (4 * rElems c.block) := by rw [hdst, denseBank_eq]
  rw [← hdst, bankBytes] at hout
  by_cases hrule : rRule c.block = 1
  · rw [if_pos hrule] at hout
    exact stored_outside hclean hbase hdst (by omega) (by omega) (by omega)
  · exact stored_outside hclean hbase hdst (by omega) (by omega) (.inr (.inr hrule))

end

/-- Settles O29, clause by clause: an apply happens whole at its end, as log 82 chooses. -/
theorem appliesWriteTheNextBank : Obligations.AppliesWriteTheNextBank := by
  unfold Obligations.AppliesWriteTheNextBank
  refine ⟨⟨?_, ?_, ?_, ?_⟩, ?_⟩
  · intro s s1 t p n d ecc hs hpin hpast hplace off hbad hwaits
    exact ⟨_, exec_pinRetry_tries hs hpin hpast, pinRetry_takes hpin hplace rfl hbad hwaits⟩
  · intro s s1 t p n ecc hs happly hpin hchips hpast hmode hwaits r
    obtain ⟨hsame, -⟩ := (keepsStanding_applyAll s1 t p ((setAt s1 t p).generation + 1)).sets t p
    have hkept : (setAt r.1 t p).mode = 1 := hsame.trans hmode
    obtain ⟨happlied, hmem, hround⟩ := contributeApply_spec hkept (decide (r.2.1 = .ok) && !jobTroubled r.1 t p) r.2.2
      (decide (r.2.1 = .fatal)) rfl
    exact ⟨_, exec_applyComplete_applies hs happly hpin hchips hpast hmode hwaits rfl, happlied, hkept, hmem, hround⟩
  · intro s s1 t p n hs hover
    refine ⟨fun hstate hnew => ⟨_, watchdog_forces hs hover hstate hnew rfl, ?_, ?_⟩, watchdog_failsApply hs hover,
      watchdog_noted hs hover, watchdog_idle hs hover⟩
    · rw [State.forceBy, setAt_updSet_self, hs]
      rfl
    · rw [hs]
      rfl
  · intro s chip hchip hout hfailed hreset
    obtain ⟨hstate, hothers, hempty, hkept, hmem⟩ := restartChip_spec s.redraw chip rfl
    refine ⟨_, exec_springChipRestart_restarts hchip hout hfailed hreset, hstate, hothers,
      fun t p hp happly hon => hempty t p hp (restoredBy_iff.2 ⟨happly, hon⟩), fun t p hnot => hkept t p ?_,
      fun hnone => hmem fun t p => ?_⟩
    · rw [Bool.eq_false_iff, Ne, restoredBy_iff]
      rintro ⟨happly, hon⟩
      rcases hnot with hnot | hnot
      · exact Bool.false_ne_true (hnot.symm.trans happly)
      · exact hnot hon
    · rw [Bool.eq_false_iff, Ne, restoredBy_iff]
      rintro ⟨happly, hon⟩
      exact hnone t p happly hon
  · intro s t p h c hmode hpos hclean d n base src dst hi g old new los ms hhi hgrad
    obtain ⟨u, res, happly, hres, hslow, htiles⟩ := applyDense_slow (t := t) (p := p) hmode hclean hhi hgrad
    obtain ⟨hlos, hms⟩ := stored_inside (c := c) (h := h) hclean rfl rfl
    have hbyte : ∀ k, slowByte u k = slowByte (s.stored s c h) k := fun k => by rw [slowByte, hslow, slowByte]
    refine ⟨u, res, happly, hres, ?_, ?_, fun k hlo hm hv => ?_, fun k hk hk' => ?_, htiles⟩
    · rw [hslow]
      exact hlos
    · rw [hslow]
      exact hms
    · rw [hbyte]
      exact stored_outside hclean rfl rfl hlo hm hv
    · rw [hbyte]
      exact stored_keeps_other_bank hclean rfl rfl hpos hk hk'

end Sys2Proof.Machine
end

section
/-!
PROOF. O27, an attempt that opens: pacing, the set's new attempt, and what the module's own work on its attempt block leaves (R235,
R236, R237, R429; log 81).
-/

namespace Sys2Proof.Machine

/-! ### The module's work on the attempt block of a set that opens (R235, R236, R429) -/

/-- Of the sets one alone has changed, and of that one no more than its part mask and whether its job froze; no running part, no
tile and nothing of the module's own state has. -/
structure BlockWork (t p : Nat) (s u : State) : Prop where
  own : ∃ froze mask, setAt u t p = { setAt s t p with jobFroze := froze, partMask := mask }
  others : ∀ t' p', (t', p') ≠ (t, p) → setAt u t' p' = setAt s t' p'
  runs : ∀ t' p', runAt u t' p' = runAt s t' p'
  globals : u.globals = s.globals
  tiles : u.tiles = s.tiles

theorem BlockWork.trans {t p : Nat} {s u w : State} (h : BlockWork t p s u) (h' : BlockWork t p u w) : BlockWork t p s w := by
  refine ⟨?_, fun t' p' hne => (h'.others t' p' hne).trans (h.others t' p' hne), fun t' p' => (h'.runs t' p').trans (h.runs t' p'),
    h'.globals.trans h.globals, h'.tiles.trans h.tiles⟩
  obtain ⟨b, m, hu⟩ := h.own
  obtain ⟨b', m', hw⟩ := h'.own
  exact ⟨b', m', by rw [hw, hu]⟩

theorem BlockWork.of_eq {t p : Nat} {s u : State} (ht : u.tenants = s.tenants) (hg : u.globals = s.globals) (hl : u.tiles = s.tiles) :
    BlockWork t p s u := by
  have hset : ∀ t' p', setAt u t' p' = setAt s t' p' := fun t' p' => by rw [setAt, tenantAt, ht, setAt, tenantAt]
  have hrun : ∀ t' p', runAt u t' p' = runAt s t' p' := fun t' p' => by rw [runAt, tenantAt, ht, runAt, tenantAt]
  exact ⟨⟨_, _, hset t p⟩, fun t' p' _ => hset t' p', hrun, hg, hl⟩

section
variable (t p : Nat) (s : State)

theorem BlockWork.refl : BlockWork t p s s := .of_eq rfl rfl rfl

theorem blockWork_updSet {f : SetState → SetState}
    (hf : ∀ x, ∃ froze mask, f x = { x with jobFroze := froze, partMask := mask }) : BlockWork t p s (s.updSet t p f) := by
  refine ⟨by rw [setAt_updSet_self]; exact hf _, fun t' p' hne => ?_, fun _ _ => runAt_updSet .., rfl, rfl⟩
  rw [setAt_updSet, if_neg fun h => hne (Prod.ext h.1 h.2)]

theorem blockWork_freezeJob (cause address : Nat) (layer : Option (Nat × List Byte)) :
    BlockWork t p s (s.freezeJob t p cause address layer) := by
  unfold State.freezeJob
  split
  · exact .refl ..
  · exact (blockWork_updSet t p s (f := fun x => { x with jobFroze := true }) fun x => ⟨true, x.partMask, rfl⟩).trans
      ⟨⟨_, _, setAt_freeze ..⟩, fun _ _ _ => setAt_freeze .., fun _ _ => runAt_freeze .., rfl, rfl⟩

theorem blockWork_fastUncorrectable (d : Nat) : BlockWork t p s (s.fastUncorrectable d) := by
  obtain ⟨q, g, log, h⟩ := (reported_fastUncorrectable s d).frame
  rw [h]
  exact .of_eq rfl rfl rfl

theorem blockWork_noteWalk (w : Walk) : BlockWork t p s (s.noteWalk w) := by
  have hcount : BlockWork t p s (s.updMem fun m => { m with malformed := satAdd 32 m.malformed w.malformed }) := .of_eq rfl rfl rfl
  unfold State.noteWalk
  dsimp only
  split
  · exact hcount.trans (blockWork_fastUncorrectable ..)
  · exact hcount

theorem blockWork_attWrite (off n v : Nat) : BlockWork t p s (s.attWrite t p off n v) := by
  unfold State.attWrite
  split
  next d _ =>
    obtain ⟨b, hb⟩ := touchBias_spec s (d + off) n
    obtain ⟨fast, bad, hw, -⟩ := writeDpa_spec (s.touchBias (d + off) n) (d + off) (leBytes n v)
    rw [hw, hb]
    exact .of_eq rfl rfl rfl
  · exact (blockWork_noteWalk ..).trans (blockWork_freezeJob ..)
  · exact .refl ..

end

/-! ### The opening (R236) -/

/-- The set as its new attempt begins, before the module turns to the attempt block (R236). -/
def State.beginAttempt (s : State) (t p : Nat) : State :=
  ((s.updGlobals fun g => { g with openQueue := g.openQueue.filter (· ≠ (t, p)), lastOpen := some g.springNow }).updSet t p fun y =>
    { y with state := 1, attempts := (y.attempts + 1) % 2 ^ 64, arrivals := 0, contributed := false, forced := 0,
             resetSeen := false, jobFroze := false }).updRun t p fun r =>
    { r with openedAt := s.globals.springNow, everOpened := true, captured := [], reduction := none, writing := false,
             applied := false, voteSucceeded := false, restoreFailed := false, changedRows := [], undo := [],
             forcedEarly := false, expired := false, releasedTo := none }

/-- To open an attempt is to begin it and then to work on its block alone (R235, R236). -/
theorem openAttempt_blockWork (s : State) (t p : Nat) : BlockWork t p (s.beginAttempt t p) (s.openAttempt t p) := by
  unfold State.openAttempt
  extract_lets x s1 s2 s3 s4 mask s5
  have h4 : BlockWork t p s3 s4 := by
    unfold s4
    split
    · split
      · exact (blockWork_fastUncorrectable ..).trans (blockWork_freezeJob ..)
      · exact .refl ..
    · exact .refl ..
  have h5 : BlockWork t p s4 s5 := blockWork_updSet t p s4 fun y => ⟨y.jobFroze, BitVec.ofNat 256 mask, rfl⟩
  exact (((h4.trans h5).trans (blockWork_attWrite ..)).trans (blockWork_attWrite ..)).trans (blockWork_attWrite ..)

theorem setAt_beginAttempt (s : State) (t p t' p' : Nat) : setAt (s.beginAttempt t p) t' p' =
    if t' = t ∧ p' = p then { setAt s t p with
      state := 1, attempts := ((setAt s t p).attempts + 1) % 2 ^ 64, arrivals := 0, contributed := false, forced := 0,
      resetSeen := false, jobFroze := false } else setAt s t' p' :=
  (setAt_updRun ..).trans (setAt_updSet ..)

theorem runAt_beginAttempt (s : State) (t p : Nat) : (runAt (s.beginAttempt t p) t p).openedAt = s.globals.springNow := by
  rw [State.beginAttempt, runAt_updRun_self]

/-- A set that opens collects for its next attempt; no other set changes, and it asks for no open any more (R236). -/
theorem openAttempt_spec (s : State) (t p : Nat) {u : State} (hu : u = s.openAttempt t p) :
    ((setAt u t p).state = 1 ∧ (setAt u t p).attempts = ((setAt s t p).attempts + 1) % 2 ^ 64 ∧ (setAt u t p).arrivals = 0 ∧
      (setAt u t p).contributed = false ∧ (setAt u t p).forced = 0 ∧ (setAt u t p).generation = (setAt s t p).generation) ∧
    (runAt u t p).openedAt = s.globals.springNow ∧ u.globals.lastOpen = some s.globals.springNow ∧
    u.globals.openQueue = s.globals.openQueue.filter (· ≠ (t, p)) ∧
    (∀ t' p', (t', p') ≠ (t, p) → setAt u t' p' = setAt s t' p') ∧ u.tiles = s.tiles := by
  obtain ⟨⟨froze, mask, hown⟩, hothers, hruns, hglobals, htiles⟩ := openAttempt_blockWork s t p
  rw [setAt_beginAttempt, if_pos ⟨rfl, rfl⟩] at hown
  rw [← hu] at hown hothers hruns hglobals htiles
  refine ⟨?_, ?_, by rw [hglobals]; rfl, by rw [hglobals]; rfl, fun t' p' hne => ?_, htiles⟩
  · rw [hown]
    exact ⟨rfl, rfl, rfl, rfl, rfl, rfl⟩
  · rw [hruns, runAt_beginAttempt]
  · rw [hothers t' p' hne, setAt_beginAttempt, if_neg fun h => hne (Prod.ext h.1 h.2)]

/-- What pacing asks of a set that may open: 140,000 cycles since its own opening, 17,500 since any (R237). -/
theorem mayOpen_paced {s : State} {t p : Nat} (h : mayOpen s t p = true) :
    (∀ k, s.globals.lastOpen = some k → k + 17500 ≤ s.globals.springNow) ∧
    ((runAt s t p).everOpened = true → (runAt s t p).openedAt + 140000 ≤ s.globals.springNow) := by
  unfold mayOpen at h
  simp only [Bool.and_eq_true] at h
  obtain ⟨⟨⟨⟨-, ⟨hown, -⟩, -⟩, hany⟩, -⟩, -⟩ := h
  refine ⟨fun k hk => ?_, fun hever => ?_⟩
  · rw [hk] at hany
    exact of_decide_eq_true hany
  · rw [ownLimit, if_pos hever] at hown
    exact of_decide_eq_true hown

theorem exec_attemptOpen_opens {s s1 : State} {t p n : Nat} (hs : s1 = (s.springTick n).redraw) (hmay : mayOpen s1 t p = true)
    (hserv : inService s1 = true) (hwaits : ownWaits s1 t (setAt s1 t p).attBlock 128 = false) :
    exec (.attemptOpen t p n) s = .next (s1.openAttempt t p) := by
  subst hs
  show execAttemptOpen t p n s = _
  unfold execAttemptOpen
  dsimp only
  rw [hmay, hserv, hwaits]
  rfl

end Sys2Proof.Machine
end

section
/-!
SUPPORT. Eight aligned bytes of the fast tier read back as they were written (R157, R158, R185), and a bit of a number stands in the
byte that holds it (R4, R5).
-/

namespace Sys2Proof.Machine

/-! ### A bit of a number (R4, R5) -/

theorem testBit_leNat (bs : List Byte) (k : Nat) : (leNat bs).testBit k = (bs.getD (k / 8) 0).getLsbD (k % 8) := by
  induction bs generalizing k with
  | nil => simp [leNat]
  | cons b rest ih =>
    have hsplit : leNat (b :: rest) = 2 ^ 8 * leNat rest + b.toNat := Nat.add_comm ..
    rw [hsplit, Nat.testBit_two_pow_mul_add _ b.isLt]
    split
    next h => simp [Nat.div_eq_of_lt h, Nat.mod_eq_of_lt h, BitVec.getLsbD]
    next h =>
      have hdiv : k / 8 = (k - 8) / 8 + 1 := by omega
      have hmod : k % 8 = (k - 8) % 8 := by omega
      rw [ih, hdiv, hmod, List.getD_cons_succ]

/-- A byte of a range is the byte at its address. -/
theorem dpaBytes_getD {s : State} {a n i : Nat} (h : i < n) : (dpaBytes s a n).getD i 0 = (backedKey s (a + i)).elim 0 (fastByte s) := by
  simp only [dpaBytes, List.getD_eq_getElem?_getD, List.getElem?_map, List.getElem?_range h, Option.map_some, Option.getD_some]
  cases backedKey s (a + i) <;> rfl

/-- A bit of a field of an attempt block is that bit of the word of 8 bytes that holds it (R5, R235). -/
theorem testBit_dpaBytes_word {s : State} {a k n : Nat} (h : k < 8 * n) (hn : n % 8 = 0) :
    (leNat (dpaBytes s a n)).testBit k = (leNat (dpaBytes s (a + 8 * (k / 64)) 8)).testBit (k % 64) := by
  have hbyte : a + 8 * (k / 64) + k % 64 / 8 = a + k / 8 := by omega
  have hbit : k % 64 % 8 = k % 8 := by omega
  rw [testBit_leNat, testBit_leNat, dpaBytes_getD (by omega), dpaBytes_getD (by omega), hbyte, hbit]

/-! ### The bytes of a word (R158, R184) -/

theorem interleavedKey_word {w i : Nat} (hi : i < 16) : interleavedKey (16 * w + i) = interleavedKey (16 * w) + i := by
  have hline : (16 * w + i) / 4096 = 16 * w / 4096 := by omega
  have hlow : (16 * w + i) % 4096 = 16 * w % 4096 + i := by omega
  simp only [interleavedKey, hline, hlow]
  omega

theorem inInterleaved_word (m : MemState) {w i : Nat} (hi : i < 16) : inInterleaved m (16 * w + i) = inInterleaved m (16 * w) := by
  have hview : 16 * w + i < gib * (20 * m.span) ↔ 16 * w < gib * (20 * m.span) := by simp only [gib]; omega
  simp only [inInterleaved, hview]

theorem stackView_word (m : MemState) {w i : Nat} (hi : i < 16) :
    stackView m (16 * w + i) = (stackView m (16 * w)).map fun e => (e.1, e.2 + i) := by
  have hstack : (16 * w + i) / 2 ^ 36 = 16 * w / 2 ^ 36 := by omega
  have hoffset : (16 * w + i) % 2 ^ 36 = 16 * w % 2 ^ 36 + i := by omega
  have hbase : 16 * w + i < 0x040000000000 ↔ 16 * w < 0x040000000000 := by omega
  have hspan : gib * m.span ≤ 16 * w % 2 ^ 36 + i ↔ gib * m.span ≤ 16 * w % 2 ^ 36 := by simp only [gib]; omega
  have hend : 16 * w % 2 ^ 36 + i < 56 * gib ↔ 16 * w % 2 ^ 36 < 56 * gib := by simp only [gib]; omega
  simp only [stackView, hstack, hoffset, hbase, hspan, hend]
  split
  · rfl
  · split <;> rfl

theorem fastKey_word (m : MemState) {w i : Nat} (hi : i < 16) : fastKey m (16 * w + i) = (fastKey m (16 * w)).map (· + i) := by
  unfold fastKey
  rw [inInterleaved_word m hi, interleavedKey_word hi, stackView_word m hi]
  split
  · rfl
  · cases stackView m (16 * w) <;> simp [Nat.add_assoc]

theorem fastKey_aligned {m : MemState} {w k : Nat} (h : fastKey m (16 * w) = some k) : k % 16 = 0 := by
  unfold fastKey at h
  split at h
  · obtain rfl := Option.some.inj h
    simp only [interleavedKey]
    omega
  · obtain ⟨⟨st, o⟩, hview, rfl⟩ := Option.map_eq_some_iff.1 h
    unfold stackView at hview
    obtain ⟨-, hview⟩ := Option.ite_none_left_eq_some.1 hview
    obtain ⟨-, hview⟩ := Option.ite_none_right_eq_some.1 hview
    obtain ⟨-, rfl⟩ := Prod.mk.inj (Option.some.inj hview)
    show (2 ^ 36 * st + 16 * w % 2 ^ 36) % 16 = 0
    omega

/-- The bytes of a word are backed together, under consecutive keys (R158, R184). -/
theorem backedKey_word {s : State} {w i k : Nat} (hi : i < 16) (h : backedKey s (16 * w) = some k) :
    k % 16 = 0 ∧ backedKey s (16 * w + i) = some (k + i) := by
  unfold backedKey at h ⊢
  rw [fastKey_word s.mem hi]
  cases hk : fastKey s.mem (16 * w) with
  | none => simp [hk] at h
  | some j =>
    have haligned := fastKey_aligned hk
    rw [hk] at h
    obtain ⟨hbacked, hj⟩ := Option.ite_none_right_eq_some.1 h
    obtain rfl := Option.some.inj hj
    have hword : 16 * ((j + i) / 16) = j := by omega
    refine ⟨haligned, ?_⟩
    rw [Option.map_some]
    dsimp only
    rw [← keyBacked_word, hword, if_pos hbacked]

/-! ### Eight bytes written (R185) -/

/-- Eight aligned bytes lie in one good word: they are one piece, and its mark is clear. -/
theorem dpaBad_eight {s : State} {a : Nat} (ha : a % 8 = 0) (h : dpaBad s a 8 = false) :
    ∃ k, k % 8 = 0 ∧ (∀ i, i < 8 → backedKey s (a + i) = some (k + i)) ∧ readBad s.mem.fastBad k 8 = false := by
  have hwords : ∀ x, x % 8 = 0 → wordsOf x 8 = [x / 16] := fun x hx => by
    have hone : (x + 8 - 1) / 16 - x / 16 + 1 = 1 := by omega
    rw [wordsOf, if_neg (by decide), hone]
    rfl
  rw [dpaBad, hwords a ha, List.any_cons, List.any_nil, Bool.or_false] at h
  cases hk : backedKey s (16 * (a / 16)) with
  | none => rw [hk] at h; cases h
  | some k =>
    rw [hk] at h
    obtain ⟨haligned, -⟩ := backedKey_word (i := 0) (by decide) hk
    have hword : (k + a % 16) / 16 = k / 16 := by omega
    refine ⟨k + a % 16, by omega, fun i hi => ?_, ?_⟩
    · obtain ⟨-, hbyte⟩ := backedKey_word (i := a % 16 + i) (by omega) hk
      rw [show 16 * (a / 16) + (a % 16 + i) = a + i by omega] at hbyte
      rw [hbyte, Nat.add_assoc]
    · rw [readBad, hwords _ (by omega), hword, List.any_cons, List.any_nil, Bool.or_false]
      exact h

/-- Eight aligned bytes in a good word read back as they were written (R185). -/
theorem dpaBytes_writeDpa_eight {s : State} {a : Nat} {bs : List Byte} (ha : a % 8 = 0) (hbs : bs.length = 8)
    (h : dpaBad s a 8 = false) : dpaBytes (s.writeDpa a bs).1 a 8 = bs := by
  obtain ⟨k, -, hkey, hgood⟩ := dpaBad_eight ha h
  have hpieces : piecesOf (bs.length + 1) a bs = [(a, bs)] := by
    have hfits : bs.length ≤ 16 - a % 16 := by omega
    have hne : bs ≠ [] := fun hnil => by rw [hnil] at hbs; cases hbs
    rw [piecesOf, if_neg (by simp [hne])]
    dsimp only
    rw [List.drop_of_length_le hfits, List.take_of_length_le hfits, hbs]
    rfl
  have hwrite : (s.writeDpa a bs).1.mem.fast = writeBytes s.mem.fast k bs := by
    have hfirst : backedKey s a = some k := hkey 0 (by decide)
    unfold State.writeDpa
    rw [hpieces, List.foldl_cons, List.foldl_nil]
    dsimp only
    rw [hfirst]
    exact writeWords_of_good (by rwa [hbs]) s.mem.fast
  have hbacking : SameBacking s (s.writeDpa a bs).1 := by
    obtain ⟨fast, bad, hw, -⟩ := writeDpa_spec s a bs
    rw [hw]
    exact ⟨rfl, rfl, rfl⟩
  refine List.ext_getElem (by rw [dpaBytes, List.length_map, List.length_range, hbs]) fun i hi hi' => ?_
  have hbyte := mgetD_writeBytes_inside bs s.mem.fast k i hi'
  simp only [dpaBytes, List.getElem_map, List.getElem_range, hbacking.backedKey, hkey i (by omega), hwrite]
  exact hbyte

end Sys2Proof.Machine
end

section
/-!
SUPPORT. A write that touches an attempt block is reported to its set and to every other set whose block it touches (R235): what the
others' reports leave of a set, and what its own is given.
-/

namespace Sys2Proof.Machine

/-! ### What a set keeps while other sets hear of a write -/

/-- A set is as it was, its job as frozen as it was, and no open that was asked for is asked for no more. -/
structure KeepsSet (t p : Nat) (s u : State) : Prop where
  set : setAt u t p = setAt s t p
  run : runAt u t p = runAt s t p
  frozen : jobFrozen u t p = jobFrozen s t p
  root : (tenantAt u t).ptRoot = (tenantAt s t).ptRoot
  opens : ∀ e ∈ s.globals.openQueue, e ∈ u.globals.openQueue

theorem KeepsSet.refl (t p : Nat) (s : State) : KeepsSet t p s s := ⟨rfl, rfl, rfl, rfl, fun _ h => h⟩

theorem KeepsSet.trans {t p : Nat} {s u w : State} (h : KeepsSet t p s u) (h' : KeepsSet t p u w) : KeepsSet t p s w :=
  ⟨h'.set.trans h.set, h'.run.trans h.run, h'.frozen.trans h.frozen, h'.root.trans h.root, fun e he => h'.opens e (h.opens e he)⟩

theorem KeepsSet.ite {t p : Nat} {s u w : State} {c : Prop} [Decidable c] (h : KeepsSet t p s u) (h' : KeepsSet t p s w) :
    KeepsSet t p s (if c then u else w) := by
  split
  · exact h
  · exact h'

theorem jobMaster_inj {p q : Nat} (hp : p < 4) (hq : q < 4) (h : jobMaster p = jobMaster q) : p = q := by
  have hnat := congrArg BitVec.toNat h
  simp only [jobMaster, BitVec.toNat_ofNat, fieldAt] at hnat
  omega

section
variable (s : State) (t : Nat) {p q : Nat} (hne : q ≠ p)
include hne

theorem keepsSet_updSet (f : SetState → SetState) : KeepsSet t p s (s.updSet t q f) := by
  refine ⟨?_, runAt_updSet .., isFrozen_updSet .., ?_, fun _ h => h⟩
  · rw [setAt_updSet, if_neg fun h => hne h.2.symm]
  · rw [State.updSet, tenantAt_updTenant_self]

theorem keepsSet_updRun (f : SetRun → SetRun) : KeepsSet t p s (s.updRun t q f) := by
  refine ⟨setAt_updRun .., ?_, isFrozen_updRun .., ?_, fun _ h => h⟩
  · rw [runAt_updRun, if_neg fun h => hne h.2.symm]
  · rw [State.updRun, tenantAt_updTenant_self]

theorem keepsSet_wantOpen : KeepsSet t p s (s.wantOpen t q) := by
  have hasked : KeepsSet t p s (s.updGlobals fun g => { g with openQueue := g.openQueue ++ [(t, q)] }) :=
    ⟨rfl, rfl, rfl, rfl, fun _ h => List.mem_append_left _ h⟩
  exact .ite (.refl ..) (hasked.trans (keepsSet_updRun _ t hne _))

variable (hp : p < 4) (hq : q < 4)
include hp hq

theorem keepsSet_freezeJob (cause address : Nat) (layer : Option (Nat × List Byte)) :
    KeepsSet t p s (s.freezeJob t q cause address layer) := by
  refine .ite (.refl ..) ((keepsSet_updSet s t hne _).trans ⟨setAt_freeze .., runAt_freeze .., ?_, ?_, fun _ h => h⟩)
  · rw [jobFrozen, Bool.eq_iff_iff, isFrozen_freeze_iff]
    exact ⟨fun h => h.resolve_right fun hm => hne (jobMaster_inj hq hp hm), .inl⟩
  · rw [tenantAt_freeze]

/-- The report of a write to another set's block (R235). -/
theorem keepsSet_noticeBlock (d a n : Nat) : KeepsSet t p s (noticeBlock s t q d a n) := by
  unfold noticeBlock
  extract_lets field s1 s2
  have h1 : KeepsSet t p s s1 :=
    .ite ((keepsSet_updSet s t hne _).trans (.ite (keepsSet_freezeJob _ t hne hp hq ..) (.refl ..))) (.refl ..)
  have h2 : KeepsSet t p s1 s2 := .ite (.ite (keepsSet_updSet s1 t hne _) (.refl ..)) (.refl ..)
  exact (h1.trans h2).trans (.ite (.ite (keepsSet_wantOpen s2 t hne) (.refl ..)) (.refl ..))

end

/-! ### Where a block lies (R152 to R155, R429) -/

theorem dpaResetting_calm (s : State) (d : Nat) : dpaResetting (calm s) d = false := by
  unfold dpaResetting
  split <;> rfl

theorem dpaRetraining_calm (s : State) (d : Nat) : dpaRetraining (calm s) d = false := by
  unfold dpaRetraining
  split <;> rfl

theorem backedKey_calm (s : State) (d : Nat) : backedKey (calm s) d = backedKey s d := rfl

theorem dpaBad_calm (s : State) (a n : Nat) : dpaBad (calm s) a n = dpaBad s a n := by
  unfold dpaBad
  simp only [backedKey_calm]
  rfl

theorem tableEntry_calm (s : State) (d : Nat) : tableEntry (calm s) d = tableEntry s d := by
  unfold tableEntry dpaBytes
  simp only [backedKey_calm]
  rfl

theorem entryMalformed_calm (s : State) (level e : Nat) : entryMalformed (calm s) level e = entryMalformed s level e := rfl

/-- A walk that waits for nothing goes as it does once every reset and every training is over (R187, R381). -/
theorem walkFrom_calm {s : State} {va levels d level : Nat} (h : (walkFrom s va d level levels).waits = false) :
    walkFrom (calm s) va d level levels = walkFrom s va d level levels := by
  induction levels generalizing d level with
  | zero => rfl
  | succ k ih =>
    unfold walkFrom at h ⊢
    dsimp only at h ⊢
    rw [dpaResetting_calm, dpaRetraining_calm, dpaBad_calm, tableEntry_calm, entryMalformed_calm, if_neg (by decide)]
    split at h
    · cases h
    next hready =>
    rw [if_neg hready]
    refine ite_congr rfl (fun _ => rfl) fun hread => ?_
    rw [if_neg hread] at h
    refine ite_congr rfl (fun _ => rfl) fun hvalid => ?_
    rw [if_neg hvalid] at h
    refine ite_congr rfl (fun _ => rfl) fun hformed => ?_
    rw [if_neg hformed] at h
    refine ite_congr rfl (fun _ => rfl) fun htable => ?_
    rw [if_neg htable] at h
    exact ih h

theorem pageEntry_calm (s : State) (p : Nat) : pageEntry (calm s) p = pageEntry s p := by
  have hout : (calm s).service.stacksOut = s.service.stacksOut := rfl
  have howner : (calm s).mem.pageOwner = s.mem.pageOwner := rfl
  have hbacked : pageBacked (calm s) p = pageBacked s p := by
    rw [pageBacked, backedKey_calm, backedKey_calm, hout, pageBacked]
  rw [pageEntry, hbacked, howner, pageEntry]

theorem targetAllowed_calm (s : State) (t d : Nat) : targetAllowed (calm s) t d = targetAllowed s t d := by
  have hpage : pageOf (calm s).mem d = pageOf s.mem d := rfl
  have htables : inPtArea (calm s).mem d = inPtArea s.mem d := rfl
  have hqueues : inQueueArea (calm s) d = inQueueArea s d := rfl
  simp only [targetAllowed, ownsPage, hpage, htables, hqueues, pageEntry_calm]

theorem checkLeaf_calm (s : State) (t va leaf : Nat) (giant : Bool) (need : Need) :
    checkLeaf (calm s) t va leaf giant need = checkLeaf s t va leaf giant need := by
  have hslot : (calm s).service.boardSlot = s.service.boardSlot := rfl
  simp only [checkLeaf, hslot, targetAllowed_calm]
/-- A block that is reached now is reached where every reset and every training is over (R429). -/
theorem ownPlace_of_ownBlock {s : State} {t va d : Nat} {need : Need} (h : ownBlock s t va need = .ok d) :
    ownPlace s t va need = .ok d := by
  have hready : (walk s t va).waits = false := by
    by_contra hwaits
    rw [ownBlock, translateNow, if_pos (by simpa using hwaits)] at h
    cases h
  have hroot : tenantAt (calm s) t = tenantAt s t := rfl
  have hwalk : walk (calm s) t va = walk s t va := by
    unfold walk at hready ⊢
    rw [hroot]
    dsimp only at hready ⊢
    refine ite_congr rfl (fun _ => rfl) fun hmapped => ?_
    rw [if_neg hmapped] at hready
    exact walkFrom_calm hready
  have hnow : translateNow (calm s) t va need = translateNow s t va need := by
    simp only [translateNow, hwalk, checkLeaf_calm]
  rw [ownPlace, ownBlock, hnow]
  exact h

section
variable {s u : State} (hm : u.mem = s.mem) (hs : u.service = s.service) (hh : u.host.queueArea = s.host.queueArea) {t : Nat}
  (hroot : (tenantAt u t).ptRoot = (tenantAt s t).ptRoot)
include hm hs hh hroot

/-- Where a block of a tenant lies depends on the memory and on the root of the tenant's tables alone (R152, R155). -/
theorem ownPlace_congr (va : Nat) (need : Need) : ownPlace u t va need = ownPlace s t va need := by
  have hmem : (calm u).mem = (calm s).mem := by rw [calm, calm, hm]
  have hserv : (calm u).service = (calm s).service := by rw [calm, calm, hs]
  have hroot' : (tenantAt (calm u) t).ptRoot = (tenantAt (calm s) t).ptRoot := hroot
  have hwalk : walk (calm u) t va = walk (calm s) t va := by
    unfold walk
    simp only [hroot', walkFrom_congr hmem hserv]
  have hlocal : ∀ b, isLocal (calm u) b = isLocal (calm s) b := fun b => by rw [isLocal, hserv, isLocal]
  have hnow : translateNow (calm u) t va need = translateNow (calm s) t va need := by
    simp only [translateNow, hwalk, checkLeaf, targetAllowed_congr hmem hserv hh, hserv]
  simp only [ownPlace, ownBlock, hnow, hlocal]

end

/-! ### The report to each set (R235) -/

/-- One set hears of a write (R235). -/
def State.noticeSet (s : State) (t a n p : Nat) : State :=
  if (setAt s t p).attBlock = 0 then s
  else
    match ownPlace s t (setAt s t p).attBlock .r with
    | .ok d => if overlaps d 128 a n then noticeBlock s t p d a n else s
    | _ => s

theorem noticeWrite_eq (s : State) (t a n : Nat) :
    s.noticeWrite t a n = [0, 1, 2, 3].foldl (fun s p => s.noticeSet t a n p) s := rfl

theorem notices_noticeSet (s : State) (t a n p : Nat) : Notices s (s.noticeSet t a n p) := by
  refine .ite (.refl s) ?_
  split
  · exact .ite (notices_noticeBlock ..) (.refl s)
  · exact .refl s

/-- What a set keeps while others hear of a write, with the memory and the host as they were. -/
structure OthersHear (t p : Nat) (s u : State) : Prop extends KeepsSet t p s u where
  notices : Notices s u

theorem OthersHear.refl (t p : Nat) (s : State) : OthersHear t p s s := ⟨.refl t p s, .refl s⟩

theorem OthersHear.noticeSet {t p q : Nat} {s u : State} (h : OthersHear t p s u) (hne : q ≠ p) (hp : p < 4) (hq : q < 4) (a n : Nat) :
    OthersHear t p s (u.noticeSet t a n q) := by
  refine ⟨h.toKeepsSet.trans (.ite (.refl ..) ?_), h.notices.trans (notices_noticeSet ..)⟩
  split
  · exact .ite (keepsSet_noticeBlock u t hne hp hq ..) (.refl ..)
  · exact .refl ..

theorem OthersHear.foldl {t p : Nat} {s u : State} (h : OthersHear t p s u) (hp : p < 4) (a n : Nat) {qs : List Nat}
    (hqs : ∀ q ∈ qs, q ≠ p ∧ q < 4) : OthersHear t p s (qs.foldl (fun s q => s.noticeSet t a n q) u) :=
  List.foldlRecOn qs _ h fun _ hu q hq => hu.noticeSet (hqs q hq).1 hp (hqs q hq).2 a n

/-- A set whose block a write touches hears of it once, and keeps what it then has (R235). -/
theorem noticeWrite_hears {s : State} {t p a n d : Nat} (hp : p < 4) (hblock : (setAt s t p).attBlock ≠ 0)
    (hplace : ownPlace s t (setAt s t p).attBlock .r = .ok d) (htouch : overlaps d 128 a n = true) :
    ∃ u, OthersHear t p s u ∧ OthersHear t p (noticeBlock u t p d a n) (s.noticeWrite t a n) := by
  obtain ⟨before, after, hsets, hbefore, hafter⟩ : ∃ before after, [0, 1, 2, 3] = before ++ p :: after ∧
      (∀ q ∈ before, q ≠ p ∧ q < 4) ∧ ∀ q ∈ after, q ≠ p ∧ q < 4 := by
    obtain rfl | rfl | rfl | rfl : p = 0 ∨ p = 1 ∨ p = 2 ∨ p = 3 := by omega
    · exact ⟨[], [1, 2, 3], rfl, by decide, by decide⟩
    · exact ⟨[0], [2, 3], rfl, by decide, by decide⟩
    · exact ⟨[0, 1], [3], rfl, by decide, by decide⟩
    · exact ⟨[0, 1, 2], [], rfl, by decide, by decide⟩
  obtain ⟨u, hu⟩ : ∃ u, u = before.foldl (fun s q => s.noticeSet t a n q) s := ⟨_, rfl⟩
  have hears : OthersHear t p s u := hu ▸ (OthersHear.refl t p s).foldl hp a n hbefore
  obtain ⟨tenants, globals, log, hframe⟩ := hears.notices.frame
  have hplace' : ownPlace u t (setAt u t p).attBlock .r = .ok d := by
    rw [hears.set, ownPlace_congr (by rw [hframe]) (by rw [hframe]) (by rw [hframe]) hears.root, hplace]
  have hown : u.noticeSet t a n p = noticeBlock u t p d a n := by
    rw [State.noticeSet, hplace', if_neg (by rwa [hears.set])]
    exact if_pos htouch
  refine ⟨u, hears, ?_⟩
  rw [noticeWrite_eq, hsets, List.foldl_append, List.foldl_cons, ← hu, hown]
  exact (OthersHear.refl ..).foldl hp a n hafter

end Sys2Proof.Machine
end

section
/-!
PROOF. O27: an attempt opens where pacing lets it, and a set hears the words that its program writes to its attempt block: the report
of a part, an abort and a resume (R235, R236, R237, R247, R250; log 81).
-/

namespace Sys2Proof.Machine

/-! ### A moment passes -/

@[simp] theorem setAt_redraw (s : State) (t p : Nat) : setAt s.redraw t p = setAt s t p := rfl

@[simp] theorem runAt_redraw (s : State) (t p : Nat) : runAt s.redraw t p = runAt s t p := rfl

@[simp] theorem setStateRead_redraw (s : State) (t p : Nat) : setStateRead s.redraw t p = setStateRead s t p := rfl

/-! ### A word of the attempt block (R235) -/

theorem exec_partReport (t p part : Nat) (s : State) : exec (.partReport t p part) s = execPartReport t p part s := rfl

theorem exec_attemptBlockAbort (t p : Nat) (v : W64) (s : State) :
    exec (.attemptBlockAbort t p v) s = execAttemptBlockAbort t p v s := rfl

theorem exec_attemptBlockResume (t p : Nat) (v : W64) (s : State) :
    exec (.attemptBlockResume t p v) s = execAttemptBlockResume t p v s := rfl

section
variable {s s2 : State} {t p off v d : Nat} (h : BlockWord s t p off v d s2)
include h

/-- A word that lands is written, with the requests its line asks for, and reported (R235, R301). -/
theorem BlockWord.programWrite {f : Nat → Nat} (hf : f (leNat (dpaBytes s (d + off) 8)) % 2 ^ 64 = v % 2 ^ 64) :
    ∃ b, attProgramWrite s t p off f =
      (s2.beside s.draws s.links { s.host with biasRequests := b }).noticeWrite t (d + off) 8 := by
  obtain ⟨-, hplace, hbad, hwaits, hs2, -⟩ := h
  obtain ⟨b, hb⟩ := touchBias_spec s (d + off) 8
  have htouch : s.touchBias (d + off) 8 = s.beside s.draws s.links { s.host with biasRequests := b } := hb
  refine ⟨b, ?_⟩
  rw [attProgramWrite, hplace]
  dsimp only
  rw [hbad, hwaits, if_neg (by decide), hf, htouch, writeDpa_beside, ← hs2]

/-- The set hears of the word once every byte stands, and the reports of other sets leave what it heard (R235). -/
theorem BlockWord.hears (hp : p < 4) (hoff : off < 128) {f : Nat → Nat}
    (hf : f (leNat (dpaBytes s (d + off) 8)) % 2 ^ 64 = v % 2 ^ 64) {w : State} (hw : w = attProgramWrite s t p off f) :
    w.mem = s2.mem ∧ w.tiles = s.tiles ∧ ∃ u, KeepsSet t p s u ∧ (∀ a n, dpaBytes u a n = dpaBytes s2 a n) ∧
      KeepsSet t p (noticeBlock u t p d (d + off) 8) w := by
  obtain ⟨b, hwrite⟩ := h.programWrite hf
  obtain ⟨hblock, -, -, -, hs2, hplace⟩ := h
  obtain ⟨fast, bad, honly, -⟩ := writeDpa_spec s (d + off) (leBytes 8 (v % 2 ^ 64))
  rw [← hs2] at honly
  obtain ⟨x, hx⟩ : ∃ x, x = s2.beside s.draws s.links { s.host with biasRequests := b } := ⟨_, rfl⟩
  rw [← hw, ← hx] at hwrite
  have hset : KeepsSet t p s x := by
    rw [hx, honly]
    exact ⟨rfl, rfl, rfl, rfl, fun _ he => he⟩
  have hmem : x.mem = s2.mem := by rw [hx]; rfl
  have hserv : x.service = s2.service := by rw [hx]; rfl
  have htiles : x.tiles = s.tiles := by rw [hx, honly]; rfl
  have hreached : ownPlace x t (setAt x t p).attBlock .r = .ok d := by
    have hroot : (tenantAt x t).ptRoot = (tenantAt s2 t).ptRoot := by rw [hx]; rfl
    have harea : x.host.queueArea = s2.host.queueArea := by rw [hx, honly]; rfl
    rw [hset.set, ownPlace_congr hmem hserv harea hroot, ownPlace_of_ownBlock hplace]
  have htouch : overlaps d 128 (d + off) 8 = true := by simp [overlaps]; omega
  obtain ⟨u, hu, hkeeps⟩ := noticeWrite_hears hp (by rwa [hset.set]) hreached htouch
  rw [← hwrite] at hkeeps
  obtain ⟨tn, g, l, hframe⟩ := (notices_noticeWrite x t (d + off) 8).frame
  obtain ⟨tn', g', l', hframe'⟩ := hu.notices.frame
  have humem : u.mem = s2.mem := by rw [hframe']; exact hmem
  have huserv : u.service = s2.service := by rw [hframe']; exact hserv
  refine ⟨?_, ?_, u, hset.trans hu.toKeepsSet, fun a n => dpaBytes_congr humem huserv a n, hkeeps.toKeepsSet⟩
  · rw [hwrite, hframe]
    exact hmem
  · rw [hwrite, hframe]
    exact htiles

end

/-- The word of a part's bit tells the set of its arrivals alone (R235). -/
theorem noticeBlock_arrivals (s : State) (t p d : Nat) {k : Nat} (hk : k < 4) : noticeBlock s t p d (d + (64 + 8 * k)) 8 =
    s.takeArrivals t p (BitVec.ofNat 256 (leNat (dpaBytes s (d + 64) 32))) := by
  have hin : overlaps (d + 64) 32 (d + (64 + 8 * k)) 8 = true := by simp [overlaps]; omega
  have habort : overlaps (d + 56) 8 (d + (64 + 8 * k)) 8 = false := by simp [overlaps]; omega
  have hresume : overlaps (d + 48) 8 (d + (64 + 8 * k)) 8 = false := by simp [overlaps]; omega
  simp [noticeBlock, hin, habort, hresume]

/-- The abort word tells it of an abort alone. -/
theorem noticeBlock_abort (s : State) (t p d : Nat) : noticeBlock s t p d (d + 56) 8 =
    s.askAbort t p (leNat (dpaBytes s (d + 56) 8)) := by
  have harrive : overlaps (d + 64) 32 (d + 56) 8 = false := by simp [overlaps]
  have hin : overlaps (d + 56) 8 (d + 56) 8 = true := by simp [overlaps]
  have hresume : overlaps (d + 48) 8 (d + 56) 8 = false := by simp [overlaps]
  simp [noticeBlock, hin, harrive, hresume]

/-- The resume word tells it of a resume alone. -/
theorem noticeBlock_resume (s : State) (t p d : Nat) : noticeBlock s t p d (d + 48) 8 =
    s.askResume t p (leNat (dpaBytes s (d + 48) 8)) := by
  have harrive : overlaps (d + 64) 32 (d + 48) 8 = false := by simp [overlaps]
  have habort : overlaps (d + 56) 8 (d + 48) 8 = false := by simp [overlaps]
  have hin : overlaps (d + 48) 8 (d + 48) 8 = true := by simp [overlaps]
  simp [noticeBlock, hin, harrive, habort]

/-! ### The report of a part (R235, R238) -/

/-- A set that collects takes arrivals inside its part mask, and goes on (R235, R238). -/
theorem takeArrivals_inside {s : State} {t p : Nat} {a : BitVec 256} (h : a &&& ~~~(setAt s t p).partMask = 0) :
    s.takeArrivals t p a = s.updSet t p fun x => { x with arrivals := a } := by
  unfold State.takeArrivals
  dsimp only
  rw [setAt_updSet_self]
  exact if_neg (by simp [h])

/-- Nothing forces the contribution of a set that no abort, no watchdog and no frozen job presses (R249). -/
theorem contributeForced_idle {s : State} {t p : Nat} (hforced : (setAt s t p).forced = 0) (hjob : jobTroubled s t p = false) :
    s.contributeForced t p = s := by
  unfold State.contributeForced
  dsimp only
  exact if_neg (by simp [hforced, hjob])

theorem wantOpen_asks (s : State) (t p : Nat) : (t, p) ∈ (s.wantOpen t p).globals.openQueue := by
  unfold State.wantOpen
  split
  next h => simpa using h
  · exact List.mem_append_right _ List.mem_cons_self

/-- A part's bit stands in the arrivals once its word is written (R235). -/
theorem BlockWord.reportBit {s s2 : State} {t p part x d : Nat}
    (h : BlockWord s t p (64 + 8 * (part / 64)) (x ||| 2 ^ (part % 64)) d s2) (hpart : part < 256) (hd : d % 128 = 0) :
    (BitVec.ofNat 256 (leNat (dpaBytes s2 (d + 64) 32))).getLsbD part = true := by
  obtain ⟨-, -, hbad, -, hs2, -⟩ := h
  have hword : dpaBytes s2 (d + 64 + 8 * (part / 64)) 8 = leBytes 8 ((x ||| 2 ^ (part % 64)) % 2 ^ 64) := by
    rw [Nat.add_assoc, hs2]
    exact dpaBytes_writeDpa_eight (by omega) (length_leBytes ..) hbad
  have hvalue : leNat (leBytes 8 ((x ||| 2 ^ (part % 64)) % 2 ^ 64)) = (x ||| 2 ^ (part % 64)) % 2 ^ 64 :=
    leNat_leBytes 8 _ (Nat.mod_lt _ (by decide))
  rw [BitVec.getLsbD_ofNat, decide_eq_true hpart, Bool.true_and, testBit_dpaBytes_word (by omega) (by decide), hword, hvalue,
    Nat.testBit_mod_two_pow, Nat.testBit_or, Nat.testBit_two_pow_self, Bool.or_true, Bool.and_true]
  exact decide_eq_true (Nat.mod_lt _ (by decide))

section
variable {s s2 : State} {t p d : Nat} (hp : p < 4)
include hp

theorem partReport_arrives {part : Nat} (hpart : part < 256) (hd : d % 128 = 0)
    (h : BlockWord s.redraw t p (64 + 8 * (part / 64))
      (leNat (dpaBytes s (d + 64 + 8 * (part / 64)) 8) ||| 2 ^ (part % 64)) d s2)
    (hstate : (setAt s t p).state = 1) (hforced : (setAt s t p).forced = 0) (hjob : jobTroubled s t p = false) {a : BitVec 256}
    (ha : a = BitVec.ofNat 256 (leNat (dpaBytes s2 (d + 64) 32))) (hmask : a &&& ~~~(setAt s t p).partMask = 0) :
    ∃ u, exec (.partReport t p part) s = .next u ∧ (setAt u t p).arrivals = a ∧ a.getLsbD part = true ∧
      (setAt u t p).state = 1 ∧ u.mem = s2.mem ∧ u.tiles = s.tiles := by
  obtain ⟨w, hw⟩ : ∃ w, w = attProgramWrite s.redraw t p (64 + 8 * (part / 64)) fun v => v ||| 2 ^ (part % 64) := ⟨_, rfl⟩
  have hplace : d + (64 + 8 * (part / 64)) = d + 64 + 8 * (part / 64) := (Nat.add_assoc ..).symm
  obtain ⟨hmem, htiles, u, hu, hbytes, hkeeps⟩ := h.hears hp (by omega) (by rw [hplace]; rfl) hw
  have hset : setAt w t p = { setAt s t p with arrivals := a } := by
    rw [hkeeps.set, noticeBlock_arrivals _ _ _ _ (by omega), hbytes, ← ha, takeArrivals_inside (by rw [hu.set]; exact hmask),
      setAt_updSet_self, hu.set]
    rfl
  have hfrozen : jobFrozen w t p = jobFrozen s t p := by
    rw [hkeeps.frozen, noticeBlock_arrivals _ _ _ _ (by omega), hbytes, ← ha, takeArrivals_inside (by rw [hu.set]; exact hmask)]
    exact (isFrozen_updSet ..).trans hu.frozen
  have hexec : exec (.partReport t p part) s = .next w := by
    have hready : ¬(part ≥ 256 ∨ (setAt s t p).attBlock = 0) := not_or.2 ⟨Nat.not_le.2 hpart, h.1⟩
    rw [exec_partReport, execPartReport, if_neg (by simpa using hready), ← hw,
      contributeForced_idle (by rw [hset]; exact hforced) (by rw [jobTroubled, hfrozen, hset]; exact hjob)]
  exact ⟨w, hexec, by rw [hset], by rw [ha]; exact h.reportBit hpart hd, by rw [hset]; exact hstate, hmem, htiles⟩

/-! ### Aborts and resumes (R247, R249, R250) -/

theorem attemptBlockAbort_forces {v : W64} (h : BlockWord s.redraw t p 56 v.toNat d s2)
    (hbytes : dpaBytes s2 (d + 56) 8 = leBytes 8 v.toNat) (hstate : (setAt s t p).state = 1)
    (hnew : (setAt s t p).contributed = false) (hforced : (setAt s t p).forced = 0) (hv : v.toNat = (setAt s t p).attempts) :
    ∃ w, exec (.attemptBlockAbort t p v) s = .next (if contributionWaits w t p then w else w.contribute t p) ∧
      (setAt w t p).forced = 3 ∧ (setAt w t p).state = 1 ∧ w.mem = s2.mem := by
  obtain ⟨w, hw⟩ : ∃ w, w = attProgramWrite s.redraw t p 56 fun _ => v.toNat := ⟨_, rfl⟩
  have hblock : (setAt s t p).attBlock ≠ 0 := h.1
  obtain ⟨hmem, -, u, hu, hread, hkeeps⟩ := h.hears (f := fun _ => v.toNat) hp (by decide) rfl hw
  have hset : setAt w t p = { setAt s t p with forced := 3 } := by
    have hasked : u.askAbort t p v.toNat = u.updSet t p fun x => { x with forced := 3 } := by
      rw [State.askAbort, hu.set, setAt_redraw]
      exact if_pos (by simp [hstate, hnew, hforced, hv])
    rw [hkeeps.set, noticeBlock_abort, hread, hbytes, leNat_leBytes 8 _ v.isLt, hasked, setAt_updSet_self, hu.set]
    rfl
  refine ⟨w, ?_, by rw [hset], by rw [hset]; exact hstate, hmem⟩
  rw [exec_attemptBlockAbort, execAttemptBlockAbort, if_neg hblock, ← hw, State.contributeForced, hset]
  cases contributionWaits w t p <;> simp [hstate, hnew]

theorem attemptBlockResume_asks {v : W64} (h : BlockWord s.redraw t p 48 v.toNat d s2)
    (hbytes : dpaBytes s2 (d + 48) 8 = leBytes 8 v.toNat) (hpaused : setStateRead s t p = 5)
    (hv : v.toNat = (runAt s t p).outcomeAttempt + 1) :
    ∃ u, exec (.attemptBlockResume t p v) s = .next u ∧ (t, p) ∈ u.globals.openQueue ∧ u.mem = s2.mem ∧ u.tiles = s.tiles := by
  obtain ⟨w, hw⟩ : ∃ w, w = attProgramWrite s.redraw t p 48 fun _ => v.toNat := ⟨_, rfl⟩
  have hblock : (setAt s t p).attBlock ≠ 0 := h.1
  obtain ⟨hmem, htiles, u, hu, hread, hkeeps⟩ := h.hears (f := fun _ => v.toNat) hp (by decide) rfl hw
  have hasked : u.askResume t p v.toNat = u.wantOpen t p := by
    have hstill : setStateRead u t p = 5 := by
      rw [setStateRead, hu.frozen, hu.run, hu.set]
      exact hpaused
    rw [State.askResume, hstill, hu.run, runAt_redraw]
    exact if_pos (by simp [hv])
  rw [noticeBlock_resume, hread, hbytes, leNat_leBytes 8 _ v.isLt, hasked] at hkeeps
  refine ⟨w, ?_, hkeeps.opens _ (wantOpen_asks ..), hmem, htiles⟩
  rw [exec_attemptBlockResume, execAttemptBlockResume, if_neg hblock, ← hw]

end

/-- Settles O27: pacing and the opening, then the three words, each heard by its set once every byte of it stands. -/
theorem attemptsOpenAndHearTheirBlock : Obligations.AttemptsOpenAndHearTheirBlock := by
  unfold Obligations.AttemptsOpenAndHearTheirBlock
  refine ⟨fun s s1 t p n hs hmay hserv hwaits => ?_, fun s t p hp => ⟨fun part d s2 hpart hd h hstate hforced hjob hmask =>
    partReport_arrives hp hpart hd h hstate hforced hjob rfl hmask, fun v d s2 h hbytes hstate hnew hforced hv =>
    attemptBlockAbort_forces hp h hbytes hstate hnew hforced hv, fun v d s2 h hbytes hpaused hv =>
    attemptBlockResume_asks hp h hbytes hpaused hv⟩⟩
  obtain ⟨⟨hstate, hattempts, harrivals, hcontributed, hforced, hgeneration⟩, hopened, hlast, hqueue, hothers, htiles⟩ :=
    openAttempt_spec s1 t p rfl
  obtain ⟨hany, hown⟩ := mayOpen_paced hmay
  refine ⟨_, exec_attemptOpen_opens hs hmay hserv hwaits, hstate, ?_⟩
  rw [hattempts, hgeneration, hopened, hlast, hqueue]
  subst hs
  exact ⟨rfl, harrivals, hcontributed, hforced, rfl, rfl, rfl, by simp,
    fun e he => List.mem_filter.trans (and_iff_left (decide_eq_true he)), hothers, htiles, hany, hown⟩

end Sys2Proof.Machine
end

section
/-!
PROOF. O30, the objects of a parameter set: how a write of one is served, the controls of attempts, and the mode (R234, R250, R253,
R254; logs 81, 84).
-/

namespace Sys2Proof.Machine

/-! ### The answer on a tenant's own path (R334) -/

/-- A path that is a tenant's own is a VF mailbox, so its response always arrives (R328, R339). -/
theorem Served.delivers_own {s : State} {path : Path} {role t : Nat} (h : Served s path role (some t)) (u : State) : Delivers u path := by
  rintro id rfl
  obtain ⟨hrole, -⟩ := h
  unfold pathRole at hrole
  obtain ⟨-, hrole⟩ := Option.ite_none_left_eq_some.1 hrole
  dsimp only at hrole
  split at hrole
  · obtain ⟨-, hrole⟩ := Option.ite_none_right_eq_some.1 hrole
    cases (Prod.mk.inj (Option.some.inj hrole)).2
  · cases hrole

/-- A response that arrives is the last answer. -/
theorem reply_answers {s : State} {path : Path} (h : Delivers s path) (m : DictMsg) (status : Nat) :
    Answered (s.reply path m status) path m status [] :=
  ⟨_, (respond_spec s path (response m status [])).2 h⟩

section
variable {s u : State} (h : OnlyDict s u)
include h

theorem OnlyDict.setAt (t p : Nat) : Sys2Proof.Machine.setAt u t p = Sys2Proof.Machine.setAt s t p := by obtain ⟨d, rfl⟩ := h; rfl

theorem OnlyDict.runAt (t p : Nat) : Sys2Proof.Machine.runAt u t p = Sys2Proof.Machine.runAt s t p := by obtain ⟨d, rfl⟩ := h; rfl

theorem OnlyDict.jobFrozen (t p : Nat) : Sys2Proof.Machine.jobFrozen u t p = Sys2Proof.Machine.jobFrozen s t p := by
  obtain ⟨d, rfl⟩ := h
  rfl

theorem OnlyDict.setStateRead (t p : Nat) : Sys2Proof.Machine.setStateRead u t p = Sys2Proof.Machine.setStateRead s t p := by
  obtain ⟨d, rfl⟩ := h
  rfl

theorem OnlyDict.mem : u.mem = s.mem := by obtain ⟨d, rfl⟩ := h; rfl

theorem OnlyDict.globals : u.globals = s.globals := by obtain ⟨d, rfl⟩ := h; rfl

theorem OnlyDict.tiles : u.tiles = s.tiles := by obtain ⟨d, rfl⟩ := h; rfl

end

/-! ### A write of a set's object (R332 to R334) -/

/-- The objects of a set that these commands write (R253, R329). -/
theorem objectAt_set {p : Nat} (hp : p < 4) : objectAt 0xC100 (p + 1) = some (ownObj 2 1 4) ∧
    objectAt 0xC108 (p + 1) = some (ownObj 0x0D 16384 4) ∧ objectAt 0xC109 (p + 1) = some (ownObj 3 2 4) ∧
    objectAt 0xC10A (p + 1) = some (ownObj 4 4 4) ∧ objectAt 0xC10B (p + 1) = some (ownObj 2 1 3) := by
  obtain rfl | rfl | rfl | rfl : p = 0 ∨ p = 1 ∨ p = 2 ∨ p = 3 := by omega
  · exact ⟨rfl, rfl, rfl, rfl, rfl⟩
  · exact ⟨rfl, rfl, rfl, rfl, rfl⟩
  · exact ⟨rfl, rfl, rfl, rfl, rfl⟩
  · exact ⟨rfl, rfl, rfl, rfl, rfl⟩

section
variable {s : State} {path : Path} {t p : Nat} (hs : Served s path 2 (some t)) (ht : t < 1024) (hp : p < 4) (tag : BitVec 16)
include hs ht hp

/-- A tenant's write of an object of its set: an object that needs the set idle is refused while it is not, and is else written as
its value demands (R326, R334). -/
theorem writeSetRow_served {index ty n access : Nat} {bs : List Byte} (hlow : 0xC100 ≤ index) (hhigh : index < 0xC200)
    (hobj : objectAt index (p + 1) = some (ownObj ty n access)) (hty : ty ≠ 0x0D) (hacc : access ≠ 1) (hbs : bs.length = n)
    (hn : n ≤ 1024) : writeSetRow s path tag t p index bs =
      if access = 4 ∧ setIdle s t p = false then s.redraw.reply path (writeMsg tag (some t) index (p + 1) bs) 6
      else s.redraw.finishWrite path (writeMsg tag (some t) index (p + 1) bs) (writeSet s.redraw t index p (leNat bs)) := by
  obtain ⟨hopen, hfree⟩ := hs
  obtain ⟨m, hm⟩ : ∃ m, m = writeMsg tag (some t) index (p + 1) bs := ⟨_, rfl⟩
  have hindex : m.index.toNat = index := by rw [hm]; exact (BitVec.toNat_ofNat ..).trans (Nat.mod_eq_of_lt (by omega))
  have hsub : m.sub.toNat = p + 1 := by rw [hm]; exact (BitVec.toNat_ofNat ..).trans (Nat.mod_eq_of_lt (by omega))
  have htenant : m.tenant.toNat = t := by rw [hm]; exact (BitVec.toNat_ofNat ..).trans (Nat.mod_eq_of_lt ht)
  have hlength : m.length.toNat = n := by rw [hm, ← hbs]; exact (BitVec.toNat_ofNat ..).trans (Nat.mod_eq_of_lt (by omega))
  have hdata : m.data = bs := by rw [hm]; rfl
  have hcommand : m.command.toNat = 2 := by rw [hm]; rfl
  have hscope : tenantIndex index = true := by simp only [tenantIndex, Bool.and_eq_true, decide_eq_true_eq]; omega
  have hcheck : checkRequest 2 (some t) m = 0 := by
    have hplain : m.rsv = 0 ∧ m.status = 0 ∧ m.tenantScope = true ∧ m.offset = 0 := by rw [hm]; exact ⟨rfl, rfl, rfl, rfl⟩
    obtain ⟨hrsv, hstatus, hown, hoffset⟩ := hplain
    simp [checkRequest, hindex, hsub, htenant, hcommand, hobj, hrsv, hstatus, hown, hoffset, hscope, ownObj, hty, hacc, writesObject,
      mayWrite]
  have hserve : serveChecked s.redraw path 2 m (ownObj ty n access) none =
      serveWrite s.redraw path 2 m (ownObj ty n access) none := by
    have hplain : (index = 0x2000 || index = 0x2001) = false := by simp; omega
    simp only [serveChecked, hindex, hplain, hcommand]
    rfl
  have hquiet : quiesced s.redraw t index (p + 1) (leNat bs) = setIdle s t p := by
    have hset : (0xC100 ≤ index && index < 0xC200) = true := by simp; omega
    unfold quiesced
    rw [if_neg (by omega), if_neg (by simp; omega), if_neg (by simp; omega), if_neg (by omega), if_neg (by simp; omega), if_pos hset]
    rfl
  have hwrite : writeOwn s.redraw t index (p + 1) (leNat bs) = writeSet s.redraw t index p (leNat bs) := by
    unfold writeOwn
    rw [if_neg (by omega), if_pos hhigh, Nat.add_sub_cancel]
  rw [writeSetRow, if_pos hp, writeTenantRow, if_pos ht, serveOn_open hopen hfree, ← hm,
    serveMsg_ok _ _ _ _ _ _ _ hcheck (by rw [hindex, hsub, hobj]), hserve]
  unfold serveWrite
  simp only [hindex, hsub, htenant, hdata, hquiet, hwrite, hscope, lengthOk, hlength, hbs, ownObj]
  by_cases hbusy : access = 4 ∧ setIdle s t p = false
  · rw [if_pos hbusy, if_pos (by simp [hbusy])]
  · have hgo : ¬(access = 4 && !setIdle s t p) = true := fun h => by
      obtain ⟨hfour, hset⟩ := (Bool.and_eq_true ..).mp h
      exact hbusy ⟨of_decide_eq_true hfour, (Bool.not_eq_true' _).mp hset⟩
    rw [if_neg hbusy]
    refine (if_neg hgo).trans ?_
    rw [if_neg (by simp [hn]), if_pos trivial]

end

end Sys2Proof.Machine
end

section
/-!
PROOF. O30, the controls of attempts and the mode of a set: each has its effect where `SetState` allows it, and is refused elsewhere
(R236, R250, R253, R254; log 81).
-/

namespace Sys2Proof.Machine

/-! ### `SetState` and what a control does (R253) -/

theorem jobFrozen_of_setStateRead {s : State} {t p : Nat} (h : setStateRead s t p ≠ 7) : jobFrozen s t p = false := by
  rw [setStateRead] at h
  exact Bool.eq_false_iff.2 fun hf => h (if_pos hf)

/-- A set that rests reads its new state, at once where no round of its attempt still runs (R241, R253). -/
theorem setStateRead_rest {s : State} {t p : Nat} (h : jobFrozen s t p = false) (v : Nat) : setStateRead (s.rest t p v) t p = v := by
  unfold State.rest
  split
  next hrel =>
    have hf : jobFrozen (s.updRun t p fun r => { r with releasedTo := some v }) t p = false := (isFrozen_updRun ..).trans h
    rw [setStateRead, hf, runAt_updRun_self]
    rfl
  next hrel =>
    have hf : jobFrozen (s.updSet t p fun x => { x with state := v }) t p = false := (isFrozen_updSet ..).trans h
    rw [setStateRead, hf, runAt_updSet, setAt_updSet_self, Option.not_isSome_iff_eq_none.1 hrel]
    rfl

theorem setAt_rest_none {s : State} {t p : Nat} (h : (runAt s t p).releasedTo = none) (v : Nat) :
    setAt (s.rest t p v) t p = { setAt s t p with state := v } := by
  rw [State.rest, if_neg (by simp [h]), setAt_updSet_self]

theorem setAt_rest_mode (s : State) (t p v : Nat) : (setAt (s.rest t p v) t p).mode = (setAt s t p).mode := by
  unfold State.rest
  split
  · rw [setAt_updRun]
  · rw [setAt_updSet_self]

theorem rest_mem (s : State) (t p v : Nat) : (s.rest t p v).mem = s.mem := by unfold State.rest; split <;> rfl

theorem rest_globals (s : State) (t p v : Nat) : (s.rest t p v).globals = s.globals := by unfold State.rest; split <;> rfl

theorem setAt_wantOpen (s : State) (t p : Nat) : setAt (s.wantOpen t p) t p = setAt s t p := by
  unfold State.wantOpen
  split
  · rfl
  · exact setAt_updRun ..

theorem wantOpen_mem (s : State) (t p : Nat) : (s.wantOpen t p).mem = s.mem := by unfold State.wantOpen; split <;> rfl

theorem setAt_askAbort_forced {s : State} {t p : Nat} (hstate : (setAt s t p).state = 1) (hnew : (setAt s t p).contributed = false) :
    setAt (s.askAbort t p (setAt s t p).attempts) t p =
      { setAt s t p with forced := if (setAt s t p).forced = 0 then 3 else (setAt s t p).forced } := by
  unfold State.askAbort
  by_cases hf : (setAt s t p).forced = 0
  · simp [hstate, hnew, hf]
  · simp [hf]

theorem askAbort_mem (s : State) (t p n : Nat) : (s.askAbort t p n).mem = s.mem := by
  unfold State.askAbort
  dsimp only
  split <;> rfl

/-! ### What the writes of a control and of a mode do (R236, R250, R253, R254) -/

section
variable {s : State} {t p : Nat}

theorem writeControl_abort (hstate : setStateRead s t p = 1) (hnew : (setAt s t p).contributed = false) :
    writeControl s t p 1 = .ok ((s.askAbort t p (setAt s t p).attempts).contributeForced t p) :=
  if_pos (by simp [hstate, hnew])

theorem writeControl_abort_refused (h : setStateRead s t p ≠ 1 ∨ (setAt s t p).contributed = true) :
    writeControl s t p 1 = .refused :=
  if_neg (by simpa [imp_iff_not_or] using h)

theorem writeControl_pause (h : 1 ≤ setStateRead s t p ∧ setStateRead s t p ≤ 4) :
    writeControl s t p 2 = .ok (s.updSet t p fun y => { y with pausePending := true }) :=
  if_pos (by simpa using h)

theorem writeControl_pause_refused (h : setStateRead s t p = 0 ∨ 4 < setStateRead s t p) : writeControl s t p 2 = .refused :=
  if_neg (by simp; omega)

theorem writeControl_import (h : setStateRead s t p = 0 ∨ setStateRead s t p = 5 ∨ setStateRead s t p = 8) :
    writeControl s t p 4 = .ok ((s.rest t p 6).updRun t p fun r => { r with importFrom := setStateRead s t p, importing := true }) :=
  if_pos (by simpa [or_assoc] using h)

theorem writeControl_import_refused (h : setStateRead s t p ≠ 0 ∧ setStateRead s t p ≠ 5 ∧ setStateRead s t p ≠ 8) :
    writeControl s t p 4 = .refused :=
  if_neg (by simpa [and_assoc] using h)

theorem writeControl_export (h : setStateRead s t p = 0 ∨ setStateRead s t p = 5) :
    writeControl s t p 5 = .ok ((s.rest t p 6).updRun t p fun r => { r with importFrom := setStateRead s t p, importing := false }) :=
  if_pos (by simpa using h)

theorem writeControl_export_refused (h : setStateRead s t p ≠ 0 ∧ setStateRead s t p ≠ 5) : writeControl s t p 5 = .refused :=
  if_neg (by simpa using h)

theorem writeMode_refused {v : Nat} (h : 2 < v ∨ v ≠ 0 ∧ (setStateRead s t p = 8 ∨ (setAt s t p).attBlock = 0)) :
    writeMode s t p v = .refused :=
  if_pos (by simpa using h)

section
variable {v : Nat} (hv : v = 1 ∨ v = 2) (hst : setStateRead s t p ≠ 8) (hblock : (setAt s t p).attBlock ≠ 0)
include hv hst hblock

theorem writeMode_same (hsame : v = (setAt s t p).mode) : writeMode s t p v = .ok s := by
  unfold writeMode
  rw [if_neg (by simp [hst, hblock]; omega), if_neg (by omega), if_pos hsame]

theorem writeMode_enters (hnew : v ≠ (setAt s t p).mode) :
    writeMode s t p v = .ok ((s.updSet t p fun y => { y with mode := v }).wantOpen t p) := by
  unfold writeMode
  rw [if_neg (by simp [hst, hblock]; omega), if_neg (by omega), if_neg hnew]

end

end

/-! ### The controls (R250, R254) -/

theorem exec_attemptControlAbort (path : Path) (tag : BitVec 16) (t p : Nat) (s : State) :
    exec (.attemptControlAbort path tag t p) s = .next (writeSetRow s path tag t p 0xC10B [1]) := rfl

theorem exec_attemptControlPause (path : Path) (tag : BitVec 16) (t p : Nat) (s : State) :
    exec (.attemptControlPause path tag t p) s = .next (writeSetRow s path tag t p 0xC10B [2]) := rfl

theorem exec_attemptControlResume (path : Path) (tag : BitVec 16) (t p : Nat) (s : State) :
    exec (.attemptControlResume path tag t p) s = .next (writeSetRow s path tag t p 0xC10B [3]) := rfl

theorem exec_attemptControlImport (path : Path) (tag : BitVec 16) (t p : Nat) (s : State) :
    exec (.attemptControlImport path tag t p) s = .next (writeSetRow s path tag t p 0xC10B [4]) := rfl

theorem exec_attemptControlExport (path : Path) (tag : BitVec 16) (t p : Nat) (s : State) :
    exec (.attemptControlExport path tag t p) s = .next (writeSetRow s path tag t p 0xC10B [5]) := rfl

theorem exec_parameterSetModeWrite (path : Path) (tag : BitVec 16) (t p : Nat) (v : Byte) (s : State) :
    exec (.parameterSetModeWrite path tag t p v) s = .next (writeSetRow s path tag t p 0xC100 [v]) := rfl

theorem leNat_singleton (v : Byte) : leNat [v] = v.toNat := by simp [leNat]

section
variable {s : State} {path : Path} {t p : Nat} (hs : Served s path 2 (some t))
include hs

variable (ht : t < 1024) (hp : p < 4) (tag : BitVec 16)
include ht hp

theorem writeSetRow_control (v : Byte) : writeSetRow s path tag t p 0xC10B [v] =
    s.redraw.finishWrite path (writeMsg tag (some t) 0xC10B (p + 1) [v]) (writeControl s.redraw t p v.toNat) := by
  obtain ⟨-, -, -, -, hobj⟩ := objectAt_set hp
  rw [writeSetRow_served hs ht hp tag (by decide) (by decide) hobj (by decide) (by decide) rfl (by decide),
    if_neg fun h => absurd h.1 (by decide), leNat_singleton]
  rfl

/-- A control that its set's state allows has its effect and is answered OK (R250). -/
theorem control_done {c : Instr} (v : Byte) (hc : exec c s = .next (writeSetRow s path tag t p 0xC10B [v])) {s1 : State}
    (hw : writeControl s.redraw t p v.toNat = .ok s1) :
    ∃ u, exec c s = .next u ∧ OnlyDict s1 u ∧ Answered u path (writeMsg tag (some t) 0xC10B (p + 1) [v]) 0 [] := by
  rw [hc, writeSetRow_control hs ht hp, hw]
  exact ⟨_, rfl, respond_onlyDict .., reply_answers (hs.delivers_own s1) _ 0⟩

/-- A control that its set's state forbids is refused. -/
theorem control_refused {c : Instr} (v : Byte) (hc : exec c s = .next (writeSetRow s path tag t p 0xC10B [v]))
    (hw : writeControl s.redraw t p v.toNat = .refused) :
    exec c s = .next (s.redraw.respond path (response (writeMsg tag (some t) 0xC10B (p + 1) [v]) 7 [])) := by
  rw [hc, writeSetRow_control hs ht hp, hw]
  rfl

/-! #### Aborts, pauses and resumes (R250) -/

theorem attemptControlAbort_forces (hstate : setStateRead s t p = 1) (hnew : (setAt s t p).contributed = false)
    (hrel : (runAt s t p).releasedTo = none) : ∃ w, exec (.attemptControlAbort path tag t p) s =
      .next ((if contributionWaits w t p then w else w.contribute t p).respond path
        (response (writeMsg tag (some t) 0xC10B (p + 1) [1]) 0 [])) ∧
      (setAt w t p).forced = (if (setAt s t p).forced = 0 then 3 else (setAt s t p).forced) ∧ w.mem = s.mem := by
  have hcollects : (setAt s t p).state = 1 := by
    have hjob : jobFrozen s t p = false := jobFrozen_of_setStateRead (by omega)
    rw [setStateRead, hjob, hrel] at hstate
    exact hstate
  obtain ⟨w, hw⟩ : ∃ w, w = s.redraw.askAbort t p (setAt s t p).attempts := ⟨_, rfl⟩
  have hset : setAt w t p = { setAt s t p with forced := if (setAt s t p).forced = 0 then 3 else (setAt s t p).forced } := by
    rw [hw]
    exact setAt_askAbort_forced (s := s.redraw) hcollects hnew
  have hforced : (setAt w t p).forced ≠ 0 := by rw [hset]; dsimp only; split <;> omega
  have hcontribute : w.contributeForced t p = if contributionWaits w t p then w else w.contribute t p := by
    have hone : (setAt w t p).state = 1 := by rw [hset]; exact hcollects
    have hopen : (setAt w t p).contributed = false := by rw [hset]; exact hnew
    unfold State.contributeForced
    cases contributionWaits w t p <;> simp [hone, hopen, hforced]
  refine ⟨w, ?_, by rw [hset], hw ▸ askAbort_mem ..⟩
  have hwrite : writeControl s.redraw t p 1 = .ok (w.contributeForced t p) :=
    hw ▸ writeControl_abort (s := s.redraw) hstate hnew
  rw [exec_attemptControlAbort, writeSetRow_control hs ht hp, ← hcontribute]
  exact congrArg _ (congrArg _ hwrite)

theorem attemptControlAbort_refused (h : setStateRead s t p ≠ 1 ∨ (setAt s t p).contributed = true) :
    exec (.attemptControlAbort path tag t p) s =
      .next (s.redraw.respond path (response (writeMsg tag (some t) 0xC10B (p + 1) [1]) 7 [])) :=
  control_refused hs ht hp tag 1 rfl (writeControl_abort_refused h)

theorem attemptControlPause_pends (hlow : 1 ≤ setStateRead s t p) (hhigh : setStateRead s t p ≤ 4) :
    ∃ u, exec (.attemptControlPause path tag t p) s = .next u ∧ setAt u t p = { setAt s t p with pausePending := true } ∧
      Answered u path (writeMsg tag (some t) 0xC10B (p + 1) [2]) 0 [] ∧ u.mem = s.mem := by
  obtain ⟨u, hu, honly, hanswer⟩ :=
    control_done hs ht hp tag 2 (exec_attemptControlPause ..) (writeControl_pause (s := s.redraw) ⟨hlow, hhigh⟩)
  exact ⟨u, hu, by rw [honly.setAt, setAt_updSet_self, setAt_redraw], hanswer, honly.mem⟩

theorem attemptControlPause_refused (h : setStateRead s t p = 0 ∨ 4 < setStateRead s t p) :
    exec (.attemptControlPause path tag t p) s =
      .next (s.redraw.respond path (response (writeMsg tag (some t) 0xC10B (p + 1) [2]) 7 [])) :=
  control_refused hs ht hp tag 2 rfl (writeControl_pause_refused h)

theorem attemptControlResume_asks (h : setStateRead s t p = 5) :
    ∃ u, exec (.attemptControlResume path tag t p) s = .next u ∧ (t, p) ∈ u.globals.openQueue ∧ setAt u t p = setAt s t p ∧
      Answered u path (writeMsg tag (some t) 0xC10B (p + 1) [3]) 0 [] ∧ u.mem = s.mem := by
  obtain ⟨u, hu, honly, hanswer⟩ := control_done hs ht hp tag 3 (exec_attemptControlResume ..) (if_pos h)
  refine ⟨u, hu, ?_, ?_, hanswer, ?_⟩
  · rw [honly.globals]
    exact wantOpen_asks ..
  · rw [honly.setAt, setAt_wantOpen, setAt_redraw]
  · rw [honly.mem, wantOpen_mem]
    rfl

theorem attemptControlResume_refused (h : setStateRead s t p ≠ 5) : exec (.attemptControlResume path tag t p) s =
    .next (s.redraw.respond path (response (writeMsg tag (some t) 0xC10B (p + 1) [3]) 7 [])) :=
  control_refused hs ht hp tag 3 rfl (if_neg h)

/-! #### Images that move in and out (R254) -/

omit hs ht hp in
/-- A set whose image moves reads 6 and remembers the state it left (R254). -/
theorem moveImage_spec {u : State} {b : Bool} {st : Nat} (hst : setStateRead s t p ≠ 7)
    (hu : OnlyDict ((s.redraw.rest t p 6).updRun t p fun r => { r with importFrom := st, importing := b }) u) :
    setStateRead u t p = 6 ∧ ((runAt s t p).releasedTo = none → setAt u t p = { setAt s t p with state := 6 }) ∧
      (runAt u t p).importing = b ∧ (runAt u t p).importFrom = st ∧ u.mem = s.mem := by
  have hrun : runAt u t p = { runAt (s.redraw.rest t p 6) t p with importFrom := st, importing := b } :=
    (hu.runAt ..).trans (runAt_updRun_self ..)
  have hset : setAt u t p = setAt (s.redraw.rest t p 6) t p := (hu.setAt ..).trans (setAt_updRun ..)
  have hjob : jobFrozen u t p = jobFrozen (s.redraw.rest t p 6) t p := (hu.jobFrozen ..).trans (isFrozen_updRun ..)
  refine ⟨?_, fun hrel => ?_, by rw [hrun], by rw [hrun], ?_⟩
  · rw [setStateRead, hjob, hset, hrun]
    exact setStateRead_rest (s := s.redraw) (jobFrozen_of_setStateRead (s := s) hst) 6
  · rw [hset, setAt_rest_none (s := s.redraw) hrel, setAt_redraw]
  · exact hu.mem.trans (rest_mem s.redraw t p 6)

theorem attemptControlImport_moves (h : setStateRead s t p = 0 ∨ setStateRead s t p = 5 ∨ setStateRead s t p = 8) :
    ∃ u, exec (.attemptControlImport path tag t p) s = .next u ∧ setStateRead u t p = 6 ∧
      ((runAt s t p).releasedTo = none → setAt u t p = { setAt s t p with state := 6 }) ∧ (runAt u t p).importing = true ∧
      (runAt u t p).importFrom = setStateRead s t p ∧ Answered u path (writeMsg tag (some t) 0xC10B (p + 1) [4]) 0 [] ∧
      u.mem = s.mem := by
  obtain ⟨u, hu, honly, hanswer⟩ := control_done hs ht hp tag 4 (exec_attemptControlImport ..) (writeControl_import (s := s.redraw) h)
  obtain ⟨hread, hset, himporting, hfrom, hmem⟩ := moveImage_spec (by omega) honly
  exact ⟨u, hu, hread, hset, himporting, hfrom, hanswer, hmem⟩

theorem attemptControlImport_refused (h : setStateRead s t p ≠ 0 ∧ setStateRead s t p ≠ 5 ∧ setStateRead s t p ≠ 8) :
    exec (.attemptControlImport path tag t p) s =
      .next (s.redraw.respond path (response (writeMsg tag (some t) 0xC10B (p + 1) [4]) 7 [])) :=
  control_refused hs ht hp tag 4 rfl (writeControl_import_refused h)

theorem attemptControlExport_moves (h : setStateRead s t p = 0 ∨ setStateRead s t p = 5) :
    ∃ u, exec (.attemptControlExport path tag t p) s = .next u ∧ setStateRead u t p = 6 ∧
      ((runAt s t p).releasedTo = none → setAt u t p = { setAt s t p with state := 6 }) ∧ (runAt u t p).importing = false ∧
      (runAt u t p).importFrom = setStateRead s t p ∧ Answered u path (writeMsg tag (some t) 0xC10B (p + 1) [5]) 0 [] ∧
      u.mem = s.mem := by
  obtain ⟨u, hu, honly, hanswer⟩ := control_done hs ht hp tag 5 (exec_attemptControlExport ..) (writeControl_export (s := s.redraw) h)
  obtain ⟨hread, hset, himporting, hfrom, hmem⟩ := moveImage_spec (by omega) honly
  exact ⟨u, hu, hread, hset, himporting, hfrom, hanswer, hmem⟩

theorem attemptControlExport_refused (h : setStateRead s t p ≠ 0 ∧ setStateRead s t p ≠ 5) :
    exec (.attemptControlExport path tag t p) s =
      .next (s.redraw.respond path (response (writeMsg tag (some t) 0xC10B (p + 1) [5]) 7 [])) :=
  control_refused hs ht hp tag 5 rfl (writeControl_export_refused h)

/-! #### The mode (R234, R236, R253) -/

theorem writeSetRow_mode (v : Byte) : writeSetRow s path tag t p 0xC100 [v] =
    if setIdle s t p = false then s.redraw.respond path (response (writeMsg tag (some t) 0xC100 (p + 1) [v]) 6 [])
    else s.redraw.finishWrite path (writeMsg tag (some t) 0xC100 (p + 1) [v]) (writeMode s.redraw t p v.toNat) := by
  obtain ⟨hobj, -⟩ := objectAt_set hp
  rw [writeSetRow_served hs ht hp tag (by decide) (by decide) hobj (by decide) (by decide) rfl (by decide), leNat_singleton]
  simp only [true_and]
  rfl

/-- A mode that the set's state allows is written and answered OK. -/
theorem mode_done (v : Byte) (hidle : setIdle s t p = true) {s1 : State} (hw : writeMode s.redraw t p v.toNat = .ok s1) :
    ∃ u, exec (.parameterSetModeWrite path tag t p v) s = .next u ∧ OnlyDict s1 u ∧
      Answered u path (writeMsg tag (some t) 0xC100 (p + 1) [v]) 0 [] := by
  rw [exec_parameterSetModeWrite, writeSetRow_mode hs ht hp, hw, if_neg (by simp [hidle])]
  exact ⟨_, rfl, respond_onlyDict .., reply_answers (hs.delivers_own s1) _ 0⟩

theorem parameterSetModeWrite_busy (v : Byte) (hidle : setIdle s t p = false) :
    exec (.parameterSetModeWrite path tag t p v) s =
      .next (s.redraw.respond path (response (writeMsg tag (some t) 0xC100 (p + 1) [v]) 6 [])) := by
  rw [exec_parameterSetModeWrite, writeSetRow_mode hs ht hp, if_pos hidle]

theorem parameterSetModeWrite_refused (v : Byte) (hidle : setIdle s t p = true)
    (h : 2 < v.toNat ∨ v ≠ 0 ∧ (setStateRead s t p = 8 ∨ (setAt s t p).attBlock = 0)) :
    exec (.parameterSetModeWrite path tag t p v) s =
      .next (s.redraw.respond path (response (writeMsg tag (some t) 0xC100 (p + 1) [v]) 7 [])) := by
  have hwrite : writeMode s.redraw t p v.toNat = .refused :=
    writeMode_refused (h.imp_right fun ⟨hv, h⟩ => ⟨fun h0 => hv (BitVec.eq_of_toNat_eq h0), h⟩)
  rw [exec_parameterSetModeWrite, writeSetRow_mode hs ht hp, hwrite, if_neg (by simp [hidle])]
  rfl

/-- A set that enters a mode takes it, and asks for an attempt where the mode is new (R236). -/
theorem parameterSetModeWrite_enters (v : Byte) (hidle : setIdle s t p = true) (hv : v = 1 ∨ v = 2) (hst : setStateRead s t p ≠ 8)
    (hblock : (setAt s t p).attBlock ≠ 0) : ∃ u, exec (.parameterSetModeWrite path tag t p v) s = .next u ∧
      setAt u t p = { setAt s t p with mode := v.toNat } ∧ Answered u path (writeMsg tag (some t) 0xC100 (p + 1) [v]) 0 [] ∧
      ((setAt s t p).mode ≠ v.toNat → (t, p) ∈ u.globals.openQueue) := by
  have hvalue : v.toNat = 1 ∨ v.toNat = 2 := by obtain rfl | rfl := hv <;> decide
  by_cases hsame : v.toNat = (setAt s t p).mode
  · obtain ⟨u, hu, honly, hanswer⟩ := mode_done hs ht hp tag v hidle (writeMode_same (s := s.redraw) hvalue hst hblock hsame)
    refine ⟨u, hu, ?_, hanswer, fun h => absurd hsame.symm h⟩
    rw [honly.setAt, hsame, setAt_redraw]
  · obtain ⟨u, hu, honly, hanswer⟩ := mode_done hs ht hp tag v hidle (writeMode_enters (s := s.redraw) hvalue hst hblock hsame)
    refine ⟨u, hu, ?_, hanswer, fun _ => ?_⟩
    · rw [honly.setAt, setAt_wantOpen, setAt_updSet_self, setAt_redraw]
    · rw [honly.globals]
      exact wantOpen_asks ..

/-- A set that leaves its mode rests, off or unrecoverable, and asks for no attempt any more (R236, R253). -/
theorem parameterSetModeWrite_leaves (hidle : setIdle s t p = true) :
    ∃ u, exec (.parameterSetModeWrite path tag t p 0) s = .next u ∧ (setAt u t p).mode = 0 ∧
      Answered u path (writeMsg tag (some t) 0xC100 (p + 1) [0]) 0 [] ∧
      setStateRead u t p = (if setStateRead s t p = 8 then 8 else 0) ∧ (t, p) ∉ u.globals.openQueue := by
  obtain ⟨w, hw⟩ : ∃ w, w = (s.redraw.leaveOpens t p).updSet t p fun y => { y with mode := 0, pausePending := false } := ⟨_, rfl⟩
  obtain ⟨n, hn⟩ : ∃ n, n = if setStateRead s t p = 8 then 8 else 0 := ⟨_, rfl⟩
  have hwrite : writeMode s.redraw t p (0 : Byte).toNat = .ok (w.rest t p n) := by rw [hw, hn]; rfl
  have hjob : jobFrozen w t p = false := by
    rw [hw, jobFrozen, isFrozen_updSet, isFrozen_leaveOpens]
    refine jobFrozen_of_setStateRead (s := s) fun h7 => ?_
    simp [setIdle, h7] at hidle
  obtain ⟨u, hu, honly, hanswer⟩ := mode_done hs ht hp tag 0 hidle hwrite
  refine ⟨u, hu, ?_, hanswer, ?_, ?_⟩
  · rw [honly.setAt, setAt_rest_mode, hw, setAt_updSet_self]
  · rw [honly.setStateRead, setStateRead_rest hjob, hn]
  · rw [honly.globals, rest_globals, hw]
    simp [State.leaveOpens, State.updSet]

end

end Sys2Proof.Machine
end

section
/-!
PROOF. O30, the end of an image's move in or out: the set returns to the state R253 gives, with its generation where the image
came in (R253, R254).
-/

namespace Sys2Proof.Machine

/-! ### What the work of an image leaves -/

/-- A write to tenant memory that leaves every set's standing. -/
structure QuietWrite (s u : State) : Prop extends TenantWrite s u where
  standing : KeepsStanding s u

theorem QuietWrite.refl (s : State) : QuietWrite s s := ⟨.refl s, .refl s⟩

theorem QuietWrite.trans {s u w : State} (h : QuietWrite s u) (h' : QuietWrite u w) : QuietWrite s w :=
  ⟨h.toTenantWrite.trans h'.toTenantWrite, h.standing.trans h'.standing⟩

theorem QuietWrite.ite {s u w : State} {c : Prop} [Decidable c] (h : QuietWrite s u) (h' : QuietWrite s w) :
    QuietWrite s (if c then u else w) := by
  split
  · exact h
  · exact h'

theorem quietWrite_foldl {α : Type} {f : State → α → State} (h : ∀ u x, QuietWrite u (f u x)) (xs : List α) (s : State) :
    QuietWrite s (xs.foldl f s) :=
  foldl_keeps (P := QuietWrite s) f (fun u x hu => hu.trans (h u x)) xs s (.refl s)

/-- The work of an import: it writes the slow tiers too, and leaves every set's standing and every tile. -/
structure ImageWork (s u : State) : Prop where
  standing : KeepsStanding s u
  tiles : u.tiles = s.tiles

theorem ImageWork.refl (s : State) : ImageWork s s := ⟨.refl s, rfl⟩

theorem ImageWork.trans {s u w : State} (h : ImageWork s u) (h' : ImageWork u w) : ImageWork s w :=
  ⟨h.standing.trans h'.standing, h'.tiles.trans h.tiles⟩

theorem QuietWrite.imageWork {s u : State} (h : QuietWrite s u) : ImageWork s u := ⟨h.standing, h.tiles⟩

theorem imageWork_slowWrite (s : State) (key : Nat) (bs : List Byte) : ImageWork s (s.slowWrite key bs) :=
  ⟨keepsStanding_slowWrite .., rfl⟩

section
variable (s : State) (t p : Nat)

theorem quietWrite_freezeJob (cause address : Nat) (layer : Option (Nat × List Byte)) :
    QuietWrite s (s.freezeJob t p cause address layer) := ⟨tenantWrite_freezeJob .., keepsStanding_freezeJob ..⟩

theorem quietWrite_reportAt (cause va : Nat) : QuietWrite s (s.reportAt t cause va) := by
  unfold State.reportAt
  split
  · exact .ite ⟨tenantWrite_fastUncorrectable .., keepsStanding_fastUncorrectable ..⟩ (.refl s)
  · exact ⟨tenantWrite_noteWalk .., keepsStanding_noteWalk ..⟩

theorem quietWrite_countConversions (sats nonfinite : Nat) : QuietWrite s (s.countConversions sats nonfinite) :=
  ⟨tenantWrite_countConversions .., keepsStanding_countConversions ..⟩

/-! ### Reads and writes of an image (R254) -/

theorem quietWrite_imageRead (va n : Nat) : QuietWrite s (imageRead s t p va n).1 := by
  unfold imageRead
  split
  · exact .refl s
  · exact (quietWrite_reportAt ..).trans (quietWrite_freezeJob ..)

variable {s t p} in
theorem imageRead_quiet {va n : Nat} {u : State} {r : Option (List Byte)} (h : imageRead s t p va n = (u, r)) : QuietWrite s u := by
  have hread := quietWrite_imageRead s t p va n
  rwa [h] at hread

theorem quietWrite_imageWrite (va : Nat) (bs : List Byte) : QuietWrite s (s.imageWrite t p va bs) := by
  unfold State.imageWrite
  split
  · exact (quietWrite_reportAt ..).trans (quietWrite_freezeJob ..)
  next pages _ =>
    have hwrite : QuietWrite s (s.capWrite t pages va bs).1 := ⟨tenantWrite_capWrite .., keepsStanding_capWrite ..⟩
    dsimp only
    split
    · exact hwrite.trans (quietWrite_freezeJob ..)
    · exact hwrite

theorem quietWrite_imageSlow (key n : Nat) : QuietWrite s (imageSlow s t p key n).1 := by
  unfold imageSlow
  dsimp only
  split
  · exact QuietWrite.trans ⟨(reported_slowUncorrectable ..).tenantWrite, keepsStanding_slowUncorrectable ..⟩ (quietWrite_freezeJob ..)
  · exact .refl s

theorem quietWrite_imageLayers : QuietWrite s (imageLayers s t p).1 := by
  unfold imageLayers
  refine foldl_keeps (P := fun acc : State × List (Nat × Nat × Nat × List Byte) => QuietWrite s acc.1) _ (fun acc o hacc => ?_) _ _
    (.refl s)
  dsimp only
  split
  · exact hacc.trans ((quietWrite_reportAt ..).trans (quietWrite_freezeJob ..))
  · split
    · exact hacc.trans (quietWrite_freezeJob ..)
    · exact hacc

/-- What the layers' check keeps and every layer keeps stands when the image has run. -/
theorem imageRun_keeps {P : State → Prop} {run : State → Nat → Nat × Nat × Nat × List Byte → State}
    (hlayers : P (imageLayers s t p).1) (hrun : ∀ u a o, P u → P (run u a o)) : P (s.imageRun t p run) :=
  foldl_keeps (P := fun acc : State × Nat => P acc.1) _ (fun acc o hacc => hrun acc.1 acc.2 o hacc) _ _ hlayers

/-! ### Layers (R254) -/

theorem quietWrite_exportLayer (g a : Nat) (o : Nat × Nat × Nat × List Byte) : QuietWrite s (exportLayer s t p g a o) := by
  obtain ⟨l, chip, slot, d⟩ := o
  unfold exportLayer
  dsimp only
  split
  · split
    next s1 h => exact imageRead_quiet h
    next s1 hi h =>
      refine .trans (.trans ?_ (quietWrite_countConversions ..)) (quietWrite_imageWrite ..)
      have hslow : ∀ key n, QuietWrite s (imageSlow s1 t p key n).1 := fun _ _ => (imageRead_quiet h).trans (quietWrite_imageSlow ..)
      split
      · exact ((hslow _ _).trans (quietWrite_imageSlow ..)).trans (quietWrite_imageSlow ..)
      · exact (hslow _ _).trans (quietWrite_imageSlow ..)
  · refine quietWrite_foldl (fun u j => ?_) _ s
    split
    next s1 h => exact imageRead_quiet h
    next s1 row h =>
      exact (imageRead_quiet h).trans ((quietWrite_imageSlow ..).trans ((quietWrite_countConversions ..).trans (quietWrite_imageWrite ..)))

theorem imageWork_importLayer (h a : Nat) (o : Nat × Nat × Nat × List Byte) : ImageWork s (importLayer s t p h a o) := by
  obtain ⟨l, chip, slot, d⟩ := o
  unfold importLayer
  dsimp only
  split
  · split
    next s1 hread => exact (imageRead_quiet hread).imageWork
    next s1 bs hread =>
      refine .trans ?_ (quietWrite_imageWrite ..).imageWork
      have hcount : ∀ sats nonfinite, ImageWork s (s1.countConversions sats nonfinite) :=
        fun _ _ => ((imageRead_quiet hread).trans (quietWrite_countConversions ..)).imageWork
      split
      · exact (((hcount _ _).trans (imageWork_slowWrite ..)).trans (imageWork_slowWrite ..)).trans (imageWork_slowWrite ..)
      · exact ((hcount _ _).trans (imageWork_slowWrite ..)).trans (imageWork_slowWrite ..)
  · refine foldl_keeps (P := ImageWork s) _ (fun u j hu => hu.trans ?_) _ s (.refl s)
    split
    next s1 hread => exact (imageRead_quiet hread).imageWork
    next s1 bs hread =>
      exact (imageRead_quiet hread).imageWork.trans ((quietWrite_countConversions ..).imageWork.trans ((imageWork_slowWrite ..).trans
        ((quietWrite_countConversions ..).imageWork.trans (quietWrite_imageWrite ..).imageWork)))

/-! ### The end of an import (R137, R139, R146, R213) -/

theorem quietWrite_updWatch (f : WatchState → WatchState) : QuietWrite s (s.updWatch t f) :=
  ⟨tenantWrite_updTenant s t, keepsStanding_updWatch ..⟩

theorem quietWrite_loseHistories (keepScale : Bool) : QuietWrite s (s.loseHistories t p keepScale) :=
  quietWrite_foldl (fun u _ => (quietWrite_updWatch u t _).trans (quietWrite_foldl (fun w _ => quietWrite_updWatch w t _) _ _)) _ s

theorem quietWrite_watchWrite (va : Nat) (ok : Bool) (bs : List Byte) : QuietWrite s (s.watchWrite t va ok bs) := by
  refine ⟨?_, keepsStanding_watchWrite ..⟩
  unfold State.watchWrite
  dsimp only
  refine .ite (tenantWrite_updTenant s t) ?_
  split
  · exact .refl s
  · exact (tenantWrite_noteWalk ..).trans (tenantWrite_updTenant _ t)
  next d _ =>
    have hwrite := (tenantWrite_touchBias s d bs.length).trans (tenantWrite_writeDpa _ d bs)
    split
    next s1 h => rw [h] at hwrite; exact hwrite.trans (tenantWrite_noticeWrite ..)
    · exact tenantWrite_updTenant s t

theorem quietWrite_writeScalePage : QuietWrite s (s.writeScalePage t p) :=
  .ite (.refl s) (quietWrite_foldl (fun u _ => quietWrite_watchWrite u ..) _ s)

theorem quietWrite_writeMirror : QuietWrite s (s.writeMirror t p) :=
  .ite (.refl s) (quietWrite_foldl (fun u _ => quietWrite_watchWrite u ..) _ s)

end

/-! ### The move of an image ends (R254) -/

theorem exec_importExportComplete (t p : Nat) (fast : Ecc) (slow : List (Nat × Ecc)) (s : State) :
    exec (.importExportComplete t p fast slow) s = execImportExportComplete t p fast slow s := rfl

/-- The generation an import brings stands in the set and in its block, no undo ring remains, and the histories are lost (R254). -/
def State.imported (s : State) (t p h st : Nat) : State :=
  ((((((s.genWord t p 0 fun _ => h).updSet t p fun y => { y with generation := h, state := st }).updRun t p fun q =>
    { q with undo := [], importing := false }).loseHistories t p false).writeScalePage t p).writeMirror t p)

theorem imported_spec (s : State) (t p h st : Nat) : (setAt (s.imported t p h st) t p).generation = h ∧
    (setAt (s.imported t p h st) t p).state = st ∧ (runAt (s.imported t p h st) t p).undo = [] ∧
    (s.imported t p h st).tiles = s.tiles := by
  obtain ⟨w, hw⟩ : ∃ w, w = ((s.genWord t p 0 fun _ => h).updSet t p fun y => { y with generation := h, state := st }).updRun t p
    fun q => { q with undo := [], importing := false } := ⟨_, rfl⟩
  have hset : (setAt w t p).generation = h ∧ (setAt w t p).state = st := by rw [hw, setAt_updRun, setAt_updSet_self]; exact ⟨rfl, rfl⟩
  have hundo : (runAt w t p).undo = [] := by rw [hw, runAt_updRun_self]
  have htiles : w.tiles = s.tiles := by rw [hw]; exact (tenantWrite_genWord s t p 0 fun _ => h).tiles
  have hquiet : QuietWrite w (s.imported t p h st) := by
    rw [State.imported, ← hw]
    exact (quietWrite_loseHistories ..).trans ((quietWrite_writeScalePage ..).trans (quietWrite_writeMirror ..))
  obtain ⟨-, hgeneration, -, hstate⟩ := hquiet.standing.sets t p
  obtain ⟨-, hrings, -⟩ := hquiet.runs t p
  obtain ⟨hgen, hst⟩ := hset
  exact ⟨hgeneration.trans hgen, hstate.trans hst, hrings.trans hundo, hquiet.tiles.trans htiles⟩

section
variable {s : State} {t p : Nat}

theorem execImportExportComplete_ends (hstate : (setAt s t p).state = 6)
    (himage : imageWaits (s.redraw.fastEcc { bad := [], corrected := [] }) t p = false)
    (hend : endWaits (s.redraw.fastEcc { bad := [], corrected := [] }) t p = false) :
    execImportExportComplete t p { bad := [], corrected := [] } [] s = .next
      (if (runAt s t p).importing then
        let s1 := s.redraw.imageRun t p fun u a o => importLayer u t p (setAt s t p).importGen a o
        if jobFrozen s1 t p then s1.updSet t p fun y => { y with state := (runAt s t p).importFrom }
        else s1.imported t p (setAt s t p).importGen (if (runAt s t p).importFrom = 5 then 5 else 0)
      else (s.redraw.imageRun t p fun u a o => exportLayer u t p (setAt s t p).generation a o).updSet t p
        fun y => { y with state := (runAt s t p).importFrom }) := by
  rw [fastEcc_none] at himage hend
  unfold execImportExportComplete
  simp only [List.foldl_nil, fastEcc_none, setAt_redraw, runAt_redraw, himage, hend, hstate]
  rfl

/-- An image that is exported leaves every slow tier as it was, and its set in the state it left (R254). -/
theorem exported_spec {u : State} (hu : u = (s.redraw.imageRun t p fun u a o =>
    exportLayer u t p (setAt s t p).generation a o).updSet t p fun y => { y with state := (runAt s t p).importFrom }) :
    (setAt u t p).state = (runAt s t p).importFrom ∧ (setAt u t p).generation = (setAt s t p).generation ∧
      (∀ k, slowByte u k = slowByte s k) ∧ u.tiles = s.tiles := by
  obtain ⟨w, hw⟩ : ∃ w, w = s.redraw.imageRun t p fun u a o => exportLayer u t p (setAt s t p).generation a o := ⟨_, rfl⟩
  have hquiet : QuietWrite s.redraw w := hw ▸ imageRun_keeps s.redraw t p (P := QuietWrite s.redraw) (quietWrite_imageLayers ..)
    fun u a o hrun => hrun.trans (quietWrite_exportLayer ..)
  obtain ⟨-, hgeneration, -, -⟩ := hquiet.standing.sets t p
  rw [← hw] at hu
  have hset : setAt u t p = { setAt w t p with state := (runAt s t p).importFrom } := by rw [hu, setAt_updSet_self]
  refine ⟨by rw [hset], by rw [hset]; exact hgeneration, fun k => ?_, by rw [hu]; exact hquiet.tiles⟩
  have hslow : u.mem.slow = s.mem.slow := by rw [hu]; exact hquiet.slow
  rw [slowByte, hslow, slowByte]

theorem importExportComplete_ends (hstate : (setAt s t p).state = 6)
    (himage : imageWaits (s.redraw.fastEcc { bad := [], corrected := [] }) t p = false)
    (hend : endWaits (s.redraw.fastEcc { bad := [], corrected := [] }) t p = false) :
    ∃ u, exec (.importExportComplete t p { bad := [], corrected := [] } []) s = .next u ∧ u.tiles = s.tiles ∧
      ((runAt s t p).importing = false → (setAt u t p).state = (runAt s t p).importFrom ∧
        (setAt u t p).generation = (setAt s t p).generation ∧ ∀ k, slowByte u k = slowByte s k) ∧
      ((runAt s t p).importing = true → jobFrozen u t p = false → (setAt u t p).generation = (setAt s t p).importGen ∧
        (setAt u t p).state = (if (runAt s t p).importFrom = 5 then 5 else 0) ∧ (runAt u t p).undo = []) := by
  rw [exec_importExportComplete, execImportExportComplete_ends hstate himage hend]
  obtain ⟨s1, hs1⟩ : ∃ s1, s1 = s.redraw.imageRun t p fun u a o => importLayer u t p (setAt s t p).importGen a o := ⟨_, rfl⟩
  have hwork : ImageWork s.redraw s1 := hs1 ▸ imageRun_keeps s.redraw t p (P := ImageWork s.redraw)
    (quietWrite_imageLayers ..).imageWork fun u a o hrun => hrun.trans (imageWork_importLayer ..)
  dsimp only
  rw [← hs1]
  by_cases himporting : (runAt s t p).importing = true
  · rw [if_pos himporting]
    by_cases hfrozen : jobFrozen s1 t p = true
    · rw [if_pos hfrozen]
      refine ⟨_, rfl, hwork.tiles, fun h => absurd (h.symm.trans himporting) (by decide), fun _ h => ?_⟩
      rw [jobFrozen, isFrozen_updSet] at h
      exact absurd (h.symm.trans hfrozen) (by decide)
    · obtain ⟨hgeneration, hst, hundo, htiles⟩ := imported_spec s1 t p (setAt s t p).importGen
        (if (runAt s t p).importFrom = 5 then 5 else 0)
      rw [if_neg hfrozen]
      exact ⟨_, rfl, htiles.trans hwork.tiles, fun h => absurd (h.symm.trans himporting) (by decide),
        fun _ _ => ⟨hgeneration, hst, hundo⟩⟩
  · obtain ⟨hst, hgeneration, hslow, htiles⟩ := exported_spec (s := s) (t := t) (p := p) rfl
    rw [if_neg himporting]
    exact ⟨_, rfl, htiles, fun _ => ⟨hst, hgeneration, hslow⟩, fun h => absurd h himporting⟩

end

end Sys2Proof.Machine
end

section
/-!
PROOF. O30, the maps of layers and of layer slots: the entries that a range touches take their new values, the set's digest is that of
what it then holds, and a slot area that changes its tenant reads zero (R222, R223; log 84).
-/

namespace Sys2Proof.Machine

/-! ### A range of a DOMAIN (R336) -/

/-- A served row that gives a range of a DOMAIN is answered as the write of the entries it touches demands (R336). -/
theorem rangeRow_range {s : State} {path : Path} {role : Nat} {own t : Option Nat} {index sub size n off : Nat}
    (hs : Served s path role own) (h : WritableDomain s role own t index sub size n) (tag : BitVec 16) {bs : List Byte}
    (hbs : 1 ≤ bs.length) (hsize : off + bs.length ≤ size) (hoff : off < 2 ^ 32) :
    rangeRow s path tag t index sub off bs = s.redraw.finishWrite path (rangeMsg tag t index sub off bs)
      (writeEntries s.redraw (t.getD 0) index sub (newEntries (domainOf s.redraw (t.getD 0) index sub) off bs)) := by
  obtain ⟨hi, hsub, ht, hmine, hscope, ⟨o, ho, hty, hacc, hw⟩, hquiet, f, hdomain⟩ := h
  have hfit : ¬(bs.length < 1 ∨ off + bs.length > size) := by omega
  have hdata : (rangeMsg tag t index sub off bs).data = bs := rfl
  rw [rangeRow_checked hs ht hoff, if_pos (checkRequest_range tag bs ht hi hsub ho hty hacc hw hscope hmine)]
  simp only [serveRange, rangeMsg_tenant tag bs ht, rangeMsg_index tag bs hi, rangeMsg_sub tag bs hsub, rangeMsg_offset tag bs hoff,
    hdata, hquiet, hdomain, writeRange]
  rw [if_neg (by decide), if_neg (by simpa only [Bool.or_eq_true, decide_eq_true_eq] using hfit)]

/-- A range touches an entry once. -/
theorem newEntries_nodup (d : Nat × Nat × (Nat → List Byte)) (off : Nat) (bs : List Byte) :
    ((newEntries d off bs).map Prod.fst).Nodup := by
  have hkeys : (newEntries d off bs).map Prod.fst = entriesTouched d.2.1 off bs.length := by
    rw [newEntries, List.map_map]
    exact List.map_id _
  rw [hkeys, entriesTouched]
  split
  · exact List.nodup_nil
  · exact List.nodup_range.map fun i j h => Nat.add_left_cancel h

/-! ### Entries written to a table -/

section
variable {β : Type} [DecidableEq β] (d : β) (g : Nat → β)

/-- A table with each of these entries written. -/
def mputAll (es : List (Nat × Nat)) (m : SMap β) : SMap β := es.foldl (fun m e => mput d m e.1 (g e.2)) m

theorem mget_mput_ne (m : SMap β) {k j : Nat} (v : β) (h : j ≠ k) : mget (mput d m k v) j = mget m j := by
  unfold mput
  split
  · rw [mget_merase, if_neg h]
  · exact mget_mset_ne m v h

theorem mget_mputAll_of_notMem {k : Nat} : ∀ (es : List (Nat × Nat)) (m : SMap β), k ∉ es.map Prod.fst →
    mget (mputAll d g es m) k = mget m k
  | [], _, _ => rfl
  | e :: es, m, h => by
    obtain ⟨hne, hrest⟩ := not_or.1 (mt List.mem_cons.2 (List.map_cons ▸ h))
    exact (mget_mputAll_of_notMem es _ hrest).trans (mget_mput_ne d m _ hne)

theorem mgetD_mputAll {e : Nat × Nat} : ∀ (es : List (Nat × Nat)) (m : SMap β), (es.map Prod.fst).Nodup → e ∈ es →
    mgetD (mputAll d g es m) e.1 d = g e.2
  | x :: es, m, hnd, he => by
    obtain ⟨hx, hnd⟩ := List.nodup_cons.1 (List.map_cons ▸ hnd)
    obtain rfl | he := List.mem_cons.1 he
    · rw [mgetD, mputAll, List.foldl_cons]
      exact (congrArg (Option.getD · d) (mget_mputAll_of_notMem d g es _ hx)).trans (mgetD_mput_self d m e.1 (g e.2))
    · exact mgetD_mputAll es _ hnd he

end

/-! ### The map of layers (R223) -/

theorem setDigest_digest (x : SetState) (v : W32) : setDigest { x with digest := v } = setDigest x := rfl

theorem setAt_updDigest (s : State) (t p : Nat) (f : SetState → SetState) :
    setAt (s.updDigest t p f) t p = { f (setAt s t p) with digest := setDigest (f (setAt s t p)) } := setAt_updSet_self ..

section
variable {s u : State} {t p : Nat} {f : SetState → SetState} (h : OnlyDict (s.redraw.updDigest t p f) u)
include h

/-- A set whose object of the digest changes has the digest of what it then holds, and no memory changes (R223). -/
theorem updDigest_spec : setAt u t p = { f (setAt s t p) with digest := setDigest (f (setAt s t p)) } ∧
    (setAt u t p).digest = setDigest (setAt u t p) ∧ SameMemory s u := by
  have hset : setAt u t p = { f (setAt s t p) with digest := setDigest (f (setAt s t p)) } :=
    (h.setAt ..).trans (setAt_updDigest s.redraw t p f)
  refine ⟨hset, (congrArg SetState.digest hset).trans ((congrArg setDigest hset).trans (setDigest_digest ..)).symm, ?_⟩
  obtain ⟨d, rfl⟩ := h
  exact ⟨fun _ => rfl, fun _ => rfl, fun _ _ => rfl⟩

end

/-- The map of layers is the set's own, 4096 entries of 4 bytes (R223). -/
theorem domainOf_layerMap (s : State) (t p : Nat) :
    domainOf s t 0xC108 (p + 1) = (16384, 4, fun i => leBytes 4 (mgetD (setAt s t p).layerMap i 0).toNat) := rfl

theorem exec_layerMapWrite (path : Path) (tag : BitVec 16) (t p : Nat) (w : LayerWrite) (s : State) :
    exec (.layerMapWrite path tag t p w) s = execLayerMapWrite path tag t p w s := rfl

section
variable {s : State} {path : Path} {t p : Nat} (hs : Served s path 2 (some t)) (ht : t < 1024) (hp : p < 4) (tag : BitVec 16)
  (hidle : setIdle s t p = true)
include hs ht hp hidle

theorem layerMapWrite_map {off : Nat} {bs : List Byte} (hbs : 1 ≤ bs.length) (hsize : off + bs.length ≤ 16384)
    {es : List (Nat × Nat)} (hes : es = newEntries (domainOf s t 0xC108 (p + 1)) off bs)
    (hvalid : ∀ e ∈ es, bits e.2 30 28 = 0 ∧ bits e.2 15 12 = 0) :
    ∃ u, exec (.layerMapWrite path tag t p (.map off bs)) s = .next u ∧ (setAt u t p).digest = setDigest (setAt u t p) ∧
      (∀ e ∈ es, mgetD (setAt u t p).layerMap e.1 0 = BitVec.ofNat 32 e.2) ∧
      (∀ k, k ∉ es.map Prod.fst → mget (setAt u t p).layerMap k = mget (setAt s t p).layerMap k) ∧ SameMemory s u := by
  obtain ⟨-, hobj, -⟩ := objectAt_set hp
  have hquiet : quiesced s.redraw t 0xC108 (p + 1) 0 = true := hidle
  have hw : WritableDomain s 2 (some t) (some t) 0xC108 (p + 1) 16384 4 :=
    ⟨by decide, by omega, ht, .inr rfl, rfl, ⟨_, hobj, rfl, rfl, rfl⟩, hquiet, _, domainOf_layerMap ..⟩
  have hrow := rangeRow_range hs hw tag hbs hsize (by omega)
  have hwrite : writeLayerMap s.redraw t p es =
      .ok (s.redraw.updDigest t p fun y => { y with layerMap := mputAll (0 : W32) (BitVec.ofNat 32) es y.layerMap }) :=
    if_neg (by simpa using hvalid)
  have hexec : exec (.layerMapWrite path tag t p (.map off bs)) s =
      .next (s.redraw.finishWrite path (rangeMsg tag (some t) 0xC108 (p + 1) off bs) (writeLayerMap s.redraw t p es)) := by
    rw [exec_layerMapWrite, execLayerMapWrite, hes]
    rw [if_pos hp, hrow, domainOf_layerMap, domainOf_layerMap, setAt_redraw]
    rfl
  rw [hexec, hwrite]
  obtain ⟨hset, hdigest, hmem⟩ := updDigest_spec (finishWrite_ok s.redraw _ path (rangeMsg tag (some t) 0xC108 (p + 1) off bs))
  refine ⟨_, rfl, hdigest, fun e he => ?_, fun k hk => ?_, hmem⟩
  · rw [hset]
    exact mgetD_mputAll _ _ es _ (hes ▸ newEntries_nodup ..) he
  · rw [hset]
    exact mget_mputAll_of_notMem _ _ es _ hk

/-- A write of an object of the digest that its value allows (R223). -/
theorem writeSetRow_digest {index ty n : Nat} (hlow : 0xC100 ≤ index) (hhigh : index < 0xC200)
    (hobj : objectAt index (p + 1) = some (ownObj ty n 4)) (hty : ty ≠ 0x0D) (hn : n ≤ 1024) {v : Nat} (hv : v < 256 ^ n)
    {f : SetState → SetState} (hwrite : writeSet s.redraw t index p v = .ok (s.redraw.updDigest t p f)) :
    OnlyDict (s.redraw.updDigest t p f) (writeSetRow s path tag t p index (leBytes n v)) := by
  rw [writeSetRow_served hs ht hp tag hlow hhigh hobj hty (by decide) (length_leBytes ..) hn, if_neg (by simp [hidle]),
    leNat_leBytes n _ hv, hwrite]
  exact finishWrite_ok ..

theorem layerMapWrite_dims {v : BitVec 16} (hv : v.toNat < 2 ^ 12) :
    ∃ u, exec (.layerMapWrite path tag t p (.dims v)) s = .next u ∧ (setAt u t p).voteDims = v ∧
      (setAt u t p).digest = setDigest (setAt u t p) ∧ (setAt u t p).layerMap = (setAt s t p).layerMap ∧ SameMemory s u := by
  obtain ⟨-, -, hobj, -⟩ := objectAt_set hp
  have hwrite : writeSet s.redraw t 0xC109 p v.toNat =
      .ok (s.redraw.updDigest t p fun y => { y with voteDims := BitVec.ofNat 16 v.toNat }) :=
    if_neg (not_not_intro (by unfold bits; omega))
  rw [BitVec.ofNat_toNat, BitVec.setWidth_eq] at hwrite
  have honly := writeSetRow_digest hs ht hp tag hidle (by decide) (by decide) hobj (by decide) (by decide) v.isLt hwrite
  obtain ⟨hset, hdigest, hmem⟩ := updDigest_spec honly
  exact ⟨_, rfl, by rw [hset], hdigest, by rw [hset], hmem⟩

theorem layerMapWrite_expected (v : W32) :
    ∃ u, exec (.layerMapWrite path tag t p (.expected v)) s = .next u ∧ (setAt u t p).voteExpected = v.toNat ∧
      (setAt u t p).digest = setDigest (setAt u t p) ∧ (setAt u t p).layerMap = (setAt s t p).layerMap ∧ SameMemory s u := by
  obtain ⟨-, -, -, hobj, -⟩ := objectAt_set hp
  have honly := writeSetRow_digest hs ht hp tag hidle (by decide) (by decide) hobj (by decide) (by decide) v.isLt
    (f := fun y => { y with voteExpected := v.toNat }) rfl
  obtain ⟨hset, hdigest, hmem⟩ := updDigest_spec honly
  exact ⟨_, rfl, by rw [hset], hdigest, by rw [hset], hmem⟩

end

end Sys2Proof.Machine
end

section
/-!
PROOF. O30, the map of layer slots, and the obligation: a slot area that changes its tenant reads zero (R222; log 84).
-/

namespace Sys2Proof.Machine

/-! ### Slot areas that are zeroed (R222) -/

/-- The slow tiers have been zeroed in part, and the maps and the fast tier stand. -/
structure PartZeroed (s u : State) : Prop where
  globals : u.globals = s.globals
  fast : u.mem.fast = s.mem.fast
  slow : ∀ k, slowByte u k = slowByte s k ∨ slowByte u k = 0

theorem PartZeroed.refl (s : State) : PartZeroed s s := ⟨rfl, rfl, fun _ => .inl rfl⟩

theorem PartZeroed.zero {s u : State} (h : PartZeroed s u) {k : Nat} (hk : slowByte s k = 0) : slowByte u k = 0 :=
  (h.slow k).elim (fun hsame => hsame.trans hk) id

theorem PartZeroed.trans {s u w : State} (h : PartZeroed s u) (h' : PartZeroed u w) : PartZeroed s w := by
  refine ⟨h'.globals.trans h.globals, h'.fast.trans h.fast, fun k => ?_⟩
  obtain hsame | hzero := h'.slow k
  · rw [hsame]
    exact h.slow k
  · exact .inr hzero

theorem PartZeroed.ite {s u w : State} {c : Prop} [Decidable c] (h : PartZeroed s u) (h' : PartZeroed s w) :
    PartZeroed s (if c then u else w) := by
  split
  · exact h
  · exact h'

theorem slowByte_zeroSlot (s : State) (chip e k : Nat) : slowByte (s.zeroSlot chip e) k =
    if 2 ^ 38 * chip + 2 ^ 21 * bits e 16 0 ≤ k ∧ k < 2 ^ 38 * chip + 2 ^ 21 * bits e 16 0 + 2 ^ 21 * bits e 33 17 then 0
    else slowByte s k := by
  have hfilter := mget_filter (fun k => !(decide (2 ^ 38 * chip + 2 ^ 21 * bits e 16 0 ≤ k) &&
    decide (k < 2 ^ 38 * chip + 2 ^ 21 * bits e 16 0 + 2 ^ 21 * bits e 33 17))) s.mem.slow k
  refine (congrArg (Option.getD · 0) hfilter).trans ?_
  by_cases hin : 2 ^ 38 * chip + 2 ^ 21 * bits e 16 0 ≤ k ∧ k < 2 ^ 38 * chip + 2 ^ 21 * bits e 16 0 + 2 ^ 21 * bits e 33 17
  · rw [if_pos hin, if_neg (by simpa using hin)]
    rfl
  · rw [if_neg hin, if_pos (by simpa [imp_iff_not_or, not_and_or] using hin)]
    rfl

theorem partZeroed_zeroSlot (s : State) (chip e : Nat) : PartZeroed s (s.zeroSlot chip e) := by
  refine ⟨rfl, rfl, fun k => ?_⟩
  rw [slowByte_zeroSlot]
  split
  · exact .inr rfl
  · exact .inl rfl

/-! ### The map of layer slots (R222) -/

/-- A slot that changes its tenant is zeroed, where it was and where it is. -/
def State.passSlot (s : State) (old : Nat → Nat) (e : Nat × Nat) : State :=
  if slotTenant (old e.1) ≠ slotTenant e.2 then
    let s := if bit (old e.1) 63 then s.zeroSlot (e.1 / 1024) (old e.1) else s
    if bit e.2 63 then s.zeroSlot (e.1 / 1024) e.2 else s
  else s

theorem partZeroed_passSlot (s : State) (old : Nat → Nat) (e : Nat × Nat) : PartZeroed s (s.passSlot old e) := by
  have hleft : PartZeroed s (if bit (old e.1) 63 then s.zeroSlot (e.1 / 1024) (old e.1) else s) :=
    .ite (partZeroed_zeroSlot ..) (.refl s)
  exact .ite (.ite (hleft.trans (partZeroed_zeroSlot ..)) hleft) (.refl s)

theorem slowByte_passSlot (s : State) {old : Nat → Nat} {e : Nat × Nat} (hpass : slotTenant (old e.1) ≠ slotTenant e.2)
    (hvalid : bit e.2 63 = true) {k : Nat} (hlow : 2 ^ 38 * (e.1 / 1024) + 2 ^ 21 * bits e.2 16 0 ≤ k)
    (hhigh : k < 2 ^ 38 * (e.1 / 1024) + 2 ^ 21 * bits e.2 16 0 + 2 ^ 21 * bits e.2 33 17) : slowByte (s.passSlot old e) k = 0 := by
  rw [State.passSlot, if_pos hpass]
  dsimp only
  rw [if_pos hvalid, slowByte_zeroSlot, if_pos ⟨hlow, hhigh⟩]

theorem writeSlots_ok {s : State} {es ch : List (Nat × Nat)} {old : Nat → Nat}
    (hold : old = fun j => (mgetD s.globals.layerSlots j 0).toNat)
    (hch : ch = es.filter fun e => old e.1 ≠ e.2) {m : SMap W64} (hm : m = mputAll (0 : W64) (BitVec.ofNat 64) ch s.globals.layerSlots)
    (hidle : ∀ t ∈ ownersOf slotTenant old ch, ∀ p, p < 4 → setIdle s t p = true) (hgood : slotsBad m = false) :
    ∃ u, writeSlots s es = .ok u ∧
      HandedOver (ch.foldl (fun u e => u.passSlot old e) (s.updGlobals fun g => { g with layerSlots := m })) u := by
  have hquiet : ((ownersOf slotTenant old ch).any fun t => [0, 1, 2, 3].any fun p => !setIdle s t p) = false := by
    simp only [List.any_eq_false, Bool.not_eq_true, Bool.not_eq_false']
    intro t ht p hp
    exact hidle t ht p (by simp at hp; omega)
  subst hold hch hm
  unfold writeSlots
  dsimp only
  rw [hquiet, if_neg Bool.false_ne_true]
  refine ⟨_, if_neg (Bool.eq_false_iff.1 hgood), ?_⟩
  exact given_handedOver ..

theorem exec_layerSlotMapWrite {s : State} {path : Path} {role : Nat} {own : Option Nat} (hs : Served s path role own) (tag : BitVec 16)
    (hr : role = 3 ∨ role = 5) {off : Nat} {bs : List Byte} (hbs : 1 ≤ bs.length) (hsize : off + bs.length ≤ 32768) :
    exec (.layerSlotMapWrite path tag off bs) s = .next (s.redraw.finishWrite path (rangeMsg tag none 0x4201 1 off bs)
      (writeSlots s.redraw (newEntries (domainOf s.redraw 0 0x4201 1) off bs))) := by
  have hw : mayWrite .op role = true := by simpa [mayWrite] using hr
  have hd : WritableDomain s role own none 0x4201 1 32768 8 :=
    ⟨by decide, by decide, by decide, .inl rfl, rfl, ⟨opObj 0x0D 32768 4, rfl, rfl, rfl, hw⟩, rfl, _, rfl⟩
  exact congrArg Host.Outcome.next (rangeRow_range hs hd tag hbs hsize (by omega))

theorem domainOf_layerSlots (s : State) :
    domainOf s 0 0x4201 1 = (32768, 8, fun i => leBytes 8 (mgetD s.globals.layerSlots i 0).toNat) := rfl

section
variable {s : State} {path : Path} {role : Nat} {own : Option Nat} (hs : Served s path role own) (tag : BitVec 16)
  (hr : role = 3 ∨ role = 5) {off : Nat} {bs : List Byte} (hbs : 1 ≤ bs.length) (hsize : off + bs.length ≤ 32768)
include hs hr hbs hsize

theorem layerSlotMapWrite_writes {old : Nat → Nat} (hold : old = fun j => (mgetD s.globals.layerSlots j 0).toNat)
    {ch : List (Nat × Nat)} (hch : ch = (newEntries (domainOf s 0 0x4201 1) off bs).filter fun e => old e.1 ≠ e.2) {m : SMap W64}
    (hm : m = mputAll (0 : W64) (BitVec.ofNat 64) ch s.globals.layerSlots)
    (hidle : ∀ t ∈ ownersOf slotTenant old ch, ∀ p, p < 4 → setIdle s t p = true) (hgood : slotsBad m = false) :
    ∃ u, exec (.layerSlotMapWrite path tag off bs) s = .next u ∧ u.globals.layerSlots = m ∧
      (∀ e ∈ ch, slotTenant (old e.1) ≠ slotTenant e.2 → bit e.2 63 = true →
        ∀ k, 2 ^ 38 * (e.1 / 1024) + 2 ^ 21 * bits e.2 16 0 ≤ k →
          k < 2 ^ 38 * (e.1 / 1024) + 2 ^ 21 * bits e.2 16 0 + 2 ^ 21 * bits e.2 33 17 → slowByte u k = 0) ∧
      (∀ k, slowByte u k = slowByte s k ∨ slowByte u k = 0) ∧ ∀ k, fastByte u k = fastByte s k := by
  rw [domainOf_layerSlots] at hch
  obtain ⟨u, hu, hgiven⟩ := writeSlots_ok (s := s.redraw) hold hch hm hidle hgood
  obtain ⟨w, hw⟩ : ∃ w, w = ch.foldl (fun u e => u.passSlot old e) (s.redraw.updGlobals fun g => { g with layerSlots := m }) :=
    ⟨_, rfl⟩
  rw [← hw] at hgiven
  have hzeroed : PartZeroed (s.redraw.updGlobals fun g => { g with layerSlots := m }) w :=
    hw ▸ foldl_keeps (P := PartZeroed _) _ (fun u e hpart => hpart.trans (partZeroed_passSlot ..)) ch _ (.refl _)
  have hexec := exec_layerSlotMapWrite hs tag hr hbs hsize
  rw [domainOf_layerSlots, show s.redraw.globals = s.globals from rfl, hu] at hexec
  obtain ⟨⟨x, v, dir, q, d, hfinal⟩, -⟩ :=
    hgiven.trans (finishWrite_ok s.redraw u path (rangeMsg tag none 0x4201 1 off bs)).handedOver
  refine ⟨_, hexec, ?_, fun e he hpass hvalid k hlow hhigh => ?_, fun k => ?_, fun k => ?_⟩
  · rw [hfinal]
    exact congrArg Globals.layerSlots hzeroed.globals
  · rw [hfinal]
    refine (?_ : slowByte w k = 0)
    rw [hw]
    exact foldl_reaches_mem (P := fun u : State => slowByte u k = 0) _ he (fun u => slowByte_passSlot u hpass hvalid hlow hhigh)
      (fun u y _ hzero => (partZeroed_passSlot u old y).zero hzero) _
  · rw [hfinal]
    exact hzeroed.slow k
  · rw [hfinal]
    exact congrArg (fun fast : SMap Byte => mgetD fast k 0) hzeroed.fast

end

/-- Settles O30: the controls and the mode where `SetState` allows them and where it does not, the end of an image, and the maps of
layers and of layer slots. -/
theorem controlsSteerTheSet : Obligations.ControlsSteerTheSet := by
  unfold Obligations.ControlsSteerTheSet
  refine ⟨⟨fun s path tag t p hs ht hp => ⟨fun hst hnew hrel => attemptControlAbort_forces hs ht hp tag hst hnew hrel,
    fun h => attemptControlAbort_refused hs ht hp tag h, fun hlow hhigh => attemptControlPause_pends hs ht hp tag hlow hhigh,
    fun h => attemptControlPause_refused hs ht hp tag h, fun h => attemptControlResume_asks hs ht hp tag h,
    fun h => attemptControlResume_refused hs ht hp tag h, fun h => attemptControlImport_moves hs ht hp tag h,
    fun h => attemptControlImport_refused hs ht hp tag h, fun h => attemptControlExport_moves hs ht hp tag h,
    fun h => attemptControlExport_refused hs ht hp tag h, fun v => ⟨fun h => parameterSetModeWrite_busy hs ht hp tag v h,
    fun hidle h => parameterSetModeWrite_refused hs ht hp tag v hidle h,
    fun hidle hv hst hblock => parameterSetModeWrite_enters hs ht hp tag v hidle hv hst hblock, ?_⟩⟩,
    fun s t p hstate himage hend => importExportComplete_ends hstate himage hend⟩,
    fun s path tag t p hs ht hp hidle => ⟨fun off bs hbs hsize hvalid => layerMapWrite_map hs ht hp tag hidle hbs hsize rfl hvalid,
      fun v hv => layerMapWrite_dims hs ht hp tag hidle hv, fun v => layerMapWrite_expected hs ht hp tag hidle v⟩,
    fun s path tag role off own bs hs hr hbs hsize hidle hgood =>
      layerSlotMapWrite_writes hs tag hr hbs hsize rfl rfl rfl hidle hgood⟩
  rintro hidle rfl
  exact parameterSetModeWrite_leaves hs ht hp tag hidle

end Sys2Proof.Machine
end

section
/-!
SUPPORT. What the work of one link leaves: its own entry changes, every other link stays, and of the rest of the module no
memory and no tile changes (R259 to R264, R281 to R283).
-/

namespace Sys2Proof.Machine

/-! ### Links after an update -/

theorem linkAt_updLink (s : State) (l j : Nat) (f : Link → Link) :
    linkAt (s.updLink l f) j = if j = l then f (linkAt s l) else linkAt s j := by
  simp only [linkAt, State.updLink, State.updLinks_links, mget_mset]
  split
  · rfl
  · rfl

@[simp] theorem linkAt_updLink_self (s : State) (l : Nat) (f : Link → Link) : linkAt (s.updLink l f) l = f (linkAt s l) := by
  rw [linkAt_updLink, if_pos rfl]

theorem linkAt_updLink_ne (s : State) {l j : Nat} (f : Link → Link) (h : j ≠ l) : linkAt (s.updLink l f) j = linkAt s j := by
  rw [linkAt_updLink, if_neg h]

theorem linkAt_of_links {s u : State} (h : u.links.links = s.links.links) (j : Nat) : linkAt u j = linkAt s j := by
  rw [linkAt, h, linkAt]

theorem linkAt_updLinks (s : State) {f : LinkState → LinkState} (h : (f s.links).links = s.links.links) (j : Nat) :
    linkAt (s.updLinks f) j = linkAt s j := linkAt_of_links h j

@[simp] theorem linkAt_updHeartwood (s : State) (f : HeartwoodState → HeartwoodState) (j : Nat) :
    linkAt (s.updHeartwood f) j = linkAt s j := rfl

/-! ### One link changes -/

/-- Of the module only the links, and Heartwood's draws, differ, and of the links only one. -/
structure OnlyLink (l : Nat) (s u : State) : Prop where
  frame : ∃ x h, u = { s with links := x, heartwood := h }
  others : ∀ j, j ≠ l → linkAt u j = linkAt s j

theorem OnlyLink.refl (l : Nat) (s : State) : OnlyLink l s s := ⟨⟨_, _, rfl⟩, fun _ _ => rfl⟩

theorem OnlyLink.trans {l : Nat} {s t u : State} (h : OnlyLink l s t) (h' : OnlyLink l t u) : OnlyLink l s u := by
  obtain ⟨⟨x, k, rfl⟩, ho⟩ := h
  obtain ⟨⟨y, m, rfl⟩, ho'⟩ := h'
  exact ⟨⟨y, m, rfl⟩, fun j hj => (ho' j hj).trans (ho j hj)⟩

theorem onlyLink_updLink (s : State) (l : Nat) (f : Link → Link) : OnlyLink l s (s.updLink l f) :=
  ⟨⟨_, _, rfl⟩, fun _ hj => linkAt_updLink_ne s f hj⟩

/-- A change of the link system that touches no link. -/
theorem onlyLink_updLinks (l : Nat) (s : State) {f : LinkState → LinkState} (h : (f s.links).links = s.links.links) :
    OnlyLink l s (s.updLinks f) :=
  ⟨⟨_, _, rfl⟩, fun j _ => linkAt_of_links h j⟩

theorem onlyLink_leaveReady (s : State) (l st : Nat) : OnlyLink l s (s.leaveReady l st) := by
  obtain ⟨⟨x, hx⟩, -, -, hothers⟩ := leaveReady_spec s l st
  exact ⟨⟨x, _, hx⟩, hothers⟩

theorem OnlyLink.mem {l : Nat} {s u : State} (h : OnlyLink l s u) : u.mem = s.mem := by
  obtain ⟨⟨x, k, rfl⟩, -⟩ := h
  rfl

theorem OnlyLink.noFlipDue {l : Nat} {s u : State} (h : OnlyLink l s u) (hn : NoFlipDue s) : NoFlipDue u := by
  obtain ⟨⟨x, k, rfl⟩, -⟩ := h
  exact hn.congr rfl rfl rfl rfl

theorem OnlyLink.tiles {l : Nat} {s u : State} (h : OnlyLink l s u) : u.tiles = s.tiles := by
  obtain ⟨⟨x, k, rfl⟩, -⟩ := h
  rfl

/-! ### The end of a command -/

theorem WoundUp.links {s u : State} (h : WoundUp s u) : u.links = s.links := by
  obtain ⟨⟨b, ts, d, k, x, rfl⟩, -⟩ := h
  rfl

theorem WoundUp.mem {s u : State} (h : WoundUp s u) : u.mem = s.mem := by
  obtain ⟨⟨b, ts, d, k, x, rfl⟩, -⟩ := h
  rfl

theorem WoundUp.linkAt {s u : State} (h : WoundUp s u) (j : Nat) : linkAt u j = Machine.linkAt s j :=
  linkAt_of_links (congrArg LinkState.links h.links) j

/-- A command of one link leaves the other links as they are, every memory, and, where no flip is due, every tile. -/
def OtherLinksKept (l : Nat) (s u : State) : Prop :=
  (∀ j, j ≠ l → linkAt u j = linkAt s j) ∧ u.mem = s.mem ∧ (NoFlipDue s → u.tiles = s.tiles)

theorem OnlyLink.othersKept {l : Nat} {s u : State} (h : OnlyLink l s u) : OtherLinksKept l s u :=
  ⟨h.others, h.mem, fun _ => h.tiles⟩

theorem OnlyLink.woundUp {l : Nat} {s t u : State} (h : OnlyLink l s t) (hw : WoundUp t u) : OtherLinksKept l s u := by
  refine ⟨fun j hj => (hw.linkAt j).trans (h.others j hj), hw.mem.trans h.mem, fun hn => ?_⟩
  obtain ⟨-, -, ht⟩ := hw
  exact (ht (h.noFlipDue hn)).trans h.tiles

end Sys2Proof.Machine
end

section
/-!
PROOF. O32: the three rows of training, and the link that becomes ready (R269, R281 to R283, R399; logs 44, 45).
-/

namespace Sys2Proof.Machine

/-! ### Lanes (R282) -/

/-- A mask of lanes of the four has the bits of its lanes. -/
theorem getLsbD_laneMask {ls : List Nat} (hs : ls.Sublist (List.range 4)) {i : Nat} (hi : i < 4) :
    (laneMask ls).getLsbD i = true ↔ i ∈ ls := by
  have hall : ∀ xs ∈ (List.range 4).sublists, ∀ k < 4, (laneMask xs).getLsbD k = true ↔ k ∈ xs := by decide
  exact hall ls (List.mem_sublists.2 hs) i hi

/-! ### The start of an attempt (R269, R281) -/

theorem linkTrainingStart_begins {s : State} {l : Nat} (hd : (linkAt s l).dimension ≤ 11)
    (hst : (linkAt s l).state = 1 ∨ (linkAt s l).state = 7 ∧ isOptical l = false) :
    ∃ u, exec (.linkTrainingStart l) s = .next u ∧ OtherLinksKept l s u ∧ u.links.nodeId = s.links.nodeIdTraining ∧
      linkAt u l = { linkAt s l with
        state := 2, attempts := (linkAt s l).attempts + 1, width := 0, trainKey := s.links.jobKey, ephemeral := none } := by
  have hx : exec (.linkTrainingStart l) s = execLinkTrainingStart l s := rfl
  have hgo : ((linkAt s l).dimension > 11 || !((linkAt s l).state = 1 || ((linkAt s l).state = 7 && !isOptical l))) = false := by
    obtain h | ⟨h, ho⟩ := hst
    · simp [h, hd]
    · simp [h, ho, hd]
  rw [hx, execLinkTrainingStart]
  dsimp only
  rw [if_neg (Bool.eq_false_iff.1 hgo)]
  have htaken : OnlyLink l s (s.updLinks fun x => { x with nodeId := x.nodeIdTraining }) := onlyLink_updLinks l s rfl
  exact ⟨_, rfl, (htaken.trans (onlyLink_updLink ..)).othersKept, rfl, linkAt_updLink_self ..⟩

/-! ### An attempt that fails, and the frame this end sends (R281, R283) -/

theorem linkAt_attemptFails (s : State) (l : Nat) : linkAt (s.attemptFails l) l =
    { linkAt s l with state := if s.links.trainAttempts ≤ (linkAt s l).attempts then 4 else 1, width := 0 } :=
  linkAt_updLink_self ..

/-- A link's entry but for the key it offers. -/
def SameButOffer (x y : Link) : Prop := ∃ e, y = { x with ephemeral := e }

/-- To draw the key of an agreement changes the link's offer and Heartwood's count alone. -/
theorem offerKey_spec (s : State) (l : Nat) : OnlyLink l s (s.offerKey l) ∧ SameButOffer (linkAt s l) (linkAt (s.offerKey l) l) ∧
    ∃ x, (s.offerKey l).links = { s.links with links := x } := by
  unfold State.offerKey
  split
  · refine ⟨(onlyLink_updLink s l _).trans ⟨⟨_, _, rfl⟩, fun _ _ => rfl⟩,
      ⟨some s.heartwood.ephemerals, ?_⟩, _, rfl⟩
    rw [linkAt_updHeartwood, linkAt_updLink_self]
  · exact ⟨.refl l s, ⟨_, rfl⟩, _, rfl⟩

theorem onlyLink_trainSend (s : State) (l : Nat) (sig : List Byte) : OnlyLink l s (s.trainSend l sig) := onlyLink_updLinks l s rfl

/-- What this end sends of itself depends on its node, its link and the settings of its dimension. -/
theorem offerFrame_spec (s : State) (l : Nat) : OnlyLink l s (s.offerFrame l) ∧
    SameButOffer (linkAt s l) (linkAt (s.offerFrame l) l) ∧
    ∃ f : TrainFrame, (s.offerFrame l).links.trainOut = s.links.trainOut ++ [(l, f)] ∧ f.node = s.links.nodeId ∧ f.link = l ∧
      f.dimension = (linkAt s l).dimension ∧ f.passSet = (linkAt s l).lanesPassed ∧ f.encrypts = encrypts s l ∧
      (isOptical l = true → f.keyCheck = keyCheckOf s (linkAt s l) (partnerOf s s.links.nodeId (linkAt s l).dimension)) := by
  obtain ⟨honly, ⟨e, he⟩, x, hx⟩ := offerKey_spec s l
  have hsend : s.offerFrame l = (s.offerKey l).trainSend l [] := rfl
  have hkeep : linkAt ((s.offerKey l).trainSend l []) l = linkAt (s.offerKey l) l := rfl
  rw [hsend, hkeep]
  refine ⟨honly.trans (onlyLink_trainSend ..), ⟨e, he⟩, ownFrame (s.offerKey l) l [], ?_, ?_, rfl, ?_, ?_, ?_, fun ho => ?_⟩
  · change (s.offerKey l).links.trainOut ++ _ = _
    rw [hx]
  · change (s.offerKey l).links.nodeId = _
    rw [hx]
  · change (linkAt (s.offerKey l) l).dimension = _
    rw [he]
  · change (linkAt (s.offerKey l) l).lanesPassed = _
    rw [he]
  · change encrypts (s.offerKey l) l = _
    rw [encrypts, he, hx, encrypts]
  · change (if isOptical l = true then keyCheckOf (s.offerKey l) (linkAt (s.offerKey l) l) (partnerOf (s.offerKey l)
      (s.offerKey l).links.nodeId (linkAt (s.offerKey l) l).dimension) else 0) = _
    rw [if_pos ho, he, keyCheckOf, partnerOf, partnerMask, hx]
    rfl

/-! ### The end of the error gate (R282) -/

/-- The link at the end of its gate, before its width is judged. -/
def State.gated (s : State) (l : Nat) (outE inE : List Nat) : State :=
  s.updLink l fun k =>
    { k with lanesPassed := laneMask (lanesPassing (gateLimit s) outE inE), gateErrors := min ((outE ++ inE).foldl max 0) (2 ^ 64 - 1),
             gateBits := s.links.gateDwell, state := 1, width := widthOf (lanesPassing (gateLimit s) outE inE).length }

theorem exec_errorGateComplete {s : State} {l : Nat} (outE inE : List Nat) (h : (linkAt s l).state = 2) {w : Nat}
    (hw : w = widthOf (lanesPassing (gateLimit s) outE inE).length) : exec (.errorGateComplete l outE inE) s =
      .next (if w = 0 ∨ w < floorOf s (linkAt s l).dimension then (s.gated l outE inE).attemptFails l
        else (s.gated l outE inE).offerFrame l).regrade.settleAcks := by
  have hx : exec (.errorGateComplete l outE inE) s = execErrorGateComplete l outE inE s := rfl
  rw [hx, execErrorGateComplete]
  dsimp only
  rw [if_neg (by simp [h]), ← hw]
  simp only [Bool.or_eq_true, decide_eq_true_eq, State.gated, ← hw]

section
variable {s : State} {l : Nat} {outE inE : List Nat} (h : (linkAt s l).state = 2) {w : Nat}
  (hw : w = widthOf (lanesPassing (gateLimit s) outE inE).length)
include h hw

/-- Too few lanes pass: the attempt fails. -/
theorem errorGateComplete_fails (hfew : w = 0 ∨ w < floorOf s (linkAt s l).dimension) :
    ∃ u, exec (.errorGateComplete l outE inE) s = .next u ∧ OtherLinksKept l s u ∧
      (linkAt u l).lanesPassed = laneMask (lanesPassing (gateLimit s) outE inE) ∧ (linkAt u l).width = 0 ∧
      (linkAt u l).state = if s.links.trainAttempts ≤ (linkAt s l).attempts then 4 else 1 := by
  have hend := regrade_settleAcks_woundUp ((s.gated l outE inE).attemptFails l)
  refine ⟨_, (exec_errorGateComplete outE inE h hw).trans (by rw [if_pos hfew]),
    OnlyLink.woundUp ((onlyLink_updLink s l _).trans (onlyLink_updLink ..)) hend, ?_⟩
  rw [hend.linkAt, linkAt_attemptFails, State.gated, linkAt_updLink_self]
  exact ⟨rfl, rfl, rfl⟩

/-- Enough lanes pass: this end sends its frame. -/
theorem errorGateComplete_passes (hmany : w ≠ 0) (hfloor : floorOf s (linkAt s l).dimension ≤ w) :
    ∃ u, exec (.errorGateComplete l outE inE) s = .next u ∧ OtherLinksKept l s u ∧
      (linkAt u l).lanesPassed = laneMask (lanesPassing (gateLimit s) outE inE) ∧ (linkAt u l).state = 1 ∧ (linkAt u l).width = w ∧
      ∃ f : TrainFrame, u.links.trainOut = s.links.trainOut ++ [(l, f)] ∧ f.node = s.links.nodeId ∧ f.link = l ∧
        f.dimension = (linkAt s l).dimension ∧ f.passSet = (linkAt u l).lanesPassed ∧ f.encrypts = encrypts s l ∧
        (isOptical l = true → f.keyCheck = keyCheckOf s (linkAt s l) (partnerOf s s.links.nodeId (linkAt s l).dimension)) := by
  have hlink : linkAt (s.gated l outE inE) l = _ := linkAt_updLink_self ..
  obtain ⟨honly, ⟨e, he⟩, f, hout, hnode, hnumber, hdim, hpass, henc, hkey⟩ := offerFrame_spec (s.gated l outE inE) l
  have hend := regrade_settleAcks_woundUp ((s.gated l outE inE).offerFrame l)
  have hdim' : (linkAt (s.gated l outE inE) l).dimension = (linkAt s l).dimension := by rw [hlink]
  refine ⟨_, (exec_errorGateComplete outE inE h hw).trans (by rw [if_neg (by omega)]),
    OnlyLink.woundUp ((onlyLink_updLink s l _).trans honly) hend, ?_, ?_, ?_, f, ?_, hnode, hnumber, hdim.trans hdim', ?_, ?_,
    fun ho => ?_⟩
  · rw [hend.linkAt, he, hlink]
  · rw [hend.linkAt, he, hlink]
  · rw [hend.linkAt, he, hlink, hw]
  · rw [hend.links]
    exact hout
  · rw [hend.linkAt, he, hpass]
  · rw [henc, encrypts, hdim', encrypts]
    rfl
  · rw [hkey ho, hlink]
    rfl

end

/-! ### The frame of the other end (R281 to R283, R399) -/

/-- The lanes that both ends have passed. -/
def lanesAgreed (k : Link) (t : TrainFrame) : List Nat := (List.range 4).filter fun i => k.lanesPassed.getLsbD i && t.passSet.getLsbD i

/-- The partner's answer, its place and the nodes it proves stand before the frame is judged: of the link only its partner and the
key it offers. -/
def State.judged (s : State) (l : Nat) (t : TrainFrame) : State :=
  let r := judgeFrame s l t
  let v := s.offerKey l
  let s1 := (if encrypts s l && !t.ephemeral.isEmpty then v.trainSend l (agreementSignature v l t) else s).updLink l fun k =>
    { k with partner := BitVec.ofNat 32 (fieldAt 12 (t.link % 128) + t.node % 4096) }
  if encrypts s l && r.1 = 3 then s1.updLinks fun x => { x with verifiedNodes := ninsert x.verifiedNodes t.node } else s1

theorem judged_spec (s : State) (l : Nat) (t : TrainFrame) : OnlyLink l s (s.judged l t) ∧
    (∃ p e, linkAt (s.judged l t) l = { linkAt s l with partner := p, ephemeral := e }) ∧
    (s.judged l t).links.trainAttempts = s.links.trainAttempts := by
  obtain ⟨honly, ⟨e, he⟩, x, hx⟩ := offerKey_spec s l
  obtain ⟨s0, h0⟩ : ∃ s0, s0 = if (encrypts s l && !t.ephemeral.isEmpty) = true then
    (s.offerKey l).trainSend l (agreementSignature (s.offerKey l) l t) else s := ⟨_, rfl⟩
  have hsent : OnlyLink l s s0 ∧ SameButOffer (linkAt s l) (linkAt s0 l) ∧ s0.links.trainAttempts = s.links.trainAttempts := by
    rw [h0]
    split
    · refine ⟨honly.trans (onlyLink_trainSend ..), ⟨e, he⟩, ?_⟩
      change (s.offerKey l).links.trainAttempts = _
      rw [hx]
    · exact ⟨.refl l s, ⟨_, rfl⟩, rfl⟩
  obtain ⟨honly0, ⟨e0, he0⟩, htries⟩ := hsent
  unfold State.judged
  dsimp only
  rw [← h0]
  split
  · refine ⟨(honly0.trans (onlyLink_updLink ..)).trans (onlyLink_updLinks l _ rfl),
      ⟨BitVec.ofNat 32 (fieldAt 12 (t.link % 128) + t.node % 4096), e0, ?_⟩, htries⟩
    rw [linkAt_updLinks _ rfl, linkAt_updLink_self, he0]
  · refine ⟨honly0.trans (onlyLink_updLink ..), ⟨BitVec.ofNat 32 (fieldAt 12 (t.link % 128) + t.node % 4096), e0, ?_⟩, htries⟩
    rw [linkAt_updLink_self, he0]

/-- What a judgement makes of the link. -/
def State.verdict (s : State) (l : Nat) (r : Nat × List Nat × Option LinkKeys) : State :=
  match r.1 with
  | 3 => s.linkReady l r.2.1 r.2.2
  | 4 => s.attemptFails l
  | n => s.updLink l fun k => { k with state := n, width := 0 }

theorem onlyLink_verdict (s : State) (l : Nat) (r : Nat × List Nat × Option LinkKeys) : OnlyLink l s (s.verdict l r) := by
  unfold State.verdict
  split
  · exact onlyLink_updLink ..
  · exact onlyLink_updLink ..
  · exact onlyLink_updLink ..

/-- A link that is ready afresh: it carries on the lanes used of those that passed, and numbers its flits from the start. -/
def FreshOn (k : Link) (w : Nat) (ls : List Nat) (keys : Option LinkKeys) : Prop :=
  k.state = 3 ∧ k.width = w ∧ k.keys = keys ∧ k.txSeq = 0 ∧ k.rxSeq = 0xFFFF ∧ k.sent = [] ∧ k.credits = [] ∧
    ∀ i, i < 4 → (k.lanes.getLsbD i = true ↔ i ∈ ls.take w)

theorem linkReady_fresh (s : State) (l : Nat) {ls : List Nat} (hs : ls.Sublist (List.range 4)) (keys : Option LinkKeys) :
    FreshOn (linkAt (s.linkReady l ls keys) l) (widthOf ls.length) ls keys := by
  rw [State.linkReady, linkAt_updLink_self]
  exact ⟨rfl, rfl, rfl, rfl, rfl, rfl, rfl, fun i hi => getLsbD_laneMask ((List.take_sublist ..).trans hs) hi⟩

/-- A frame is judged on a link that waits for it; what the link was before shows through but for its partner and its offer. -/
theorem trainingFrame_judged {s : State} {l : Nat} (t : TrainFrame) (hst : (linkAt s l).state = 1) (hwidth : (linkAt s l).width ≠ 0)
    (hserves : encrypts s l = true → heartwoodServes s = true) :
    ∃ v u, exec (.trainingFrame l t) s = .next u ∧ OtherLinksKept l s u ∧ linkAt u l = linkAt (v.verdict l (judgeFrame s l t)) l ∧
      (∃ p e, linkAt v l = { linkAt s l with partner := p, ephemeral := e }) ∧ v.links.trainAttempts = s.links.trainAttempts := by
  have hx : exec (.trainingFrame l t) s = execTrainingFrame l t s := rfl
  have hgo : ((linkAt s l).state ≠ 1 || (linkAt s l).width = 0 || (encrypts s l && !heartwoodServes s)) = false := by
    simpa [hst, hwidth] using hserves
  obtain ⟨honly, hlink, htries⟩ := judged_spec s l t
  have hend := regrade_settleAcks_woundUp ((s.judged l t).verdict l (judgeFrame s l t))
  refine ⟨s.judged l t, _, ?_, OnlyLink.woundUp (honly.trans (onlyLink_verdict ..)) hend, hend.linkAt l, hlink, htries⟩
  rw [hx, execTrainingFrame]
  simp only [hgo]
  rfl

theorem judgeFrame_stranger {s : State} {l : Nat} {t : TrainFrame}
    (h : ¬(t.node = partnerOf s s.links.nodeId (linkAt s l).dimension ∧ t.dimension = (linkAt s l).dimension)) :
    judgeFrame s l t = (5, [], none) := by
  unfold judgeFrame
  dsimp only
  rw [if_pos]
  simpa only [Bool.or_eq_true, decide_eq_true_eq, not_and_or] using h

section
variable {s : State} {l : Nat} {t : TrainFrame}
  (hpeer : t.node = partnerOf s s.links.nodeId (linkAt s l).dimension ∧ t.dimension = (linkAt s l).dimension)
include hpeer

theorem judgeFrame_unkeyed (ho : isOptical l = true)
    (h : ¬(t.keyCheck = keyCheckOf s (linkAt s l) t.node ∧ t.encrypts = encrypts s l)) : judgeFrame s l t = (6, [], none) := by
  unfold judgeFrame
  dsimp only
  rw [if_neg (by simpa using hpeer), if_pos]
  simpa only [ho, Bool.true_and, Bool.or_eq_true, decide_eq_true_eq, not_and_or] using h

section
variable (hkeyed : isOptical l = false ∨ t.keyCheck = keyCheckOf s (linkAt s l) t.node ∧ t.encrypts = encrypts s l)
  {w : Nat} (hw : w = widthOf (lanesAgreed (linkAt s l) t).length)
include hkeyed hw

/-- A frame of the partner with the right key is judged by its width, and on an encrypted link by its agreement. -/
theorem judgeFrame_keyed : judgeFrame s l t =
    if w = 0 ∨ w < floorOf s (linkAt s l).dimension then (4, [], none)
    else if encrypts s l = true then
      (linkKeysOf s l t).elim (6, [], none) fun k => (3, lanesAgreed (linkAt s l) t, some k)
    else (3, lanesAgreed (linkAt s l) t, none) := by
  obtain ⟨hnode, hdim⟩ := hpeer
  have hkey : (isOptical l && (t.keyCheck ≠ keyCheckOf s (linkAt s l) t.node || t.encrypts ≠ encrypts s l)) = false := by
    obtain h | ⟨h, h'⟩ := hkeyed
    · simp [h]
    · simp [h, h']
  unfold judgeFrame
  dsimp only
  rw [if_neg (by simp [hnode, hdim]), if_neg (Bool.eq_false_iff.1 hkey), hw]
  simp only [Bool.or_eq_true, decide_eq_true_eq, lanesAgreed]
  cases linkKeysOf s l t with
  | none => rfl
  | some k => rfl

/-- Too few lanes have passed at both ends: the attempt fails. -/
theorem verdict_few {v : State} (hattempts : (linkAt v l).attempts = (linkAt s l).attempts)
    (htries : v.links.trainAttempts = s.links.trainAttempts) (hfew : w = 0 ∨ w < floorOf s (linkAt s l).dimension) :
    (linkAt (v.verdict l (judgeFrame s l t)) l).state = if s.links.trainAttempts ≤ (linkAt s l).attempts then 4 else 1 := by
  rw [judgeFrame_keyed hpeer hkeyed hw, if_pos hfew, ← hattempts, ← htries]
  exact congrArg Link.state (linkAt_attemptFails v l)

/-- Enough lanes have passed: the link is ready, on an encrypted dimension where the agreement gives keys. -/
theorem verdict_many (v : State) (hmany : w ≠ 0) (hfloor : floorOf s (linkAt s l).dimension ≤ w) :
    (encrypts s l = false → FreshOn (linkAt (v.verdict l (judgeFrame s l t)) l) w (lanesAgreed (linkAt s l) t) none) ∧
    (encrypts s l = true → match linkKeysOf s l t with
      | none => (linkAt (v.verdict l (judgeFrame s l t)) l).state = 6
      | some k => FreshOn (linkAt (v.verdict l (judgeFrame s l t)) l) w (lanesAgreed (linkAt s l) t) (some k)) := by
  rw [judgeFrame_keyed hpeer hkeyed hw, if_neg (by omega)]
  have hready := fun keys => linkReady_fresh v l (ls := lanesAgreed (linkAt s l) t) List.filter_sublist keys
  refine ⟨fun henc => ?_, fun henc => ?_⟩
  · rw [if_neg (by simp [henc]), hw]
    exact hready none
  · rw [if_pos henc, hw]
    cases linkKeysOf s l t with
    | none => exact congrArg Link.state (linkAt_updLink_self ..)
    | some k => exact hready (some k)

end

end

/-- Settles O32: the start of an attempt, the end of its gate by the lanes that pass, and the frame of the other end by its judgement. -/
theorem linksTrain : Obligations.LinksTrain := by
  unfold Obligations.LinksTrain
  refine fun s l => ⟨linkTrainingStart_begins, fun outE inE hst => ?_, fun t hst hwidth hserves => ?_⟩
  · have hlanes : ∀ i, i < 4 → ((laneMask (lanesPassing (gateLimit s) outE inE)).getLsbD i = true ↔
        i ∈ lanesPassing (gateLimit s) outE inE) := fun i hi => getLsbD_laneMask List.filter_sublist hi
    by_cases hfew : widthOf (lanesPassing (gateLimit s) outE inE).length = 0 ∨
        widthOf (lanesPassing (gateLimit s) outE inE).length < floorOf s (linkAt s l).dimension
    · obtain ⟨u, hu, hothers, hpassed, hnone, hstate⟩ := errorGateComplete_fails hst rfl hfew
      exact ⟨u, hu, hothers, fun i hi => hpassed ▸ hlanes i hi,
        fun hw hf => absurd hfew (not_or.2 ⟨hw, Nat.not_lt.2 hf⟩), fun _ => ⟨hnone, hstate⟩⟩
    · obtain ⟨hmany, hfloor⟩ := not_or.1 hfew
      obtain ⟨u, hu, hothers, hpassed, hstate⟩ := errorGateComplete_passes hst rfl hmany (Nat.not_lt.1 hfloor)
      exact ⟨u, hu, hothers, fun i hi => hpassed ▸ hlanes i hi, fun _ _ => hstate, fun h => absurd h hfew⟩
  · obtain ⟨v, u, hu, hothers, hlink, ⟨p, e, hv⟩, htries⟩ := trainingFrame_judged t hst hwidth hserves
    refine ⟨u, hu, hothers, fun h => ?_, fun hpeer hkey => ?_, fun hpeer hkey hfew => ?_, fun hpeer hkey hmany hfloor => ?_⟩
    · rw [hlink, judgeFrame_stranger (of_decide_eq_false h)]
      exact congrArg Link.state (linkAt_updLink_self ..)
    · obtain ⟨ho, hbad⟩ := Bool.or_eq_false_iff.1 hkey
      rw [hlink, judgeFrame_unkeyed (of_decide_eq_true hpeer) (by simpa using ho) (of_decide_eq_false hbad)]
      exact congrArg Link.state (linkAt_updLink_self ..)
    · rw [hlink]
      exact verdict_few (of_decide_eq_true hpeer) (by simpa using hkey) rfl (by rw [hv]) htries hfew
    · rw [hlink]
      exact verdict_many (of_decide_eq_true hpeer) (by simpa using hkey) rfl v hmany hfloor

end Sys2Proof.Machine
end

section
/-!
SUPPORT. What sending on a link leaves (R259 to R262): of the module only the link system, and of it the lists of what has gone out
and the sender's side of that one link.
-/

namespace Sys2Proof.Machine

/-! ### The sender's side of a link -/

/-- A link is as before but for what its sender keeps: its flits, their numbers and counts, and what it has to send. -/
structure SameButSender (x y : Link) : Prop where
  keyed : y.keys.isSome = x.keys.isSome
  frame : ∃ sent queue seq ks replays resends owed units, y =
    { x with sent := sent, queue := queue, txSeq := seq, keys := ks, replays := replays, resends := resends, owed := owed,
             txUnits := units }

theorem SameButSender.refl (x : Link) : SameButSender x x := ⟨rfl, _, _, _, _, _, _, _, _, rfl⟩

theorem SameButSender.trans {x y z : Link} (h : SameButSender x y) (h' : SameButSender y z) : SameButSender x z := by
  obtain ⟨hk, _, _, _, _, _, _, _, _, rfl⟩ := h
  obtain ⟨hk', _, _, _, _, _, _, _, _, rfl⟩ := h'
  exact ⟨hk'.trans hk, _, _, _, _, _, _, _, _, rfl⟩

/-- A link has sent: of the module, the lists of what has gone out and the sender's side of that link differ. -/
structure Transmits (l : Nat) (s u : State) : Prop where
  frame : ∃ k f c, u = { s with links := { s.links with links := k, flitsOut := f, codesOut := c } }
  link : SameButSender (linkAt s l) (linkAt u l)
  others : ∀ j, j ≠ l → linkAt u j = linkAt s j

theorem Transmits.refl (l : Nat) (s : State) : Transmits l s s := ⟨⟨_, _, _, rfl⟩, .refl _, fun _ _ => rfl⟩

theorem Transmits.trans {l : Nat} {s t u : State} (h : Transmits l s t) (h' : Transmits l t u) : Transmits l s u := by
  obtain ⟨⟨k, f, c, rfl⟩, hl, ho⟩ := h
  obtain ⟨⟨k', f', c', rfl⟩, hl', ho'⟩ := h'
  exact ⟨⟨k', f', c', rfl⟩, hl.trans hl', fun j hj => (ho' j hj).trans (ho j hj)⟩

/-- A change of the sender's side of one link. -/
theorem transmits_updLink (s : State) (l : Nat) {f : Link → Link} (hf : ∀ x, SameButSender x (f x)) :
    Transmits l s (s.updLink l f) := by
  refine ⟨⟨_, _, _, rfl⟩, ?_, fun j hj => linkAt_updLink_ne s f hj⟩
  rw [linkAt_updLink_self]
  exact hf _

theorem Transmits.mem {l : Nat} {s u : State} (h : Transmits l s u) : u.mem = s.mem := by
  obtain ⟨⟨k, f, c, rfl⟩, -⟩ := h
  rfl

theorem Transmits.draws {l : Nat} {s u : State} (h : Transmits l s u) : u.draws = s.draws := by
  obtain ⟨⟨k, f, c, rfl⟩, -⟩ := h
  rfl

theorem Transmits.onlyLink {l : Nat} {s u : State} (h : Transmits l s u) : OnlyLink l s u := by
  obtain ⟨⟨k, f, c, rfl⟩, -, ho⟩ := h
  exact ⟨⟨_, _, rfl⟩, ho⟩

/-- What the router holds is not touched by what a link sends. -/
theorem Transmits.router {l : Nat} {s u : State} (h : Transmits l s u) : u.links.nodeId = s.links.nodeId ∧
    u.links.inbox = s.links.inbox ∧ u.links.arrived = s.links.arrived ∧ u.links.undeliverable = s.links.undeliverable := by
  obtain ⟨⟨k, f, c, rfl⟩, -⟩ := h
  exact ⟨rfl, rfl, rfl, rfl⟩

/-! ### One flit (R259 to R261) -/

/-- One lane's part of a flit. -/
def State.stripeLane (l : Nat) (f : Flit) (lanes : List Nat) (s : State) (j : Nat) : State :=
  let i := lanes.getD j 0
  let units := mgetD (linkAt s l).txUnits i [] ++ unitsFor lanes.length j (unitsOf f)
  if units.length < 20 then s.updLink l fun k => { k with txUnits := mset k.txUnits i units }
  else
    (s.updLink l fun k => { k with txUnits := mset k.txUnits i (units.drop 20) }).updLinks fun x =>
      { x with codesOut := x.codesOut ++ [(l, { lane := i, symbols := rsEncode (blocksOut (units.take 20)) })] }

theorem stripe_eq (s : State) (l : Nat) (f : Flit) : s.stripe l f =
    (List.range (activeLanes (linkAt s l)).length).foldl (State.stripeLane l f (activeLanes (linkAt s l))) s := rfl

/-- Each lane's part of a flit changes what its link has to send, and no list of flits. -/
theorem stripeLane_spec (l : Nat) (f : Flit) (lanes : List Nat) (s : State) (j : Nat) :
    Transmits l s (s.stripeLane l f lanes j) ∧ (s.stripeLane l f lanes j).links.flitsOut = s.links.flitsOut := by
  have hunits : ∀ v : Link → SMap (List (BitVec 256)), Transmits l s (s.updLink l fun k => { k with txUnits := v k }) := fun v =>
    transmits_updLink s l fun x => ⟨rfl, _, _, _, _, _, _, _, _, rfl⟩
  unfold State.stripeLane
  dsimp only
  split
  · exact ⟨hunits _, rfl⟩
  · exact ⟨(hunits _).trans ⟨⟨_, _, _, rfl⟩, .refl _, fun _ _ => rfl⟩, rfl⟩

theorem stripe_spec (s : State) (l : Nat) (f : Flit) :
    Transmits l s (s.stripe l f) ∧ (s.stripe l f).links.flitsOut = s.links.flitsOut := by
  rw [stripe_eq]
  refine foldl_keeps (P := fun u : State => Transmits l s u ∧ u.links.flitsOut = s.links.flitsOut) _ ?_ _ _ ⟨.refl l s, rfl⟩
  rintro u j ⟨hu, hf⟩
  obtain ⟨hsent, hflits⟩ := stripeLane_spec l f (activeLanes (linkAt s l)) u j
  exact ⟨hu.trans hsent, hflits.trans hf⟩

/-- A flit that is sent is the next of the flits that have gone out. -/
theorem emit_spec (s : State) (l : Nat) (t : Option TxFlit) (nak : Bool) :
    Transmits l s (s.emit l t nak) ∧ ∃ x, (s.emit l t nak).links.flitsOut = s.links.flitsOut ++ [(l, x)] := by
  unfold State.emit
  dsimp only
  obtain ⟨hstripe, hflits⟩ := stripe_spec _ l _
  refine ⟨Transmits.trans ?_ hstripe, _, hflits⟩
  refine (transmits_updLink s l fun x => ?_).trans ⟨⟨_, _, _, rfl⟩, .refl _, fun _ _ => rfl⟩
  exact ⟨rfl, _, _, _, _, _, _, _, _, rfl⟩

/-! ### What waits goes out, and goes out again (R261, R262) -/

theorem pumpLink_transmits (fuel : Nat) : ∀ (s : State) (l : Nat), Transmits l s (pumpLink fuel s l) := by
  induction fuel with
  | zero => exact fun s l => .refl l s
  | succ n ih =>
    intro s l
    unfold pumpLink
    dsimp only
    split
    · exact .refl l s
    · refine Transmits.trans ?_ (ih _ l)
      refine Transmits.trans (transmits_updLink s l fun x => ?_) (emit_spec ..).1
      exact ⟨Option.isSome_map, _, _, _, _, _, _, _, _, rfl⟩

theorem pumpLinkAll_transmits (s : State) (l : Nat) : Transmits l s (s.pumpLinkAll l) := pumpLink_transmits ..

theorem resend_transmits (s : State) (l : Nat) : Transmits l s (s.resend l) := by
  unfold State.resend
  dsimp only
  split
  · exact .refl l s
  · have hcounted : Transmits l s (s.updLink l fun k => { k with replays := satAdd 64 k.replays 1, resends := k.resends + 1 }) :=
      transmits_updLink s l fun x => ⟨rfl, _, _, _, _, _, _, _, _, rfl⟩
    exact foldl_keeps (P := Transmits l s) _ (fun u t hu => hu.trans (emit_spec u l (some t) false).1) _ _ hcounted

theorem oweCredits_transmits (s : State) (l key n : Nat) : Transmits l s (s.oweCredits l key n) := by
  unfold State.oweCredits
  split
  · exact .refl l s
  · exact transmits_updLink s l fun x => ⟨rfl, _, _, _, _, _, _, _, _, rfl⟩

end Sys2Proof.Machine
end

section
/-!
PROOF. O33, flits that come over a link: code words are taken, a flit whose CRC fails or that is out of order is discarded and asked for
again, and one in order is accepted (R259 to R261; logs 43, 109).
-/

namespace Sys2Proof.Machine

/-! ### What a link has received -/

/-- What a link has received, and what has arrived from any link, is as before. -/
structure SameReceived (l : Nat) (s u : State) : Prop where
  arrived : u.links.arrived = s.links.arrived
  rxSeq : (linkAt u l).rxSeq = (linkAt s l).rxSeq
  part : (linkAt u l).part = (linkAt s l).part
  whole : (linkAt u l).rxWhole = (linkAt s l).rxWhole
  discarding : (linkAt u l).discarding = (linkAt s l).discarding

theorem SameReceived.refl (l : Nat) (s : State) : SameReceived l s s := ⟨rfl, rfl, rfl, rfl, rfl⟩

theorem SameReceived.trans {l : Nat} {s t u : State} (h : SameReceived l s t) (h' : SameReceived l t u) : SameReceived l s u :=
  ⟨h'.arrived.trans h.arrived, h'.rxSeq.trans h.rxSeq, h'.part.trans h.part, h'.whole.trans h.whole, h'.discarding.trans h.discarding⟩

theorem Transmits.sameReceived {l : Nat} {s u : State} (h : Transmits l s u) : SameReceived l s u := by
  obtain ⟨-, -, harrived, -⟩ := h.router
  obtain ⟨-, _, _, _, _, _, _, _, _, hlink⟩ := h.link
  exact ⟨harrived, by rw [hlink], by rw [hlink], by rw [hlink], by rw [hlink]⟩

theorem takeAck_sameReceived (s : State) (l h : Nat) : SameReceived l s (s.takeAck l h) := by
  unfold State.takeAck
  refine ⟨rfl, ?_, ?_, ?_, ?_⟩
  · rw [linkAt_updLink_self]
  · rw [linkAt_updLink_self]
  · rw [linkAt_updLink_self]
  · rw [linkAt_updLink_self]

/-! ### Code words (R259) -/

/-- A link is as before but for its units and the counts of its code. -/
def SameButUnits (x y : Link) : Prop := ∃ us n m, y = { x with rxUnits := us, fecCorrected := n, fecUncorrectable := m }

/-- Code words have come: of the module only the units and the counts of their link differ. -/
structure CodesTaken (l : Nat) (s u : State) : Prop where
  frame : ∃ k, u = { s with links := { s.links with links := k } }
  link : SameButUnits (linkAt s l) (linkAt u l)
  others : ∀ j, j ≠ l → linkAt u j = linkAt s j

theorem CodesTaken.refl (l : Nat) (s : State) : CodesTaken l s s := ⟨⟨_, rfl⟩, ⟨_, _, _, rfl⟩, fun _ _ => rfl⟩

theorem CodesTaken.trans {l : Nat} {s t u : State} (h : CodesTaken l s t) (h' : CodesTaken l t u) : CodesTaken l s u := by
  obtain ⟨⟨k, rfl⟩, ⟨us, n, m, hl⟩, ho⟩ := h
  obtain ⟨⟨k', rfl⟩, ⟨us', n', m', hl'⟩, ho'⟩ := h'
  exact ⟨⟨k', rfl⟩, ⟨us', n', m', by rw [hl', hl]⟩, fun j hj => (ho' j hj).trans (ho j hj)⟩

theorem codesTaken_updLink (s : State) (l : Nat) {f : Link → Link} (hf : ∀ x, SameButUnits x (f x)) :
    CodesTaken l s (s.updLink l f) := by
  refine ⟨⟨_, rfl⟩, ?_, fun j hj => linkAt_updLink_ne s f hj⟩
  rw [linkAt_updLink_self]
  exact hf _

theorem takeCode_codesTaken (s : State) (l : Nat) (c : LaneCode) : CodesTaken l s (s.takeCode l c) := by
  unfold State.takeCode
  dsimp only
  split
  · exact codesTaken_updLink s l fun x => ⟨_, _, _, rfl⟩
  · exact codesTaken_updLink s l fun x => ⟨_, _, _, rfl⟩

theorem takeCodes_codesTaken (s : State) (l : Nat) (codes : List LaneCode) :
    CodesTaken l s (codes.foldl (fun s c => s.takeCode l c) s) :=
  foldl_keeps (P := CodesTaken l s) _ (fun u c hu => hu.trans (takeCode_codesTaken u l c)) _ _ (.refl l s)

theorem CodesTaken.flitsOut {l : Nat} {s u : State} (h : CodesTaken l s u) : u.links.flitsOut = s.links.flitsOut := by
  obtain ⟨⟨k, rfl⟩, -⟩ := h
  rfl

theorem CodesTaken.sameReceived {l : Nat} {s u : State} (h : CodesTaken l s u) : SameReceived l s u := by
  obtain ⟨⟨k, rfl⟩, ⟨us, n, m, hl⟩, -⟩ := h
  exact ⟨rfl, by rw [hl], by rw [hl], by rw [hl], by rw [hl]⟩

/-- The state in which a flit is taken: its code words have come, and its units have left the link. -/
def State.unitsTaken (s : State) (l : Nat) (codes : List LaneCode) (rest : SMap (List (BitVec 256))) : State :=
  (codes.foldl (fun s c => s.takeCode l c) s.redraw).updLink l fun k => { k with rxUnits := rest }

theorem unitsTaken_codesTaken (s : State) (l : Nat) (codes : List LaneCode) (rest : SMap (List (BitVec 256))) :
    CodesTaken l s.redraw (s.unitsTaken l codes rest) :=
  (takeCodes_codesTaken ..).trans (codesTaken_updLink _ l fun _ => ⟨_, _, _, rfl⟩)

section
variable {s : State} {l : Nat} {codes : List LaneCode} (hst : (linkAt s l).state = 3) (hfit : codesFit (linkAt s l) codes = true)
include hst hfit

/-- Code words that complete no flit wait for it. -/
theorem flitReceive_waits (h : nextFlit (linkAt (codes.foldl (fun s c => s.takeCode l c) s.redraw) l) = none) :
    exec (.flitReceive l codes) s = .next (codes.foldl (fun s c => s.takeCode l c) s.redraw) := by
  change execFlitReceive l codes s = _
  rw [execFlitReceive, if_neg (by simp [hst, hfit])]
  dsimp only
  rw [h]

theorem flitReceive_takes {f : Flit} {rest : SMap (List (BitVec 256))}
    (h : nextFlit (linkAt (codes.foldl (fun s c => s.takeCode l c) s.redraw) l) = some (f, rest)) :
    exec (.flitReceive l codes) s = .next ((s.unitsTaken l codes rest).flitIn l f) := by
  change execFlitReceive l codes s = _
  rw [execFlitReceive, if_neg (by simp [hst, hfit])]
  dsimp only
  rw [h]
  rfl

end

/-! ### Flits that are discarded (R261) -/

/-- A discarded flit leaves what has been received, and its resend is asked for. -/
theorem discardFlit_spec (s : State) (l : Nat) (counted : Bool) :
    (s.discardFlit l counted).links.arrived = s.links.arrived ∧ (linkAt (s.discardFlit l counted) l).rxSeq = (linkAt s l).rxSeq ∧
    (linkAt (s.discardFlit l counted) l).part = (linkAt s l).part ∧ (linkAt (s.discardFlit l counted) l).discarding = true ∧
    (linkAt (s.discardFlit l counted) l).crcFailures =
      (if counted then satAdd 64 (linkAt s l).crcFailures 1 else (linkAt s l).crcFailures) ∧
    ∃ x, (s.discardFlit l counted).links.flitsOut = s.links.flitsOut ++ [(l, x)] := by
  unfold State.discardFlit
  obtain ⟨hsent, x, hx⟩ := emit_spec (s.updLink l fun k =>
    { k with discarding := true, crcFailures := if counted then satAdd 64 k.crcFailures 1 else k.crcFailures }) l none true
  obtain ⟨-, -, harrived, -⟩ := hsent.router
  obtain ⟨-, _, _, _, _, _, _, _, _, hlink⟩ := hsent.link
  rw [linkAt_updLink_self] at hlink
  exact ⟨harrived, by rw [hlink], by rw [hlink], by rw [hlink], by rw [hlink], x, hx⟩

/-- What every flit in order brings beside its words: acknowledgements, credits and the wish for a resend. -/
def State.answerFlit (s : State) (l h : Nat) : State :=
  (if bit h 88 then (s.takeAck l h).resend l else s.takeAck l h).pumpLinkAll l

theorem answerFlit_sameReceived (s : State) (l h : Nat) : SameReceived l s (s.answerFlit l h) := by
  have hack := takeAck_sameReceived s l h
  unfold State.answerFlit
  split
  · exact (hack.trans (resend_transmits ..).sameReceived).trans (pumpLinkAll_transmits ..).sameReceived
  · exact hack.trans (pumpLinkAll_transmits ..).sameReceived

section
variable {s : State} {l : Nat} {f : Flit}

theorem flitIn_damaged (h : crc32 (flitBody f.hdr f.hdrCheck f.payload) ≠ f.crc) : s.flitIn l f = s.discardFlit l true := by
  unfold State.flitIn
  dsimp only
  rw [if_pos h]

variable (hcrc : crc32 (flitBody f.hdr f.hdrCheck f.payload) = f.crc) {hdr : BitVec 128}
  (hhdr : decodeWord (f.hdrCheck ++ f.hdr) = some hdr)
include hcrc hhdr

theorem flitIn_sound : s.flitIn l f =
    if bit hdr.toNat 89 = true then s.answerFlit l hdr.toNat
    else if BitVec.ofNat 16 (bits hdr.toNat 127 112) ≠ (linkAt s l).rxSeq + 1 then
      (if (linkAt s l).discarding then s else s.discardFlit l false)
    else (flitPayload (linkAt s l) hdr f).elim (s.discardFlit l true) fun ws =>
      ((s.acceptFlit l hdr ws).answerFlit l hdr.toNat).emit l none false := by
  unfold State.flitIn
  dsimp only
  rw [if_neg (not_not_intro hcrc), hhdr]
  dsimp only
  cases flitPayload (linkAt s l) hdr f with
  | none => rfl
  | some ws => rfl

theorem flitIn_idle (h : bit hdr.toNat 89 = true) : SameReceived l s (s.flitIn l f) := by
  rw [flitIn_sound hcrc hhdr, if_pos h]
  exact answerFlit_sameReceived ..

variable (hbusy : bit hdr.toNat 89 = false)
include hbusy

theorem flitIn_outOfOrder (hseq : BitVec.ofNat 16 (bits hdr.toNat 127 112) ≠ (linkAt s l).rxSeq + 1)
    (hfirst : (linkAt s l).discarding = false) : s.flitIn l f = s.discardFlit l false := by
  rw [flitIn_sound hcrc hhdr, if_neg (by simp [hbusy]), if_pos hseq, if_neg (by simp [hfirst])]

/-- A flit in order on a link without keys is accepted whole. -/
theorem flitIn_inOrder (hseq : BitVec.ofNat 16 (bits hdr.toNat 127 112) = (linkAt s l).rxSeq + 1)
    (hkeys : (linkAt s l).keys = none) (hplain : bit hdr.toNat 87 = false) :
    SameReceived l (s.acceptFlit l hdr (f.payload.take (bits hdr.toNat 67 64))) (s.flitIn l f) := by
  have hpayload : flitPayload (linkAt s l) hdr f = some (f.payload.take (bits hdr.toNat 67 64)) := by simp [flitPayload, hkeys, hplain]
  rw [flitIn_sound hcrc hhdr, if_neg (by simp [hbusy]), if_neg (not_not_intro hseq), hpayload]
  exact (answerFlit_sameReceived ..).trans (emit_spec ..).1.sameReceived

end

/-! ### Flits that are accepted (R261, R265) -/

/-- The words that a link holds of a packet once a flit has brought its own. -/
def partAfter (k : Link) (h : Nat) (ws : List (BitVec 144)) : List (BitVec 144) := (if bit h 91 then [] else k.part) ++ ws

/-- The link when an accepted flit's words have joined the packet they belong to. -/
def State.joined (s : State) (l : Nat) (hdr : BitVec 128) (ws : List (BitVec 144)) : State :=
  (if bit hdr.toNat 91 then s.oweCredits l (2 * bits hdr.toNat 95 94 + bits hdr.toNat 93 92 % 2) (linkAt s l).partFlits
    else s).updLink l fun k =>
    { k with rxSeq := BitVec.ofNat 16 (bits hdr.toNat 127 112), discarding := false,
             part := (if bit hdr.toNat 91 then [] else k.part) ++ ws,
             partFlits := (if bit hdr.toNat 91 then 0 else k.partFlits) + 1,
             keys := k.keys.map fun z => { z with rxCount := z.rxCount + 1 } }

theorem joined_spec (s : State) (l : Nat) (hdr : BitVec 128) (ws : List (BitVec 144)) :
    (s.joined l hdr ws).links.arrived = s.links.arrived ∧
    (linkAt (s.joined l hdr ws) l).rxSeq = BitVec.ofNat 16 (bits hdr.toNat 127 112) ∧
    (linkAt (s.joined l hdr ws) l).discarding = false ∧
    (linkAt (s.joined l hdr ws) l).part = partAfter (linkAt s l) hdr.toNat ws := by
  unfold State.joined
  rw [linkAt_updLink_self]
  split
  · next hsop =>
    obtain ⟨-, -, harrived, -⟩ := (oweCredits_transmits s l (2 * bits hdr.toNat 95 94 + bits hdr.toNat 93 92 % 2)
      (linkAt s l).partFlits).router
    exact ⟨harrived, rfl, rfl, by simp [partAfter, hsop]⟩
  · next hsop => exact ⟨rfl, rfl, rfl, by simp [partAfter, hsop]⟩

theorem acceptFlit_eq (s : State) (l : Nat) (hdr : BitVec 128) (ws : List (BitVec 144)) : s.acceptFlit l hdr ws =
    if bit hdr.toNat 90 then
      ((s.joined l hdr ws).packetIn l (2 * bits hdr.toNat 95 94 + bits hdr.toNat 93 92 % 2) (bits hdr.toNat 93 92 = 1)).updLink l fun k =>
        { k with rxWhole := BitVec.ofNat 16 (bits hdr.toNat 127 112), part := [], partFlits := 0 }
    else s.joined l hdr ws := rfl

/-- A packet whose code words decode arrives; the link's entry stays but for the credits of one that does not. -/
theorem packetIn_spec (s : State) (l key : Nat) (escape : Bool) :
    SameButSender (linkAt s l) (linkAt (s.packetIn l key escape) l) ∧
    ∀ p, packetOf (linkAt s l).part = some p → (s.packetIn l key escape).links.arrived = s.links.arrived ++ [p] := by
  unfold State.packetIn
  dsimp only
  split
  · next p hp =>
    refine ⟨.refl _, fun q hq => ?_⟩
    cases hp.symm.trans hq
    rfl
  · next hnone =>
    exact ⟨(oweCredits_transmits (s.updLinks fun x => { x with undeliverable := satAdd 64 x.undeliverable 1 }) l key
      (linkAt s l).partFlits).link, fun p hp => nomatch hnone.symm.trans hp⟩

/-- A flit that is accepted: its number is the last received, and its words join their packet, which arrives once it is whole. -/
theorem acceptFlit_spec (s : State) (l : Nat) (hdr : BitVec 128) (ws : List (BitVec 144)) :
    (linkAt (s.acceptFlit l hdr ws) l).rxSeq = BitVec.ofNat 16 (bits hdr.toNat 127 112) ∧
    (linkAt (s.acceptFlit l hdr ws) l).discarding = false ∧
    (bit hdr.toNat 90 = false → (s.acceptFlit l hdr ws).links.arrived = s.links.arrived ∧
      (linkAt (s.acceptFlit l hdr ws) l).part = partAfter (linkAt s l) hdr.toNat ws) ∧
    ∀ p, bit hdr.toNat 90 = true → packetOf (partAfter (linkAt s l) hdr.toNat ws) = some p →
      (s.acceptFlit l hdr ws).links.arrived = s.links.arrived ++ [p] ∧ (linkAt (s.acceptFlit l hdr ws) l).part = [] ∧
      (linkAt (s.acceptFlit l hdr ws) l).rxWhole = BitVec.ofNat 16 (bits hdr.toNat 127 112) := by
  obtain ⟨harrived, hseq, hdiscarding, hpart⟩ := joined_spec s l hdr ws
  rw [acceptFlit_eq]
  split
  · next heop =>
    obtain ⟨⟨-, _, _, _, _, _, _, _, _, hlink⟩, hin⟩ := packetIn_spec (s.joined l hdr ws) l
      (2 * bits hdr.toNat 95 94 + bits hdr.toNat 93 92 % 2) (bits hdr.toNat 93 92 = 1)
    rw [linkAt_updLink_self, hlink]
    exact ⟨hseq, hdiscarding, fun h => absurd (heop.symm.trans h) (by decide),
      fun p _ hp => ⟨(hin p (hpart ▸ hp)).trans (by rw [harrived]), rfl, rfl⟩⟩
  · next heop => exact ⟨hseq, hdiscarding, fun _ => ⟨harrived, hpart⟩, fun p h => absurd h heop⟩

/-! ### FLIT_RECEIVE -/

/-- Nothing more has arrived, and the link waits for the same flit and the rest of the same packet. -/
def NoneTaken (l : Nat) (s u : State) : Prop :=
  u.links.arrived = s.links.arrived ∧ (linkAt u l).rxSeq = (linkAt s l).rxSeq ∧ (linkAt u l).part = (linkAt s l).part

theorem SameReceived.noneTaken {l : Nat} {s u : State} (h : SameReceived l s u) : NoneTaken l s u := ⟨h.arrived, h.rxSeq, h.part⟩

section
variable {s : State} {l : Nat} {codes : List LaneCode} (hst : (linkAt s l).state = 3) (hfit : codesFit (linkAt s l) codes = true)
include hst hfit

theorem flitReceive_incomplete (h : nextFlit (linkAt (codes.foldl (fun s c => s.takeCode l c) s.redraw) l) = none) :
    exec (.flitReceive l codes) s = .next (codes.foldl (fun s c => s.takeCode l c) s.redraw) ∧
    (codes.foldl (fun s c => s.takeCode l c) s.redraw).links.arrived = s.links.arrived ∧
    (linkAt (codes.foldl (fun s c => s.takeCode l c) s.redraw) l).rxSeq = (linkAt s l).rxSeq ∧
    (linkAt (codes.foldl (fun s c => s.takeCode l c) s.redraw) l).part = (linkAt s l).part ∧
    ∀ j, j ≠ l → linkAt (codes.foldl (fun s c => s.takeCode l c) s.redraw) j = linkAt s j := by
  have htaken := takeCodes_codesTaken s.redraw l codes
  have hsame := htaken.sameReceived
  exact ⟨flitReceive_waits hst hfit h, hsame.arrived, hsame.rxSeq, hsame.part, htaken.others⟩

variable {f : Flit} {rest : SMap (List (BitVec 256))}
  (hnext : nextFlit (linkAt (codes.foldl (fun s c => s.takeCode l c) s.redraw) l) = some (f, rest))
include hnext

/-- A flit that is discarded, with its resend asked for. -/
theorem flitReceive_discards {counted : Bool}
    (h : (s.unitsTaken l codes rest).flitIn l f = (s.unitsTaken l codes rest).discardFlit l counted) :
    ∃ u x, exec (.flitReceive l codes) s = .next u ∧ NoneTaken l s u ∧ (linkAt u l).discarding = true ∧
      (linkAt u l).crcFailures = (if counted then satAdd 64 (linkAt s l).crcFailures 1 else (linkAt s l).crcFailures) ∧
      u.links.flitsOut = s.links.flitsOut ++ [(l, x)] := by
  have htaken := unitsTaken_codesTaken s l codes rest
  have hsame := htaken.sameReceived
  obtain ⟨us, n, m, hlink⟩ := htaken.link
  obtain ⟨harrived, hseq, hpart, hdiscarding, hcrc, x, hx⟩ := discardFlit_spec (s.unitsTaken l codes rest) l counted
  rw [hlink] at hcrc
  rw [htaken.flitsOut] at hx
  refine ⟨_, x, flitReceive_takes hst hfit hnext, ?_⟩
  rw [h]
  exact ⟨⟨harrived.trans hsame.arrived, hseq.trans hsame.rxSeq, hpart.trans hsame.part⟩, hdiscarding, hcrc, hx⟩

theorem flitReceive_damaged (h : crc32 (flitBody f.hdr f.hdrCheck f.payload) ≠ f.crc) :
    ∃ u x, exec (.flitReceive l codes) s = .next u ∧ NoneTaken l s u ∧ (linkAt u l).discarding = true ∧
      (linkAt u l).crcFailures = satAdd 64 (linkAt s l).crcFailures 1 ∧ u.links.flitsOut = s.links.flitsOut ++ [(l, x)] :=
  flitReceive_discards hst hfit hnext (flitIn_damaged h)

section
variable (hcrc : crc32 (flitBody f.hdr f.hdrCheck f.payload) = f.crc) {hdr : BitVec 128}
  (hhdr : decodeWord (f.hdrCheck ++ f.hdr) = some hdr)
include hcrc hhdr

theorem flitReceive_idle (h : bit hdr.toNat 89 = true) : ∃ u, exec (.flitReceive l codes) s = .next u ∧ NoneTaken l s u :=
  ⟨_, flitReceive_takes hst hfit hnext,
    ((unitsTaken_codesTaken s l codes rest).sameReceived.trans (flitIn_idle hcrc hhdr h)).noneTaken⟩

variable (hbusy : bit hdr.toNat 89 = false)
include hbusy

theorem flitReceive_outOfOrder (hseq : BitVec.ofNat 16 (bits hdr.toNat 127 112) ≠ (linkAt s l).rxSeq + 1)
    (hfirst : (linkAt s l).discarding = false) :
    ∃ u x, exec (.flitReceive l codes) s = .next u ∧ NoneTaken l s u ∧ (linkAt u l).discarding = true ∧
      u.links.flitsOut = s.links.flitsOut ++ [(l, x)] := by
  have hsame := (unitsTaken_codesTaken s l codes rest).sameReceived
  obtain ⟨u, x, hu, hnone, hdiscarding, -, hx⟩ := flitReceive_discards hst hfit hnext
    (flitIn_outOfOrder hcrc hhdr hbusy (by rw [hsame.rxSeq]; exact hseq) (hsame.discarding.trans hfirst))
  exact ⟨u, x, hu, hnone, hdiscarding, hx⟩

theorem flitReceive_inOrder (hseq : BitVec.ofNat 16 (bits hdr.toNat 127 112) = (linkAt s l).rxSeq + 1)
    (hkeys : (linkAt s l).keys = none) (hplain : bit hdr.toNat 87 = false) :
    ∃ u, exec (.flitReceive l codes) s = .next u ∧ (linkAt u l).rxSeq = (linkAt s l).rxSeq + 1 ∧ (linkAt u l).discarding = false ∧
      (bit hdr.toNat 90 = false → u.links.arrived = s.links.arrived ∧
        (linkAt u l).part = partAfter (linkAt s l) hdr.toNat (f.payload.take (bits hdr.toNat 67 64))) ∧
      ∀ p, bit hdr.toNat 90 = true →
        packetOf (partAfter (linkAt s l) hdr.toNat (f.payload.take (bits hdr.toNat 67 64))) = some p →
        u.links.arrived = s.links.arrived ++ [p] ∧ (linkAt u l).part = [] ∧ (linkAt u l).rxWhole = (linkAt s l).rxSeq + 1 := by
  have htaken := unitsTaken_codesTaken s l codes rest
  have hsame := htaken.sameReceived
  obtain ⟨us, n, m, hlink⟩ := htaken.link
  have hin := flitIn_inOrder (s := s.unitsTaken l codes rest) hcrc hhdr hbusy (by rw [hsame.rxSeq]; exact hseq)
    (by rw [hlink]; exact hkeys) hplain
  obtain ⟨hnumber, hdiscarding, hmore, hwhole⟩ := acceptFlit_spec (s.unitsTaken l codes rest) l hdr
    (f.payload.take (bits hdr.toNat 67 64))
  have hpart : partAfter (linkAt (s.unitsTaken l codes rest) l) hdr.toNat (f.payload.take (bits hdr.toNat 67 64)) =
      partAfter (linkAt s l) hdr.toNat (f.payload.take (bits hdr.toNat 67 64)) := by rw [partAfter, hsame.part]; rfl
  rw [hpart, hsame.arrived] at hmore hwhole
  rw [hseq] at hnumber hwhole
  refine ⟨_, flitReceive_takes hst hfit hnext, hin.rxSeq.trans hnumber, hin.discarding.trans hdiscarding, fun h => ?_, fun p h hp => ?_⟩
  · obtain ⟨harrived, hpart⟩ := hmore h
    exact ⟨hin.arrived.trans harrived, hin.part.trans hpart⟩
  · obtain ⟨harrived, hpart, hrx⟩ := hwhole p h hp
    exact ⟨hin.arrived.trans harrived, hin.part.trans hpart, hin.whole.trans hrx⟩

end

end

end Sys2Proof.Machine
end

section
/-!
PROOF. O33, links that fall: every packet that is not acknowledged is kept until the other end has told what it has (R263, R286, R287;
log 87).
-/

namespace Sys2Proof.Machine

/-! ### A link leaves ready (R263, R287) -/

theorem leaveReady_arrived (s : State) (l st : Nat) : (s.leaveReady l st).links.arrived = s.links.arrived := by
  unfold State.leaveReady
  dsimp only
  split
  · rfl
  · rfl

theorem leaveReady_width (s : State) (l st : Nat) : (linkAt (s.leaveReady l st) l).width = 0 := by
  unfold State.leaveReady
  dsimp only
  split
  · rw [linkAt_updLink_self]
  · rw [linkAt_updLinks _ rfl, linkAt_updLink_self]

/-- What a ready link had not had acknowledged waits to be settled, and nothing of it stays on the link. -/
theorem leaveReady_ready {s : State} {l : Nat} (h : (linkAt s l).state = 3) (st : Nat) :
    (linkAt (s.leaveReady l st) l).sent = [] ∧ (linkAt (s.leaveReady l st) l).queue = [] ∧ (linkAt (s.leaveReady l st) l).part = [] ∧
    (s.leaveReady l st).links.settleOut = s.links.settleOut ++ [(l, (linkAt s l).rxWhole)] ∧
    mgetD (s.leaveReady l st).links.unsettled l [] = mgetD s.links.unsettled l [] ++ unacknowledged (linkAt s l) := by
  unfold State.leaveReady
  dsimp only
  rw [if_neg (not_not_intro h), linkAt_updLinks _ rfl, linkAt_updLink_self]
  exact ⟨rfl, rfl, rfl, rfl, mgetD_mset_self ..⟩

theorem exec_linkDown {s : State} {l : Nat} {c : DownCause} (h : (linkAt s l).state = 3)
    (hc : c = .resends → 16 ≤ (linkAt s l).resends) :
    exec (.linkDown l c) s = .next (s.leaveReady l 7).regrade.settleAcks := by
  have hx : exec (.linkDown l c) s = execLinkDown l c s := rfl
  rw [hx, execLinkDown]
  dsimp only
  rw [if_neg (by simpa [h] using hc)]

theorem exec_opticalLightLoss {s : State} {l : Nat} (ho : isOptical l = true) (hd : (linkAt s l).dimension ≤ 11)
    (h : (linkAt s l).state ≠ 0) : exec (.opticalLightLoss l) s = .next (s.leaveReady l 8).regrade.settleAcks := by
  have hx : exec (.opticalLightLoss l) s = execOpticalLightLoss l s := rfl
  rw [hx, execOpticalLightLoss]
  dsimp only
  rw [if_neg (by simp [ho, hd, h])]

/-- A link that falls, at the end of the command. -/
theorem leaveReady_woundUp {s u : State} {l st : Nat} (hw : WoundUp (s.leaveReady l st) u) :
    (linkAt u l).state = st ∧ (linkAt u l).width = 0 ∧ (∀ j, j ≠ l → linkAt u j = linkAt s j) ∧
    ((linkAt s l).state = 3 → (linkAt u l).sent = [] ∧ (linkAt u l).queue = [] ∧ (linkAt u l).part = [] ∧
      u.links.settleOut = s.links.settleOut ++ [(l, (linkAt s l).rxWhole)] ∧
      mgetD u.links.unsettled l [] = mgetD s.links.unsettled l [] ++ unacknowledged (linkAt s l)) ∧
    u.links.arrived = s.links.arrived ∧ u.mem = s.mem ∧ (NoFlipDue s → u.tiles = s.tiles) := by
  obtain ⟨hothers, hmem, htiles⟩ := (onlyLink_leaveReady s l st).woundUp hw
  obtain ⟨-, hstate, -⟩ := leaveReady_spec s l st
  rw [hw.linkAt, hw.links]
  exact ⟨hstate, leaveReady_width .., hothers, fun h => leaveReady_ready h st, leaveReady_arrived .., hmem, htiles⟩

/-! ### The settlement (R275, R287) -/

/-- A packet that cannot be delivered leaves what has arrived, and what is unsettled. -/
theorem undeliverable_keeps (s : State) (p : Packet) :
    (s.undeliverable p).links.arrived = s.links.arrived ∧ (s.undeliverable p).links.unsettled = s.links.unsettled := by
  unfold State.undeliverable
  dsimp only
  split
  · split
    · exact ⟨rfl, rfl⟩
    · exact ⟨rfl, rfl⟩
  · exact ⟨rfl, rfl⟩

theorem undeliverable_foldl : ∀ (ps : List (Packet × Option (BitVec 16))) (s : State),
    (ps.foldl (fun s e => s.undeliverable e.1) s).links.undeliverable = ps.foldl (fun n _ => satAdd 64 n 1) s.links.undeliverable ∧
    (ps.foldl (fun s e => s.undeliverable e.1) s).links.arrived = s.links.arrived ∧
    (ps.foldl (fun s e => s.undeliverable e.1) s).links.unsettled = s.links.unsettled
  | [], _ => ⟨rfl, rfl, rfl⟩
  | e :: ps, s => by
    obtain ⟨k, hk, hcount⟩ := undeliverable_spec s e.1
    obtain ⟨harrived, hunsettled⟩ := undeliverable_keeps s e.1
    obtain ⟨ihcount, iharrived, ihunsettled⟩ := undeliverable_foldl ps (s.undeliverable e.1)
    exact ⟨ihcount.trans (by rw [hk, List.foldl_cons, ← hcount]), iharrived.trans harrived, ihunsettled.trans hunsettled⟩

/-- The packets after the one with a flit number; all of them where none has it. -/
def packetsAfter (ps : List (Packet × Option (BitVec 16))) (q : BitVec 16) : List (Packet × Option (BitVec 16)) :=
  match ps.findIdx? fun e => e.2 = some q with
  | some i => ps.drop (i + 1)
  | none => ps

theorem packetsAfter_of_first {ps : List (Packet × Option (BitVec 16))} {q : BitVec 16} {i : Nat} {e : Packet}
    (hi : ps[i]? = some (e, some q)) (hfirst : ∀ j f, j < i → ps[j]? = some f → f.2 ≠ some q) :
    packetsAfter ps q = ps.drop (i + 1) := by
  have hfind : ps.findIdx? (fun e => e.2 = some q) = some i := by
    obtain ⟨hlt, hget⟩ := List.getElem?_eq_some_iff.1 hi
    refine List.findIdx?_eq_some_iff_getElem.2 ⟨hlt, by simp [hget], fun j hj => ?_⟩
    simpa using hfirst j _ hj (List.getElem?_eq_getElem (hj.trans hlt))
  rw [packetsAfter, hfind]

theorem packetsAfter_of_none {ps : List (Packet × Option (BitVec 16))} {q : BitVec 16} (h : ∀ f ∈ ps, f.2 ≠ some q) :
    packetsAfter ps q = ps := by
  have hfind : ps.findIdx? (fun e => e.2 = some q) = none := List.findIdx?_eq_none_iff.2 fun f hf => by simpa using h f hf
  rw [packetsAfter, hfind]

/-- The state in which the packets of a link that fell are settled. -/
def State.settling (s : State) (l : Nat) : State :=
  (s.updLinks fun x => { x with unsettled := merase x.unsettled l }).updLink l fun k => { k with part := [] }

section
variable {s : State} {l : Nat} {ps : List (Packet × Option (BitVec 16))} (h : mget s.links.unsettled l = some ps)
include h

/-- The other end cannot be reached: every packet is undeliverable. -/
theorem linkSettlement_lost : ∃ u, exec (.linkSettlementMessage l none) s = .next u ∧ mget u.links.unsettled l = none ∧
    u.links.arrived = s.links.arrived ∧ u.links.undeliverable = ps.foldl (fun n _ => satAdd 64 n 1) s.links.undeliverable := by
  have hx : exec (.linkSettlementMessage l none) s = .next (ps.foldl (fun s e => s.undeliverable e.1) (s.settling l)) := by
    change execLinkSettlementMessage l none s = _
    rw [execLinkSettlementMessage, h]
    rfl
  obtain ⟨hcount, harrived, hunsettled⟩ := undeliverable_foldl ps (s.settling l)
  exact ⟨_, hx, (congrArg (mget · l) hunsettled).trans (mget_merase_self ..), harrived, hcount⟩

/-- The other end has every packet up to a flit: those after it go through the router again. -/
theorem linkSettlement_known (q : BitVec 16) : ∃ u, exec (.linkSettlementMessage l (some q)) s = .next u ∧
    mget u.links.unsettled l = none ∧ u.links.undeliverable = s.links.undeliverable ∧
    u.links.arrived = s.links.arrived ++ (packetsAfter ps q).map Prod.fst := by
  have hx : exec (.linkSettlementMessage l (some q)) s = .next ((s.settling l).updLinks fun x =>
      { x with arrived := x.arrived ++ (packetsAfter ps q).map Prod.fst }) := by
    change execLinkSettlementMessage l (some q) s = _
    rw [execLinkSettlementMessage, h]
    rfl
  exact ⟨_, hx, mget_merase_self .., rfl, rfl⟩

end

/-- Settles O33: a flit by what it is found to be, a link that falls by what it leaves to be settled, and the settlement. -/
theorem linksLoseNoPacket : Obligations.LinksLoseNoPacket := by
  unfold Obligations.LinksLoseNoPacket
  refine ⟨fun s l codes => flitReceive_incomplete, fun s l codes f rest hst hfit hnext =>
    ⟨fun h => flitReceive_damaged hst hfit hnext (of_decide_eq_false h), fun hdr h hhdr => ?_⟩, fun s l x st hx => ?_,
    fun s l ps h => ⟨linkSettlement_lost h, fun q => ?_⟩⟩
  · have hcrc := of_decide_eq_true h
    exact ⟨flitReceive_idle hst hfit hnext hcrc hhdr, flitReceive_outOfOrder hst hfit hnext hcrc hhdr,
      flitReceive_inOrder hst hfit hnext hcrc hhdr⟩
  · obtain ⟨c, rfl, hc, h, rfl⟩ | ⟨rfl, ho, hd, h, rfl⟩ := hx
    · exact ⟨_, exec_linkDown h hc, leaveReady_woundUp (regrade_settleAcks_woundUp _)⟩
    · exact ⟨_, exec_opticalLightLoss ho hd h, leaveReady_woundUp (regrade_settleAcks_woundUp _)⟩
  · obtain ⟨u, hu, hsettled, hcount, harrived⟩ := linkSettlement_known h q
    exact ⟨u, hu, hsettled, hcount, fun i e hi hfirst => harrived.trans (by rw [packetsAfter_of_first hi hfirst]),
      fun hnone => harrived.trans (by rw [packetsAfter_of_none hnone])⟩

end Sys2Proof.Machine
end

section
/-!
PROOF. O34: where the router sends a packet (R272, R273), and what PACKET_ROUTE and ESCAPE_LANE_TIMEOUT do (R273 to R275; log 43).
-/

namespace Sys2Proof.Machine

/-! ### The choice of a link (R273) -/

theorem mem_of_bestOf {f : Nat → Nat} {xs : List Nat} {x : Nat} (h : bestOf f xs = some x) : x ∈ xs := by
  have hall : ∀ a, bestOf f xs = some a → a ∈ xs := by
    unfold bestOf
    refine List.foldlRecOn (motive := fun acc : Option Nat => ∀ a, acc = some a → a ∈ xs) xs _ (fun _ h => nomatch h) ?_
    intro acc hacc y hy a ha
    split at ha
    · exact Option.some.inj ha ▸ hy
    · split at ha
      · exact Option.some.inj ha ▸ hy
      · exact hacc a ha
  exact hall x h

/-- A ready link of a dimension, by its entry in the table of links. -/
theorem linkAt_of_ready {s : State} (hwf : mwf s.links.links = true) {l d : Nat} (h : l ∈ readyLinks s d) :
    (linkAt s l).dimension = d ∧ (linkAt s l).state = 3 := by
  obtain ⟨⟨k, x⟩, hmem, rfl⟩ := List.mem_map.1 h
  obtain ⟨hin, htest⟩ := List.mem_filter.1 hmem
  have hx : linkAt s k = x := by rw [linkAt, mget_of_mem hwf hin, Option.getD_some]
  rw [hx]
  simpa using htest

/-- The adaptive choice is a ready link with credit, in one of the dimensions it is offered. -/
theorem adaptiveHop_link {s : State} {dims : List Nat} {vc l lane : Nat} (h : adaptiveHop s dims vc = .link l lane) :
    lane = 0 ∧ (∃ d ∈ dims, l ∈ readyLinks s d) ∧ 0 < creditsHeld s l vc 0 := by
  unfold adaptiveHop at h
  dsimp only at h
  split at h
  · cases h
  · next d hd =>
    split at h
    · next x hx =>
      cases h
      obtain ⟨hready, hcredit⟩ := List.mem_filter.1 (mem_of_bestOf hx)
      obtain ⟨hdim, -⟩ := List.mem_filter.1 (mem_of_bestOf hd)
      exact ⟨rfl, ⟨d, hdim, hready⟩, of_decide_eq_true hcredit⟩
    · cases h

/-- The escape choice is a ready link of the fallback with credit. -/
theorem escapeHop_link {s : State} {d vc l lane : Nat} (h : escapeHop s d vc = .link l lane) :
    lane = 1 ∧ l ∈ readyLinks s d ∧ 0 < creditsHeld s l vc 1 := by
  unfold escapeHop at h
  dsimp only at h
  split at h
  · next x hx =>
    cases h
    obtain ⟨hready, hcredit⟩ := List.mem_filter.1 (List.mem_of_getElem? hx)
    exact ⟨rfl, hready, of_decide_eq_true hcredit⟩
  · cases h

theorem mem_allowedDims {e d : Nat} {p : Packet} (h : d ∈ allowedDims e p) : bit e d = true ∧ (p.ptype ≤ 4 → d < 3) := by
  obtain ⟨hrange, hbit⟩ := List.mem_filter.1 h
  refine ⟨hbit, fun hty => ?_⟩
  have hboard : boardType p = true := decide_eq_true hty
  rw [hboard, if_pos rfl] at hrange
  exact List.mem_range.1 hrange

theorem routeOf_deliver {s : State} {p : Packet} (h : p.dst = s.links.nodeId) : routeOf s p = .deliver := if_pos h

theorem routeOf_lost {s : State} {p : Packet} (hdst : p.dst ≠ s.links.nodeId)
    (h : bit (routeEntry s p.dst) 31 = false ∨ 15 ≤ p.hops) : routeOf s p = .lost := by
  unfold routeOf
  dsimp only
  rw [if_neg hdst, if_pos]
  obtain h | h := h
  · simp [h]
  · simp [h]

/-- A link that the router sends a packet on: a ready one with credit, on the adaptive lane in a dimension that the route names, on the
escape lane in the fallback's. -/
theorem routeOf_link {s : State} {p : Packet} {l lane : Nat} (hwf : mwf s.links.links = true) (h : routeOf s p = .link l lane) :
    p.dst ≠ s.links.nodeId ∧ p.hops < 15 ∧ bit (routeEntry s p.dst) 31 = true ∧ (linkAt s l).state = 3 ∧
    0 < creditsHeld s l (channelOfType p.ptype) lane ∧ (p.ptype ≤ 4 → (linkAt s l).dimension < 3) ∧
    (lane = 0 ∧ bit (routeEntry s p.dst) (linkAt s l).dimension = true ∨
      lane = 1 ∧ p ∈ s.links.escape ∧ (linkAt s l).dimension = bits (routeEntry s p.dst) 15 12) := by
  unfold routeOf at h
  dsimp only at h
  split at h
  · cases h
  · next hdst =>
    split at h
    · cases h
    · next hroute =>
      simp only [Bool.or_eq_true, Bool.not_eq_true', Bool.and_eq_true, decide_eq_true_eq, not_or, not_and, ge_iff_le, Nat.not_le,
        gt_iff_lt, Nat.not_lt, Bool.not_eq_false] at hroute
      obtain ⟨⟨⟨hvalid, hhops⟩, -⟩, hboard⟩ := hroute
      split at h
      · cases h
      · split at h
        · next hescape =>
          obtain ⟨rfl, hready, hcredit⟩ := escapeHop_link h
          obtain ⟨hdim, hstate⟩ := linkAt_of_ready hwf hready
          obtain ⟨hmem, -⟩ := (Bool.and_eq_true ..).mp hescape
          rw [hdim]
          exact ⟨hdst, hhops, hvalid, hstate, hcredit, fun hty => Nat.lt_succ_of_le (hboard (decide_eq_true hty)),
            .inr ⟨rfl, List.contains_iff_mem.1 hmem, rfl⟩⟩
        · obtain ⟨rfl, ⟨d, hd, hready⟩, hcredit⟩ := adaptiveHop_link h
          obtain ⟨hdim, hstate⟩ := linkAt_of_ready hwf hready
          obtain ⟨hnamed, hlow⟩ := mem_allowedDims hd
          rw [hdim]
          exact ⟨hdst, hhops, hvalid, hstate, hcredit, hlow, .inl ⟨rfl, hnamed⟩⟩

/-! ### A packet leaves the router (R261, R262; log 43) -/

/-- A packet that leaves its receive buffer is followed by its credits, on the link it came over. -/
theorem leaveBuffer_spec (s : State) (p : Packet) : s.leaveBuffer p = s ∨
    ∃ e ∈ s.links.received, e.1 = p ∧
      Transmits e.2.1 (s.updLinks fun x => { x with received := x.received.erase e }) (s.leaveBuffer p) := by
  unfold State.leaveBuffer
  split
  · next e he =>
    exact .inr ⟨e, List.mem_of_find?_eq_some he, by simpa using List.find?_some he,
      (oweCredits_transmits ..).trans (emit_spec ..).1⟩
  · exact .inl rfl

/-- The state in which a packet in transit has left the router's own lists. -/
def State.unlisted (s : State) (p : Packet) : State :=
  s.updLinks fun l => { l with arrived := l.arrived.erase p, escape := l.escape.erase p }

theorem leaveRouter_transit (s : State) (p : Packet) : s.leaveRouter .transit p = (s.unlisted p).leaveBuffer p := rfl

/-- A packet has left the router: what it holds for this module, and its counts, are as they were, and of each link only what its sender
keeps differs. -/
structure LeftRouter (s u : State) : Prop where
  mem : u.mem = s.mem
  draws : u.draws = s.draws
  nodeId : u.links.nodeId = s.links.nodeId
  inbox : u.links.inbox = s.links.inbox
  undeliverable : u.links.undeliverable = s.links.undeliverable
  link : ∀ j, SameButSender (linkAt s j) (linkAt u j)

theorem leaveRouter_left (s : State) (origin : PacketFrom) (p : Packet) : LeftRouter s (s.leaveRouter origin p) := by
  cases origin with
  | own => exact ⟨rfl, rfl, rfl, rfl, rfl, fun _ => .refl _⟩
  | transit =>
    rw [leaveRouter_transit]
    obtain hsame | ⟨e, -, -, hsent⟩ := leaveBuffer_spec (s.unlisted p) p
    · rw [hsame]
      exact ⟨rfl, rfl, rfl, rfl, rfl, fun _ => .refl _⟩
    · obtain ⟨hnode, hinbox, -, hcount⟩ := hsent.router
      refine ⟨hsent.mem, hsent.draws, hnode, hinbox, hcount, fun j => ?_⟩
      by_cases hj : j = e.2.1
      · rw [hj]
        exact hsent.link
      · rw [hsent.others j hj]
        exact .refl _

/-- A link over which the packet has not come is as it was. -/
theorem leaveRouter_other {s : State} {origin : PacketFrom} {p : Packet} {j : Nat}
    (h : origin = .own ∨ ∀ r ∈ s.links.received, r.1 = p → r.2.1 ≠ j) : linkAt (s.leaveRouter origin p) j = linkAt s j := by
  cases origin with
  | own => rfl
  | transit =>
    obtain h | h := h
    · cases h
    · rw [leaveRouter_transit]
      obtain hsame | ⟨e, he, hp, hsent⟩ := leaveBuffer_spec (s.unlisted p) p
      · rw [hsame]
        rfl
      · exact hsent.others j fun hj => h e he hp hj.symm

/-! ### A packet goes on a link (R262, R265) -/

/-- The code words of a packet depend on the free values of the moment alone. -/
theorem packetWords_of_draws {s u : State} (h : u.draws = s.draws) (p : Packet) : packetWords u p = packetWords s p := by
  have hfree : free u = free s := by
    funext i
    rw [free, h, free]
  rw [packetWords, packetWords, hfree]

/-- A packet that goes on a link takes a credit for each of its flits. -/
theorem sendOn_spec (s : State) (l lane : Nat) (p : Packet) : OnlyLink l s (s.sendOn l lane p) ∧
    mgetD (linkAt (s.sendOn l lane p) l).credits (2 * channelOfType p.ptype + lane) 0 =
      mgetD (linkAt s l).credits (2 * channelOfType p.ptype + lane) 0 +
        (packetFlits p (channelOfType p.ptype) lane (if (linkAt s l).keys.isSome then 12 else 13)
          (packetWords s { p with hops := p.hops + 1 })).length := by
  unfold State.sendOn
  dsimp only
  have hpump := pumpLinkAll_transmits (s.updLink l fun k =>
    { k with
      queue := k.queue ++ packetFlits p (channelOfType p.ptype) lane (if (linkAt s l).keys.isSome then 12 else 13)
        (packetWords s { p with hops := p.hops + 1 }),
      credits := mset k.credits (2 * channelOfType p.ptype + lane) (mgetD k.credits (2 * channelOfType p.ptype + lane) 0 +
        (packetFlits p (channelOfType p.ptype) lane (if (linkAt s l).keys.isSome then 12 else 13)
          (packetWords s { p with hops := p.hops + 1 })).length) }) l
  obtain ⟨-, _, _, _, _, _, _, _, _, hlink⟩ := hpump.link
  refine ⟨(onlyLink_updLink s l _).trans hpump.onlyLink, ?_⟩
  rw [hlink, linkAt_updLink_self]
  exact mgetD_mset_self ..

/-! ### PACKET_ROUTE -/

/-- What the router does with a packet it has found the way of. -/
def State.routed (s : State) (origin : PacketFrom) (p : Packet) : Hop → State
  | .deliver => (s.redraw.leaveRouter origin p).handIn p
  | .lost => (s.redraw.leaveRouter origin p).undeliverable p
  | .wait => s
  | .link l lane => (s.redraw.leaveRouter origin p).sendOn l lane p

section
variable {s : State} {origin : PacketFrom} {p : Packet}
  (hown : origin = .own → p ∈ s.links.outbox ∧ (s.links.trafficHold = 0 ∨ heldBack p = false))
include hown

theorem exec_packetRoute : exec (.packetRoute origin p) s = .next (s.routed origin p (routeOf s.redraw p)) := by
  have hgo : (origin = .own && (!s.redraw.links.outbox.contains p || (s.redraw.links.trafficHold ≠ 0 && heldBack p))) = false := by
    cases origin with
    | transit => rfl
    | own =>
      obtain ⟨hmem, hfree⟩ := hown rfl
      obtain h | h := hfree
      · simp [hmem, h]
      · simp [hmem, h]
  change execPacketRoute origin p s = _
  rw [execPacketRoute]
  dsimp only
  rw [if_neg (Bool.eq_false_iff.1 hgo)]
  cases routeOf s.redraw p with
  | deliver => rfl
  | lost => rfl
  | wait => rfl
  | link l lane => rfl

theorem packetRoute_delivers (hdst : p.dst = s.links.nodeId) (hgood : packetMalformed p = false) :
    ∃ u, exec (.packetRoute origin p) s = .next u ∧ u.links.inbox = s.links.inbox ++ [p] ∧ u.mem = s.mem := by
  have hleft := leaveRouter_left s.redraw origin p
  refine ⟨_, exec_packetRoute hown, ?_⟩
  rw [routeOf_deliver (s := s.redraw) hdst, State.routed, State.handIn, if_neg (by simp [hgood])]
  exact ⟨congrArg (· ++ [p]) hleft.inbox, hleft.mem⟩

theorem packetRoute_drops (hdst : p.dst ≠ s.links.nodeId) (h : bit (routeEntry s p.dst) 31 = false ∨ 15 ≤ p.hops) :
    ∃ u, exec (.packetRoute origin p) s = .next u ∧ u.links.undeliverable = satAdd 64 s.links.undeliverable 1 ∧ u.mem = s.mem := by
  have hleft := leaveRouter_left s.redraw origin p
  obtain ⟨k, hk, hcount⟩ := undeliverable_spec (s.redraw.leaveRouter origin p) p
  refine ⟨_, exec_packetRoute hown, ?_⟩
  rw [routeOf_lost (s := s.redraw) hdst h, State.routed, hk]
  exact ⟨hcount.trans (congrArg (satAdd 64 · 1) hleft.undeliverable), hleft.mem⟩

theorem packetRoute_waits (h : routeOf s.redraw p = .wait) : exec (.packetRoute origin p) s = .next s := by
  rw [exec_packetRoute hown, h, State.routed]

theorem packetRoute_sends {l lane : Nat} (h : routeOf s.redraw p = .link l lane) :
    ∃ u, exec (.packetRoute origin p) s = .next u ∧ u.mem = s.mem ∧
      (∀ j, j ≠ l → (origin = .own ∨ ∀ r ∈ s.links.received, r.1 = p → r.2.1 ≠ j) → linkAt u j = linkAt s j) ∧
      mgetD (linkAt u l).credits (2 * channelOfType p.ptype + lane) 0 =
        mgetD (linkAt s l).credits (2 * channelOfType p.ptype + lane) 0 +
          (packetFlits p (channelOfType p.ptype) lane (if (linkAt s l).keys.isSome then 12 else 13)
            (packetWords s.redraw { p with hops := p.hops + 1 })).length := by
  have hleft := leaveRouter_left s.redraw origin p
  obtain ⟨honly, hcredits⟩ := sendOn_spec (s.redraw.leaveRouter origin p) l lane p
  obtain ⟨hkeyed, _, _, _, _, _, _, _, _, hlink⟩ := hleft.link l
  have hkept : (linkAt (s.redraw.leaveRouter origin p) l).credits = (linkAt s l).credits := by rw [hlink]; rfl
  refine ⟨_, exec_packetRoute hown, ?_⟩
  rw [h, State.routed]
  refine ⟨honly.mem.trans hleft.mem, fun j hj hother => (honly.others j hj).trans (leaveRouter_other (s := s.redraw) hother), ?_⟩
  rw [hcredits, packetWords_of_draws hleft.draws, hkeyed, hkept]
  rfl

end

/-! ### ESCAPE_LANE_TIMEOUT -/

theorem exec_escapeLaneTimeout (s : State) (p : Packet) : exec (.escapeLaneTimeout p) s =
    .next (if (s.links.outbox.contains p || s.links.arrived.contains p) && !s.links.escape.contains p && routeOf s p = .wait then
      s.updLinks fun l => { l with escape := l.escape ++ [p] } else s) := rfl

theorem escapeLaneTimeout_idle {s : State} {p : Packet} (h : routeOf s p ≠ .wait) : exec (.escapeLaneTimeout p) s = .next s := by
  rw [exec_escapeLaneTimeout, if_neg (by simp [h])]

/-- A packet that waits moves to the escape lane, and waits on where it was. -/
theorem escapeLaneTimeout_moves {s : State} {p : Packet} (hin : p ∈ s.links.outbox ∨ p ∈ s.links.arrived)
    (hnot : p ∉ s.links.escape) (h : routeOf s p = .wait) : ∃ u, exec (.escapeLaneTimeout p) s = .next u ∧ p ∈ u.links.escape ∧
      u.links.outbox = s.links.outbox ∧ u.links.arrived = s.links.arrived ∧ u.mem = s.mem := by
  refine ⟨_, exec_escapeLaneTimeout s p, ?_⟩
  rw [if_pos (by simpa [hnot, h] using hin)]
  exact ⟨List.mem_append_right _ (List.mem_singleton_self p), rfl, rfl, rfl⟩

/-- Settles O34: the packet goes where the route of the moment says, and the timeout moves what waits. -/
theorem packetsTakeAllowedLinks : Obligations.PacketsTakeAllowedLinks := by
  unfold Obligations.PacketsTakeAllowedLinks
  refine fun s origin p hown => ⟨packetRoute_delivers hown, packetRoute_drops hown, packetRoute_waits hown, fun l lane hwf h => ?_,
    escapeLaneTimeout_idle, escapeLaneTimeout_moves⟩
  obtain ⟨hdst, hhops, hvalid, hstate, hcredit, hboard, hlane⟩ := routeOf_link (s := s.redraw) hwf h
  exact ⟨hdst, hhops, hvalid, hstate, hcredit, hboard, hlane, packetRoute_sends hown h⟩

end Sys2Proof.Machine
end

section
/-!
SUPPORT. A write of a module-scope object by a role that may write it, which is served as its value demands (R329, R332 to R334), and an
acknowledgement that is deferred (R327).
-/

namespace Sys2Proof.Machine

section
variable {s : State} {path : Path} {role : Nat} {own : Option Nat} (hs : Served s path role own) (hr : role = 3 ∨ role = 5)
  (tag : BitVec 16)
include hs hr

/-- The Operator's write of an object that needs no quiescence is answered as what the value does demands. -/
theorem writeRow_served {index sub ty n access : Nat} {bs : List Byte} (hindex : 0x3000 ≤ index ∧ index < 0xC000) (hsub : sub < 256)
    (hobj : objectAt index sub = some (opObj ty n access)) (hty : ty ≠ 0x0D) (hacc : access = 2 ∨ access = 3) (hbs : bs.length = n)
    (hn : n ≤ 1024) : writeRow s path tag index sub bs =
      s.redraw.finishWrite path (writeMsg tag none index sub bs) (writeModule s.redraw role index sub bs none) := by
  obtain ⟨hopen, hfree⟩ := hs
  obtain ⟨m, hm⟩ : ∃ m, m = writeMsg tag none index sub bs := ⟨_, rfl⟩
  have hmindex : m.index.toNat = index := by rw [hm]; exact (BitVec.toNat_ofNat ..).trans (Nat.mod_eq_of_lt (by omega))
  have hmsub : m.sub.toNat = sub := by rw [hm]; exact (BitVec.toNat_ofNat ..).trans (Nat.mod_eq_of_lt hsub)
  have hmlength : m.length.toNat = n := by rw [hm, ← hbs]; exact (BitVec.toNat_ofNat ..).trans (Nat.mod_eq_of_lt (by omega))
  have hmdata : m.data = bs := by rw [hm]; rfl
  have hmcommand : m.command.toNat = 2 := by rw [hm]; rfl
  have hscope : tenantIndex index = false := by simp only [tenantIndex, Bool.and_eq_false_iff, decide_eq_false_iff_not]; omega
  have hwrites : mayWrite .op role = true := by simpa [mayWrite] using hr
  have hcheck : checkRequest role own m = 0 := by
    have hplain : m.rsv = 0 ∧ m.status = 0 ∧ m.tenantScope = false ∧ m.tenant = 0 ∧ m.offset = 0 := by
      rw [hm]
      exact ⟨rfl, rfl, rfl, rfl, rfl⟩
    obtain ⟨hrsv, hstatus, hmodule, htenant, hoffset⟩ := hplain
    have hwritable : access ≠ 1 := by omega
    unfold checkRequest
    simp only [hmindex, hmsub, hobj, hmcommand, hrsv, hstatus, hmodule, htenant, hoffset, hscope]
    cases own <;> simp [opObj, hty, hwritable, writesObject, hwrites]
  have hserve : serveChecked s.redraw path role m (opObj ty n access) none =
      serveWrite s.redraw path role m (opObj ty n access) none := by
    have hplain : (index = 0x2000 || index = 0x2001) = false := by simp; omega
    simp only [serveChecked, hmindex, hplain, hmcommand]
    rfl
  have hready : ¬access = 4 := by omega
  rw [writeRow, serveOn_open hopen hfree, ← hm, serveMsg_ok _ _ _ _ _ _ _ hcheck (by rw [hmindex, hmsub, hobj]), hserve]
  unfold serveWrite
  simp only [hmindex, hmsub, hmdata, hscope, lengthOk, hmlength, hbs, opObj]
  rw [if_neg (by simp [hready]), if_neg (by simp [hn])]
  rfl

end

theorem OnlyDict.links {s u : State} (h : OnlyDict s u) : u.links = s.links := by
  obtain ⟨d, rfl⟩ := h
  rfl

/-- Where no flip is due, to defer an acknowledgement of another kind leaves the tiles alone. -/
theorem deferAck_tiles {s : State} (path : Path) (m : DictMsg) {k : AckKind} (hk : ∀ page toHost, k ≠ .bias page toHost)
    (h : NoFlipDue s) : (s.deferAck path m k).tiles = s.tiles := by
  have hwaits : NoFlipDue (s.updDict fun d => { d with acks := d.acks ++ [{ path := path, request := m, kind := k }] }) := by
    intro a ha page toHost hkind
    obtain hold | hnew := List.mem_append.1 ha
    · exact h a hold page toHost hkind
    · rw [List.mem_singleton.1 hnew] at hkind
      exact absurd hkind (hk page toHost)
  exact settleAcks_tiles hwaits

end Sys2Proof.Machine
end

section
/-!
PROOF. O38: the objects of the links (R271, R274, R286, R291; logs 74, 87, 105).
-/

namespace Sys2Proof.Machine

/-! ### A link that is ordered to train (R286, R288, R291) -/

/-- A link that serves a dimension starts to train; of the module the links alone change, and of them only this one. -/
theorem orderTraining_spec (s : State) (l : Nat) : (∃ x, s.orderTraining l = { s with links := x }) ∧
    (linkAt (s.orderTraining l) l).dimension = (linkAt s l).dimension ∧
    ((linkAt s l).dimension ≤ 11 → (linkAt (s.orderTraining l) l).state = 1) ∧
    ∀ j, j ≠ l → linkAt (s.orderTraining l) j = linkAt s j := by
  obtain ⟨t, ht⟩ : ∃ t, t = if (linkAt s l).disabled then s.updLink l fun k => { k with disabled := false } else s := ⟨_, rfl⟩
  have henabled : (∃ x, t = { s with links := x }) ∧ (linkAt t l).dimension = (linkAt s l).dimension ∧
      ∀ j, j ≠ l → linkAt t j = linkAt s j := by
    rw [ht]
    split
    · exact ⟨⟨_, rfl⟩, by rw [linkAt_updLink_self], fun j hj => linkAt_updLink_ne s _ hj⟩
    · exact ⟨⟨_, rfl⟩, rfl, fun _ _ => rfl⟩
  obtain ⟨⟨x, hx⟩, hdim, hothers⟩ := henabled
  have horder : s.orderTraining l = if (linkAt s l).dimension > 11 then t else t.leaveReady l 1 := by rw [ht]; rfl
  rw [horder]
  split
  · next hfar => exact ⟨⟨x, hx⟩, hdim, fun h => absurd h (by omega), hothers⟩
  · obtain ⟨⟨y, hy⟩, hstate, hdim', hothers'⟩ := leaveReady_spec t l 1
    exact ⟨⟨y, hy.trans (by rw [hx])⟩, hdim'.trans hdim, fun _ => hstate, fun j hj => (hothers' j hj).trans (hothers j hj)⟩

/-- Of a list of links that serve dimensions each starts to train, and every other link stays. -/
theorem orderAll_spec (s : State) (ls : List Nat) : (∃ x, ls.foldl (fun s l => s.orderTraining l) s = { s with links := x }) ∧
    (∀ l ∈ ls, (linkAt s l).dimension ≤ 11 → (linkAt (ls.foldl (fun s l => s.orderTraining l) s) l).state = 1) ∧
    ∀ l, l ∉ ls → linkAt (ls.foldl (fun s l => s.orderTraining l) s) l = linkAt s l := by
  refine ⟨?_, fun l hl hd => ?_, fun l hl => ?_⟩
  · refine foldl_keeps (P := fun u => ∃ x, u = { s with links := x }) _ ?_ _ s ⟨_, rfl⟩
    rintro _ l ⟨x, rfl⟩
    obtain ⟨⟨y, hy⟩, -⟩ := orderTraining_spec { s with links := x } l
    exact ⟨y, hy⟩
  · have hdim : ∀ (u : State) j, (linkAt (u.orderTraining j) l).dimension = (linkAt u l).dimension := by
      intro u j
      obtain ⟨-, hself, -, hothers⟩ := orderTraining_spec u j
      by_cases hj : l = j
      · rw [hj, hself]
      · rw [hothers l hj]
    have hkeep : ∀ (u : State) j, (linkAt u l).state = 1 ∧ (linkAt u l).dimension ≤ 11 →
        (linkAt (u.orderTraining j) l).state = 1 ∧ (linkAt (u.orderTraining j) l).dimension ≤ 11 := by
      rintro u j ⟨hstate, hlow⟩
      obtain ⟨-, -, htrains, hothers⟩ := orderTraining_spec u j
      refine ⟨?_, (hdim u j).trans_le hlow⟩
      by_cases hj : l = j
      · subst hj
        exact htrains hlow
      · rw [hothers l hj, hstate]
    have hreach := foldl_reaches (I := fun u : State => (linkAt u l).dimension ≤ 11)
      (P := fun u : State => (linkAt u l).state = 1 ∧ (linkAt u l).dimension ≤ 11) (fun s l => s.orderTraining l)
      (fun u j hu => (hdim u j).trans_le hu)
      (fun u hu => ⟨(orderTraining_spec u l).2.2.1 hu, (hdim u l).trans_le hu⟩) hkeep ls s hl hd
    exact hreach.1
  · refine List.foldlRecOn (motive := fun u : State => linkAt u l = linkAt s l) _ _ rfl fun u hu j hj => ?_
    obtain ⟨-, -, -, hothers⟩ := orderTraining_spec u j
    exact (hothers l fun h => hl (h ▸ hj)).trans hu

/-! ### The objects, and what their writes do (R271, R274, R286, R291) -/

theorem objectAt_linkControl {l : Nat} (hl : l < 96) : objectAt (0x5100 + l) 6 = some (opObj 2 1 3) := by
  have hall : ∀ k < 96, objectAt (0x5100 + k) 6 = some (opObj 2 1 3) := by decide
  exact hall l hl

theorem writeModule_linkControl (s : State) (role : Nat) {l : Nat} (hl : l < 96) (v : Byte) :
    writeModule s role (0x5100 + l) 6 [v] none = writeLink s l 6 v.toNat := by
  unfold writeModule
  dsimp only
  rw [if_neg (by omega), if_pos (by omega)]
  split
  · omega
  · omega
  · omega
  · rw [Nat.add_sub_cancel_left]
    rfl

section
variable {s : State} {path : Path} {role : Nat} {own : Option Nat} (hs : Served s path role own) (hr : role = 3 ∨ role = 5)
  (tag : BitVec 16)
include hs hr

/-! #### `TrafficHold` (R274) -/

theorem trafficHoldWrite_sets {v : Byte} (hv : v.toNat ≤ 1) : ∃ u, exec (.trafficHoldWrite path tag v) s = .next u ∧
    u.links.trafficHold = (if v.toNat = 0 then 0 else if s.links.trafficHold = 0 then 1 else s.links.trafficHold) ∧ u.mem = s.mem ∧
    Answered u path (writeMsg tag none 0x5000 2 [v]) 0 [] := by
  have hx : exec (.trafficHoldWrite path tag v) s = .next (writeRow s path tag 0x5000 2 [v]) := rfl
  obtain ⟨t, ht⟩ : ∃ t, t = s.redraw.updLinks fun x =>
    { x with trafficHold := if v.toNat = 0 then 0 else if x.trafficHold = 0 then 1 else x.trafficHold } := ⟨_, rfl⟩
  have hwrite : writeModule s.redraw role 0x5000 2 [v] none = .ok t := by
    rw [ht]
    exact if_neg (Nat.not_lt.2 hv)
  have honly := finishWrite_ok s.redraw t path (writeMsg tag none 0x5000 2 [v])
  have hdelivers : Delivers t path := by
    rw [ht]
    exact hs.delivers
  rw [hx, writeRow_served hs hr tag (n := 1) (by decide) (by decide) rfl (by decide) (.inl rfl) rfl (by decide), hwrite]
  refine ⟨_, rfl, ?_, ?_, reply_answers hdelivers ..⟩
  · rw [honly.links, ht]
    rfl
  · rw [honly.mem, ht]
    rfl

/-! #### `RouteTable` (R271) -/

omit hs hr in
/-- The route table is 4096 entries of 4 bytes (R271). -/
theorem domainOf_routes (s : State) : domainOf s 0 0x5080 1 = (16384, 4, fun i => leBytes 4 (routeEntry s i)) := rfl

omit hs in
theorem routes_writable : WritableDomain s role own none 0x5080 1 16384 4 :=
  ⟨by decide, by decide, by decide, .inl rfl, rfl, ⟨_, rfl, rfl, rfl, by simpa [mayWrite, opObj] using hr⟩, rfl, _, domainOf_routes _⟩

omit hs hr in
theorem writeRoutes_formed (s : State) (es : List (Nat × Nat)) {m : SMap W32}
    (hm : m = es.foldl (fun o e => mput (0 : W32) o e.1 (BitVec.ofNat 32 e.2)) s.links.routes) : writeRoutes s es =
      if s.links.trafficHold ≠ 2 ∨ routesBad s m = true then .refused else .ok (s.updLinks fun x => { x with routes := m }) := by
  rw [writeRoutes, ← hm]
  simp only [Bool.or_eq_true, decide_eq_true_eq]

/-- A served range of the route table is judged as the table it forms. -/
theorem exec_routeTableWrite {off : Nat} {bs : List Byte} (hbs : 1 ≤ bs.length) (hsize : off + bs.length ≤ 16384) {m : SMap W32}
    (hm : m = (newEntries (domainOf s 0 0x5080 1) off bs).foldl (fun o e => mput (0 : W32) o e.1 (BitVec.ofNat 32 e.2)) s.links.routes) :
    exec (.routeTableWrite path tag off bs) s = .next (s.redraw.finishWrite path (rangeMsg tag none 0x5080 1 off bs)
      (if s.links.trafficHold ≠ 2 ∨ routesBad s m = true then .refused else .ok (s.redraw.updLinks fun x => { x with routes := m }))) := by
  have hx : exec (.routeTableWrite path tag off bs) s = .next (rangeRow s path tag none 0x5080 1 off bs) := rfl
  rw [hx, rangeRow_range hs (routes_writable hr) tag hbs hsize (by omega)]
  have hentries : ∀ es, writeEntries s.redraw ((none : Option Nat).getD 0) 0x5080 1 es = writeRoutes s.redraw es := fun _ => rfl
  have hdomain : domainOf s.redraw ((none : Option Nat).getD 0) 0x5080 1 = domainOf s 0 0x5080 1 :=
    (domainOf_routes s.redraw).trans (domainOf_routes s).symm
  rw [hentries, hdomain, writeRoutes_formed s.redraw _ hm]
  rfl


theorem routeTableWrite_takes {off : Nat} {bs : List Byte} (hbs : 1 ≤ bs.length) (hsize : off + bs.length ≤ 16384) {m : SMap W32}
    (hm : m = (newEntries (domainOf s 0 0x5080 1) off bs).foldl (fun o e => mput (0 : W32) o e.1 (BitVec.ofNat 32 e.2)) s.links.routes)
    (hheld : s.links.trafficHold = 2) (hgood : routesBad s m = false) :
    ∃ u, exec (.routeTableWrite path tag off bs) s = .next u ∧ u.links = { s.links with routes := m } ∧ u.mem = s.mem := by
  have honly := finishWrite_ok s.redraw (s.redraw.updLinks fun x => { x with routes := m }) path (rangeMsg tag none 0x5080 1 off bs)
  rw [exec_routeTableWrite hs hr tag hbs hsize hm, if_neg (by simp [hheld, hgood])]
  exact ⟨_, rfl, honly.links, honly.mem⟩

theorem routeTableWrite_refused {off : Nat} {bs : List Byte} (hbs : 1 ≤ bs.length) (hsize : off + bs.length ≤ 16384) {m : SMap W32}
    (hm : m = (newEntries (domainOf s 0 0x5080 1) off bs).foldl (fun o e => mput (0 : W32) o e.1 (BitVec.ofNat 32 e.2)) s.links.routes)
    (hbad : s.links.trafficHold ≠ 2 ∨ routesBad s m = true) :
    ∃ u, exec (.routeTableWrite path tag off bs) s = .next u ∧ u.links = s.links ∧ u.mem = s.mem := by
  have honly := finishWrite_declined (.inl rfl) s.redraw path (rangeMsg tag none 0x5080 1 off bs)
  rw [exec_routeTableWrite hs hr tag hbs hsize hm, if_pos hbad]
  exact ⟨_, rfl, honly.links, honly.mem⟩

/-! #### `RetrainDimensions` (R286) -/

/-- The links that a write of `RetrainDimensions` orders to train. -/
def retrained (s : State) (v : BitVec 16) : List Nat :=
  (s.links.links.filter fun (e : Nat × Link) => e.2.dimension < 12 && bit v.toNat e.2.dimension && e.2.state ≠ 0).map Prod.fst

omit hs hr in
/-- A link is ordered to train by its entry in the table of links. -/
theorem mem_retrained {v : BitVec 16} (hwf : mwf s.links.links = true) {l : Nat} : l ∈ retrained s v ↔
    mget s.links.links l ≠ none ∧ (linkAt s l).dimension < 12 ∧ v.getLsbD (linkAt s l).dimension = true ∧ (linkAt s l).state ≠ 0 := by
  have hbit : ∀ i, bit v.toNat i = v.getLsbD i := fun i => by rw [BitVec.getLsbD, Nat.testBit_eq_decide_div_mod_eq]; rfl
  have hentry : ∀ x, mget s.links.links l = some x → linkAt s l = x := fun x hx => by rw [linkAt, hx, Option.getD_some]
  constructor
  · intro h
    obtain ⟨⟨k, x⟩, hmem, rfl⟩ := List.mem_map.1 h
    obtain ⟨hin, htest⟩ := List.mem_filter.1 hmem
    have hget := mget_of_mem hwf hin
    rw [hentry x hget, hget]
    simpa [hbit, and_assoc] using htest
  · rintro ⟨hlisted, hd, hv, hstate⟩
    obtain ⟨x, hx⟩ := Option.ne_none_iff_exists'.1 hlisted
    rw [hentry x hx] at hd hv hstate
    refine List.mem_map.2 ⟨(l, x), List.mem_filter.2 ⟨mem_of_mget hx, ?_⟩, rfl⟩
    simpa [hbit, and_assoc] using ⟨hd, hv, hstate⟩

theorem exec_retrainDimensions {v : BitVec 16} (hv : v.toNat < 2 ^ 12) : exec (.retrainDimensions path tag v) s =
    .next (((retrained s v).foldl (fun s l => s.orderTraining l) s.redraw).regrade.deferAck path
      (writeMsg tag none 0x5000 7 (leBytes 2 v.toNat)) (.dimensions v)) := by
  have hx : exec (.retrainDimensions path tag v) s = .next (writeRow s path tag 0x5000 7 (leBytes 2 v.toNat)) := rfl
  have hvalue : leNat (leBytes 2 v.toNat) = v.toNat := leNat_leBytes 2 _ (by omega)
  have hrow : writeModule s.redraw role 0x5000 7 (leBytes 2 v.toNat) none = writeLinks s.redraw 7 (leNat (leBytes 2 v.toNat)) := rfl
  have hwrite : writeLinks s.redraw 7 v.toNat =
      .wait ((retrained s v).foldl (fun s l => s.orderTraining l) s.redraw).regrade (.dimensions (BitVec.ofNat 16 v.toNat)) :=
    if_neg (not_not_intro (by unfold bits; omega))
  rw [hx, writeRow_served hs hr tag (n := 2) (by decide) (by decide) rfl (by decide) (.inr rfl) rfl (by decide), hrow, hvalue, hwrite,
    BitVec.ofNat_toNat, BitVec.setWidth_eq]
  rfl

theorem retrainDimensions_orders {v : BitVec 16} (hv : v.toNat < 2 ^ 12) (hwf : mwf s.links.links = true) :
    ∃ u, exec (.retrainDimensions path tag v) s = .next u ∧ u.mem = s.mem ∧ (NoFlipDue s → u.tiles = s.tiles) ∧
      (∀ l, mget s.links.links l ≠ none → (linkAt s l).dimension < 12 → v.getLsbD (linkAt s l).dimension = true →
        (linkAt s l).state ≠ 0 → (linkAt u l).state = 1) ∧
      ∀ l, (12 ≤ (linkAt s l).dimension ∨ v.getLsbD (linkAt s l).dimension = false ∨ (linkAt s l).state = 0) →
        linkAt u l = linkAt s l := by
  obtain ⟨⟨x, hx⟩, htrains, hothers⟩ := orderAll_spec s.redraw (retrained s v)
  obtain ⟨b, ts, hgrade⟩ := regrade_spec ((retrained s v).foldl (fun s l => s.orderTraining l) s.redraw)
  obtain ⟨t, ht⟩ : ∃ t, t = ((retrained s v).foldl (fun s l => s.orderTraining l) s.redraw).regrade := ⟨_, rfl⟩
  have hframe : t.mem = s.mem ∧ t.tiles = s.tiles ∧ (NoFlipDue s → NoFlipDue t) := by
    rw [ht, hgrade, hx]
    exact ⟨rfl, rfl, fun hn => hn.congr rfl rfl rfl rfl⟩
  obtain ⟨hmem, htiles, hflip⟩ := hframe
  have hacks := deferAck_acksGiven t path (writeMsg tag none 0x5000 7 (leBytes 2 v.toNat)) (.dimensions v)
  have hlink : ∀ l, linkAt (t.deferAck path (writeMsg tag none 0x5000 7 (leBytes 2 v.toNat)) (.dimensions v)) l =
      linkAt ((retrained s v).foldl (fun s l => s.orderTraining l) s.redraw) l := by
    intro l
    obtain ⟨⟨d, k, y, hu⟩, -⟩ := hacks
    rw [hu, ht, hgrade]
    rfl
  refine ⟨_, exec_retrainDimensions hs hr tag hv, ?_⟩
  rw [← ht]
  refine ⟨hacks.mem.trans hmem, fun hn => (deferAck_tiles _ _ (fun _ _ => AckKind.noConfusion) (hflip hn)).trans htiles,
    fun l hlisted hd hbit hstate => ?_, fun l hout => ?_⟩
  · rw [hlink]
    exact htrains l ((mem_retrained hwf).2 ⟨hlisted, hd, hbit, hstate⟩) (Nat.le_of_lt_succ hd)
  · rw [hlink]
    refine hothers l fun hin => ?_
    obtain ⟨-, hd, hbit, hstate⟩ := (mem_retrained hwf).1 hin
    obtain h | h | h := hout
    · omega
    · exact absurd (hbit.symm.trans h) (by decide)
    · exact hstate h

/-! #### `LinkControl` (R291) -/

theorem linkRow_served {l : Nat} (hl : l < 96) (v : Byte) : linkRow s path tag l v =
    s.redraw.finishWrite path (writeMsg tag none (0x5100 + l) 6 [v]) (writeLink s.redraw l 6 v.toNat) := by
  rw [linkRow, if_pos hl, writeRow_served hs hr tag (by omega) (by decide) (objectAt_linkControl hl) (by decide) (.inr rfl) rfl
    (by decide), writeModule_linkControl _ _ hl]

section
variable {l : Nat} (hl : l < 96)
include hl

theorem linkControlRetrain_trains (hd : (linkAt s l).dimension ≤ 11) (hst : (linkAt s l).state ≠ 0) :
    ∃ u, exec (.linkControlRetrain path tag l) s = .next u ∧ (linkAt u l).state = 1 ∧ u.mem = s.mem := by
  have hx : exec (.linkControlRetrain path tag l) s = .next (linkRow s path tag l 1) := rfl
  have hwrite : writeLink s.redraw l 6 (1 : Byte).toNat = .ok (s.redraw.orderTraining l).regrade.settleAcks := by
    have hin : ((linkAt s.redraw l).dimension > 11 || (linkAt s.redraw l).state = 0) = false := by
      have hfree : linkAt s.redraw l = linkAt s l := rfl
      simp [hfree, hd, hst]
    exact if_neg (Bool.eq_false_iff.1 hin)
  obtain ⟨⟨x, hframe⟩, -, htrains, -⟩ := orderTraining_spec s.redraw l
  have hend := regrade_settleAcks_woundUp (s.redraw.orderTraining l)
  have honly := finishWrite_ok s.redraw (s.redraw.orderTraining l).regrade.settleAcks path (writeMsg tag none (0x5100 + l) 6 [1])
  rw [hx, linkRow_served hs hr tag hl, hwrite]
  refine ⟨_, rfl, ?_, honly.mem.trans (hend.mem.trans (by rw [hframe]; rfl))⟩
  rw [linkAt_of_links (congrArg LinkState.links honly.links), hend.linkAt]
  exact htrains hd

theorem linkControlDisable_powersDown (hst : (linkAt s l).state ≠ 0) :
    ∃ u, exec (.linkControlDisable path tag l) s = .next u ∧ (linkAt u l).state = 0 ∧ (linkAt u l).width = 0 ∧ u.mem = s.mem := by
  have hx : exec (.linkControlDisable path tag l) s = .next (linkRow s path tag l 2) := rfl
  obtain ⟨t, ht⟩ : ∃ t, t = (s.redraw.leaveReady l 0).updLink l fun y => { y with disabled := true } := ⟨_, rfl⟩
  have hwrite : writeLink s.redraw l 6 (2 : Byte).toNat = .ok t.regrade.settleAcks := by
    have hup : (if (linkAt s.redraw l).state = 0 then s.redraw else s.redraw.leaveReady l 0) = s.redraw.leaveReady l 0 := if_neg hst
    rw [ht, ← hup]
    rfl
  obtain ⟨-, hstate, -⟩ := leaveReady_spec s.redraw l 0
  have hdown : (linkAt t l).state = 0 ∧ (linkAt t l).width = 0 := by
    rw [ht, linkAt_updLink_self]
    exact ⟨hstate, leaveReady_width ..⟩
  have hmem : t.mem = s.mem := by
    rw [ht]
    exact ((onlyLink_leaveReady s.redraw l 0).trans (onlyLink_updLink ..)).mem
  have hend := regrade_settleAcks_woundUp t
  have honly := finishWrite_ok s.redraw t.regrade.settleAcks path (writeMsg tag none (0x5100 + l) 6 [2])
  rw [hx, linkRow_served hs hr tag hl, hwrite]
  obtain ⟨hzero, hnone⟩ := hdown
  refine ⟨_, rfl, ?_, ?_, honly.mem.trans (hend.mem.trans hmem)⟩
  · rw [linkAt_of_links (congrArg LinkState.links honly.links), hend.linkAt, hzero]
  · rw [linkAt_of_links (congrArg LinkState.links honly.links), hend.linkAt, hnone]

theorem linkControlEnable_trains (hd : (linkAt s l).dimension ≤ 11) (hst : (linkAt s l).state = 0) :
    ∃ u, exec (.linkControlEnable path tag l) s = .next u ∧ (linkAt u l).state = 1 ∧ u.mem = s.mem := by
  have hx : exec (.linkControlEnable path tag l) s = .next (linkRow s path tag l 3) := rfl
  have hwrite : writeLink s.redraw l 6 (3 : Byte).toNat = .ok (s.redraw.orderTraining l) := congrArg Written.ok (if_pos hst)
  obtain ⟨⟨x, hframe⟩, -, htrains, -⟩ := orderTraining_spec s.redraw l
  have honly := finishWrite_ok s.redraw (s.redraw.orderTraining l) path (writeMsg tag none (0x5100 + l) 6 [3])
  rw [hx, linkRow_served hs hr tag hl, hwrite]
  refine ⟨_, rfl, ?_, honly.mem.trans (by rw [hframe]; rfl)⟩
  rw [linkAt_of_links (congrArg LinkState.links honly.links)]
  exact htrains hd

end

end

/-! ### TRAFFIC_HELD (R274) -/

theorem exec_trafficHeld (s : State) : exec .trafficHeld s =
    .next (if s.links.trafficHold = 1 && ownDrained s then s.updLinks fun l => { l with trafficHold := 2 } else s) := rfl

/-- Settles O38, object by object. -/
theorem linkObjectsTakeEffect : Obligations.LinkObjectsTakeEffect := by
  unfold Obligations.LinkObjectsTakeEffect
  refine ⟨fun s path tag role own hs hr => ⟨?_, ?_, fun off bs hbs hsize => ⟨routeTableWrite_takes hs hr tag hbs hsize rfl,
    routeTableWrite_refused hs hr tag hbs hsize rfl⟩, fun v hv hwf => retrainDimensions_orders hs hr tag hv hwf,
    fun l hl hd => ⟨linkControlRetrain_trains hs hr tag hl hd, linkControlDisable_powersDown hs hr tag hl,
      linkControlEnable_trains hs hr tag hl hd⟩⟩, fun s hold => ⟨fun h => ?_, fun h => ?_⟩⟩
  · obtain ⟨u, hu, hhold, hmem, hanswer⟩ := trafficHoldWrite_sets hs hr tag (v := 0) (by decide)
    exact ⟨u, hu, hhold, hmem, hanswer⟩
  · obtain ⟨u, hu, hhold, hmem, hanswer⟩ := trafficHoldWrite_sets hs hr tag (v := 1) (by decide)
    exact ⟨u, hu, hmem, hhold, hanswer⟩
  · rw [exec_trafficHeld, if_pos (by simp [hold, h])]
    rfl
  · rw [exec_trafficHeld, if_neg (by simp [h])]

end Sys2Proof.Machine
end
